-- ==== Sys2Proof/Word.lean ====
section
/-! DEFINITION. The word types of the SX9 (spec/00 R5, R6; spec/01 R15) and the plainest helpers over lists. -/

namespace Sys2Proof

/-- One byte of memory. -/
abbrev Byte := BitVec 8
/-- One vector register (R15). -/
abbrev W32 := BitVec 32
/-- One gang scalar, address or system register word (R15, R20, R25). -/
abbrev W64 := BitVec 64
/-- One instruction word (R32). -/
abbrev W96 := BitVec 96
/-- The number of a vector register v0 to v511 (R35). -/
abbrev VReg := BitVec 9
/-- The number of a gang scalar s0 to s63 (R35). -/
abbrev SReg := BitVec 6
/-- The number of a predicate p0 to p15 (R35). -/
abbrev PReg := BitVec 4
/-- The number of an accumulator tile m0 to m7 (R35). -/
abbrev TileNo := BitVec 3
/-- The number of a row slot h0 to h7 (R35). -/
abbrev SlotNo := BitVec 3
/-- A system-register number (R20, R41). -/
abbrev Srn := BitVec 12

/-- A table from numbers to values: only the entries that differ from a default are listed. -/
abbrev Tbl (α : Type) := List (Nat × α)

/-- The entry of key `k`, or the default. -/
def Tbl.get {α : Type} (t : Tbl α) (dflt : α) (k : Nat) : α :=
  match t with
  | [] => dflt
  | (i, a) :: r => if i = k then a else Tbl.get r dflt k

/-- The entry of key `k`, if it is listed. -/
def Tbl.find? {α : Type} (t : Tbl α) (k : Nat) : Option α :=
  match t with
  | [] => none
  | (i, a) :: r => if i = k then some a else Tbl.find? r k

/-- Sets the entry of key `k`, in place if it is listed, else at the end. -/
def Tbl.set {α : Type} (t : Tbl α) (k : Nat) (a : α) : Tbl α :=
  match t with
  | [] => [(k, a)]
  | (i, b) :: r => if i = k then (i, a) :: r else (i, b) :: Tbl.set r k a

/-- Removes the entry of key `k`. -/
def Tbl.erase {α : Type} (t : Tbl α) (k : Nat) : Tbl α :=
  t.filter (fun e => e.1 ≠ k)

/-- The numbers 0 to n − 1. -/
abbrev upTo (n : Nat) : List Nat := List.range n

end Sys2Proof
end

