-- ==== Sys2Proof/Syntax.lean ====
section
/-! DEFINITION. The instructions and events of the SX9: one constructor for each row of spec/opcode_table.json.
The first 194 rows are Aelber instruction forms (spec/02 and the chapters of their classes); the rest are the
steps of the device's other agents (spec/95). -/

namespace Sys2Proof

/-- The yield hint YH (R46). -/
inductive Yield where
  | none | switch | spin
  deriving DecidableEq, Repr

/-- The fields every format-G instruction shares: the guard (R36) and the hints (R42 to R46). -/
structure Hd where
  gn  : Bool
  gp  : PReg
  yh  : Yield
  lah : BitVec 4
  ru  : BitVec 3
  deriving DecidableEq, Repr

/-- A source that is a vector register (or the first of a pair) or a gang scalar (R39, R40). -/
inductive Src where
  | v (r : VReg) | s (r : SReg)
  deriving DecidableEq, Repr

/-- A second source that may also be the immediate of the immediate form (R235). -/
inductive SrcI where
  | v (r : VReg) | s (r : SReg) | imm (x : W32)
  deriving DecidableEq, Repr

/-- A destination: a vector register, or a gang scalar when DK is 1 (R39, R237). -/
inductive Dst where
  | v (r : VReg) | s (r : SReg)
  deriving DecidableEq, Repr

/-- The element types TY of the integer class (R236). -/
inductive Ty where
  | i32 | n32 | i64 | n64 | i16 | n16 | i8 | n8
  deriving DecidableEq, Repr

/-- V of the integer class: wrap, saturate, trap on overflow (R240). -/
inductive Ov where
  | wrap | sat | trap
  deriving DecidableEq, Repr

/-- The conditions of ICMP (R244). -/
inductive Cond where
  | eq | ne | lt | le | gt | ge
  deriving DecidableEq, Repr

/-- The conditions of FCMP (R255). -/
inductive FCond where
  | eq | ne | lt | le | gt | ge | un | num
  deriving DecidableEq, Repr

/-- The rounding modes of R219. -/
inductive Rm where
  | rn | rz | ru | rd
  deriving DecidableEq, Repr

/-- Where BFX and BFI take position and length: the SUB field, or a register (R243). -/
inductive Field where
  | imm (pos : BitVec 6) (len : BitVec 7) | reg (r : Src)
  deriving DecidableEq, Repr

/-- MOVI's forms (R246). -/
inductive MoviKind where
  | b32 | i64 | n64
  deriving DecidableEq, Repr

/-- SMOV's forms but `.hi` (R250). -/
inductive SmovSrc where
  | pair (a : VReg) (rank : BitVec 6) | reg (a : VReg) (rank : BitVec 6) | imm (x : W32) | s (a : SReg)
  deriving DecidableEq, Repr

/-- SALU's operations (R251). -/
inductive SaluOp where
  | add | sub | mul | and | or | xor | shl | shr | sar | minI | maxI | minN | maxN | fadd | fmul
  deriving DecidableEq, Repr

/-- SALU's second source (R251). -/
inductive SaluSrc where
  | s (r : SReg) | imm (x : W32)
  deriving DecidableEq, Repr

/-- Element type of FCMP (R255). -/
inductive FFmt where
  | f32 | f16 | bf16
  deriving DecidableEq, Repr

/-- The conversion codes of FCVT (R258); the flag of the integer ones is `.trap`. -/
inductive FcvtCode where
  | f16 | bf16 | fromF16 | fromBf16 | f16x2 (b : Src) | bf16x2 (b : Src)
  | i32 (trap : Bool) | n32 (trap : Bool) | i64 (trap : Bool) | n64 (trap : Bool)
  deriving DecidableEq, Repr

/-- The conversion codes of ICVT (R258). -/
inductive IcvtCode where
  | f32i32 | f32n32 | f32i64 | f32n64 | i16 | i8 | n16 | n8 | i64 | n64
  deriving DecidableEq, Repr

/-- PMOV's forms (R267). -/
inductive PmovForm where
  | toV (d : VReg) (a : PReg) | fromV (d : PReg) (a : VReg) | imm (d : PReg) (x : Byte)
  deriving DecidableEq, Repr

/-- The conditions of VOTE.TEST (R269). -/
inductive VoteCond where
  | none | some | every | agree | split
  deriving DecidableEq, Repr

/-- The modes of XSHFL (R270). -/
inductive ShflMode where
  | from (b : VReg) | bwd (n : BitVec 6) | fwd (n : BitVec 6) | rot (n : BitVec 6)
  deriving DecidableEq, Repr

/-- The combines of XRED and XSCAN (R272). -/
inductive RedOp where
  | addN32 | addN64 | minI32 | maxI32 | minN32 | maxN32 | and | or | xor | addF32 | minF32 | maxF32
  deriving DecidableEq, Repr

/-- A memory operand of X.MEM: base and signed byte offset (R40). -/
structure MemRef where
  base : Src
  off  : BitVec 24
  deriving DecidableEq, Repr

/-- Access sizes SZ (R40). -/
inductive Sz where
  | b8 | b16 | b32 | b64 | b128
  deriving DecidableEq, Repr

/-- Memory order modifiers ORD (R128). -/
inductive Ord where
  | rlx | acq | rel | ar
  deriving DecidableEq, Repr

/-- ATOM's operations (R137); FATOM has all but `exch` (R209). -/
inductive AtomOp where
  | add | min (sgn : Bool) | max (sgn : Bool) | and | or | xor | exch
  deriving DecidableEq, Repr

/-- FATOM's operations (R209). -/
inductive FatomOp where
  | add | min (sgn : Bool) | max (sgn : Bool) | and | or | xor
  deriving DecidableEq, Repr

/-- ATOMF's operations (R139). -/
inductive AtomfOp where
  | add | min | max | hadd2F16 | hadd2Bf16
  deriving DecidableEq, Repr

/-- The parity operand of BWAIT and BTEST (R128). -/
inductive Parity where
  | imm (k : Bool) | reg (r : Src)
  deriving DecidableEq, Repr

/-- A card of an engine submission: eight gang scalars, or 64 bytes of stash (R194). -/
inductive CardSrc where
  | group (a : SReg) | stash (base : Src) (off : W32)
  deriving DecidableEq, Repr

/-- FSIG's operands (R194). -/
inductive FsigSrc where
  | v (a b : VReg) | s (a b : SReg)
  deriving DecidableEq, Repr

/-- Element types TY of the matrix engine (R278). -/
inductive MTy where
  | bf16 | f16 | i8
  deriving DecidableEq, Repr

/-- The conversions CV of MST and MLDA (R278). -/
inductive Cv where
  | f32 | bf16 | f16 | i32
  deriving DecidableEq, Repr

/-- Destination forms of SYSR and source forms of SYSW (R386): one register, a pair, a gang scalar. -/
inductive SysForm where
  | one (r : VReg) | pair (r : VReg) | s (r : SReg)
  deriving DecidableEq, Repr

/-- The destination of SMAP's address and offset (R128). -/
inductive SmapForm where
  | v (a b : VReg) | s (a b : SReg)
  deriving DecidableEq, Repr

/-- The target of a call (R72). -/
inductive CallTgt where
  | label (imm : W32) | reg (a : VReg) (imm : W32)
  deriving DecidableEq, Repr

/-- The pair opcodes (R50). -/
inductive PairCode where
  | add | sub | and | or | xor | andn | shl | shr | sar | sel | mov
  | fadd | fmul | ffma | fmin | fmax | hadd2F16 | hadd2Bf16 | hfma2F16 | hfma2Bf16
  deriving DecidableEq, Repr

/-- One operation of a pair: its bank, its code and its three fields (R47, R48). -/
structure PairOp where
  bank : BitVec 2
  code : PairCode
  d    : BitVec 7
  a    : BitVec 7
  b    : BitVec 7
  deriving DecidableEq, Repr

/-- A format-P word (R47). -/
structure PairWord where
  gn  : Bool
  gp  : PReg
  yh  : Yield
  op0 : PairOp
  op1 : PairOp
  deriving DecidableEq, Repr

/-- Who handed a launch record to Levante (R22, R88). -/
inductive Submitter where
  | driver | otherHost | levante
  deriving DecidableEq, Repr

/-- A unit of context state (R418): a granule by its physical frame number, a granule of a thread's private memory
(thread and granule index), a stash bank, a register unit, a tile. -/
inductive UnitId where
  | granule (n : Nat) | priv (uid k : Nat) | stash (chunk bank : Nat) | regs (chunk lane which : Nat)
  | tile (core t : Nat)
  deriving DecidableEq, Repr

/-- What a fabric packet carries (R205, R425). Offsets are in the receiver's local window. `ackStore` says that a packet
which waits for no data was performed, by its sequence number; `refuse` that a request was refused, by the sequence number
of such a packet or by the tag of a request that waits for data; `fail` of `sig` that the bytes are those of a failed job.
`marker` to `gap` are the markers of a snapshot and of a halt and the notices of completion, abort, readiness and a gap;
`check` asks whether an access may be made (R132, R133), and `collFailed` says that the collective of a place among those on a
member list has failed at the sender (R204). -/
inductive PacketBody where
  | store (off : Nat) (data : List Byte) (psn : List Nat)
  | atom (off : Nat) (wide : Bool) (op : FatomOp) (x : W64) (psn : Bool)
  | put (off : Nat) (data : List Byte) (psn : List Nat) (endpoint : W64)
  | sig (endpoint : W64) (n : Nat) (fail : Bool)
  | loadReq (off len : Nat) (tag : Nat)
  | atomReq (off : Nat) (wide : Bool) (op : AtomOp) (x : W64) (psn : Bool) (tag : Nat)
  | casReq (off : Nat) (wide : Bool) (cmp x : W64) (psn : Bool) (tag : Nat)
  | atomfReq (off : Nat) (op : AtomfOp) (x : W32) (psn : Bool) (tag : Nat)
  | getReq (off len : Nat) (tag : Nat)
  | reply (tag : Nat) (data : List Byte) (psn : List Nat)
  | ackStore (seq : Nat)
  | refuse (posted : Bool) (n : Nat) (cause : Byte)
  | marker
  | halted
  | completed (epoch : Nat)
  | aborted (epoch : Nat)
  | ready
  | gap (seq : Nat)
  | check (off len : Nat) (wr : Bool) (tag : Nat)
  | collFailed (members : List Nat) (nth : Nat)
  deriving DecidableEq, Repr

/-- A fabric packet of one channel (R205): the context slot it belongs to on this module, the virtual ids of
source and destination, its sequence number and its sender's epoch (R425); in sealed-fabric mode the epoch of its key and the
tag over it, its payload then being ciphertext (R359); and the kind of the access that it carries (R104). -/
structure Packet where
  slot  : Nat
  src   : Nat
  dst   : Nat
  seq   : Nat
  epoch : Nat
  keyEpoch : Nat
  mac   : Option (BitVec 128)
  ord   : Ord
  body  : PacketBody
  deriving DecidableEq, Repr

/-- What a peer's matching collective card says (R200). -/
structure CardKey where
  kind : Nat
  op   : Nat
  ty   : Nat
  cnt  : Nat
  norm : Bool
  root : Nat
  deriving DecidableEq, Repr

/-- Requests of the host driver to Levante through the mailbox (R459), each with the rule that gives it. -/
inductive MailReq where
  | createContext (part ctxid : Nat) (confidential : Bool) (members : List Nat) (vm : Nat) (plim : Nat) (root : Nat)
      (sgen : W64)
  | destroyContext (slot : Nat)
  | setImage (slot codeBase codeLen roBase roLen : Nat)
  | setDrain (part cycles : Nat)
  | setImageArea (slot colour : Nat) (pa : Nat)
  | moveEqHead (slot : Nat) (h : W32)
  | setTgt (phys tgt : Nat)
  | orderSave (slot : Nat)
  | orderReset (slot : Nat)
  | orderRerun (slot : Nat)
  | setMembers (slot : Nat) (members : List Nat)
  | readQueueHead (slot : Nat)
  | assignCore (core part : Nat)
  | queueRecord (slot : Nat) (raw : BitVec 512) (fps : List (BitVec 128))
  | readLog (phys : Nat) (bus : Bool)
  | orderScan (phys : Nat)
  deriving DecidableEq, Repr

/-- A page that the host puts back: its virtual address, and under host residency the sealed bytes of its lines (R31, R351). -/
structure PageBack where
  va     : W64
  sealed : List Byte
  deriving DecidableEq, Repr

/-- A doorbell: the tail of the ring, and whether the write comes over the partition's IDE stream (R349, R459). -/
structure Doorbell where
  tail : Nat
  ide  : Bool
  deriving DecidableEq, Repr

/-- A request for measurements: the block, and the session that it is made in, if any (R347, R348). -/
structure MeasureReq where
  block   : Nat
  session : Option Nat
  deriving DecidableEq, Repr

/-- A session that begins: its number, and the partition whose tenant it is with (R348, R352). -/
structure SessionReq where
  part    : Nat
  session : Nat
  deriving DecidableEq, Repr

/-- The other end of a key exchange: its virtual id, whether the host relays the exchange (R29), and the snapshot key that it
hands over, if it does (R360). -/
structure PeerEnd where
  peer    : Nat
  relayed : Bool
  snapKey : Option (BitVec 256)
  deriving DecidableEq, Repr

/-- The physical kinds of input to a row transfer: the data lanes stuck at a value (R183). -/
structure StuckLane where
  lane  : Nat
  value : Bool
  deriving DecidableEq, Repr

/-- Everything the machine can be asked to do in one step: one constructor per row of spec/opcode_table.json. -/
inductive Instr where
  -- control (spec/03)
  | nop (h : Hd)
  | bra (h : Hd) (imm : W32)
  | brx (h : Hd) (base : Src) (imm : W32)
  | call (h : Hd) (t : CallTgt)
  | callLink (h : Hd) (d : VReg) (t : CallTgt)
  | ret (h : Hd)
  | retLink (h : Hd) (a : VReg)
  | exit (h : Hd)
  | yield (h : Hd)
  | sleep (h : Hd) (imm : W32)
  | sleepAbs (h : Hd) (a : Src)
  | join (h : Hd) (d : PReg) (a : VReg) (size : BitVec 3)
  | joinRank (h : Hd) (d : PReg) (a b : VReg) (size : BitVec 3)
  | joinT (h : Hd) (d : PReg) (a : VReg) (size : BitVec 3)
  | joinRankT (h : Hd) (d : PReg) (a b : VReg) (size : BitVec 3)
  | leave (h : Hd)
  | ginfo (h : Hd) (d : VReg)
  | post (h : Hd) (a b : VReg)
  | pair (w : PairWord)
  -- integer and gang scalar (spec/10)
  | iadd (h : Hd) (ty : Ty) (v : Ov) (d : Dst) (a : Src) (b : SrcI) (pd : Option PReg)
  | isub (h : Hd) (ty : Ty) (v : Ov) (d : Dst) (a : Src) (b : SrcI) (pd : Option PReg)
  | imul (h : Hd) (ty : Ty) (v : Ov) (d : Dst) (a : Src) (b : SrcI)
  | imulh (h : Hd) (ty : Ty) (d : Dst) (a : Src) (b : SrcI)
  | imad (h : Hd) (ty : Ty) (v : Ov) (d : Dst) (a b c : Src)
  | imin (h : Hd) (ty : Ty) (d : Dst) (a : Src) (b : SrcI)
  | imax (h : Hd) (ty : Ty) (d : Dst) (a : Src) (b : SrcI)
  | iabs (h : Hd) (ty : Ty) (v : Ov) (d : Dst) (a : Src)
  | and (h : Hd) (wide : Bool) (d : Dst) (a : Src) (b : SrcI)
  | or (h : Hd) (wide : Bool) (d : Dst) (a : Src) (b : SrcI)
  | xor (h : Hd) (wide : Bool) (d : Dst) (a : Src) (b : SrcI)
  | andn (h : Hd) (wide : Bool) (d : Dst) (a : Src) (b : SrcI)
  | shl (h : Hd) (wide : Bool) (d : Dst) (a : Src) (b : SrcI)
  | shr (h : Hd) (wide : Bool) (d : Dst) (a : Src) (b : SrcI)
  | sar (h : Hd) (wide : Bool) (d : Dst) (a : Src) (b : SrcI)
  | rol (h : Hd) (wide : Bool) (d : Dst) (a : Src) (b : SrcI)
  | popc (h : Hd) (wide : Bool) (d : Dst) (a : Src)
  | clz (h : Hd) (wide : Bool) (d : Dst) (a : Src)
  | brev (h : Hd) (wide : Bool) (d : Dst) (a : Src)
  | bfx (h : Hd) (ty : Ty) (d : Dst) (a : Src) (f : Field)
  | bfi (h : Hd) (wide : Bool) (d : Dst) (a b : Src) (f : Field)
  | icmp (h : Hd) (ty : Ty) (d : PReg) (a b : Src) (c : Cond)
  | sel (h : Hd) (wide : Bool) (d : Dst) (a b : Src) (neg : Bool) (p : PReg)
  | mov (h : Hd) (wide : Bool) (d : Dst) (a : Src)
  | movi (h : Hd) (k : MoviKind) (d : VReg) (imm : W32)
  | lea (h : Hd) (signed : Bool) (d : VReg) (a b : Src) (sh : BitVec 3)
  | idot4 (h : Hd) (as bs : Bool) (d a b c : VReg)
  | prmt (h : Hd) (d a b : VReg) (sel : BitVec 12)
  | prmtCtl (h : Hd) (d a b c : VReg)
  | smov (h : Hd) (d : SReg) (x : SmovSrc)
  | smovHi (h : Hd) (d : SReg) (imm : W32)
  | salu (h : Hd) (op : SaluOp) (d a : SReg) (b : SaluSrc)
  | iclamp (h : Hd) (ty : Ty) (d : Dst) (a b c : Src)
  -- floating point (spec/10)
  | fadd (h : Hd) (d : Dst) (a : Src) (b : SrcI)
  | fsub (h : Hd) (d : Dst) (a : Src) (b : SrcI)
  | fmul (h : Hd) (d : Dst) (a : Src) (b : SrcI)
  | ffma (h : Hd) (nab nc : Bool) (d : Dst) (a b c : Src)
  | fmin (h : Hd) (d : Dst) (a : Src) (b : SrcI)
  | fmax (h : Hd) (d : Dst) (a : Src) (b : SrcI)
  | fcmp (h : Hd) (fmt : FFmt) (d : PReg) (a b : Src) (c : FCond)
  | fclass (h : Hd) (d : VReg) (a : Src) (pd : Option PReg) (mask : BitVec 10)
  | frnd (h : Hd) (rm : Rm) (d : VReg) (a : Src)
  | fcvt (h : Hd) (c : FcvtCode) (rm : Rm) (d : VReg) (a : Src)
  | icvt (h : Hd) (c : IcvtCode) (rm : Rm) (d : VReg) (a : Src)
  | frcp (h : Hd) (d a : VReg)
  | frsq (h : Hd) (d a : VReg)
  | fsqrt (h : Hd) (d a : VReg)
  | fdiv (h : Hd) (d a b : VReg)
  | fexp2 (h : Hd) (d a : VReg)
  | flog2 (h : Hd) (d a : VReg)
  | fsin (h : Hd) (d a : VReg)
  | fcos (h : Hd) (d a : VReg)
  | ftanh (h : Hd) (d a : VReg)
  | hadd2 (h : Hd) (bf : Bool) (d a : VReg) (b : SrcI)
  | hmul2 (h : Hd) (bf : Bool) (d a : VReg) (b : SrcI)
  | hfma2 (h : Hd) (bf : Bool) (d a b c : VReg)
  | hdot2 (h : Hd) (bf : Bool) (d a b c : VReg)
  | fscale (h : Hd) (d : VReg) (a : Src) (b : SrcI)
  | fflagTrap (h : Hd) (mask : BitVec 5)
  | fflagClr (h : Hd) (mask : BitVec 5)
  | fflagRd (h : Hd) (d : VReg)
  | rngd (h : Hd) (f32 : Bool) (d : VReg)
  | rngs (h : Hd) (f32 : Bool) (d a : VReg) (key : Src)
  -- predicates and cross-lane (spec/10)
  | plop (h : Hd) (d a b c : PReg) (table : Byte)
  | pmov (h : Hd) (f : PmovForm)
  | voteMask (h : Hd) (d : VReg) (a : PReg)
  | voteCount (h : Hd) (d : VReg) (a : PReg)
  | voteTest (h : Hd) (d : PReg) (a : PReg) (c : VoteCond)
  | xbfly (h : Hd) (wide : Bool) (d a : VReg) (n : BitVec 6)
  | xbflyTr (h : Hd) (d : VReg) (s : BitVec 6)
  | xshfl (h : Hd) (wide : Bool) (d a : VReg) (m : ShflMode)
  | xbcast (h : Hd) (wide : Bool) (d a : VReg) (n : BitVec 6)
  | xred (h : Hd) (op : RedOp) (d a : VReg)
  | xscan (h : Hd) (op : RedOp) (ex : Bool) (d a : VReg)
  -- memory, stash and barriers (spec/06)
  | ld (h : Hd) (priv : Bool) (sz : Sz) (sx : Bool) (d : VReg) (m : MemRef)
  | lda (h : Hd) (sz : Sz) (sx : Bool) (d : VReg) (m : MemRef)
  | st (h : Hd) (priv : Bool) (sz : Sz) (m : MemRef) (b : VReg)
  | stl (h : Hd) (sz : Sz) (m : MemRef) (b : VReg)
  | atom (h : Hd) (ord : Ord) (op : AtomOp) (wide : Bool) (d : VReg) (m : MemRef) (b : VReg)
  | cas (h : Hd) (ord : Ord) (wide : Bool) (d : VReg) (m : MemRef) (b : VReg)
  | atomf (h : Hd) (ord : Ord) (op : AtomfOp) (d : VReg) (m : MemRef) (b : VReg)
  | fence (h : Hd)
  | smap (h : Hd) (entry : BitVec 4) (w : Bool) (len : BitVec 10) (f : SmapForm)
  | sunmap (h : Hd) (entry : BitVec 4)
  | sflush (h : Hd) (entry : BitVec 4)
  | sld (h : Hd) (sz : Sz) (sx : Bool) (d : VReg) (m : MemRef)
  | sst (h : Hd) (sz : Sz) (m : MemRef) (b : VReg)
  | binit (h : Hd) (gang : Bool) (m : MemRef) (b : VReg)
  | barv (h : Hd) (m : MemRef) (n : Option Src)
  | bexp (h : Hd) (m : MemRef) (n : Src)
  | bexpMax (h : Hd) (m : MemRef) (n : Src)
  | baddb (h : Hd) (m : MemRef) (n : Src)
  | bdrop (h : Hd) (m : MemRef)
  | bwait (h : Hd) (d : PReg) (m : MemRef) (k : Parity)
  | btest (h : Hd) (d : PReg) (m : MemRef) (k : Parity)
  | bwaitt (h : Hd) (d : PReg) (m : MemRef) (k : Bool) (deadline : Src)
  -- row memory (spec/07)
  | rowact (h : Hd) (d : SlotNo) (base : Src) (off : W32)
  | rowconW (h : Hd) (a : SlotNo) (k : BitVec 3)
  | rowconS (h : Hd) (a : SlotNo) (base : Src) (off : W32)
  | rowconV (h : Hd) (d : VReg) (a : SlotNo)
  | rowput (h : Hd) (a : SlotNo) (base : Src) (off : W32)
  | rowputV (h : Hd) (a : SlotNo) (b : VReg)
  | rowpre (h : Hd) (a : SlotNo)
  | rowqry (h : Hd) (d : VReg) (a : SlotNo)
  | rowwt (h : Hd) (d : PReg) (a : SlotNo)
  -- engines and fabric (spec/08)
  | xcopy (h : Hd) (d : VReg) (c : CardSrc)
  | xwait (h : Hd) (d : PReg) (a : Src)
  | xqry (h : Hd) (d : VReg) (a : Src)
  | xcancel (h : Hd) (d : PReg) (a : Src)
  | crs (h : Hd) (d : VReg) (c : CardSrc)
  | crsNorm (h : Hd) (d : VReg) (c : CardSrc)
  | cag (h : Hd) (d : VReg) (c : CardSrc)
  | car (h : Hd) (d : VReg) (c : CardSrc)
  | cbc (h : Hd) (d : VReg) (c : CardSrc)
  | fput (h : Hd) (d a : SReg) (rank : BitVec 6)
  | fget (h : Hd) (d a : SReg) (rank : BitVec 6)
  | fatom (h : Hd) (ord : Ord) (op : FatomOp) (wide : Bool) (m : MemRef) (b : VReg)
  | fsig (h : Hd) (x : FsigSrc)
  -- matrix engine (spec/11)
  | mldw (h : Hd) (ty : MTy) (tr : Bool) (a : SReg)
  | mswap (h : Hd)
  | mstream (h : Hd) (ty : MTy) (z : Bool) (d : TileNo) (a : SReg)
  | mclr (h : Hd) (mask : Byte)
  | mst (h : Hd) (cv : Cv) (a : TileNo) (b : SReg)
  | mstReg (h : Hd) (cv : Cv) (d : VReg) (a : TileNo)
  | mlda (h : Hd) (cv : Cv) (d : TileNo) (a : SReg)
  | mldaReg (h : Hd) (cv : Cv) (d : TileNo) (a : VReg)
  | mgrp (h : Hd) (ty : MTy) (z : Bool) (d : TileNo) (a : SReg)
  | mqry (h : Hd) (d : SReg)
  | mtake (h : Hd) (d : PReg) (mask : BitVec 9)
  | mgive (h : Hd) (mask : BitVec 9)
  | macc (h : Hd) (int : Bool) (d a : TileNo)
  | mscl (h : Hd) (d : TileNo) (a : SReg)
  -- sampled product (spec/12)
  | norma (h : Hd) (f16 : Bool) (a b : SReg)
  | normb (h : Hd) (f16 : Bool) (a b : SReg)
  | nprod (h : Hd) (d a : SReg)
  | aliasT (h : Hd) (a b : SReg)
  | sampmm (h : Hd) (f16 : Bool) (d : TileNo) (a b : SReg)
  | svrd (h : Hd) (d : SReg)
  | svrdW (h : Hd) (d : SReg)
  | svset (h : Hd) (row : Byte) (col : BitVec 5)
  -- optimiser (spec/11)
  | awupd (h : Hd) (bf : Bool) (d a : VReg) (b : SReg)
  | sgdm (h : Hd) (bf : Bool) (d a : VReg) (b : SReg)
  | gscale (h : Hd) (d a : VReg) (b : SReg)
  | gscaleF (h : Hd) (d b : SReg)
  -- system (spec/18, 15, 19, 20)
  | sysr (h : Hd) (f : SysForm) (srn : Srn)
  | sysw (h : Hd) (f : SysForm) (srn : Srn)
  | trap (h : Hd) (imm : W32)
  | trapBrk (h : Hd) (imm : W32)
  | eret (h : Hd)
  | eretNext (h : Hd)
  | xlate (h : Hd) (d a : VReg)
  | xlateCtx (h : Hd) (d a b : VReg)
  | leaseq (h : Hd) (d a : VReg)
  | margin (h : Hd) (d : PReg) (a b : VReg)
  | marginRd (h : Hd) (d a : VReg)
  | scan (h : Hd) (d : PReg) (a : VReg)
  | scanAbort (h : Hd) (d : PReg) (a : VReg)
  | quar (h : Hd) (d : PReg) (a : VReg)
  | haltc (h : Hd) (d : PReg) (a : VReg)
  | haltcRel (h : Hd) (d : PReg) (a : VReg)
  | snap (h : Hd) (d : PReg) (c : Bool)
  | snapq (h : Hd) (d : VReg) (c : Bool)
  | snapqW (h : Hd) (d : VReg) (c : Bool)
  | ctxsv (h : Hd) (d : PReg) (a : VReg)
  | ctxld (h : Hd) (d : PReg) (a : VReg)
  | ctxldImg (h : Hd) (d : PReg) (a b : VReg)
  -- SYSR and SYSW of the registers with a behaviour of their own
  | cyccmpWrite (h : Hd) (f : SysForm)
  | eqheadWrite (h : Hd) (f : SysForm)
  | eqRingWrite (h : Hd) (f : SysForm) (size : Bool)
  | eqtailRead (h : Hd) (f : SysForm)
  | partmodeWrite (h : Hd) (f : SysForm) (n : BitVec 3)
  | lcmapWrite (h : Hd) (f : SysForm) (n : BitVec 9)
  | fmtrangeWrite (h : Hd) (f : SysForm) (n : BitVec 6) (hi : Bool)
  | marginRegWrite (h : Hd) (f : SysForm) (n : BitVec 10)
  | svarWrite (h : Hd) (f : SysForm) (n : BitVec 2)
  -- events that the machine itself brings about
  | leaseAcquireStart (slot lid : Nat)
  | leaseHeld (slot lid : Nat)
  | pageResident (slot : Nat) (page : PageBack)
  | chunkBind (slot lid chunk core : Nat)
  | taskDequeue (die : Nat)
  | drainDeadline (slot : Nat)
  | contextSave (slot : Nat)
  | contextSaved (slot : Nat)
  | contextSaveTimeout (slot : Nat)
  | contextResume (slot : Nat) (place : List (Nat × Nat))
  | watchdog (core gang : Nat)
  | sleepWake (uid : Nat)
  | bwaittTimeout (uid : Nat)
  | ottEntryFree (core entry : Nat)
  | privateGrowth (uid : Nat)
  | lookaheadResult (uid : Nat)
  | timer (slot : Nat)
  | pendingTrapTaken (uid : Nat)
  | jobSegment (die handle : Nat)
  | jobFail (die handle : Nat) (cause : Byte) (addr : W64)
  | gcmOpenCheck (die handle : Nat)
  | promiseMissed (uid : Nat)
  | packetRetransmit (slot dst seq : Nat)
  | fabricTimeout (core entry : Nat)
  | activationComplete (core slot : Nat)
  | rowTransfer (core : Nat)
  | laneSwap (core : Nat)
  | forcedClose (core slot : Nat)
  | prechargeDone (core bank : Nat)
  | refreshWindow (core layer : Nat)
  | matrixAccept (core : Nat)
  | matrixStep (core : Nat)
  | replayReissue (uid : Nat)
  | foehnStep (phys : Nat)
  | foehnDeepen (phys : Nat)
  | scanRunEnd (phys : Nat) (sig : W64)
  | scanAborted (phys : Nat)
  | fillStart (die : Nat)
  | fillComplete (phys : Nat)
  | supplySettled (phys : Nat)
  | recordStep (slot epoch : Nat)
  | recordStepEnd (slot : Nat)
  | snapshotSweep (slot : Nat) (u : UnitId)
  | boraStream (slot : Nat)
  | snapshotStagingFull (uid : Nat)
  | stagingAbort (slot : Nat)
  | partComplete (slot epoch : Nat)
  | restoreResume (slot : Nat) (place : List (Nat × Nat))
  | packetArrival (p : Packet)
  | rerunLogExhausted (slot : Nat)
  | yieldSpinExpiry (uid : Nat)
  -- events: launches, leases, scheduling (spec/04, 03)
  | launchRecordArrival (slot : Nat) (raw : BitVec 512) (fps : List (BitVec 128)) (who : Submitter)
  | doorbellWrite (part slot : Nat) (bell : Doorbell)
  | bindIntent (core : Nat) (head : BitVec 16) (lid : W32) (rest : BitVec 80)
  | preemptDrain (slot : Nat)
  | contextReset (slot : Nat)
  | agedIssue (core uid : Nat)
  -- events: engines and fabric (spec/08)
  | collectiveStep (die handle : Nat) (peers : List (Nat × CardKey)) (data : List (Nat × List (Byte × Bool)))
      (qs : List (Nat × W32 × Bool))
  | collectiveStepRetry (die handle : Nat)
  | collectiveFailureNotice (die handle : Nat)
  | packetAck (slot dst seq : Nat)
  | gapNotice (slot src seq : Nat)
  | linkReplay (port seq : Nat)
  -- events: margins, scans, fills (spec/19)
  | shadowLatchReport (phys uid : Nat) (nonreplayable : Bool)
  -- events: snapshots and restore (spec/20)
  | markerArrival (slot src epoch seq : Nat)
  | cowCopy (slot : Nat) (u : UnitId)
  | hostGranuleAck (slot : Nat)
  | completionNotice (slot src epoch : Nat)
  | snapshotAborted (slot epoch : Nat)
  | abortNotice (slot src epoch : Nat)
  | restoreReadyNotice (slot src : Nat)
  | haltMarker (slot src : Nat)
  -- events: host, security core, module (spec/16, 23)
  | tdispLock (part : Nat)
  | tdispUnlocked (part : Nat)
  | pcieHotReset
  | mailboxRequest (r : MailReq)
  | pageTableRequest (slot : Nat) (va : W64) (level : Nat) (entry : W64)
  | partmodeRequest (part : Nat) (val : W64)
  | barAccess (write : Bool) (off : Nat) (data : List Byte)
  | getVersion
  | getCapabilities
  | negotiateAlgorithms
  | getDigests
  | getCertificate (slot : Nat)
  | challenge
  | getMeasurements (r : MeasureReq)
  | keyExchange (r : SessionReq)
  | finish (session : Nat)
  | endSession (session : Nat)
  | heartbeat (session : Nat)
  | keyLoad (session slot ks : Nat) (key : BitVec 256)
  | unsupportedRequest
  | peerKeyExchange (slot : Nat) (other : PeerEnd)
  | tier3TagFail (slot : Nat) (pa : Nat)
  | moduleReset
  | pcieLinkUp
  deriving DecidableEq, Repr

end Sys2Proof
end

