-- ==== Sys2Proof/Machine/Float.lean ====
section
/-! DEFINITION. Floating-point numbers as exact values, their rounding and their flags (spec/09 R216, R219 to R222,
R226, R227, R229, spec/10 R253 to R263). A finite value is a sign, a magnitude and a power of two; every operation
computes exactly and rounds once. -/

namespace Sys2Proof.Machine

/-- The widths of a format's exponent and fraction fields (R216). -/
structure Fmt where
  ebits : Nat
  mbits : Nat
  deriving DecidableEq, Repr

/-- binary32 -/
def Fmt.f32 : Fmt := { ebits := 8, mbits := 23 }
/-- binary16 -/
def Fmt.f16 : Fmt := { ebits := 5, mbits := 10 }
/-- BF16 -/
def Fmt.bf16 : Fmt := { ebits := 8, mbits := 7 }

/-- The width of the format. -/
def Fmt.width (f : Fmt) : Nat := 1 + f.ebits + f.mbits
/-- The exponent bias. -/
def Fmt.bias (f : Fmt) : Nat := 2 ^ (f.ebits - 1) - 1
/-- The exponent of the least significant bit of a subnormal. -/
def Fmt.lmin (f : Fmt) : Int := 1 - (f.bias : Int) - (f.mbits : Int)
/-- The exponent of the smallest normal. -/
def Fmt.emin (f : Fmt) : Int := 1 - (f.bias : Int)
/-- The encoding of +∞. -/
def Fmt.inf (f : Fmt) : Nat := (2 ^ f.ebits - 1) * 2 ^ f.mbits
/-- The canonical NaN (R221). -/
def Fmt.canon (f : Fmt) : Nat := f.inf + 2 ^ (f.mbits - 1)
/-- The sign bit. -/
def Fmt.signBit (f : Fmt) (neg : Bool) : Nat := if neg then 2 ^ (f.ebits + f.mbits) else 0

/-- The five IEEE flags (R222): NV 1, DZ 2, OF 4, UF 8, NX 16. -/
abbrev FFlags := BitVec 5
/-- NV -/
def fNV : FFlags := 1
/-- DZ -/
def fDZ : FFlags := 2
/-- OF -/
def fOF : FFlags := 4
/-- UF -/
def fUF : FFlags := 8
/-- NX -/
def fNX : FFlags := 16
/-- A flag if the condition holds. -/
def flagIf (b : Bool) (f : FFlags) : FFlags := if b then f else 0

/-- A floating-point value: a NaN, signalling or quiet; an infinity; or ± m × 2^e, with m = 0 a signed zero. -/
inductive FVal where
  | nan (signalling : Bool)
  | inf (neg : Bool)
  | fin (neg : Bool) (m : Nat) (e : Int)
  deriving DecidableEq, Repr

/-- The value of an encoding (R216). -/
def FVal.ofBits (f : Fmt) (b : Nat) : FVal :=
  let frac := b % 2 ^ f.mbits
  let ex := b / 2 ^ f.mbits % 2 ^ f.ebits
  let neg := b / 2 ^ (f.ebits + f.mbits) % 2 = 1
  if ex = 2 ^ f.ebits - 1 then
    if frac = 0 then .inf neg else .nan (frac < 2 ^ (f.mbits - 1))
  else if ex = 0 then .fin neg frac f.lmin
  else .fin neg (2 ^ f.mbits + frac) (f.lmin + (ex - 1 : Nat))

/-- The value is a NaN. -/
def FVal.isNan : FVal → Bool
  | .nan _ => true
  | _ => false
/-- The value is a signalling NaN. -/
def FVal.isSNan : FVal → Bool
  | .nan s => s
  | _ => false
/-- The value is an infinity. -/
def FVal.isInf : FVal → Bool
  | .inf _ => true
  | _ => false
/-- The value is ±0. -/
def FVal.isZero : FVal → Bool
  | .fin _ m _ => m = 0
  | _ => false
/-- The value is finite. -/
def FVal.isFin : FVal → Bool
  | .fin .. => true
  | _ => false
/-- The sign; false for a NaN. -/
def FVal.neg? : FVal → Bool
  | .nan _ => false
  | .inf s => s
  | .fin s _ _ => s
/-- The value with its sign inverted; a NaN stays. -/
def FVal.negate : FVal → FVal
  | .nan s => .nan s
  | .inf s => .inf (!s)
  | .fin s m e => .fin (!s) m e
/-- The value with its sign set; a NaN stays. -/
def FVal.withSign (neg : Bool) : FVal → FVal
  | .nan s => .nan s
  | .inf _ => .inf neg
  | .fin _ m e => .fin neg m e
/-- The canonical quiet NaN as a value. -/
def FVal.qnan : FVal := .nan false

/-- The number of bits of m. -/
def bitLen (m : Nat) : Nat := if m = 0 then 0 else Nat.log2 m + 1

/-- m × 2^e as a multiple of 2^l, rounded by the mode; whether it was inexact. -/
def roundAt (rm : Rm) (neg : Bool) (m : Nat) (e l : Int) : Nat × Bool :=
  if l ≤ e then (m * 2 ^ (e - l).toNat, false)
  else
    let k := (l - e).toNat
    let q := m / 2 ^ k
    let r := m % 2 ^ k
    if r = 0 then (q, false)
    else
      let up : Bool :=
        match rm with
        | .rn => 2 * r > 2 ^ k || (2 * r == 2 ^ k && q % 2 == 1)
        | .rz => false
        | .ru => !neg
        | .rd => neg
      (if up then q + 1 else q, true)

/-- Rounds ± m × 2^e to the format by the mode: its encoding and its flags (R219, R220). -/
def roundFin (f : Fmt) (rm : Rm) (neg : Bool) (m : Nat) (e : Int) : Nat × FFlags :=
  if m = 0 then (f.signBit neg, 0)
  else
    let E : Int := (bitLen m : Int) - 1 + e
    let l := max (E - f.mbits) f.lmin
    let (q, nx) := roundAt rm neg m e l
    let bits := (l - f.lmin).toNat * 2 ^ f.mbits + q
    if bits ≥ f.inf then
      let toInf : Bool :=
        match rm with
        | .rn => true
        | .rz => false
        | .ru => !neg
        | .rd => neg
      (f.signBit neg + (if toInf then f.inf else f.inf - 1), fOF ||| fNX)
    else
      let (qU, _) := roundAt rm neg m e (E - f.mbits)
      let tiny : Bool := E < f.emin && !(E == f.emin - 1 && qU == 2 ^ (f.mbits + 1))
      (f.signBit neg + bits, flagIf nx fNX ||| flagIf (nx && tiny) fUF)

/-- The encoding of a value in a format and the flags of its rounding; a NaN is canonical (R221). -/
def FVal.toBits (f : Fmt) (rm : Rm) : FVal → Nat × FFlags
  | .nan _ => (f.canon, 0)
  | .inf s => (f.signBit s + f.inf, 0)
  | .fin s m e => roundFin f rm s m e

/-- ± m × 2^e as an integer multiple of 2^b, for b ≤ e. -/
def signedAt (neg : Bool) (m : Nat) (e b : Int) : Int :=
  let x : Int := (m * 2 ^ (e - b).toNat : Nat)
  if neg then -x else x

/-- A value from a signed multiple of 2^e; zero takes the sign given. -/
def FVal.ofInt (x : Int) (e : Int) (zeroNeg : Bool) : FVal :=
  if x = 0 then .fin zeroNeg 0 e else .fin (x < 0) x.natAbs e

/-- The exact product and whether it is an invalid operation, 0 × ∞ (R221). -/
def FVal.mul (a b : FVal) : FVal × Bool :=
  match a, b with
  | .nan _, _ => (.qnan, false)
  | _, .nan _ => (.qnan, false)
  | .inf s, .inf t => (.inf (s != t), false)
  | .inf s, .fin t m _ => if m = 0 then (.qnan, true) else (.inf (s != t), false)
  | .fin s m _, .inf t => if m = 0 then (.qnan, true) else (.inf (s != t), false)
  | .fin s m e, .fin t n f => (.fin (s != t) (m * n) (e + f), false)

/-- The exact sum and whether it is an invalid operation, ∞ − ∞; the sign of an exact zero is that of R220 for the
modes other than toward −∞. -/
def FVal.add (a b : FVal) : FVal × Bool :=
  match a, b with
  | .nan _, _ => (.qnan, false)
  | _, .nan _ => (.qnan, false)
  | .inf s, .inf t => if s = t then (.inf s, false) else (.qnan, true)
  | .inf s, .fin .. => (.inf s, false)
  | .fin .., .inf t => (.inf t, false)
  | .fin s m e, .fin t n f =>
    let b := min e f
    (FVal.ofInt (signedAt s m e b + signedAt t n f b) b (s && t), false)

/-- NV for the signalling operands of a list. -/
def sigNV (xs : List FVal) : FFlags := flagIf (xs.any FVal.isSNan) fNV

/-- A rounded result with the flags raised before rounding. -/
def finish (f : Fmt) (pre : FFlags) (v : FVal) : Nat × FFlags :=
  let (b, fl) := v.toBits f .rn
  (b, pre ||| fl)

/-- round_rne(a + b) (R253). -/
def fpAdd (f : Fmt) (a b : FVal) : Nat × FFlags :=
  let (s, iv) := a.add b
  finish f (sigNV [a, b] ||| flagIf iv fNV) s

/-- round_rne(a × b) (R253). -/
def fpMul (f : Fmt) (a b : FVal) : Nat × FFlags :=
  let (s, iv) := a.mul b
  finish f (sigNV [a, b] ||| flagIf iv fNV) s

/-- round_rne(a × b + c), one rounding; 0 × ∞ is invalid even with a quiet NaN addend (R221, R253). -/
def fpFma (f : Fmt) (a b c : FVal) : Nat × FFlags :=
  let (p, iv) := a.mul b
  let (s, jv) := p.add c
  finish f (sigNV [a, b, c] ||| flagIf (iv || (jv && !c.isNan)) fNV) s

/-- The exact order of two values that are no NaNs, −0 below +0 when `zeros`: −1, 0 or 1. -/
def FVal.cmp (zeros : Bool) (a b : FVal) : Int :=
  let key : FVal → Int := fun v =>
    match v with
    | .nan _ => 0
    | .inf s => if s then -2 else 2
    | .fin .. => 0
  match a, b with
  | .fin s m e, .fin t n f =>
    let l := min e f
    let x := signedAt s m e l
    let y := signedAt t n f l
    if x < y then -1 else if y < x then 1
    else if zeros && m == 0 then (if s && !t then -1 else if !s && t then 1 else 0) else 0
  | _, _ => if key a < key b then -1 else if key b < key a then 1 else 0

/-- FMIN or FMAX of two encodings (R254): the chosen operand's bits. -/
def fpMinMax (f : Fmt) (mx : Bool) (x y : Nat) : Nat × FFlags :=
  let a := FVal.ofBits f x
  let b := FVal.ofBits f y
  let nv := sigNV [a, b]
  if a.isNan && b.isNan then (f.canon, nv)
  else if a.isNan then (y, nv)
  else if b.isNan then (x, nv)
  else
    let c := FVal.cmp true a b
    (if (if mx then c < 0 else 0 < c) then y else x, nv)

/-- FCMP (R255): the result and the flags. -/
def fpCmp (c : FCond) (a b : FVal) : Bool × FFlags :=
  let un := a.isNan || b.isNan
  let r := FVal.cmp false a b
  let sig := sigNV [a, b]
  let ord (p : Bool) : Bool × FFlags := (!un && p, flagIf un fNV)
  match c with
  | .eq => (!un && r == 0, sig)
  | .ne => (un || r != 0, sig)
  | .lt => ord (r < 0)
  | .le => ord (r ≤ 0)
  | .gt => ord (0 < r)
  | .ge => ord (0 ≤ r)
  | .un => (un, sig)
  | .num => (!un, sig)

/-- FCLASS: the mask with one bit set (R256). -/
def fpClass (x : Nat) : Nat :=
  match FVal.ofBits Fmt.f32 x with
  | .nan s => if s then 2 ^ 8 else 2 ^ 9
  | .inf s => if s then 1 else 2 ^ 7
  | .fin s m _ =>
    if m = 0 then (if s then 2 ^ 3 else 2 ^ 4)
    else if m < 2 ^ 23 then (if s then 2 ^ 2 else 2 ^ 5)
    else (if s then 2 else 2 ^ 6)

/-- FRND (R257). -/
def fpRnd (rm : Rm) (x : Nat) : Nat × FFlags :=
  match FVal.ofBits Fmt.f32 x with
  | .nan s => (Fmt.f32.canon, flagIf s fNV)
  | .inf _ => (x, 0)
  | .fin s m e => if m = 0 then (x, 0) else ((roundFin Fmt.f32 .rn s (roundAt rm s m e 0).1 0).1, 0)

/-- A conversion between floating-point formats (R258). -/
def fpConv (src dst : Fmt) (rm : Rm) (x : Nat) : Nat × FFlags :=
  let v := FVal.ofBits src x
  let (b, fl) := v.toBits dst rm
  (b, fl ||| flagIf v.isSNan fNV)

/-- cvt_int (R226): the integer, the flags, and whether the operand was a NaN or out of range. -/
def fpToInt (rm : Rm) (signed : Bool) (w : Nat) (x : FVal) : Int × FFlags × Bool :=
  let lo : Int := if signed then -(2 ^ (w - 1) : Nat) else 0
  let hi : Int := if signed then (2 ^ (w - 1) : Nat) - 1 else (2 ^ w : Nat) - 1
  match x with
  | .nan _ => (0, fNV, true)
  | .inf s => (if s then lo else hi, fNV, true)
  | .fin s m e =>
    let (q, nx) := roundAt rm s m e 0
    let v : Int := if s then -(q : Int) else q
    if v < lo then (lo, fNV, true)
    else if hi < v then (hi, fNV, true)
    else (v, flagIf nx fNX, false)

/-- A conversion from an integer to binary32 (R258). -/
def fpOfInt (rm : Rm) (x : Int) : Nat × FFlags := roundFin Fmt.f32 rm (x < 0) x.natAbs 0

/-- The integer square root, one bit at a time from bit `k` down. -/
def isqrtFrom : Nat → Nat → Nat → Nat
  | 0, _, r => r
  | k + 1, x, r =>
    let r' := r + 2 ^ k
    isqrtFrom k x (if r' * r' ≤ x then r' else r)

/-- The integer square root. -/
def isqrt (x : Nat) : Nat := isqrtFrom (bitLen x / 2 + 1) x 0

/-- FSQRT (R259). -/
def fpSqrt (f : Fmt) (a : FVal) : Nat × FFlags :=
  match a with
  | .nan s => (f.canon, flagIf s fNV)
  | .inf s => if s then (f.canon, fNV) else (f.inf, 0)
  | .fin s m e =>
    if m = 0 then (f.signBit s, 0)
    else if s then (f.canon, fNV)
    else
      -- an even exponent and 64 more bits; an inexact root keeps a sticky bit below
      let k : Nat := if e % 2 = 0 then 64 else 65
      let x := m * 2 ^ k
      let r := isqrt x
      roundFin f .rn false (2 * r + (if r * r = x then 0 else 1)) ((e - k) / 2 - 1)

/-- FDIV (R259). -/
def fpDiv (f : Fmt) (a b : FVal) : Nat × FFlags :=
  let nv := sigNV [a, b]
  match a, b with
  | .nan _, _ => (f.canon, nv)
  | _, .nan _ => (f.canon, nv)
  | .inf _, .inf _ => (f.canon, fNV)
  | .inf s, .fin t _ _ => (f.signBit (s != t) + f.inf, 0)
  | .fin s _ _, .inf t => (f.signBit (s != t), 0)
  | .fin s m e, .fin t n g =>
    if n = 0 then (if m = 0 then (f.canon, fNV) else (f.signBit (s != t) + f.inf, fDZ))
    else if m = 0 then (f.signBit (s != t), 0)
    else
      let k := 64 + bitLen n
      let q := m * 2 ^ k / n
      roundFin f .rn (s != t) (2 * q + (if m * 2 ^ k % n = 0 then 0 else 1)) (e - g - k - 1)

/-- The exact sum of a list of products (R227): the value, and whether it is a NaN made from operands that are no
NaNs. -/
def blockSum (ps : List (FVal × FVal)) : FVal × Bool :=
  let prods := ps.map (fun p => p.1.mul p.2)
  let vs := prods.map Prod.fst
  if vs.any FVal.isNan then (.qnan, !(ps.any (fun p => p.1.isNan || p.2.isNan)))
  else if vs.any (fun v => v == .inf true) && vs.any (fun v => v == .inf false) then (.qnan, true)
  else if vs.any (fun v => v == .inf true) then (.inf true, false)
  else if vs.any (fun v => v == .inf false) then (.inf false, false)
  else
    let es := vs.map (fun v => match v with | .fin _ _ e => e | _ => 0)
    let b := es.foldl min 0
    let s : Int := (vs.map (fun v => match v with | .fin s m e => signedAt s m e b | _ => 0)).foldl (· + ·) 0
    (FVal.ofInt s b (!vs.isEmpty && vs.all FVal.neg?), false)

/-- FSCALE (R263). Beyond ±400 every n gives the same overflow or the same zero. -/
def fpScale (x : Nat) (n : Int) : Nat × FFlags :=
  match FVal.ofBits Fmt.f32 x with
  | .nan s => (Fmt.f32.canon, flagIf s fNV)
  | .inf _ => (x, 0)
  | .fin s m e => if m = 0 then (x, 0) else roundFin Fmt.f32 .rn s m (e + max (-400) (min 400 n))

/-- m cut to its 13 leading bits (rtz12, R226), with the power of two that keeps its place. -/
def rtz12 (m : Nat) : Nat × Nat :=
  let k := bitLen m - 13
  (m / 2 ^ k, k)

/-- seed_rcp (R229). -/
def seedRcp (x : Nat) : Nat × FFlags :=
  match FVal.ofBits Fmt.f32 x with
  | .nan s => (Fmt.f32.canon, flagIf s fNV)
  | .inf s => (Fmt.f32.signBit s, 0)
  | .fin s m e =>
    if m = 0 then (Fmt.f32.signBit s + Fmt.f32.inf, fDZ)
    else
      let sh := 24 - bitLen m
      let mm := m * 2 ^ sh
      let ex : Int := e - sh + 23
      let i := (mm - 2 ^ 23) / 2 ^ 16
      let n := 256 * 8192
      let d := 257 + 2 * i
      let t := (2 * n + d) / (2 * d)
      let (y, k) := rtz12 (t * (2 ^ 37 - t * mm))
      -- y × 2^(k − 49) × 2^(−ex)
      let re : Int := (k : Int) - 49 - ex
      let top : Int := (bitLen y : Int) + re
      if 128 < top then (Fmt.f32.signBit s + Fmt.f32.inf, fOF ||| fNX)
      else if top ≤ -126 then
        (Fmt.f32.signBit s + (roundAt .rz s y re Fmt.f32.lmin).1, fUF ||| fNX)
      else ((roundFin Fmt.f32 .rz s y re).1, 0)

/-- seed_rsq (R229). -/
def seedRsq (x : Nat) : Nat × FFlags :=
  match FVal.ofBits Fmt.f32 x with
  | .nan s => (Fmt.f32.canon, flagIf s fNV)
  | .inf s => if s then (Fmt.f32.canon, fNV) else (0, 0)
  | .fin s m e =>
    if m = 0 then (Fmt.f32.signBit s + Fmt.f32.inf, fDZ)
    else if s then (Fmt.f32.canon, fNV)
    else
      let sh := 24 - bitLen m
      let mm := m * 2 ^ sh
      let ex : Int := e - sh + 23
      let p : Nat := (ex % 2).toNat
      let i := (mm - 2 ^ 23) / 2 ^ 16
      let a := if p = 0 then mm else 2 * mm
      let q := 4 * 2 ^ 26 * (if p = 0 then 256 else 128) / (257 + 2 * i)
      let u := (isqrt q + 1) / 2
      let (y, k) := rtz12 (u * (3 * 2 ^ 49 - u * u * a))
      ((roundFin Fmt.f32 .rz false y ((k : Int) - 63 - (ex - p) / 2)).1, 0)

/-- Element k of 16 bits of a word. -/
def half (x : W32) (k : Nat) : Nat := (x.extractLsb' (16 * k) 16).toNat

/-- Two 16-bit elements as a word. -/
def halves (a b : Nat) : W32 := BitVec.ofNat 16 b ++ BitVec.ofNat 16 a

/-- BF16 or binary16. -/
def Fmt.packed (bf : Bool) : Fmt := if bf then Fmt.bf16 else Fmt.f16

/-- HDOT2 (R262): one exact sum with the addend, one rounding. -/
def fpDot2 (f : Fmt) (a b c : W32) : Nat × FFlags :=
  let v := fun (x : W32) k => FVal.ofBits f (half x k)
  let ps := [(v a 0, v b 0), (v a 1, v b 1)]
  let (s, iv) := blockSum ps
  let cc := FVal.ofBits Fmt.f32 c.toNat
  let (r, jv) := s.add cc
  let zx := ps.any (fun p => (p.1.mul p.2).2)
  finish Fmt.f32 (sigNV [v a 0, v a 1, v b 0, v b 1, cc] ||| flagIf (iv || zx || (jv && !cc.isNan)) fNV) r

end Sys2Proof.Machine
end

