-- ==== Sys2Proof/Machine/Flags.lean ====
section
/-! DEFINITION. Flag and predicate computations of the arithmetic instructions: saturation, overflow, carry and borrow,
comparison results (spec/09 R222, R226, spec/10 R238, R240, R244, R255). -/

namespace Sys2Proof

/-- The element width of TY (R236). -/
def Ty.width : Ty → Nat
  | .i32 | .n32 => 32
  | .i64 | .n64 => 64
  | .i16 | .n16 => 16
  | .i8 | .n8 => 8

/-- The number of elements in an operand of TY (R236). -/
def Ty.count : Ty → Nat
  | .i16 | .n16 => 2
  | .i8 | .n8 => 4
  | _ => 1

/-- An operand of TY is a pair of registers (R236). -/
def Ty.wide : Ty → Bool
  | .i64 | .n64 => true
  | _ => false

end Sys2Proof

namespace Sys2Proof.Machine

/-- Element k of a raw value, by element width. -/
def elemOf (w k x : Nat) : Nat := x / 2 ^ (w * k) % 2 ^ w

/-- An element as the type reads it (R236). -/
def elemInt (signed : Bool) (w x : Nat) : Int := if signed && x ≥ 2 ^ (w - 1) then (x : Int) - 2 ^ w else x

/-- A value modulo 2^w (R226). -/
def wrapInt (w : Nat) (x : Int) : Nat := (x % (2 ^ w : Int)).toNat

/-- The least value of an integer type (R226). -/
def intLo (signed : Bool) (w : Nat) : Int := if signed then -(2 ^ (w - 1) : Int) else 0
/-- The greatest value of an integer type (R226). -/
def intHi (signed : Bool) (w : Nat) : Int := if signed then 2 ^ (w - 1) - 1 else 2 ^ w - 1
/-- The value lies outside the type (R240). -/
def outside (signed : Bool) (w : Nat) (x : Int) : Bool := x < intLo signed w || intHi signed w < x
/-- The value clamped to the type (R226). -/
def satInt (signed : Bool) (w : Nat) (x : Int) : Int := max (intLo signed w) (min (intHi signed w) x)

/-- One element of a result: its bits, a mark for the precise fault of its instruction, and the flags it sets. -/
structure Elem where
  val   : Nat
  mark  : Bool := false
  flags : FFlags := 0
  deriving DecidableEq, Repr

/-- V applied to an exact integer (R240): wrap, saturate, or wrap and mark on overflow. -/
def applyOv (v : Ov) (signed : Bool) (w : Nat) (x : Int) : Elem :=
  match v with
  | .wrap => { val := wrapInt w x }
  | .sat => { val := wrapInt w (satInt signed w x) }
  | .trap => { val := wrapInt w x, mark := outside signed w x }

/-- The carry out of an unsigned addition of w bits (R240). -/
def carryOut (w a b : Nat) : Bool := a + b ≥ 2 ^ w
/-- The borrow of an unsigned subtraction (R240). -/
def borrowOut (a b : Nat) : Bool := a < b

/-- The bits of a comparison result for one element: those of the bytes it covers (R238). -/
def cmpBits (w k : Nat) (x : Bool) : Nat := if x then (2 ^ (w / 8) - 1) * 2 ^ (w / 8 * k) else 0

/-- The guard bit that governs element k (R18). -/
def govBit (w k : Nat) : Nat := if w = 64 then 0 else k * (w / 8)

/-- The guard bits that govern `n` elements of width w. -/
def govBits (w n : Nat) : List Nat := (upTo n).map (govBit w)

/-- The predicate bits a comparison of element k writes, so that other bits are kept where the guard is false. -/
def cmpMask (w k : Nat) : Nat := (2 ^ (w / 8) - 1) * 2 ^ (w / 8 * k)

/-- A condition of ICMP (R244). -/
def condHolds (c : Cond) (a b : Int) : Bool :=
  match c with
  | .eq => a == b
  | .ne => a != b
  | .lt => a < b
  | .le => a ≤ b
  | .gt => b < a
  | .ge => b ≤ a

/-- The lowest FFLAG cause among some flags, by bit (R264). -/
def lowestFlag (f : FFlags) : Option Nat := (upTo 5).find? (fun k => f.getLsbD k)

end Sys2Proof.Machine
end

