-- ==== Sys2Proof/Machine/Thread.lean ====
section
/-! DEFINITION. The state of threads, gangs, chunks and launches (spec/01 R12 to R22, spec/03 R62 to R86, spec/04 R87
to R101, spec/06 R144 to R163, spec/18 R370 to R373). Plain data, no function. -/

namespace Sys2Proof.Machine

/-- The privilege levels (R22). -/
inductive Level where
  | user | context | system
  deriving DecidableEq, Repr

/-- One cause of a trap or a record (R377, R378): its 8-bit code. -/
abbrev Cause := Byte

/-- Bytes by address, strictly rising, zero bytes not listed. -/
abbrev Memory := List Host.Cell

/-- DETAIL.W0 to W2 (R379). -/
structure Detail where
  w0 : W32
  w1 : W32
  w2 : W32
  deriving DecidableEq, Repr

/-- A pending trap of a thread (R371, R372): its cause and detail. -/
structure PendingTrap where
  cause  : Cause
  detail : Detail
  deriving DecidableEq, Repr

/-- One destination register of a result that is not written yet (R44), and its place among the words of the result. -/
structure LateReg where
  reg  : VReg
  val  : W32
  psn  : Bool
  k    : Nat
  deriving DecidableEq, Repr

/-- A read that an accepted load or atomic has still to perform (R107, R108, R368): of `n` bytes of this module's memory, of the
stash, or at another module, under the tag of its request; whether a short value is sign-extended; of ATOMF its operation and
operand, for the flags. -/
inductive Unread where
  | mem (pa n : Nat) (sx : Bool)
  | stash (off n : Nat) (sx : Bool)
  | far (tag off n : Nat) (sx : Bool) (f : Option (AtomfOp × W32 × Bool))
  deriving DecidableEq, Repr

/-- A result that is not written yet (R44): the registers it writes, how many instructions may still issue before it is, and the
read it waits for, if that has not been performed. `guess` says that the load had LAH = 0: its thread goes on with a predicted value
(R108), so that no instruction sees the value before. `acq` says that it acquires: nothing of its thread issues before it is
performed (R107). `va` is where the access lay. DESIGN CHOICE: notes/assumptions/14. -/
structure Late where
  regs  : List LateReg
  cover : Nat
  unread : Option Unread
  guess : Bool
  acq   : Bool
  va    : Option W64
  deriving DecidableEq, Repr

/-- Why a thread is not ready (R63). -/
inductive Wait where
  /-- nothing of its own to wait for -/
  | none
  /-- SLEEP until CYC reaches the deadline (R78) -/
  | sleep (deadline : W64)
  /-- BWAIT or BWAITT on an object of the thread's chunk (R159) -/
  | barrier (d : PReg) (off : Nat) (k : Bool) (deadline : Option W64)
  /-- XWAIT on a handle until its promise (R196); the register that holds the promise, whether it is the s form, and
  whether the handle was poisoned -/
  | job (d : PReg) (handle : W32) (promise : W64) (reg : VReg) (s psn : Bool)
  /-- ROWWT on a slot's activation (R175) -/
  | row (d : PReg) (slot : SlotNo) (act : Nat)
  /-- arrived at the gang's open rendezvous (R69) -/
  | rendezvous
  /-- waits for the gang's open rendezvous at another PC, or for one it is no participant of, to complete (R70) -/
  | gangBusy
  /-- waits for entries of the outstanding-transaction table (R143) -/
  | ott (need : Nat) (ticket : Nat)
  /-- an instruction, by a number of its own, waits until another module has accepted or refused every access it makes there, or
  has sent the lines it needs (R132, R133, R212) -/
  | remote (ticket : Nat)
  /-- waits for private memory to reach the mark (R145) -/
  | grow (mark : Nat)
  /-- a release, acquire-release or FENCE that waits for the acknowledgements of earlier remote writes (R120, R141) -/
  | release
  /-- waits for a row transfer (R171 to R173) -/
  | transfer (id : Nat)
  /-- waits for an accepted matrix instruction to complete (R279, R316) -/
  | matrix (ticket : Nat)
  /-- waits for a free entry of the matrix queue (R279) -/
  | matrixQueue (ticket : Nat)
  /-- SNAPQ.W waits for its colour to end (R435) -/
  | snapshot (d : VReg) (colour : Bool)
  /-- waits for the supply of its core to settle (R401) -/
  | settle (until_ : Nat)
  /-- waits for a copy-on-write to find room in staging since the cycle (R421) -/
  | staging (since : Nat)
  deriving DecidableEq, Repr

/-- What kind of state a poison origin names (R379 group 11 SRC). -/
inductive PoisonSrc where
  | row | tier2 | tier3 | llc | l1 | stash | regs | tile
  deriving DecidableEq, Repr

/-- A latched source operand (R45): the position A 4, B 2, C 1 and its register. -/
structure Latch where
  pos : BitVec 3
  reg : VReg
  deriving DecidableEq, Repr

/-- A register of a thread that fails its parity (R365, R378). -/
inductive Upset where
  | v (r : VReg)
  | p (r : PReg)
  deriving DecidableEq, Repr

/-- One resident thread, or the shadow of one (R404). -/
structure Thread where
  /-- a number of its own, never used again -/
  uid     : Nat
  ctx     : Nat
  lid     : Nat
  chunk   : Nat
  core    : Nat
  lane    : Nat
  slot    : Nat
  /-- the uid of its shadow, or of its primary (R89, R404) -/
  partner : Option Nat
  shadow  : Bool
  tid     : W32
  pc      : W64
  /-- the registers it declared (R13) -/
  regs    : List W32
  regPsn  : List Bool
  preds   : List Byte
  predPsn : List Bool
  flags   : BitVec 5
  rngcnt  : W32
  rstack  : List W64
  level   : Level
  plev    : Level
  inTrap  : Bool
  cause   : Byte
  epc     : W64
  detail  : Detail
  pending : Option PendingTrap
  /-- instructions retired towards the 256 of R371 -/
  skid    : Nat
  /-- CYCCMP as it stood when TIMER became due and was not taken yet (R372) -/
  timerDue : Option W64
  wait    : Wait
  /-- PCYC from which it is ready if it waits for nothing, and from which its age counts (R63) -/
  since   : Nat
  /-- the PCYC until which yield=spin passes it over; 0 for none (R46, R63) -/
  spin    : Nat
  late    : List Late
  latches : List Latch
  /-- private memory and its high-water mark (R144, R145) -/
  priv    : Memory
  privPsn : List Nat
  hwm     : Nat
  /-- replays of the instruction it is issuing, in a row (R401) -/
  replays : Nat
  /-- instructions retired, for the SKID of an imprecise error (R371) -/
  retired : Nat
  /-- the poison origin: where the load lay that last poisoned a register, or zero (R304) -/
  psnFrom : W64
  /-- the counter of free values with which the instruction under way first read its operands, while it waits for another
  module (R44) -/
  asked   : Option Nat
  /-- registers whose parity fails at their next read (R378) -/
  upsets  : List Upset
  deriving DecidableEq, Repr

/-- A barrier object bound to a gang (R157, R162). -/
structure Binding where
  lid     : Nat
  chunk   : Nat
  off     : Nat
  bound   : List Nat
  arrived : List Nat
  deriving DecidableEq, Repr

/-- An open rendezvous (R69, R70): its PC and instruction, its participants and those arrived, by uid, with the rank
each had, and the CYC at which it opened. -/
structure Rendezvous where
  pc      : W64
  instr   : Instr
  parts   : List (Nat × Nat)
  arrived : List Nat
  opened  : W64
  deriving DecidableEq, Repr

/-- The sampling variance state SVAR.W0 to .W3 of a gang and the probe element (R315). -/
structure Svar where
  w   : List W32
  row : Byte
  col : BitVec 5
  deriving DecidableEq, Repr

/-- One entry of a core's gang table (R14, R68, R79). -/
structure Gang where
  key      : W64
  ctx      : Nat
  /-- the launch and the chunk of the thread that created it, its home chunk (R276) -/
  lid      : Nat
  home     : Nat
  size     : Nat
  /-- rank to thread uid (R68) -/
  remap    : List (Option Nat)
  sregs    : List W64
  sregPsn  : List Bool
  mxcnt    : BitVec 48
  svar     : Svar
  rdv      : Option Rendezvous
  bindings : List Binding
  /-- freed by its last member; its resources follow when its matrix instructions have completed (R277) -/
  freed    : Bool
  /-- gang scalars whose parity fails at their next read (R378) -/
  upsets   : List SReg
  deriving DecidableEq, Repr

/-- One entry of a chunk's stash map (R149). -/
structure MapEntry where
  off   : Nat
  va    : W64
  len   : Nat
  write : Bool
  /-- lines touched since it was mapped, by 64-byte index within it (R117, R151) -/
  filled : List Nat
  deriving DecidableEq, Repr

/-- A bound chunk (R89): its core, its threads' first TID, its stash with the poisoned 64-bit words of it, its map
entries, its tiles, and the order of its binding (R207). -/
structure Chunk where
  ctx     : Nat
  lid     : Nat
  idx     : Nat
  core    : Nat
  vc      : Nat
  bindSlot : Nat
  tbase   : Nat
  cnt     : Nat
  regsN   : Nat
  stashLen : Nat
  acc     : Nat
  prot    : Bool
  prio    : Nat
  ctxl    : Bool
  stash   : Memory
  stashPsn : List Nat
  map     : List (Nat × MapEntry)
  order   : Nat
  /-- when it was bound, for the order of binding (R207) -/
  bound   : Nat
  /-- flipped bits of stash words: 64-bit word and bit (R378) -/
  flips   : List (Nat × Nat)
  deriving DecidableEq, Repr

/-- One footprint range (R87): base, length in bytes, intents, the row flag, and whether a continuation inherited it. -/
structure Range where
  base : W64
  len  : Nat
  rd   : Bool
  wr   : Bool
  row  : Bool
  inherited : Bool
  deriving DecidableEq, Repr

/-- The states of a launch (R101). -/
inductive LaunchState where
  | queued | leasing | ready | running | draining | saving | saved | ended | done | reset
  deriving DecidableEq, Repr

/-- A launch (R87 to R92, R101). -/
structure Launch where
  ctx    : Nat
  lid    : Nat
  entry  : W64
  nthr   : Nat
  regsN  : Nat
  stashLen : Nat
  acc    : Nat
  prio   : Nat
  prot   : Bool
  rcd    : Bool
  level  : Level
  pers   : Bool
  arg    : W64
  /-- ADDR of a continuation, placed in v2:v3 (R85) -/
  addr   : Option W64
  /-- the die a continuation binds to (R85) -/
  die    : Option Nat
  ranges : List Range
  state  : LaunchState
  /-- the chunks that have been bound -/
  started : List Nat
  /-- bind intents of the host: the core, and the bind record verbatim (R93, R94) -/
  intents : List (Nat × BitVec 128)
  /-- an end that waits for the resumption (R92) -/
  endPending : Option (Cause × Detail × W64)
  deriving DecidableEq, Repr

/-- A continuation record of a die's task queue (R83, R85). -/
structure Task where
  ctx   : Nat
  poster : Nat
  entry : W64
  addr  : W64
  arg   : W64
  nthr  : Nat
  regsN : Nat
  prio  : Nat
  ctxl  : Bool
  deriving DecidableEq, Repr

end Sys2Proof.Machine
end

