-- ==== Sys2Proof/Machine/Device.lean ====
section
/-! DEFINITION. The state of cores, contexts, engines and the module around the threads (spec/01 R11 to R31, spec/04
R93, spec/07 R164 to R184, spec/08 R187 to R214, spec/11 R274 to R297, spec/12 R305 to R318, spec/15, spec/16,
spec/18 R380 to R385, spec/19, spec/20, spec/23). Plain data, no function. -/

namespace Sys2Proof.Machine

/-- The instruction that submitted a job or sent a packet, for its records (R380). -/
structure Origin where
  pc    : W64
  tid   : W32
  lid   : Nat
  core  : Nat
  level : Level
  uid   : Nat
  lane  : Nat
  /-- the instructions that its thread had retired -/
  nth   : Nat
  deriving DecidableEq, Repr

/-- Where a record comes from: the queue it goes to (a context slot, or the system queue), and the fields that name its
instruction. -/
structure Who where
  slot  : Option Nat
  level : Nat
  pc    : W64
  tid   : W32
  lid   : W32
  gang  : Option (Nat × Nat)
  vcore : Nat
  deriving DecidableEq, Repr

/-! ### Outstanding transactions (R142, R212) -/

/-- What came of an access to another module. -/
inductive Reply where
  | none
  /-- the data of a read or the old value of an atomic, with the poison of each 64-bit word -/
  | data (bytes : List Byte) (psn : List Nat)
  /-- refused at vm with a cause (R133) -/
  | refused (c : Byte)
  /-- no reply within the fabric timeout, or the packet is lost for good (R211, R212): the cause -/
  | lost (c : Byte)
  deriving DecidableEq, Repr

/-- One lane's access to another module: its packet's channel and number, its address there, and its reply. -/
structure OttAcc where
  ctx    : Nat
  uid    : Nat
  lane   : Nat
  tag    : Nat
  vm     : Nat
  seq    : Nat
  off    : Nat
  len    : Nat
  /-- the thread goes on without the reply: a store, FATOM or FSIG -/
  posted : Bool
  wr     : Bool
  /-- the instruction, by its number, that waits for this reply before it is performed: to a question whether the access may be
  made (R132), or to a request for a line of a map entry -/
  ask    : Option Nat
  origin : Origin
  /-- the thread's count of retired instructions just after this one -/
  was    : Nat
  /-- PCYC at which its packet was acknowledged -/
  acked  : Option Nat
  reply  : Reply
  deriving DecidableEq, Repr

/-- A line of this module that an instruction sent beyond its core (R142): its number, the threads of whose stores it holds the
registration, and the PCYC at which it completes. -/
structure HereLine where
  line : Nat
  uids : List Nat
  till : Nat
  deriving DecidableEq, Repr

/-- An entry of the outstanding-transaction table (R142): the accesses of one instruction to one 64-byte line of another
module, a line of this module, or an entry granted to a thread that waits for it (R143). -/
structure OttEntry where
  idx    : Nat
  granted : Option (Nat × W64)
  accs   : List OttAcc
  here   : Option HereLine
  deriving DecidableEq, Repr

/-! ### A core -/

/-- The states of a row slot (R166). -/
inductive SlotState where
  | empty | opening | ready | lost
  deriving DecidableEq, Repr

/-- A row slot (R166). `copy` holds the bytes by offset within the row, `psn` the poisoned 64-bit words. -/
structure RowSlot where
  state : SlotState
  /-- the launch's range intents and virtual address of the row -/
  va    : W64
  pa    : Nat
  rd    : Bool
  wr    : Bool
  gang  : Nat
  ctx   : Nat
  ready : W64
  close : W64
  /-- CYC at which the activation started -/
  start : W64
  copy  : Memory
  psn   : List Nat
  /-- a number of its own for each activation (R175) -/
  act   : Nat
  /-- the copy is a recorded one, which a reopening does not change (R186) -/
  kept  : Bool
  /-- the thread that opened the row, as the records of its activation name it, and its lane (R448) -/
  opener : Option (Who × Nat)
  deriving DecidableEq, Repr

/-- The state of a bank (R170, R173, R177): the PCYC at which its precharge ends, the PCYC of its last ROWACT, and the
row the cache path holds open. -/
structure Bank where
  preEnd  : Nat
  lastAct : Option Nat
  cache   : Option Nat
  deriving DecidableEq, Repr

/-- What a transfer does when it completes (R171, R172), or the line of the cache path that crosses, with the instruction whose threads
wait for it (R165). -/
inductive TransferKind where
  | toPlane (k : Nat)
  | toStash (lid chunk off : Nat)
  | toRegs (dests : List (Nat × Nat)) (d : VReg)
  | put (data : Memory) (mask : List (Nat × Nat)) (psn : List Nat)
  | line (pa : Nat) (wr : Bool) (ticket : Option Nat)
  deriving DecidableEq, Repr

/-- A request for the vertical bus (R96, R97, R165, R171, R172): its class, its slot (8 for a line of the cache path), the threads that wait for it, how often it
was passed over, and where it stands in R183: 0 the transfer, 1 and 2 its repetitions, 3 waiting for the swap of lanes, 4
the transfer after the swap, with the swaps made (group, lane, spare). -/
structure Transfer where
  id     : Nat
  prio   : Nat
  slot   : Nat
  ctx    : Nat
  gang   : Nat
  kind   : TransferKind
  uids   : List Nat
  passed : Nat
  /-- 0 first transfer, 1 and 2 repetitions, 3 waiting for a swap, 4 after a swap (R183) -/
  att    : Nat
  /-- PCYC before which it is not granted: the close and the reopening of a swap -/
  after  : Nat
  /-- PCYC of its first beat, while it crosses (R165) -/
  beats  : Option Nat
  /-- PCYC of the first beat of the second repetition -/
  second : Nat
  /-- swapped lanes: parity group, first failing beat, lane, spare -/
  swaps  : List (Nat × Nat × Nat × Nat)
  deriving DecidableEq, Repr

/-- An accumulator tile (R275, R276): the gang that holds it, the chunk it is charged to, its 1,024 words by index and
the poisoned ones. -/
structure Tile where
  owner : Option Nat
  lid   : Nat
  chunk : Nat
  data  : List W32
  psn   : List Nat
  /-- flipped bits of its words: word and bit (R378) -/
  flips : List (Nat × Nat)
  deriving DecidableEq, Repr

/-- One plane store (R274): bytes by offset, the poisoned bytes, and the loaded bits. -/
structure Plane where
  bytes  : Memory
  psn    : List Nat
  loaded : Byte
  deriving DecidableEq, Repr

/-- One entry of the alias table (R311): THR, ALIAS, WT, AWT and PSN. -/
structure AliasEntry where
  thr   : Nat
  other : Nat
  wt    : W32
  awt   : W32
  psn   : Bool
  deriving DecidableEq, Repr

/-- A range of bytes that a matrix instruction accesses (R282): stash or memory, address, size of an element, length, write. -/
structure MSpan where
  stash : Bool
  addr  : Nat
  el    : Nat
  len   : Nat
  wr    : Bool
  deriving DecidableEq, Repr

/-- An accepted matrix or sampled-product instruction (R279, R295): what it read at the rendezvous, the participants
whose guard held with their ranks, and the steps it has done. -/
structure MatrixJob where
  ticket : Nat
  instr  : Instr
  gang   : Nat
  ctx    : Nat
  lid    : Nat
  home   : Nat
  pc     : W64
  /-- the s operands, from the first descriptor register on -/
  ops    : List W64
  /-- the group table of MGRP, one number an entry -/
  table  : List Nat
  /-- the bytes it accesses (R282) -/
  spans  : List MSpan
  /-- the registers each rank supplied to MLDA, by rank -/
  given  : List (List (W32 × Bool))
  /-- participants (uid, rank) with bit 0 of the guard true -/
  active : List (Nat × Nat)
  /-- every participant -/
  parts  : List (Nat × Nat)
  step   : Nat
  /-- exceptions collected for MXCNT: OVF, INV, NONFIN (R294) -/
  ovf    : Nat
  inv    : Nat
  nonfin : Nat
  /-- SAMPMM: only the finishing division is left, and it has written poisoned elements (R314) -/
  fin    : Bool
  wrote  : Bool
  /-- the 64-bit words of the stash or of memory to which it has written a poisoned element -/
  marks  : List (Bool × Nat)
  deriving DecidableEq, Repr

/-- What the gang's participants wait with when the matrix queue is full (R279). -/
structure MatrixWait where
  ticket : Nat
  job    : MatrixJob
  deriving DecidableEq, Repr

/-- A bind record (R93). -/
structure BindRec where
  ctx   : Nat
  lid   : Nat
  chunk : Nat
  prot  : Bool
  prio  : Nat
  ctxl  : Bool
  tbase : Nat
  cnt   : Nat
  regsN : Nat
  stash : Nat
  acc   : Nat
  bound : Bool
  deriving DecidableEq, Repr

/-- One entry of a core's issue table (R65): a PC with its context, the place that its hash names, and the PCYC at which it was
admitted. -/
structure IssueEntry where
  pc    : W64
  ctx   : Nat
  place : Nat
  since : Nat
  deriving DecidableEq, Repr

/-- One logical core's own resources (R12). -/
structure Core where
  gangs   : List (Nat × Gang)
  slots   : List RowSlot
  banks   : List (Nat × Bank)
  /-- PCYC and layer of the ROWACTs counted (R170) -/
  acts    : List (Nat × Nat)
  /-- layer and end of its refresh window (R177) -/
  refresh : List (Nat × Nat)
  bus     : List Transfer
  tiles   : List Tile
  planes  : List Plane
  planeOwner : Option Nat
  /-- the store that is wa -/
  active  : Nat
  alias_  : List AliasEntry
  mq      : List MatrixJob
  mwait   : List MatrixWait
  ott     : List OttEntry
  binds   : List (Option BindRec)
  /-- the threads whose issue group the core prefers to leave after yield=switch (R46) -/
  avoid   : List Nat
  /-- the issue table (R65) -/
  table   : List IssueEntry
  deriving DecidableEq, Repr

/-! ### A physical core (spec/19) -/

/-- One entry of an error log (R184), by its 128 bits. -/
abbrev LogEntry := BitVec 128

/-- The state of a physical core's margin, scan and quarantine (R397 to R414) and of its vertical bus (R183). -/
structure Phys where
  cur    : Nat
  tgt    : Nat
  ceil   : Nat
  /-- PCYC of the replays since the last margin raise (R400) -/
  reps   : List Nat
  state  : Nat
  sres   : Nat
  for_   : Nat
  /-- STATE before the scan (R412) -/
  prior  : Nat
  scanEnd : Nat
  /-- PCYC of the last step, of the last change of TGT, and of the last raise (R398, R399) -/
  lastStep  : Nat
  lastTgt   : Nat
  lastRaise : Option Nat
  /-- Foehn quarantines the core once the contexts on it are saved (R402) -/
  doomed    : Bool
  /-- lane counters and lanes swapped onto spares (R183) -/
  lanes  : List (Nat × Nat)
  spares : List Nat
  stuck  : List StuckLane
  arrayLog : List LogEntry
  arrayCnt : Nat
  busLog   : List LogEntry
  busCnt   : Nat
  /-- flipped bits of the arrays of its stack while no logical core has it: 128-bit word of the column and bit (R184) -/
  flips    : List (Nat × Nat)
  deriving DecidableEq, Repr

/-! ### Engines (spec/08) -/

/-- What a job is (R188, R199, R208). -/
inductive JobKind where
  | copy
  | put
  | get
  | crs (norm : Bool)
  | cag
  | car
  | cbc
  deriving DecidableEq, Repr

/-- The states of a job (R197). -/
inductive JobState where
  | queued | running | completed | failed | withdrawn
  deriving DecidableEq, Repr

/-- A region of a job's footprint in units of bytes (R189): the stash of a chunk or memory, base, length, write. -/
structure Region where
  stash : Option (Nat × Nat)
  base  : Nat
  len   : Nat
  wr    : Bool
  deriving DecidableEq, Repr

/-- The register that a submission writes its handle to (R195, R208). -/
inductive HandleReg where
  | v (r : VReg)
  | s (r : SReg)
  deriving DecidableEq, Repr

/-- A part of a segment on its way from another module (by its tag) or to one (by its packet's number): the number of its packet,
its offset in the remote window, the segment, the offset within it, and the bytes once they have come, each with its poison. -/
structure Piece where
  n    : Nat
  get  : Bool
  vm   : Nat
  seq  : Nat
  roff : Nat
  seg  : Nat
  off  : Nat
  len  : Nat
  data : Option (List (Byte × Bool))
  deriving DecidableEq, Repr

/-- A job in a die's queue (R187 to R204). -/
structure Job where
  handle  : W32
  ctx     : Nat
  chunk   : Nat
  kind    : JobKind
  /-- where its handle was written (R195, R214) -/
  group   : HandleReg
  card    : List W64
  prio    : Nat
  origin  : Origin
  regions : List Region
  state   : JobState
  promise : W64
  /-- grants that passed it over (R96) -/
  passed  : Nat
  /-- segments performed, by index -/
  done    : List Nat
  /-- parts of begun segments at other modules -/
  pend    : List Piece
  /-- bytes held in engine staging by offset: of a GCM job, and a collective's own source from another module -/
  stage   : List (Nat × List (Byte × Bool))
  /-- bytes counted at the barrier so far, and bytes to count -/
  counted : Nat
  total   : Nat
  /-- the barrier object: launch, chunk, offset; or the endpoint of FPUT -/
  barrier : Option (Nat × Nat × Nat)
  endpoint : Option W64
  /-- it has failed, and waits for its begun segments -/
  failing : Option (Cause × Detail)
  /-- segments of which a part was refused -/
  bad     : List Nat
  /-- GCM: the output has been written, or its writing begun (R355) -/
  emitted : Bool
  /-- collectives: the list, the place of this collective among those on the list, repetitions, the cards compared, bytes
  of the result written, and the running sum of squares (R200 to R204) -/
  members : List Nat
  nth     : Nat
  retries : Nat
  matched : Bool
  progress : Nat
  q       : W32
  qPsn    : Bool
  /-- what the other members have given for the next step: bytes, sums of squares -/
  inbox   : List (Nat × List (Byte × Bool))
  inq     : List (Nat × W32 × Bool)
  deriving DecidableEq, Repr

/-- One die's engine and task queue (R83, R187, R196). -/
structure Die where
  jobs    : List Job
  retired : List (W32 × Nat × JobState)
  next    : Nat
  tasks   : List Task
  deriving DecidableEq, Repr

/-! ### Channels (R205, R211, R359, R425) -/

/-- A packet sent and not acknowledged yet. -/
structure Sent where
  pkt  : Packet
  last : Nat
  tries : Nat
  origin : Option Origin
  job  : Option (Nat × W32)
  lane : Nat
  deriving DecidableEq, Repr

/-- The two channels to and from one member of a context. -/
structure Chan where
  sendSeq : Nat
  recvSeq : Nat
  sent    : List Sent
  /-- packets received ahead of their turn -/
  window  : List Packet
  gaps    : List Nat
  /-- the peer key exchange from whose secret the channel keys are derived (R360) -/
  key     : Option Nat
  keyEpoch : Nat
  deriving DecidableEq, Repr

/-! ### Snapshots (spec/20) -/

/-- The registers of a context (R20, R24, R372, R382, R417). -/
structure CtxRegs where
  cyc      : W64
  cyccmp   : W64
  armer    : Option Nat
  sgen     : W64
  tvec     : W64
  eqbase   : W64
  eqsize   : W32
  eqhead   : W32
  eqtail   : W32
  eqseq    : W32
  dropped  : Nat
  firstDropped : W32
  epoch    : Nat
  deriving DecidableEq, Repr

/-- A tile, a plane pair or a slot as an image holds it (R423): by core. -/
structure CoreImage where
  core   : Nat
  gangs  : List (Nat × Gang)
  slots  : List (Nat × RowSlot)
  tiles  : List (Nat × Tile)
  planes : Option (List Plane × Nat × Nat)
  alias_ : List AliasEntry
  mq     : List MatrixJob
  mwait  : List MatrixWait
  ott    : List OttEntry
  deriving DecidableEq, Repr

/-- The context section of an image (R423). -/
structure CtxImage where
  regs     : CtxRegs
  threads  : List Thread
  chunks   : List Chunk
  cores    : List CoreImage
  launches : List Launch
  jobs     : List (Nat × Job)
  tasks    : List (Nat × Task)
  chans    : List (Nat × Chan)
  /-- the outcomes of the context's retired jobs -/
  retired  : List (Nat × W32 × JobState)
  /-- the private map: launch, TID, 64 KiB block of its private memory, frame (R340) -/
  privMap  : List ((Nat × Nat × Nat) × Nat)
  deriving DecidableEq, Repr

/-- The states of a colour (R437). -/
inductive SnapState where
  | idle | recording | streaming | complete | aborted
  deriving DecidableEq, Repr

/-- A mapped page as an image has it (R341): virtual address, entry, level and physical address. -/
structure LeafImage where
  va    : Nat
  entry : W64
  level : Nat
  pa    : Nat
  deriving DecidableEq, Repr

/-- An image part (R430 to R432, R439): what its header says, what the spec gives no bytes for, and the sealed bytes of the header, the
member list, the unit table and the units. -/
structure Image where
  epoch    : Nat
  ctxid    : Nat
  vm       : Nat
  members  : List Nat
  save     : Bool
  rerun    : Bool
  noResume : Bool
  section_ : CtxImage
  /-- the mapped pages, and the logical cores of the virtual cores that a restore had moved (R341) -/
  leaves   : List LeafImage
  vcmap    : List (Nat × Nat)
  code     : Nat × Nat
  ro       : Nat × Nat
  /-- the poisoned 64-bit words of memory, by virtual address / 8 -/
  psn      : List Nat
  log      : List Packet
  rlog     : List (Nat × W64)
  /-- the sealed bytes by offset and their number, and where they lie in an image area; streamed to the host if nowhere (R430) -/
  bytes    : Memory
  len      : Nat
  at_      : Option Nat
  deriving DecidableEq, Repr

/-- A copy of a unit that waits in staging (R420): the number of its granule, the unit, the class of the write that caused it, and
the grants of Bora that passed it over (R96). -/
structure Staged where
  num    : Nat
  unit   : UnitId
  prio   : Nat
  passed : Nat
  deriving DecidableEq, Repr

/-- One colour's snapshot on this module (R417 to R432). -/
structure Snap where
  epoch   : Nat
  state   : SnapState
  live    : Bool
  section_ : Option CtxImage
  /-- the memory and its poisoned words at the record point, from which every copy and sweep takes a unit's old value -/
  mem     : Memory
  psn     : List Nat
  /-- units not copied or swept yet, and copies not streamed yet -/
  todo    : List UnitId
  staged  : List Staged
  /-- members whose marker and whose completion notice have arrived -/
  markers : List Nat
  notices : List Nat
  /-- logged packets (R426) -/
  log     : List Packet
  sentNotice : Bool
  /-- the part once it is complete (R428) -/
  part    : Option Image
  /-- PCYC of the record point -/
  born    : Nat
  /-- the units of the context at the record point, in the order of the unit table (R418, R432) -/
  units   : List UnitId
  deriving DecidableEq, Repr

/-- Where a context stands in pre-emption and restore (R98, R101, R422, R440). -/
inductive CtxPhase where
  | running
  /-- drain ordered; the CYC at which its deadline falls -/
  | draining (deadline : Nat)
  /-- halted, its save in progress since the PCYC (R98) -/
  | saving (since : Nat)
  | saved
  /-- in a record step begun at the PCYC (R422), and the deadline of a drain it interrupts -/
  | recording (since : Nat) (epoch : Nat) (drain : Option Nat)
  /-- loaded, waiting for the ready notices of the members (R440) -/
  | restoring (ready : List Nat)
  /-- a re-run whose log is exhausted (R444) -/
  | exhausted
  /-- prepared and empty: discarded, or waiting for CTXLD (R99, R439) -/
  | empty
  deriving DecidableEq, Repr

/-- One context slot in use (R24, R330). -/
structure Ctx where
  ctxid   : BitVec 16
  part    : Nat
  conf    : Bool
  members : List Nat
  vm      : Nat
  /-- the logical cores of the virtual cores that a restore moved (R207, R440) -/
  vcmap   : List (Nat × Nat)
  plim    : Nat
  root    : Nat
  /-- code and read-only data of the image: base and length (R90) -/
  code    : Nat × Nat
  ro      : Nat × Nat
  /-- the code as fetches see it: the bytes its pages held at the last lease of them (R32) -/
  fetchMem : Memory
  regs    : CtxRegs
  phase   : CtxPhase
  nextLid : Nat
  /-- launch records the host has written whose doorbell has not come (R459) -/
  ring    : List (BitVec 512 × List (BitVec 128))
  head    : Nat
  keys    : List (Nat × BitVec 256)
  snapKey : Option (BitVec 256)
  /-- the memory key, drawn at creation and at every restore (R357) -/
  memKey  : BitVec 256
  /-- the private map: launch, TID, 64 KiB block of its private memory, frame (R340) -/
  privMap : List ((Nat × Nat × Nat) × Nat)
  streams : List (Nat × Nat × Nat)
  chans   : List (Nat × Chan)
  nextTag : Nat
  /-- collectives submitted on each list (R200), and those of which another member said that they failed before this one submitted
  them (R204) -/
  colls   : List (List Nat × Nat)
  lostColls : List (List Nat × Nat)
  areas   : List (Option Nat)
  snaps   : List Snap
  lastOk  : Nat
  /-- snapshot tags of units that differ from the epoch of creation (R418) -/
  tags    : List (UnitId × Nat)
  saved   : Option CtxImage
  noResume : Bool
  /-- logical cores that Foehn quarantines, onto which the saved context is restored once they are filled (R402) -/
  onto    : List Nat
  /-- the last completed snapshot's part on this module (R99) -/
  lastImage : Option Image
  haltSeen : List Nat
  /-- members whose ready notice came before this member loaded its part (R440) -/
  readySeen : List Nat
  /-- packets held by the link receiver while halted (R442) -/
  held    : List Packet
  haltAt  : W64
  /-- inputs logged for a re-run, or, in a re-run, those still to be imposed (R443, R444): four times the thread's uid (or
  the source) plus the kind, and the value -/
  rlog    : List (Nat × W64)
  /-- re-run mode (R444) -/
  rerun   : Bool
  reload  : Option Image
  deriving DecidableEq, Repr

/-! ### The module -/

/-- A queue of error records that the host and Levante read (R385). DEDUCED: notes/assumptions/125. -/
structure SysQueue where
  recs : List (BitVec 512)
  seq  : Nat
  deriving DecidableEq, Repr

/-- A fill that waits or runs (R414). -/
structure Fill where
  spare   : Nat
  logical : Nat
  started : Option Nat
  /-- after a quarantine by Foehn: Levante releases the core when it completes (R402) -/
  foehn   : Bool
  deriving DecidableEq, Repr

/-- A packet that waits at a Jartus port (R96, R206): the port, its class, and the grants that have passed it over. -/
structure Egress where
  pkt    : Packet
  port   : Nat
  prio   : Nat
  passed : Nat
  deriving DecidableEq, Repr

/-- The issue group that executes (R64), or the rendezvous whose completion executes (R69). -/
inductive Issue where
  | none
  | group (core : Nat) (uids : List Nat) (pc : W64)
  | complete (core gang : Nat)
  deriving DecidableEq, Repr

/-- Who performs accesses (R103, R113): a thread, an engine job, another module of a context, the host, the device itself. -/
inductive Agent where
  | thread (uid : Nat)
  | job (die : Nat) (handle : W32)
  | peer (slot vm : Nat)
  | host
  | device
  deriving DecidableEq, Repr

/-- What carries order from one agent to another (R110, R112): a byte that releases write, a barrier object in its current phase or at
its last flip, the fences. -/
inductive Sync where
  | byte (pa : Nat)
  | obj (ctx lid chunk off : Nat) (done : Bool)
  | fence
  deriving DecidableEq, Repr

/-- An earlier value of a 64-bit word of memory that agents may still read (R114): the word, the number of the write that
replaced it, the agents that wrote and the bytes of the word they wrote, whether that write was a release or a read-modify-write,
and the bytes before it with their poison. -/
structure OldWord where
  word   : Nat
  num    : Nat
  by_    : List Agent
  mask   : List Nat
  fixed  : Bool
  bytes  : List Byte
  psn    : Bool
  deriving DecidableEq, Repr

/-- What agents may still read beside memory's own values (R102 to R114): the number of the next write, the earlier values, from which
write on each agent may still read in a word, the writes that happen before what an agent does next, and those that happen before
an acquire through each carrier of order. -/
structure Caches where
  next  : Nat
  olds  : List OldWord
  seen  : List ((Agent × Nat) × Nat)
  knows : List (Agent × List Nat)
  syncs : List (Sync × List Nat)
  deriving DecidableEq, Repr

/-- The device: everything of the module but its host side. -/
structure Dev where
  pcyc    : Nat
  /-- the model's own counter for free values; no rule of the spec -/
  ctr     : Nat
  /-- the model's own counter for new uids, tickets and ids -/
  fresh   : Nat
  cur     : Issue
  /-- the logical core from which this cycle goes on issuing -/
  turn    : Nat
  threads : List Thread
  chunks  : List Chunk
  launches : List Launch
  cores   : List (Nat × Core)
  ctxs    : List (Nat × Ctx)
  dies    : List Die
  mem     : Memory
  /-- poisoned 64-bit words of memory, by index, rising -/
  psn     : List Nat
  caches  : Caches
  /-- flipped bits of array words: 128-bit word index and codeword bit (R182) -/
  flips   : List (Nat × Nat)
  /-- flipped bits of lines in the LLC (true) and the L1s: 64-bit word of memory and bit (R378) -/
  lineFlips : List (Bool × Nat × Nat)
  /-- tier-3 lines whose tag fails, and the versions of the sealed ones (R357) -/
  badTags : List Nat
  vers    : List (Nat × Nat)
  owners  : List (Nat × Nat)
  partmode : List (Nat × W64)
  drain   : List (Nat × Nat)
  corePart : List (Nat × Nat)
  lcmap   : List (Nat × Nat)
  fmt     : List (Nat × W64)
  scansig : List (Nat × W64)
  phys    : List (Nat × Phys)
  fills   : List Fill
  /-- the physical core whose column holds a logical core's bytes, while that core is filling or unbound (R414, R415) -/
  colPhys : List (Nat × Nat)
  sysq    : SysQueue
  /-- the CXL ports with a device (R462) -/
  cxl     : List Nat
  /-- the image parts that this module has made and that no later part has overwritten (R430) -/
  images  : List Image
  /-- packets that wait for the fabric egress (R96) -/
  egress  : List Egress
  /-- packets handed to the fabric, in order; the outside world takes them -/
  outbox  : List Packet
  /-- PCYC since when a write of an engine or of another module has waited for staging (R421) -/
  stalled : Option Nat
  /-- what is to come from agents whose time the spec only bounds, and inputs of the outside world: PCYC and event -/
  agenda  : List (Nat × Instr)
  deriving DecidableEq, Repr

end Sys2Proof.Machine
end

