-- ==== Sys2Proof/Machine/State.lean ====
section
/-! DEFINITION. The state of the module: the host side and the device; the reasons a step stops; the machine right after
reset (spec/01 R11, R20, R29, spec/19 R397, spec/23 R465, R466). -/

namespace Sys2Proof.Machine

/-- An SPDM session (R348). -/
structure Session where
  id       : Nat
  part     : Nat
  finished : Bool
  deriving DecidableEq, Repr

/-- The host side and the security core (spec/16 R346 to R348, spec/23 R459 to R467). -/
structure HostSide where
  step    : Nat
  ready   : Bool
  imgfail : Bool
  failimg : Nat
  linkUp  : Bool
  /-- the identity seed, once the security core has derived it from the PUF at this boot (R346) -/
  seed    : Option (BitVec 256)
  /-- signatures spent (R347) -/
  xmss    : Nat
  warned  : Bool
  /-- the responder's progress through version, capabilities and algorithms -/
  spdm    : Nat
  sessions : List Session
  /-- the last answer given to an SPDM or mailbox request: 0 none, 1 accepted, 2 ERROR, 3 unsupported request -/
  answer  : Nat
  /-- data of the last host read -/
  readData : List Byte
  deriving DecidableEq, Repr

/-- The whole module. -/
structure State where
  host : HostSide
  dev  : Dev
  deriving DecidableEq, Repr

/-- Why the machine stops with a fault: no reason exists. Every event and instruction has an effect: what goes wrong is
a trap, a record or an event that finds nothing to act on. Nothing raises it (safe). -/
inductive Fault where
  deriving DecidableEq, Repr

/-- Why the model has no meaning for an instruction. -/
inductive Refusal where
  /-- raised by an arm of `exec` whose instruction has no meaning yet; safe: nothing is claimed of it -/
  | notModelled (mnemonic : String)
  deriving DecidableEq, Repr

/-- The physical core of a logical core at reset (R11). -/
def lcmapReset (n : Nat) : Nat := 136 * (n / 128) + 17 * ((n % 128) / 16) + n % 16

/-- An empty row slot (R166). -/
def RowSlot.empty : RowSlot :=
  { state := .empty, va := 0, pa := 0, rd := false, wr := false, gang := 0, ctx := 0, ready := 0, close := 0,
    start := 0, copy := [], psn := [], act := 0, kept := false, opener := none }

/-- A tile that no gang holds (R276). -/
def Tile.free : Tile := { owner := none, lid := 0, chunk := 0, data := [], psn := [], flips := [] }

/-- A zero plane store (R276). -/
def Plane.zero : Plane := { bytes := [], psn := [], loaded := 0 }

/-- A logical core with nothing bound. DESIGN CHOICE: notes/assumptions/5. -/
def Core.reset : Core :=
  { gangs := [], slots := List.replicate 8 RowSlot.empty, banks := [], acts := [], refresh := [], bus := [],
    tiles := List.replicate 8 Tile.free, planes := [Plane.zero, Plane.zero], planeOwner := none, active := 0,
    alias_ := [], mq := [], mwait := [], ott := [], binds := List.replicate 4 none, avoid := [], table := [] }

/-- A physical core at reset (R397): position 16 of every cluster is a spare. DESIGN CHOICE: notes/assumptions/5. -/
def Phys.reset (p : Nat) : Phys :=
  { cur := 0, tgt := 0, ceil := 24, reps := [], state := if p % 17 = 16 then 4 else 0, sres := 0, for_ := 0,
    prior := 0, scanEnd := 0, lastStep := 0, lastTgt := 0, lastRaise := none, doomed := false, lanes := [],
    spares := [], stuck := [], arrayLog := [], arrayCnt := 0, busLog := [], busCnt := 0, flips := [] }

/-- A die's engine with no job and no task. -/
def Die.reset : Die := { jobs := [], retired := [], next := 0, tasks := [] }

/-- Caches that hold no value but memory's own. -/
def Caches.empty : Caches := { next := 0, olds := [], seen := [], knows := [], syncs := [] }

/-- The device right after reset. Tables list only what differs from their defaults. DESIGN CHOICE: notes/assumptions/2. DESIGN CHOICE: notes/assumptions/3. DESIGN CHOICE: notes/assumptions/4. DESIGN CHOICE: notes/assumptions/5. -/
def Dev.reset : Dev :=
  { pcyc := 0, ctr := 0, fresh := 0, cur := .none, turn := 0, threads := [], chunks := [], launches := [],
    cores := [], ctxs := [], dies := List.replicate 4 Die.reset, mem := [], psn := [], caches := Caches.empty, flips := [], lineFlips := [], badTags := [], vers := [],
    owners := [], partmode := [], drain := [], corePart := [], lcmap := [], fmt := [], scansig := [], phys := [],
    fills := [], colPhys := [], sysq := { recs := [], seq := 0 }, cxl := [], images := [], egress := [], outbox := [], stalled := none,
    agenda := [] }

/-- The host side right after reset (R465). DESIGN CHOICE: notes/assumptions/3. -/
def HostSide.reset : HostSide :=
  { step := 0, ready := false, imgfail := false, failimg := 0, linkUp := false, seed := none, xmss := 0, warned := false,
    spdm := 0, sessions := [], answer := 0, readData := [] }

/-- The machine right after reset. DESIGN CHOICE: notes/assumptions/1. -/
def State.reset : State := { host := HostSide.reset, dev := Dev.reset }

end Sys2Proof.Machine
end

