-- ==== Sys2Proof/Machine/Mem.lean ====
section
/-! DEFINITION. Byte memories as sparse lists in one canonical form: addresses strictly rising, no zero byte listed
(spec/00 R5, spec/05 R103, R106, spec/06 R136). Poison marks of 64-bit words beside them. -/

namespace Sys2Proof.Machine

/-- The byte at an address; an address not listed reads as zero. DESIGN CHOICE: notes/assumptions/4. -/
def Memory.get : Memory → Nat → Byte
  | [], _ => 0
  | (k, v) :: r, a => if k = a then v else if a < k then 0 else Memory.get r a

/-- Puts a byte in front unless it is zero. -/
def Memory.consByte (a : Nat) (b : Byte) (r : Memory) : Memory := if b = 0 then r else (a, b) :: r

/-- Sets the byte at an address; writing zero removes the entry. -/
def Memory.set : Memory → Nat → Byte → Memory
  | [], a, b => Memory.consByte a b []
  | (k, v) :: r, a, b =>
    if k = a then Memory.consByte a b r
    else if a < k then Memory.consByte a b ((k, v) :: r)
    else (k, v) :: Memory.set r a b

/-- Every address of the list lies above `lo` and rises, and no byte is zero. -/
def Memory.wfFrom : Option Nat → Memory → Bool
  | _, [] => true
  | lo, (k, v) :: r =>
    (match lo with | none => true | some l => l < k) && v != 0 && Memory.wfFrom (some k) r

/-- The canonical form: addresses strictly rising, no entry equal to what an unlisted address reads as. -/
def Memory.wf (m : Memory) : Bool := Memory.wfFrom none m

/-- `n` bytes from an address on. -/
def Memory.getBytes (m : Memory) (a n : Nat) : List Byte := (upTo n).map (fun k => m.get (a + k))

/-- Stores bytes from an address on, in ascending order. -/
def Memory.setBytes (m : Memory) (a : Nat) : List Byte → Memory
  | [] => m
  | b :: r => Memory.setBytes (m.set a b) (a + 1) r

/-- The little-endian number of some bytes (R5). -/
def leOf : List Byte → Nat
  | [] => 0
  | b :: r => b.toNat + 256 * leOf r

/-- The low `n` bytes of a number, little-endian (R5). -/
def leBytes (n x : Nat) : List Byte := (upTo n).map (fun k => BitVec.ofNat 8 (x / 256 ^ k))

/-- The little-endian number of `n` bytes from an address on. -/
def Memory.getLE (m : Memory) (a n : Nat) : Nat := leOf (m.getBytes a n)

/-- Stores the low `n` bytes of a number. -/
def Memory.setLE (m : Memory) (a n x : Nat) : Memory := m.setBytes a (leBytes n x)

/-- Every byte of [a, a + n) becomes zero. -/
def Memory.zero (m : Memory) (a n : Nat) : Memory := m.filter (fun c => c.1 < a || a + n ≤ c.1)

/-- The bytes of [a, a + n), by offset. -/
def Memory.slice (m : Memory) (a n : Nat) : Memory :=
  (m.filter (fun c => a ≤ c.1 && c.1 < a + n)).map (fun c => (c.1 - a, c.2))

/-- The bytes below `a`, then the bytes of `s` moved up by `a`, then those from a + n on. -/
def Memory.splice (m : Memory) (a n : Nat) (s : Memory) : Memory :=
  m.filter (fun c => c.1 < a) ++ (s.slice 0 n).map (fun c => (c.1 + a, c.2)) ++ m.filter (fun c => a + n ≤ c.1)

/-- A set of numbers as a rising list. -/
abbrev NatSet := List Nat

/-- Adds a number to a rising list. -/
def NatSet.add : NatSet → Nat → NatSet
  | [], k => [k]
  | i :: r, k => if k = i then i :: r else if k < i then k :: i :: r else i :: NatSet.add r k

/-- Adds or removes a number. -/
def NatSet.put (s : NatSet) (k : Nat) (b : Bool) : NatSet := if b then s.add k else s.filter (· ≠ k)

/-- The 64-bit words that `n` bytes from `a` touch. -/
def wordsOf (a n : Nat) : List Nat := if n = 0 then [] else (upTo ((a + n - 1) / 8 + 1 - a / 8)).map (· + a / 8)

/-- A 64-bit word of the range is poisoned (R136). -/
def psnAny (p : NatSet) (a n : Nat) : Bool := (wordsOf a n).any (fun w => p.contains w)

/-- Sets the poison of every 64-bit word of the range: a store gives the words it touches the poison of its data (R136). DEDUCED: notes/assumptions/23. -/
def psnPut (p : NatSet) (a n : Nat) (b : Bool) : NatSet := (wordsOf a n).foldl (fun p w => p.put w b) p

/-- The elements of a list at the positions the test accepts are changed. -/
def mapAt {α : Type} (l : List α) (i : Nat) (f : α → α) : List α := l.modify i f

/-- Replaces the value of one key, keeping keys rising. -/
def KV.set {α : Type} : List (Nat × α) → Nat → α → List (Nat × α)
  | [], k, a => [(k, a)]
  | (i, b) :: r, k, a => if i = k then (k, a) :: r else if k < i then (k, a) :: (i, b) :: r else (i, b) :: KV.set r k a

/-- The value of a key. -/
def KV.get? {α : Type} : List (Nat × α) → Nat → Option α
  | [], _ => none
  | (i, b) :: r, k => if i = k then some b else KV.get? r k

/-- The value of a key, or the default. -/
def KV.get {α : Type} (l : List (Nat × α)) (d : α) (k : Nat) : α := (KV.get? l k).getD d

/-- Removes a key. -/
def KV.del {α : Type} (l : List (Nat × α)) (k : Nat) : List (Nat × α) := l.filter (fun e => e.1 ≠ k)

end Sys2Proof.Machine
end

