-- ==== Sys2Proof/Machine/Aes.lean ====
section
/-! DEFINITION. AES-256-GCM with a 96-bit IV and a 128-bit tag, as the engine's open and seal jobs and the device's own sealing use
it (spec/16 R354 to R359, which name the algorithm; its steps are those of FIPS 197 and NIST SP 800-38D). A block is 128
bits, its first byte the most significant. -/

namespace Sys2Proof.Machine

/-! ### The cipher -/

/-- Times x in the field of the cipher's bytes. -/
def aesX2 (a : Byte) : Byte := if a.getLsbD 7 then (a <<< 1) ^^^ 0x1B else a <<< 1

/-- The product of two bytes in that field. -/
def aesMul (a b : Byte) : Byte :=
  ((upTo 8).foldl (fun (s : Byte × Byte) k => (if b.getLsbD k then s.1 ^^^ s.2 else s.1, aesX2 s.2)) (0, a)).1

/-- a^254, the inverse of a byte; zero for zero. -/
def aesInv (a : Byte) : Byte :=
  let a2 := aesMul a a
  let a3 := aesMul a2 a
  let a6 := aesMul a3 a3
  let a12 := aesMul a6 a6
  let a15 := aesMul a12 a3
  let a30 := aesMul a15 a15
  let a60 := aesMul a30 a30
  let a120 := aesMul a60 a60
  let a126 := aesMul a120 a6
  let a127 := aesMul a126 a
  aesMul a127 a127

/-- The substitution of a byte. -/
def aesSub (a : Byte) : Byte :=
  let b := aesInv a
  b ^^^ b.rotateLeft 1 ^^^ b.rotateLeft 2 ^^^ b.rotateLeft 3 ^^^ b.rotateLeft 4 ^^^ 0x63

/-- The substitutions of all bytes, by byte. -/
def aesBox : List Byte := (upTo 256).map (fun k => aesSub (BitVec.ofNat 8 k))

/-- A substitution from a table. -/
def boxAt (box : List Byte) (a : Byte) : Byte := box[a.toNat]?.getD 0

/-- One word of the key schedule after the first eight (most recent word first). -/
def aesNextWord (box : List Byte) (rcon : Byte) (i : Nat) (ws : List (List Byte)) : List Byte × Byte :=
  let last := ws.headD []
  let t :=
    if i % 8 = 0 then
      match last.map (boxAt box) with
      | [a, b, c, d] => [b ^^^ rcon, c, d, a]
      | l => l
    else if i % 8 = 4 then last.map (boxAt box)
    else last
  (List.zipWith (· ^^^ ·) (ws[7]?.getD []) t, if i % 8 = 0 then aesX2 rcon else rcon)

/-- The 60 words of a key's schedule. -/
def aesSchedule (box : List Byte) (key : List Byte) : List (List Byte) :=
  let first := (upTo 8).map (fun k => (key.drop (4 * k)).take 4)
  ((upTo 52).foldl (fun (s : List (List Byte) × Byte) k =>
    let (w, r) := aesNextWord box s.2 (k + 8) s.1
    (w :: s.1, r)) (first.reverse, 1)).1.reverse

/-- Adds a round's key to the 16 bytes. -/
def addKey (ws : List (List Byte)) (r : Nat) (s : List Byte) : List Byte :=
  List.zipWith (· ^^^ ·) s ((ws.drop (4 * r)).take 4).flatten

/-- Byte 4c + r comes from column c + r. -/
def shiftRows (s : List Byte) : List Byte :=
  (upTo 16).map (fun i => s[(i + 4 * (i % 4)) % 16]?.getD 0)

/-- Mixes one column. -/
def mixColumn (c : List Byte) : List Byte :=
  match c with
  | [a, b, c, d] =>
    let f := fun (a b c d : Byte) => aesX2 a ^^^ aesX2 b ^^^ b ^^^ c ^^^ d
    [f a b c d, f b c d a, f c d a b, f d a b c]
  | l => l

/-- Mixes the four columns. -/
def mixColumns (s : List Byte) : List Byte := ((upTo 4).map (fun k => mixColumn ((s.drop (4 * k)).take 4))).flatten

/-- Encrypts one block under a schedule. DEDUCED: notes/assumptions/119. -/
def aesEncrypt (box : List Byte) (ws : List (List Byte)) (s : List Byte) : List Byte :=
  let s1 := (upTo 13).foldl (fun s k => addKey ws (k + 1) (mixColumns (shiftRows (s.map (boxAt box))))) (addKey ws 0 s)
  addKey ws 14 (shiftRows (s1.map (boxAt box)))

/-! ### Counter mode and the tag -/

/-- The bytes of a number, most significant first. -/
def beBytes (n x : Nat) : List Byte := (upTo n).map (fun k => BitVec.ofNat 8 (x / 256 ^ (n - 1 - k)))

/-- The number of some bytes, most significant first. -/
def beOf (l : List Byte) : Nat := l.foldl (fun x b => 256 * x + b.toNat) 0

/-- The product of two blocks in the field of the tag. -/
def ghashMul (x y : BitVec 128) : BitVec 128 :=
  ((upTo 128).foldl (fun (s : BitVec 128 × BitVec 128) k =>
    (if x.getMsbD k then s.1 ^^^ s.2 else s.1,
     if s.2.getLsbD 0 then (s.2 >>> 1) ^^^ (0xE1#128 <<< 120) else s.2 >>> 1)) (0, y)).1

/-- The blocks of some bytes, the last filled up with zeros. -/
def blocksOf (l : List Byte) : List (List Byte) :=
  (upTo ((l.length + 15) / 16)).map (fun k => let b := (l.drop (16 * k)).take 16; b ++ List.replicate (16 - b.length) 0)

/-- The hash of some blocks under a key. -/
def ghash (h : BitVec 128) (bs : List (List Byte)) : BitVec 128 :=
  bs.foldl (fun y b => ghashMul (y ^^^ BitVec.ofNat 128 (beOf b)) h) 0

/-- The key stream applied to some bytes. -/
def gcmStream (box : List Byte) (ws : List (List Byte)) (iv : List Byte) (data : List Byte) : List Byte :=
  ((upTo ((data.length + 15) / 16)).map (fun k =>
    List.zipWith (· ^^^ ·) ((data.drop (16 * k)).take 16) (aesEncrypt box ws (iv ++ beBytes 4 (k + 2))))).flatten

/-- The tag of a ciphertext with its additional data. -/
def gcmTag (box : List Byte) (ws : List (List Byte)) (iv aad cipher : List Byte) : List Byte :=
  let h := BitVec.ofNat 128 (beOf (aesEncrypt box ws (List.replicate 16 0)))
  let s := ghash h (blocksOf aad ++ blocksOf cipher ++ [beBytes 8 (8 * aad.length) ++ beBytes 8 (8 * cipher.length)])
  List.zipWith (· ^^^ ·) (beBytes 16 s.toNat) (aesEncrypt box ws (iv ++ beBytes 4 1))

/-- The IV of a card: STREAM, then CTR, both big-endian (R354). -/
def gcmIv (stream ctr : Nat) : List Byte := beBytes 4 stream ++ beBytes 8 ctr

/-- Seals under an IV: the ciphertext and the tag over it and the additional data. DEDUCED: notes/assumptions/119. -/
def sealIv (key : BitVec 256) (iv aad plain : List Byte) : List Byte × List Byte :=
  let box := aesBox
  let ws := aesSchedule box (beBytes 32 key.toNat)
  let c := gcmStream box ws iv plain
  (c, gcmTag box ws iv aad c)

/-- Opens under an IV: the plaintext, if the tag holds. DEDUCED: notes/assumptions/119. -/
def openIv (key : BitVec 256) (iv aad cipher tag : List Byte) : Option (List Byte) :=
  let box := aesBox
  let ws := aesSchedule box (beBytes 32 key.toNat)
  if gcmTag box ws iv aad cipher = tag then some (gcmStream box ws iv cipher) else none

/-- Seals with the IV of a stream and a counter and no additional data: the ciphertext and its tag (R354). DEDUCED: notes/assumptions/119. -/
def gcmSeal (key : BitVec 256) (stream ctr : Nat) (plain : List Byte) : List Byte × List Byte := sealIv key (gcmIv stream ctr) [] plain

/-- Opens so: the plaintext, if the tag holds (R354, R355). DEDUCED: notes/assumptions/119. -/
def gcmOpen (key : BitVec 256) (stream ctr : Nat) (cipher tag : List Byte) : Option (List Byte) := openIv key (gcmIv stream ctr) [] cipher tag

end Sys2Proof.Machine
end

