-- ==== Sys2Proof/Machine/Hash.lean ====
section
/-! DEFINITION. SHA-384, HMAC and the expansion of HKDF over it, as the security core uses them (spec/16 R348, R360, spec/20 R431,
which name the algorithms; their steps are those of FIPS 180-4, RFC 2104 and RFC 5869). -/

namespace Sys2Proof.Machine

/-- The greatest number whose power `e` is at most n, below 2^80. -/
def rootOf (e n : Nat) : Nat := (upTo 80).foldl (fun r k => if (r + 2 ^ (79 - k)) ^ e ≤ n then r + 2 ^ (79 - k) else r) 0

/-- The first 80 primes. -/
def primes80 : List Nat := (upTo 410).filter (fun n => 2 ≤ n && (upTo n).all (fun k => k < 2 || n % k ≠ 0))

/-- The 80 constants of the rounds: 64 bits of the fractions of the cube roots of the primes. DEDUCED: notes/assumptions/119. -/
def shaK : List W64 := primes80.map (fun p => BitVec.ofNat 64 (rootOf 3 (p * 2 ^ 192)))

/-- The eight words that SHA-384 starts from: 64 bits of the fractions of the square roots of the ninth to sixteenth primes. -/
def shaStart : List W64 := ((primes80.drop 8).take 8).map (fun p => BitVec.ofNat 64 (rootOf 2 (p * 2 ^ 128)))

/-- The message schedule of a block of 16 words. -/
def shaSchedule (ws : List W64) : List W64 :=
  ((upTo 64).foldl (fun (r : List W64) _ =>
    let a := r[14]?.getD 0
    let b := r[1]?.getD 0
    let s0 := a.rotateRight 1 ^^^ a.rotateRight 8 ^^^ (a >>> 7)
    let s1 := b.rotateRight 19 ^^^ b.rotateRight 61 ^^^ (b >>> 6)
    (s1 + r[6]?.getD 0 + s0 + r[15]?.getD 0) :: r) ws.reverse).reverse

/-- One round. -/
def shaRound (h : List W64) (kw : W64 × W64) : List W64 :=
  match h with
  | [a, b, c, d, e, f, g, x] =>
    let t1 := x + (e.rotateRight 14 ^^^ e.rotateRight 18 ^^^ e.rotateRight 41) + ((e &&& f) ^^^ (~~~ e &&& g)) + kw.1 + kw.2
    let t2 := (a.rotateRight 28 ^^^ a.rotateRight 34 ^^^ a.rotateRight 39) + ((a &&& b) ^^^ (a &&& c) ^^^ (b &&& c))
    [t1 + t2, a, b, c, d + t1, e, f, g]
  | l => l

/-- One block of 128 bytes. -/
def shaBlock (h : List W64) (b : List Byte) : List W64 :=
  let ws := (upTo 16).map (fun k => BitVec.ofNat 64 (beOf ((b.drop (8 * k)).take 8)))
  List.zipWith (· + ·) h ((shaK.zip (shaSchedule ws)).foldl shaRound h)

/-- SHA-384 of some bytes. DEDUCED: notes/assumptions/119. -/
def sha384 (m : List Byte) : List Byte :=
  let n := m.length
  let p := m ++ 0x80 :: List.replicate ((239 - n % 128) % 128) 0 ++ beBytes 16 (8 * n)
  (((upTo (p.length / 128)).foldl (fun h k => shaBlock h ((p.drop (128 * k)).take 128)) shaStart).flatMap (fun w => beBytes 8 w.toNat)).take 48

/-- HMAC with SHA-384. -/
def hmac384 (key m : List Byte) : List Byte :=
  let k := let x := if 128 < key.length then sha384 key else key
           x ++ List.replicate (128 - x.length) 0
  sha384 (k.map (· ^^^ 0x5C) ++ sha384 (k.map (· ^^^ 0x36) ++ m))

/-- The first 32 bytes of HKDF-Expand with SHA-384, of a pseudorandom key and some information (R360). DEDUCED: notes/assumptions/119. -/
def hkdfKey (prk info : List Byte) : BitVec 256 := BitVec.ofNat 256 (beOf ((hmac384 prk (info ++ [1])).take 32))

end Sys2Proof.Machine
end

