-- ==== Sys2Proof/Config.lean ====
section
/-! DEFINITION. What the spec leaves open (notes/assumptions): values that nothing in the model fixes. Each is an opaque
constant, so a statement holds whatever it is. Most are indexed by the device's counter `Dev.ctr`, a fresh number for
each use. -/

namespace Sys2Proof

/-- Whether a read covered by lookahead sees the new value (R44): by counter, thread, register. DESIGN CHOICE: notes/assumptions/14. -/
opaque Config.seesNew : Nat → Nat → Nat → Bool
/-- The hash that indexes a core's issue table (R65): by PC and context. DESIGN CHOICE: notes/assumptions/130. -/
opaque Config.hash : W64 → Nat → Nat
/-- A result the enclosure of the exact value does not settle (R260); the model knows no operand that reaches it. DESIGN CHOICE: notes/assumptions/120. -/
opaque Config.unsettled : Nat → W32
/-- Whether the value a write replaces stays readable to others (R114): by counter, word. DESIGN CHOICE: notes/assumptions/26. -/
opaque Config.lingers : Nat → Nat → Bool
/-- Whether a write stands in coherence order before the write that came last, where R114 leaves the two unordered: by counter,
word. DESIGN CHOICE: notes/assumptions/26. -/
opaque Config.slips : Nat → Nat → Bool
/-- Which of the values that R114 allows a read returns, 0 for the latest: by counter, agent, word. DESIGN CHOICE: notes/assumptions/26. -/
opaque Config.sees : Nat → Nat → Nat → Nat
/-- How many instructions of its thread may issue before a load is performed, 0 if it is performed at once (R107, R108): by counter,
thread. DESIGN CHOICE: notes/assumptions/26. -/
opaque Config.defers : Nat → Nat → Nat
/-- Whether a load hits in the L1 (R142): by counter, line. DESIGN CHOICE: notes/assumptions/133. -/
opaque Config.hits : Nat → Nat → Bool
/-- Whether a line that misses in the L1 misses in its home slice too, or a dirty line is written back, so that it crosses the vertical
bus (R165): by counter, line. DESIGN CHOICE: notes/assumptions/139. -/
opaque Config.crosses : Nat → Nat → Bool
/-- A promised completion time, as cycles after the submission (R195). DESIGN CHOICE: notes/assumptions/54. -/
opaque Config.promise : Nat → W64
/-- A free choice of a number, by counter (an index, a delay). DESIGN CHOICE: notes/assumptions/2. DESIGN CHOICE: notes/assumptions/8. DESIGN CHOICE: notes/assumptions/126. DESIGN CHOICE: notes/assumptions/128. -/
opaque Config.pick : Nat → Nat
/-- The key material the security core draws (R352, R356, R435), by counter. DESIGN CHOICE: notes/assumptions/127. -/
opaque Config.key : Nat → BitVec 256
/-- Which image fails its signature at bring-up, 0 for none (R466). DEDUCED: notes/assumptions/116. -/
opaque Config.badImage : Nat
/-- The logical core map of the configuration image and its quarantine list (R466, R467): physical core by logical core,
and whether a physical core is listed. DEDUCED: notes/assumptions/116. -/
opaque Config.imageMap : Nat → Nat
/-- A physical core is on the quarantine list of the configuration image (R467). DEDUCED: notes/assumptions/116. -/
opaque Config.imageQuarantined : Nat → Bool
/-- PARTMODE as the configuration image sets it, by partition (R466). DEDUCED: notes/assumptions/116. -/
opaque Config.imagePartmode : Nat → W64
/-- The drain deadline the configuration image sets, by partition, in cycles (R466). DEDUCED: notes/assumptions/116. -/
opaque Config.imageDrain : Nat → Nat
/-- The partition of a logical core as the configuration image has it (R23). DEDUCED: notes/assumptions/116. -/
opaque Config.imagePart : Nat → Nat
/-- A CXL port has a device (R462). DEDUCED: notes/assumptions/116. -/
opaque Config.cxlPresent : Nat → Bool
/-- The size of a structure of the shadow-latch timing the spec only bounds: cycles, by counter. DESIGN CHOICE: notes/assumptions/71. -/
opaque Config.delay : Nat → Nat
/-- A bit of a signature a scan run obtains (R412), by counter. DESIGN CHOICE: notes/assumptions/78. -/
opaque Config.signature : Nat → W64
/-- The secret that the members of a channel share after a peer key exchange, by exchange and key epoch (R360). DESIGN CHOICE: notes/assumptions/142. -/
opaque Config.secret : Nat → Nat → BitVec 384
/-- How the module announces the algorithms of R348. DESIGN CHOICE: notes/assumptions/144. -/
opaque Config.algorithms : List Byte
/-- The IV under which a tier-3 line is sealed (R357), by line and version. DESIGN CHOICE: notes/assumptions/142. -/
opaque Config.lineIv : Nat → Nat → List Byte
/-- The bytes of a packet's header beat, by its fields (R205, R359). DESIGN CHOICE: notes/assumptions/142. -/
opaque Config.headerBeat : List Nat → List Byte
/-- The identity seed that the security core derives from the PUF (R346). DESIGN CHOICE: notes/assumptions/127. -/
opaque Config.pufSeed : BitVec 256
/-- The public root of the XMSS key pair of a seed (R346). DESIGN CHOICE: notes/assumptions/144. -/
opaque Config.xmssRoot : BitVec 256 → BitVec 256
/-- The XMSS signature of a message under a seed and a leaf index (R346, R347). DESIGN CHOICE: notes/assumptions/144. -/
opaque Config.xmssSign : BitVec 256 → Nat → List Byte → List Byte
/-- The measurement of an image: 0 the security core's firmware, 1 Levante's, 2 the configuration image (R348). DESIGN CHOICE: notes/assumptions/144. -/
opaque Config.measure : Nat → List Byte
/-- The certificate chain of the module, by its public root (R348). DESIGN CHOICE: notes/assumptions/144. -/
opaque Config.certChain : BitVec 256 → List Byte
/-- The module's ephemeral point of a key exchange, by counter (R348). DESIGN CHOICE: notes/assumptions/144. -/
opaque Config.ecdhPoint : Nat → List Byte
/-- The length of a section of an image that the spec gives no bytes for, by counter (R431). DESIGN CHOICE: notes/assumptions/95. -/
opaque Config.sectionLen : Nat → Nat
/-- What a generator of random IVs and wraps yields (R356). DESIGN CHOICE: notes/assumptions/127. -/
opaque Config.random : Nat → W64

end Sys2Proof
end

