-- ==== Sys2Proof/WellFormed.lean ====
section
/-! DEFINITION. Which instruction terms stand for an instruction word: the range and combination rules the spec puts
on operands and hints (R35, R39, R43, R45, R128, R169, R194, R235 to R237, R241, R278, R299, R306, R386). A term that
fails a check has no word; a word whose fields fail it raises RESERVED_BITS. Events have no word and no check. -/

namespace Sys2Proof

/-- The source is a gang scalar. -/
def Src.isS : Src → Bool
  | .s _ => true
  | .v _ => false

/-- The source is a gang scalar (never an immediate, which leaves no kind bit, R235). -/
def SrcI.isS : SrcI → Bool
  | .s _ => true
  | _ => false

/-- The source is an immediate. -/
def SrcI.isImm : SrcI → Bool
  | .imm _ => true
  | _ => false

/-- The source is a vector register. -/
def Src.isV : Src → Bool
  | .v _ => true
  | .s _ => false

/-- The source is a vector register. -/
def SrcI.isV : SrcI → Bool
  | .v _ => true
  | _ => false

/-- The destination is a gang scalar (DK = 1). -/
def Dst.isS : Dst → Bool
  | .s _ => true
  | .v _ => false

/-- R235, R237: the immediate form has vector A and D and no PD; DK needs every source a gang scalar. -/
def aluOk (d : Dst) (a : Src) (b : SrcI) : Bool :=
  (!b.isImm || (a.isV && !d.isS)) && (!d.isS || (a.isS && b.isS))

/-- R237 for one source. -/
def dk1Ok (d : Dst) (a : Src) : Bool := !d.isS || a.isS

/-- R237 for two register sources. -/
def dk2Ok (d : Dst) (a b : Src) : Bool := !d.isS || (a.isS && b.isS)

/-- R237 for three register sources. -/
def dk3Ok (d : Dst) (a b c : Src) : Bool := !d.isS || (a.isS && b.isS && c.isS)

/-- The type is one element of 32 or 64 bits (TY 0 to 3). -/
def Ty.scalar : Ty → Bool
  | .i32 | .n32 | .i64 | .n64 => true
  | _ => false

/-- The type is signed (R236). -/
def Ty.signed : Ty → Bool
  | .i32 | .i64 | .i16 | .i8 => true
  | _ => false

/-- R241: an immediate amount has IMM[31:8] zero. -/
def amountOk : SrcI → Bool
  | .imm x => x.extractLsb' 8 24 == 0#24
  | _ => true

/-- R237: PDV only on IADD and ISUB with TY 0 to 3 and V = 0, and no PD under the immediate form (R235). -/
def pdOk (ty : Ty) (v : Ov) (b : SrcI) (pd : Option PReg) : Bool :=
  match pd with
  | none => true
  | some _ => ty.scalar && v == .wrap && !b.isImm

/-- A field position and length whose register, if any, is a gang scalar under DK. -/
def Field.dkOk (d : Dst) : Field → Bool
  | .imm _ _ => true
  | .reg r => !d.isS || r.isS

/-- The RU bit of one operand: A is 4, B is 2, C is 1 (R34, R45). -/
def ruBit (b : Bool) (k : BitVec 3) : BitVec 3 := if b then k else 0

/-- RU bits of A and B. -/
def ru2 (a : Src) (b : SrcI) : BitVec 3 := ruBit a.isV 4 ||| ruBit b.isV 2

/-- RU bits of A, B and C. -/
def ru3 (a b c : Src) : BitVec 3 := ruBit a.isV 4 ||| ruBit b.isV 2 ||| ruBit c.isV 1

/-- RU bit of the register of a field, in the position of weight k. -/
def ruField (f : Field) (k : BitVec 3) : BitVec 3 :=
  match f with
  | .imm _ _ => 0
  | .reg r => ruBit r.isV k

/-- The shared header of an instruction word; none for a pair, whose word has none, and for an event. -/
def Instr.hd? : Instr → Option Hd
  | .nop h | .bra h _ | .brx h _ _ | .call h _ | .callLink h _ _ | .ret h | .retLink h _ | .exit h | .yield h
  | .sleep h _ | .sleepAbs h _ | .join h _ _ _ | .joinRank h _ _ _ _ | .joinT h _ _ _ | .joinRankT h _ _ _ _
  | .leave h | .ginfo h _ | .post h _ _ => some h
  | .iadd h _ _ _ _ _ _ | .isub h _ _ _ _ _ _ | .imul h _ _ _ _ _ | .imulh h _ _ _ _ | .imad h _ _ _ _ _ _
  | .imin h _ _ _ _ | .imax h _ _ _ _ | .iabs h _ _ _ _ | .and h _ _ _ _ | .or h _ _ _ _ | .xor h _ _ _ _
  | .andn h _ _ _ _ | .shl h _ _ _ _ | .shr h _ _ _ _ | .sar h _ _ _ _ | .rol h _ _ _ _ | .popc h _ _ _
  | .clz h _ _ _ | .brev h _ _ _ | .bfx h _ _ _ _ | .bfi h _ _ _ _ _ | .icmp h _ _ _ _ _ | .sel h _ _ _ _ _ _
  | .mov h _ _ _ | .movi h _ _ _ | .lea h _ _ _ _ _ | .idot4 h _ _ _ _ _ _ | .prmt h _ _ _ _ | .prmtCtl h _ _ _ _
  | .smov h _ _ | .smovHi h _ _ | .salu h _ _ _ _ | .iclamp h _ _ _ _ _ => some h
  | .fadd h _ _ _ | .fsub h _ _ _ | .fmul h _ _ _ | .ffma h _ _ _ _ _ _ | .fmin h _ _ _ | .fmax h _ _ _
  | .fcmp h _ _ _ _ _ | .fclass h _ _ _ _ | .frnd h _ _ _ | .fcvt h _ _ _ _ | .icvt h _ _ _ _ | .frcp h _ _
  | .frsq h _ _ | .fsqrt h _ _ | .fdiv h _ _ _ | .fexp2 h _ _ | .flog2 h _ _ | .fsin h _ _ | .fcos h _ _
  | .ftanh h _ _ | .hadd2 h _ _ _ _ | .hmul2 h _ _ _ _ | .hfma2 h _ _ _ _ _ | .hdot2 h _ _ _ _ _ | .fscale h _ _ _
  | .fflagTrap h _ | .fflagClr h _ | .fflagRd h _ | .rngd h _ _ | .rngs h _ _ _ _ => some h
  | .plop h _ _ _ _ _ | .pmov h _ | .voteMask h _ _ | .voteCount h _ _ | .voteTest h _ _ _ | .xbfly h _ _ _ _
  | .xbflyTr h _ _ | .xshfl h _ _ _ _ | .xbcast h _ _ _ _ | .xred h _ _ _ | .xscan h _ _ _ _ => some h
  | .ld h _ _ _ _ _ | .lda h _ _ _ _ | .st h _ _ _ _ | .stl h _ _ _ | .atom h _ _ _ _ _ _ | .cas h _ _ _ _ _
  | .atomf h _ _ _ _ _ | .fence h | .smap h _ _ _ _ | .sunmap h _ | .sflush h _ | .sld h _ _ _ _ | .sst h _ _ _
  | .binit h _ _ _ | .barv h _ _ | .bexp h _ _ | .bexpMax h _ _ | .baddb h _ _ | .bdrop h _ | .bwait h _ _ _
  | .btest h _ _ _ | .bwaitt h _ _ _ _ => some h
  | .rowact h _ _ _ | .rowconW h _ _ | .rowconS h _ _ _ | .rowconV h _ _ | .rowput h _ _ _ | .rowputV h _ _
  | .rowpre h _ | .rowqry h _ _ | .rowwt h _ _ => some h
  | .xcopy h _ _ | .xwait h _ _ | .xqry h _ _ | .xcancel h _ _ | .crs h _ _ | .crsNorm h _ _ | .cag h _ _
  | .car h _ _ | .cbc h _ _ | .fput h _ _ _ | .fget h _ _ _ | .fatom h _ _ _ _ _ | .fsig h _ => some h
  | .mldw h _ _ _ | .mswap h | .mstream h _ _ _ _ | .mclr h _ | .mst h _ _ _ | .mstReg h _ _ _ | .mlda h _ _ _
  | .mldaReg h _ _ _ | .mgrp h _ _ _ _ | .mqry h _ | .mtake h _ _ | .mgive h _ | .macc h _ _ _ | .mscl h _ _
  | .norma h _ _ _ | .normb h _ _ _ | .nprod h _ _ | .aliasT h _ _ | .sampmm h _ _ _ _ | .svrd h _ | .svrdW h _
  | .svset h _ _ | .awupd h _ _ _ _ | .sgdm h _ _ _ _ | .gscale h _ _ _ | .gscaleF h _ _ => some h
  | .sysr h _ _ | .sysw h _ _ | .trap h _ | .trapBrk h _ | .eret h | .eretNext h | .xlate h _ _ | .xlateCtx h _ _ _
  | .leaseq h _ _ | .margin h _ _ _ | .marginRd h _ _ | .scan h _ _ | .scanAbort h _ _ | .quar h _ _ | .haltc h _ _
  | .haltcRel h _ _ | .snap h _ _ | .snapq h _ _ | .snapqW h _ _ | .ctxsv h _ _ | .ctxld h _ _ | .ctxldImg h _ _ _
  | .cyccmpWrite h _ | .eqheadWrite h _ | .eqRingWrite h _ _ | .eqtailRead h _ | .partmodeWrite h _ _
  | .lcmapWrite h _ _ | .fmtrangeWrite h _ _ _ | .marginRegWrite h _ _ | .svarWrite h _ _ => some h
  | _ => none

/-- The RU bits the instruction honours (R45): the operands it reads from vector registers, for OPC 0x20 to 0x5B
except SMOV, SALU, FFLAG, RNGD and RNGS. -/
def Instr.ruMask : Instr → BitVec 3
  | .iadd _ _ _ _ a b _ | .isub _ _ _ _ a b _ | .imul _ _ _ _ a b | .imulh _ _ _ a b | .imin _ _ _ a b
  | .imax _ _ _ a b | .and _ _ _ a b | .or _ _ _ a b | .xor _ _ _ a b | .andn _ _ _ a b | .shl _ _ _ a b
  | .shr _ _ _ a b | .sar _ _ _ a b | .rol _ _ _ a b => ru2 a b
  | .imad _ _ _ _ a b c | .iclamp _ _ _ a b c => ru3 a b c
  | .iabs _ _ _ _ a | .popc _ _ _ a | .clz _ _ _ a | .brev _ _ _ a | .mov _ _ _ a => ruBit a.isV 4
  | .bfx _ _ _ a f => ruBit a.isV 4 ||| ruField f 2
  | .bfi _ _ _ a b f => ruBit a.isV 4 ||| ruBit b.isV 2 ||| ruField f 1
  | .icmp _ _ _ a b _ | .sel _ _ _ a b _ _ | .lea _ _ _ a b _ => ruBit a.isV 4 ||| ruBit b.isV 2
  | .idot4 .. | .prmtCtl .. => 7
  | .prmt .. => 6
  | .fadd _ _ a b | .fsub _ _ a b | .fmul _ _ a b | .fmin _ _ a b | .fmax _ _ a b | .fscale _ _ a b => ru2 a b
  | .ffma _ _ _ _ a b c => ru3 a b c
  | .fcmp _ _ _ a b _ => ruBit a.isV 4 ||| ruBit b.isV 2
  | .fclass _ _ a _ _ | .frnd _ _ _ a | .icvt _ _ _ _ a => ruBit a.isV 4
  | .fcvt _ c _ _ a =>
    match c with
    | .f16x2 b | .bf16x2 b => ruBit a.isV 4 ||| ruBit b.isV 2
    | _ => ruBit a.isV 4
  | .frcp .. | .frsq .. | .fsqrt .. | .fexp2 .. | .flog2 .. | .fsin .. | .fcos .. | .ftanh .. => 4
  | .fdiv .. => 6
  | .hadd2 _ _ _ _ b | .hmul2 _ _ _ _ b => 4 ||| ruBit b.isV 2
  | .hfma2 .. | .hdot2 .. => 7
  | _ => 0

/-- The instruction is a long-latency one, which may carry LAH (R43). -/
def Instr.longLatency : Instr → Bool
  | .ld .. | .lda .. | .sld .. | .atom .. | .cas .. | .atomf .. | .frcp .. | .frsq .. | .fsqrt .. | .fdiv ..
  | .fexp2 .. | .flog2 .. | .fsin .. | .fcos .. | .ftanh .. | .rngd .. | .sysr .. | .eqtailRead .. => true
  | _ => false

/-- The gang scalar lies in a range the instruction's table states (R35). -/
def sIn (r : SReg) (lo hi : Nat) : Bool := lo ≤ r.toNat && r.toNat ≤ hi

/-- The destination of SYSR is sD, 1 to 63 (R386). -/
def SysForm.readOk : SysForm → Bool
  | .s r => sIn r 1 63
  | _ => true

/-- A card group is sA, a multiple of 8 from 8 to 56 (R194). -/
def CardSrc.ok : CardSrc → Bool
  | .group a => a.toNat % 8 == 0 && sIn a 8 56
  | .stash _ _ => true

/-- A handle in gang scalars is sA, 1 to 62 (R194). -/
def handleOk : Src → Bool
  | .s r => sIn r 1 62
  | .v _ => true

/-- A conversion whose code is exact has rm = 0 (R258). -/
def FcvtCode.exact : FcvtCode → Bool
  | .fromF16 | .fromBf16 => true
  | _ => false

/-- A conversion whose code is exact has rm = 0 (R258). -/
def IcvtCode.exact : IcvtCode → Bool
  | .f32i32 | .f32n32 | .f32i64 | .f32n64 => false
  | _ => true

/-- SYSW numbers whose write has a constructor of its own. -/
def srnOwnWrite (n : Srn) : Bool :=
  let k := n.toNat
  k == 0x001 || k == 0x028 || k == 0x029 || k == 0x02A || (0x014 ≤ k && k ≤ 0x017) || (0x100 ≤ k && k ≤ 0x17F) ||
    (0x400 ≤ k && k ≤ 0x61F) || (0x800 ≤ k && k ≤ 0x9FF) || (0xD00 ≤ k && k ≤ 0xD07)

/-- The system-register numbers R20 assigns. -/
def srnAssigned (n : Srn) : Bool :=
  let k := n.toNat
  k ≤ 0x002 || (0x008 ≤ k && k ≤ 0x00A) || (0x010 ≤ k && k ≤ 0x017) || (0x020 ≤ k && k ≤ 0x025) ||
    (0x028 ≤ k && k ≤ 0x02B) || k == 0x030 || k == 0x031 || (0x100 ≤ k && k ≤ 0x17F) || (0x200 ≤ k && k ≤ 0x3FF) ||
    (0x400 ≤ k && k ≤ 0x61F) || (0x800 ≤ k && k ≤ 0x9FF) || (0xA00 ≤ k && k ≤ 0xC1F) || (0xD00 ≤ k && k ≤ 0xD07)

/-- The numbers whose Write entry in R20 is no dash. -/
def srnWritable (n : Srn) : Bool :=
  let k := n.toNat
  srnAssigned n && !([0x000, 0x002, 0x008, 0x009, 0x00A, 0x022, 0x023, 0x024, 0x02B, 0x030, 0x031].contains k) &&
    !(0x200 ≤ k && k ≤ 0x3FF)

/-- SYSR of an unassigned number, and SYSW of one that is unassigned or has no write level (R21): ILLEGAL_OPCODE. -/
def Instr.srnBad : Instr → Bool
  | .sysr _ _ n => !(srnAssigned n)
  | .sysw _ _ n => !(srnWritable n)
  | _ => false

/-- The operand checks of one instruction, hints apart. -/
def Instr.opsOk : Instr → Bool
  | .iadd _ ty v d a b pd | .isub _ ty v d a b pd => aluOk d a b && pdOk ty v b pd
  | .imul _ ty _ d a b => ty.scalar && aluOk d a b
  | .imulh _ ty d a b => ty.scalar && aluOk d a b
  | .imad _ ty v d a b c => ty.scalar && v != .trap && dk3Ok d a b c
  | .imin _ _ d a b | .imax _ _ d a b => aluOk d a b
  | .iabs _ ty _ d a => ty.signed && dk1Ok d a
  | .and _ _ d a b | .or _ _ d a b | .xor _ _ d a b | .andn _ _ d a b => aluOk d a b
  | .shl _ _ d a b | .shr _ _ d a b | .sar _ _ d a b | .rol _ _ d a b => aluOk d a b && amountOk b
  | .popc _ _ d a | .clz _ _ d a | .brev _ _ d a | .mov _ _ d a => dk1Ok d a
  | .bfx _ ty d a f => ty.scalar && dk1Ok d a && f.dkOk d
  | .bfi _ _ d a b f => dk2Ok d a b && f.dkOk d
  | .sel _ _ d a b _ _ => dk2Ok d a b
  | .iclamp _ ty d a b c => ty.scalar && dk3Ok d a b c
  | .fadd _ d a b | .fsub _ d a b | .fmul _ d a b | .fmin _ d a b | .fmax _ d a b => aluOk d a b
  | .ffma _ _ _ d a b c => dk3Ok d a b c
  | .fscale _ _ a b => !b.isImm || a.isV
  | .fclass _ _ _ pd mask => pd.isSome || mask == 0
  | .hadd2 _ _ _ _ b | .hmul2 _ _ _ _ b => !b.isS
  | .fcvt _ c rm _ _ => !c.exact || rm == .rn
  | .icvt _ c rm _ _ => !c.exact || rm == .rn
  | .salu _ op _ _ (.imm x) => !(op == .shl || op == .shr || op == .sar) || x.extractLsb' 8 24 == 0#24
  | .xbflyTr _ _ s => s == 1 || s == 2 || s == 4 || s == 8 || s == 16
  | .ld _ _ sz sx _ _ => !sx || sz == .b8 || sz == .b16
  | .lda _ sz sx _ _ => (!sx || sz == .b8 || sz == .b16) && sz != .b128
  | .stl _ sz _ _ => sz != .b128
  | .sld _ sz sx _ _ => !sx || sz == .b8 || sz == .b16
  | .xcopy _ _ c | .crs _ _ c | .crsNorm _ _ c | .cag _ _ c | .car _ _ c | .cbc _ _ c => c.ok
  | .xwait _ _ a | .xqry _ _ a | .xcancel _ _ a => handleOk a
  | .fput _ d a _ | .fget _ d a _ => sIn d 1 62 && a.toNat % 4 == 0 && sIn a 4 60
  | .mldw _ _ _ a => sIn a 1 61
  | .mstream _ _ _ _ a => sIn a 1 61
  | .mst _ _ _ b => sIn b 1 61
  | .mlda _ _ _ a => sIn a 1 61
  | .mgrp _ _ _ _ a => sIn a 1 60
  | .mqry _ d => sIn d 1 63
  | .norma _ _ a b | .normb _ _ a b => sIn a 1 61 && sIn b 1 63
  | .nprod _ d a => sIn d 1 63 && sIn a 1 62
  | .aliasT _ a b => sIn a 1 63 && sIn b 1 63
  | .sampmm _ _ _ a _ => sIn a 1 57
  | .svrd _ d | .svrdW _ d => sIn d 1 62
  | .awupd _ _ _ _ b => b.toNat % 4 == 0 && sIn b 4 60
  | .sgdm _ _ _ _ b => b.toNat % 2 == 0 && sIn b 2 62
  | .gscale _ _ _ b => sIn b 1 63
  | .gscaleF _ d b => sIn d 1 63 && sIn b 1 63
  | .sysr _ f n => f.readOk && n.toNat != 0x02B && srnAssigned n
  | .eqtailRead _ f => f.readOk
  | .sysw _ _ n => !srnOwnWrite n && srnWritable n
  | .marginRegWrite _ _ n => n.toNat < 544
  | _ => true

/-- The hints the instruction may carry: LAH only on long-latency instructions (R43), RU only where R45 honours it. -/
def Instr.hintsOk (i : Instr) : Bool :=
  match i.hd? with
  | none => true
  | some h => (i.longLatency || h.lah == 0) && (h.ru &&& ~~~ i.ruMask) == 0

/-- The pair's two operations name different banks (R49). -/
def PairWord.banksOk (w : PairWord) : Bool := w.op0.bank != w.op1.bank

/-- The operation reads B (R50). -/
def PairCode.readsB : PairCode → Bool
  | .mov => false
  | _ => true

/-- The operation is FFMA-class (R49). -/
def PairCode.fma : PairCode → Bool
  | .ffma | .hfma2F16 | .hfma2Bf16 => true
  | _ => false

/-- The register a field of an operation names: 4 × field + bank (R48). -/
def PairOp.reg (o : PairOp) (f : BitVec 7) : VReg := (f ++ o.bank : BitVec 9)

/-- The distinct source registers of one operation, the accumulating read of D apart (R49). -/
def PairOp.sources (o : PairOp) : List VReg :=
  if o.code.readsB && o.reg o.a != o.reg o.b then [o.reg o.a, o.reg o.b] else [o.reg o.a]

/-- R49: different banks, at most three distinct sources together, not both FFMA-class. -/
def PairWord.ruleOk (w : PairWord) : Bool :=
  w.banksOk && (w.op0.sources ++ w.op1.sources).eraseDups.length ≤ 3 && !(w.op0.code.fma && w.op1.code.fma)

/-- R48: a field the operation does not use is zero. -/
def PairOp.ok (o : PairOp) : Bool := o.code.readsB || o.b == 0

/-- The term stands for an instruction word. DEDUCED: notes/assumptions/30. DEDUCED: notes/assumptions/46. -/
def Instr.wf (i : Instr) : Bool :=
  i.hintsOk && i.opsOk &&
    match i with
    | .pair w => w.op0.ok && w.op1.ok && w.ruleOk
    | _ => true

end Sys2Proof
end

