-- ==== Sys2Proof/Decode.lean ====
section
/-! DEFINITION. The two instruction formats (spec/02 R32, R34, R37 to R41, R47) and the opcode map (R52, R53): the
decoder, total on any 96 bits, and the encoder of well-formed instructions. A decoded word is accepted only if encoding
its instruction gives the same word, which is the rule that every unused field, reserved sub-field and register bit
above a kind's width is zero (R53). -/

namespace Sys2Proof

/-- Why a word is no instruction (R53): the three causes of a word's own encoding, in the order of R54. -/
inductive DecodeFault where
  | illegalOpcode | reservedBits | pairRule
  deriving DecidableEq, Repr

/-- The fields of format G (R34). -/
structure Fields where
  opc : BitVec 8
  mod : BitVec 6
  d   : BitVec 9
  a   : BitVec 9
  b   : BitVec 9
  gn  : Bool
  gp  : BitVec 4
  x   : BitVec 32
  lah : BitVec 4
  ru  : BitVec 3
  yh  : BitVec 2
  res : BitVec 9
  deriving DecidableEq, Repr

/-- The word of the fields (R34). -/
def Fields.pack (f : Fields) : W96 :=
  f.opc ++ f.mod ++ f.d ++ f.a ++ f.b ++ BitVec.ofBool f.gn ++ f.gp ++ f.x ++ f.lah ++ f.ru ++ f.yh ++ f.res

/-- The fields of a word (R34). -/
def Fields.unpack (w : W96) : Fields where
  opc := w.extractLsb' 88 8
  mod := w.extractLsb' 82 6
  d   := w.extractLsb' 73 9
  a   := w.extractLsb' 64 9
  b   := w.extractLsb' 55 9
  gn  := w.getLsbD 54
  gp  := w.extractLsb' 50 4
  x   := w.extractLsb' 18 32
  lah := w.extractLsb' 14 4
  ru  := w.extractLsb' 11 3
  yh  := w.extractLsb' 9 2
  res := w.extractLsb' 0 9

/-- The yield hint of the two bits; 3 is reserved and reads as the hint no word of it encodes to (R46). -/
def yieldOf (b : BitVec 2) : Yield :=
  if b = 1 then .switch else if b = 2 then .spin else .none

/-- The two bits of a yield hint (R46). -/
def yieldBits : Yield → BitVec 2
  | .none => 0
  | .switch => 1
  | .spin => 2

/-- The header of the fields. -/
def Fields.hd (f : Fields) : Hd := { gn := f.gn, gp := f.gp, yh := yieldOf f.yh, lah := f.lah, ru := f.ru }

/-- The fields of a header, an opcode, a MOD, the three register fields and X. -/
def fieldsOf (h : Hd) (opc : BitVec 8) (mod : BitVec 6) (d a b : BitVec 9) (x : BitVec 32) : Fields :=
  { opc := opc, mod := mod, d := d, a := a, b := b, gn := h.gn, gp := h.gp, x := x, lah := h.lah, ru := h.ru,
    yh := yieldBits h.yh, res := 0 }

/-! ### X layouts (R37 to R41) -/

/-- X.REG of its sub-fields (R39). -/
def xReg (c : BitVec 9) (ak bk ck dk : Bool) (pd : BitVec 4) (pdv : Bool) (sub : BitVec 14) : BitVec 32 :=
  c ++ BitVec.ofBool ak ++ BitVec.ofBool bk ++ BitVec.ofBool ck ++ BitVec.ofBool dk ++ pd ++ BitVec.ofBool pdv ++ sub

/-- C of X.REG. -/
def Fields.c (f : Fields) : BitVec 9 := f.x.extractLsb' 23 9
/-- AK of X.REG. -/
def Fields.ak (f : Fields) : Bool := f.x.getLsbD 22
/-- BK of X.REG. -/
def Fields.bk (f : Fields) : Bool := f.x.getLsbD 21
/-- CK of X.REG. -/
def Fields.ck (f : Fields) : Bool := f.x.getLsbD 20
/-- DK of X.REG. -/
def Fields.dk (f : Fields) : Bool := f.x.getLsbD 19
/-- PD of X.REG. -/
def Fields.pd (f : Fields) : BitVec 4 := f.x.extractLsb' 15 4
/-- PDV of X.REG. -/
def Fields.pdv (f : Fields) : Bool := f.x.getLsbD 14
/-- SUB of X.REG. -/
def Fields.sub (f : Fields) : BitVec 14 := f.x.extractLsb' 0 14

/-- X.MEM of its sub-fields (R40). -/
def xMem (sp : BitVec 2) (sz : BitVec 3) (bk sx : Bool) (off : BitVec 24) : BitVec 32 :=
  sp ++ sz ++ BitVec.ofBool bk ++ BitVec.ofBool sx ++ (0 : BitVec 1) ++ off

/-- SP of X.MEM. -/
def Fields.sp (f : Fields) : BitVec 2 := f.x.extractLsb' 30 2
/-- SX of X.MEM. -/
def Fields.sx (f : Fields) : Bool := f.x.getLsbD 25
/-- OFF of X.MEM. -/
def Fields.off (f : Fields) : BitVec 24 := f.x.extractLsb' 0 24

/-- X.SYS of a system-register number (R41). -/
def xSys (n : Srn) : BitVec 32 := n ++ (0 : BitVec 20)
/-- SRN of X.SYS. -/
def Fields.srn (f : Fields) : Srn := f.x.extractLsb' 20 12

/-! ### Operands -/

/-- The number of a gang scalar in a register field (R35). -/
def sNum (r : SReg) : BitVec 9 := (0 : BitVec 3) ++ r
/-- The gang scalar of a register field. -/
def sOf (n : BitVec 9) : SReg := n.extractLsb' 0 6
/-- The number of a predicate in a register field (R35). -/
def pNum (r : PReg) : BitVec 9 := (0 : BitVec 5) ++ r
/-- The predicate of a register field. -/
def pOf (n : BitVec 9) : PReg := n.extractLsb' 0 4
/-- The number of a tile or a row slot in a register field (R35). -/
def tNum (r : BitVec 3) : BitVec 9 := (0 : BitVec 6) ++ r
/-- The tile or row slot of a register field. -/
def tOf (n : BitVec 9) : BitVec 3 := n.extractLsb' 0 3

/-- The register field of a source. -/
def Src.num : Src → BitVec 9
  | .v r => r
  | .s r => sNum r
/-- The source a field and its kind bit name (R39). -/
def srcOf (k : Bool) (n : BitVec 9) : Src := if k then .s (sOf n) else .v n
/-- The register field of a destination. -/
def Dst.num : Dst → BitVec 9
  | .v r => r
  | .s r => sNum r
/-- The destination a field and DK name (R39). -/
def dstOf (k : Bool) (n : BitVec 9) : Dst := if k then .s (sOf n) else .v n
/-- The register field of a second source; zero for an immediate (R235). -/
def SrcI.num : SrcI → BitVec 9
  | .v r => r
  | .s r => sNum r
  | .imm _ => 0
/-- The second source a field and BK name. -/
def srcIOf (k : Bool) (n : BitVec 9) : SrcI := if k then .s (sOf n) else .v n

/-- TY of the integer class (R236). -/
def Ty.bits : Ty → BitVec 3
  | .i32 => 0
  | .n32 => 1
  | .i64 => 2
  | .n64 => 3
  | .i16 => 4
  | .n16 => 5
  | .i8 => 6
  | .n8 => 7
/-- The element type of TY (R236). -/
def tyOf (b : BitVec 3) : Ty :=
  match b.toNat with
  | 0 => .i32
  | 1 => .n32
  | 2 => .i64
  | 3 => .n64
  | 4 => .i16
  | 5 => .n16
  | 6 => .i8
  | _ => .n8

/-- V of the integer class (R240). -/
def Ov.bits : Ov → BitVec 2
  | .wrap => 0
  | .sat => 1
  | .trap => 2
/-- The overflow rule of V; 3 is unassigned (R239). -/
def ovOf (b : BitVec 2) : Option Ov :=
  match b.toNat with
  | 0 => some .wrap
  | 1 => some .sat
  | 2 => some .trap
  | _ => none

/-- SUB[2:0] of ICMP (R244). -/
def Cond.bits : Cond → BitVec 14
  | .eq => 0
  | .ne => 1
  | .lt => 2
  | .le => 3
  | .gt => 4
  | .ge => 5
/-- The condition of SUB; a reserved code is read as one that encodes to another SUB. -/
def condOf (b : BitVec 14) : Cond :=
  match b.toNat with
  | 1 => .ne
  | 2 => .lt
  | 3 => .le
  | 4 => .gt
  | 5 => .ge
  | _ => .eq

/-- SUB[2:0] of FCMP (R255). -/
def FCond.bits : FCond → BitVec 14
  | .eq => 0
  | .ne => 1
  | .lt => 2
  | .le => 3
  | .gt => 4
  | .ge => 5
  | .un => 6
  | .num => 7
/-- The condition of SUB; a reserved code is read as one that encodes to another SUB. -/
def fcondOf (b : BitVec 14) : FCond :=
  match b.toNat with
  | 1 => .ne
  | 2 => .lt
  | 3 => .le
  | 4 => .gt
  | 5 => .ge
  | 6 => .un
  | 7 => .num
  | _ => .eq

/-- rm (R219, R257). -/
def Rm.bits : Rm → BitVec 2
  | .rn => 0
  | .rz => 1
  | .ru => 2
  | .rd => 3
/-- The rounding mode of rm. -/
def rmOf (b : BitVec 2) : Rm :=
  match b.toNat with
  | 0 => .rn
  | 1 => .rz
  | 2 => .ru
  | _ => .rd

/-- The width bit of the raw types: TY 1 is 32 bits, TY 3 is 64 bits. -/
def wideTy (w : Bool) : BitVec 3 := if w then 3 else 1

/-- MOD of the integer class: I, TY, V (R235). -/
def modI (i : Bool) (ty : BitVec 3) (v : BitVec 2) : BitVec 6 := BitVec.ofBool i ++ ty ++ v
/-- I of MOD. -/
def Fields.mi (f : Fields) : Bool := f.mod.getLsbD 5
/-- TY of MOD. -/
def Fields.mty (f : Fields) : BitVec 3 := f.mod.extractLsb' 2 3
/-- V of MOD. -/
def Fields.mv (f : Fields) : BitVec 2 := f.mod.extractLsb' 0 2

/-- X of a two-source form: X.IMM for an immediate, else X.REG (R235). -/
def xAlu (d : Dst) (a : Src) (b : SrcI) (pd : Option PReg) : BitVec 32 :=
  match b with
  | .imm x => x
  | _ => xReg 0 a.isS b.isS false d.isS (pd.getD 0) pd.isSome 0

/-- The destination of a two-source form. -/
def Fields.dD (f : Fields) : Dst := if f.mi then .v f.d else dstOf f.dk f.d
/-- The first source of a two-source form. -/
def Fields.aA (f : Fields) : Src := if f.mi then .v f.a else srcOf f.ak f.a
/-- The second source of a two-source form. -/
def Fields.bB (f : Fields) : SrcI := if f.mi then .imm f.x else srcIOf f.bk f.b
/-- The predicate destination, if PDV is set. -/
def Fields.pdO (f : Fields) : Option PReg := if !f.mi && f.pdv then some f.pd else none

/-- Position and length as SUB (R243). -/
def Field.sub : Field → BitVec 14
  | .imm p l => (0 : BitVec 1) ++ l ++ p
  | .reg _ => 0
/-- The register field of a field operand. -/
def Field.num : Field → BitVec 9
  | .imm _ _ => 0
  | .reg r => r.num
/-- The kind bit of a field operand. -/
def Field.isS : Field → Bool
  | .imm _ _ => false
  | .reg r => r.isS
/-- V of a field operand: 0 from SUB, 1 from a register (R243). -/
def Field.v : Field → BitVec 2
  | .imm _ _ => 0
  | .reg _ => 1

/-- SZ (R40). -/
def Sz.bits : Sz → BitVec 3
  | .b8 => 0
  | .b16 => 1
  | .b32 => 2
  | .b64 => 3
  | .b128 => 4
/-- The size of SZ; a reserved code is read as one that encodes to another SZ. -/
def Fields.sz (f : Fields) : Sz :=
  match (f.x.extractLsb' 27 3).toNat with
  | 0 => .b8
  | 1 => .b16
  | 2 => .b32
  | 3 => .b64
  | _ => .b128
/-- The memory operand of A and X.MEM. -/
def Fields.mem (f : Fields) : MemRef := { base := srcOf (f.x.getLsbD 26) f.a, off := f.off }
/-- X.MEM of a memory operand. -/
def xM (sp : BitVec 2) (sz : Sz) (sx : Bool) (m : MemRef) : BitVec 32 := xMem sp sz.bits m.base.isS sx m.off
/-- The size of a 32- or 64-bit access. -/
def wideSz (w : Bool) : Sz := if w then .b64 else .b32
/-- The access is of 64 bits. -/
def Fields.wide (f : Fields) : Bool := f.sz == .b64

/-- ORD (R128). -/
def Ord.bits : Ord → BitVec 2
  | .rlx => 0
  | .acq => 1
  | .rel => 2
  | .ar => 3
/-- The order of MOD[5:4]. -/
def Fields.ord (f : Fields) : Ord :=
  match (f.mod.extractLsb' 4 2).toNat with
  | 0 => .rlx
  | 1 => .acq
  | 2 => .rel
  | _ => .ar

/-- OP and SGN of ATOM as MOD[3:0] (R137). -/
def AtomOp.bits : AtomOp → BitVec 4
  | .add => 0
  | .min s => 2 + (if s then 1 else 0)
  | .max s => 4 + (if s then 1 else 0)
  | .and => 6
  | .or => 8
  | .xor => 10
  | .exch => 12
/-- The operation of MOD[3:0], if assigned (R137). -/
def atomOpOf (b : BitVec 4) : Option AtomOp :=
  match b.toNat with
  | 0 => some .add
  | 2 => some (.min false)
  | 3 => some (.min true)
  | 4 => some (.max false)
  | 5 => some (.max true)
  | 6 => some .and
  | 8 => some .or
  | 10 => some .xor
  | 12 => some .exch
  | _ => none
/-- OP and SGN of FATOM as MOD[3:0] (R209). -/
def FatomOp.bits : FatomOp → BitVec 4
  | .add => 0
  | .min s => 2 + (if s then 1 else 0)
  | .max s => 4 + (if s then 1 else 0)
  | .and => 6
  | .or => 8
  | .xor => 10
/-- The operation of MOD[3:0], if assigned (R209). -/
def fatomOpOf (b : BitVec 4) : Option FatomOp :=
  match b.toNat with
  | 0 => some .add
  | 2 => some (.min false)
  | 3 => some (.min true)
  | 4 => some (.max false)
  | 5 => some (.max true)
  | 6 => some .and
  | 8 => some .or
  | 10 => some .xor
  | _ => none
/-- OP of ATOMF as MOD[3:0] (R139). -/
def AtomfOp.bits : AtomfOp → BitVec 4
  | .add => 0
  | .min => 2
  | .max => 4
  | .hadd2F16 => 6
  | .hadd2Bf16 => 8
/-- The operation of MOD[3:0], if assigned (R139). -/
def atomfOpOf (b : BitVec 4) : Option AtomfOp :=
  match b.toNat with
  | 0 => some .add
  | 2 => some .min
  | 4 => some .max
  | 6 => some .hadd2F16
  | 8 => some .hadd2Bf16
  | _ => none

/-- MOD of the parity operand (R128). -/
def Parity.mod : Parity → BitVec 6
  | .imm k => if k then 1 else 0
  | .reg (.v _) => 2
  | .reg (.s _) => 3
/-- The parity register field. -/
def Parity.num : Parity → BitVec 9
  | .imm _ => 0
  | .reg r => r.num
/-- The parity operand of MOD and B. -/
def Fields.parity? (f : Fields) : Option Parity :=
  match f.mod.toNat with
  | 0 => some (.imm false)
  | 1 => some (.imm true)
  | 2 => some (.reg (.v f.b))
  | 3 => some (.reg (.s (sOf f.b)))
  | _ => none

/-- MOD of a card operand (R194). -/
def CardSrc.mod : CardSrc → BitVec 6
  | .group _ => 0
  | .stash (.v _) _ => 1
  | .stash (.s _) _ => 2
/-- A of a card operand. -/
def CardSrc.numA : CardSrc → BitVec 9
  | .group a => sNum a
  | .stash _ _ => 0
/-- B of a card operand. -/
def CardSrc.numB : CardSrc → BitVec 9
  | .group _ => 0
  | .stash b _ => b.num
/-- X of a card operand. -/
def CardSrc.x : CardSrc → BitVec 32
  | .group _ => 0
  | .stash _ o => o
/-- The card operand of MOD[1:0]. -/
def Fields.card? (f : Fields) (m : Nat) : Option CardSrc :=
  match m with
  | 0 => some (.group (sOf f.a))
  | 1 => some (.stash (.v f.b) f.x)
  | 2 => some (.stash (.s (sOf f.b)) f.x)
  | _ => none

/-- TY of the matrix engine (R278). -/
def MTy.bits : MTy → BitVec 2
  | .bf16 => 0
  | .f16 => 1
  | .i8 => 2
/-- The element type of MOD[1:0]; 3 is unassigned. -/
def mtyOf (b : BitVec 2) : Option MTy :=
  match b.toNat with
  | 0 => some .bf16
  | 1 => some .f16
  | 2 => some .i8
  | _ => none
/-- CV of MST and MLDA (R278). -/
def Cv.bits : Cv → BitVec 2
  | .f32 => 0
  | .bf16 => 1
  | .f16 => 2
  | .i32 => 3
/-- The conversion of MOD[1:0]. -/
def cvOf (b : BitVec 2) : Cv :=
  match b.toNat with
  | 0 => .f32
  | 1 => .bf16
  | 2 => .f16
  | _ => .i32

/-- A flag as a one-bit MOD. -/
def mod1 (b : Bool) : BitVec 6 := if b then 1 else 0
/-- MOD as a flag, if it is 0 or 1. -/
def Fields.mod1? (f : Fields) : Option Bool :=
  if f.mod = 0 then some false else if f.mod = 1 then some true else none
/-- TY and a flag of weight 4 as MOD. -/
def modT (ty : MTy) (b : Bool) : BitVec 6 := (0 : BitVec 3) ++ BitVec.ofBool b ++ ty.bits
/-- CV and the register flag as MOD. -/
def modC (cv : Cv) (b : Bool) : BitVec 6 := (0 : BitVec 3) ++ BitVec.ofBool b ++ cv.bits

/-- MOD of SYSR and SYSW (R386). -/
def SysForm.mod : SysForm → BitVec 6
  | .one _ => 0
  | .pair _ => 1
  | .s _ => 2
/-- The register field of SYSR or SYSW. -/
def SysForm.num : SysForm → BitVec 9
  | .one r => r
  | .pair r => r
  | .s r => sNum r
/-- The form of MOD and a register field. -/
def sysFormOf (m : BitVec 6) (n : BitVec 9) : Option SysForm :=
  match m.toNat with
  | 0 => some (.one n)
  | 1 => some (.pair n)
  | 2 => some (.s (sOf n))
  | _ => none

/-- The code of SALU (R251). -/
def SaluOp.bits : SaluOp → BitVec 4
  | .add => 0
  | .sub => 1
  | .mul => 2
  | .and => 3
  | .or => 4
  | .xor => 5
  | .shl => 6
  | .shr => 7
  | .sar => 8
  | .minI => 9
  | .maxI => 10
  | .minN => 11
  | .maxN => 12
  | .fadd => 13
  | .fmul => 14
/-- The operation of a SALU code, if assigned (R251). -/
def saluOpOf (b : BitVec 4) : Option SaluOp :=
  match b.toNat with
  | 0 => some .add
  | 1 => some .sub
  | 2 => some .mul
  | 3 => some .and
  | 4 => some .or
  | 5 => some .xor
  | 6 => some .shl
  | 7 => some .shr
  | 8 => some .sar
  | 9 => some .minI
  | 10 => some .maxI
  | 11 => some .minN
  | 12 => some .maxN
  | 13 => some .fadd
  | 14 => some .fmul
  | _ => none

/-- The code of XRED and XSCAN (R272). -/
def RedOp.bits : RedOp → BitVec 4
  | .addN32 => 0
  | .addN64 => 1
  | .minI32 => 2
  | .maxI32 => 3
  | .minN32 => 4
  | .maxN32 => 5
  | .and => 6
  | .or => 7
  | .xor => 8
  | .addF32 => 9
  | .minF32 => 10
  | .maxF32 => 11
/-- The combine of a code, if assigned (R272). -/
def redOpOf (b : BitVec 4) : Option RedOp :=
  match b.toNat with
  | 0 => some .addN32
  | 1 => some .addN64
  | 2 => some .minI32
  | 3 => some .maxI32
  | 4 => some .minN32
  | 5 => some .maxN32
  | 6 => some .and
  | 7 => some .or
  | 8 => some .xor
  | 9 => some .addF32
  | 10 => some .minF32
  | 11 => some .maxF32
  | _ => none

/-- The code of FCVT (R258). -/
def FcvtCode.bits : FcvtCode → BitVec 4
  | .f16 => 0
  | .bf16 => 1
  | .fromF16 => 2
  | .fromBf16 => 3
  | .f16x2 _ => 4
  | .bf16x2 _ => 5
  | .i32 t => if t then 10 else 6
  | .n32 t => if t then 11 else 7
  | .i64 t => if t then 12 else 8
  | .n64 t => if t then 13 else 9
/-- The second source of the packed conversions. -/
def FcvtCode.src : FcvtCode → Src
  | .f16x2 b => b
  | .bf16x2 b => b
  | _ => .v 0
/-- The conversion of a code and B, if assigned (R258). -/
def fcvtOf (code : BitVec 4) (b : Src) : Option FcvtCode :=
  match code.toNat with
  | 0 => some .f16
  | 1 => some .bf16
  | 2 => some .fromF16
  | 3 => some .fromBf16
  | 4 => some (.f16x2 b)
  | 5 => some (.bf16x2 b)
  | 6 => some (.i32 false)
  | 7 => some (.n32 false)
  | 8 => some (.i64 false)
  | 9 => some (.n64 false)
  | 10 => some (.i32 true)
  | 11 => some (.n32 true)
  | 12 => some (.i64 true)
  | 13 => some (.n64 true)
  | _ => none
/-- The code of ICVT (R258). -/
def IcvtCode.bits : IcvtCode → BitVec 4
  | .f32i32 => 0
  | .f32n32 => 1
  | .f32i64 => 2
  | .f32n64 => 3
  | .i16 => 4
  | .i8 => 5
  | .n16 => 6
  | .n8 => 7
  | .i64 => 8
  | .n64 => 9
/-- The conversion of a code, if assigned (R258). -/
def icvtOf (code : BitVec 4) : Option IcvtCode :=
  match code.toNat with
  | 0 => some .f32i32
  | 1 => some .f32n32
  | 2 => some .f32i64
  | 3 => some .f32n64
  | 4 => some .i16
  | 5 => some .i8
  | 6 => some .n16
  | 7 => some .n8
  | 8 => some .i64
  | 9 => some .n64
  | _ => none

/-- SUB[2:0] of VOTE.TEST (R269). -/
def VoteCond.bits : VoteCond → BitVec 14
  | .none => 0
  | .some => 1
  | .every => 2
  | .agree => 3
  | .split => 4
/-- The condition of SUB; a reserved code is read as one that encodes to another SUB. -/
def voteCondOf (b : BitVec 14) : VoteCond :=
  match b.toNat with
  | 1 => .some
  | 2 => .every
  | 3 => .agree
  | 4 => .split
  | _ => .none

/-- The pair opcodes (R50). -/
def PairCode.bits : PairCode → BitVec 6
  | .add => 0x00
  | .sub => 0x01
  | .and => 0x02
  | .or => 0x03
  | .xor => 0x04
  | .andn => 0x05
  | .shl => 0x06
  | .shr => 0x07
  | .sar => 0x08
  | .sel => 0x09
  | .mov => 0x0A
  | .fadd => 0x10
  | .fmul => 0x11
  | .ffma => 0x12
  | .fmin => 0x13
  | .fmax => 0x14
  | .hadd2F16 => 0x18
  | .hadd2Bf16 => 0x19
  | .hfma2F16 => 0x1A
  | .hfma2Bf16 => 0x1B
/-- The operation of a pair opcode, if it is in the table (R50). -/
def pairCodeOf (b : BitVec 6) : Option PairCode :=
  match b.toNat with
  | 0x00 => some .add
  | 0x01 => some .sub
  | 0x02 => some .and
  | 0x03 => some .or
  | 0x04 => some .xor
  | 0x05 => some .andn
  | 0x06 => some .shl
  | 0x07 => some .shr
  | 0x08 => some .sar
  | 0x09 => some .sel
  | 0x0A => some .mov
  | 0x10 => some .fadd
  | 0x11 => some .fmul
  | 0x12 => some .ffma
  | 0x13 => some .fmin
  | 0x14 => some .fmax
  | 0x18 => some .hadd2F16
  | 0x19 => some .hadd2Bf16
  | 0x1A => some .hfma2F16
  | 0x1B => some .hfma2Bf16
  | _ => none

/-- The word of a pair (R47). -/
def PairWord.pack (w : PairWord) : W96 :=
  (0xF : BitVec 4) ++ w.op0.bank ++ w.op1.bank ++ w.op0.code.bits ++ w.op0.d ++ w.op0.a ++ w.op0.b ++
    w.op1.code.bits ++ w.op1.d ++ w.op1.a ++ w.op1.b ++ BitVec.ofBool w.gn ++ w.gp ++ (0 : BitVec 18) ++
    yieldBits w.yh ++ (0 : BitVec 9)

/-- The pair of a format-P word, if both pair opcodes are in the table (R47, R50). -/
def parsePair (w : W96) : Option PairWord :=
  match pairCodeOf (w.extractLsb' 82 6), pairCodeOf (w.extractLsb' 55 6) with
  | some c0, some c1 =>
    some
      { gn := w.getLsbD 33, gp := w.extractLsb' 29 4, yh := yieldOf (w.extractLsb' 9 2),
        op0 := { bank := w.extractLsb' 90 2, code := c0, d := w.extractLsb' 75 7, a := w.extractLsb' 68 7,
                 b := w.extractLsb' 61 7 },
        op1 := { bank := w.extractLsb' 88 2, code := c1, d := w.extractLsb' 48 7, a := w.extractLsb' 41 7,
                 b := w.extractLsb' 34 7 } }
  | _, _ => none

/-- Bit 31 to 23 field and kind bits of X for one vector-or-scalar source. -/
def xA (a : Src) : BitVec 32 := xReg 0 a.isS false false false 0 false 0

/-- X.REG of two sources and SUB, no destination kind. -/
def xAB (a b : Src) (sub : BitVec 14) : BitVec 32 := xReg 0 a.isS b.isS false false 0 false sub

/-! ### Encoding -/

/-- The fields of a two-source form of the integer class. -/
def encAlu (h : Hd) (opc : BitVec 8) (ty : BitVec 3) (v : BitVec 2) (d : Dst) (a : Src) (b : SrcI)
    (pd : Option PReg) : Fields :=
  fieldsOf h opc (modI b.isImm ty v) d.num a.num b.num (xAlu d a b pd)

/-- The fields of a one-source form of the integer class. -/
def encAlu1 (h : Hd) (opc : BitVec 8) (ty : BitVec 3) (v : BitVec 2) (d : Dst) (a : Src) : Fields :=
  fieldsOf h opc (modI false ty v) d.num a.num 0 (xReg 0 a.isS false false d.isS 0 false 0)

/-- The fields of a two-source floating-point form with an immediate form. -/
def encF (h : Hd) (opc : BitVec 8) (low : Bool) (d : Dst) (a : Src) (b : SrcI) : Fields :=
  fieldsOf h opc (BitVec.ofBool b.isImm ++ (0 : BitVec 4) ++ BitVec.ofBool low) d.num a.num b.num (xAlu d a b none)

/-- The fields of a three-source form. -/
def enc3 (h : Hd) (opc : BitVec 8) (mod : BitVec 6) (d : Dst) (a b c : Src) : Fields :=
  fieldsOf h opc mod d.num a.num b.num (xReg c.num a.isS b.isS c.isS d.isS 0 false 0)

/-- The fields of a one-source special-function form. -/
def encSf (h : Hd) (opc : BitVec 8) (d a : VReg) : Fields := fieldsOf h opc 0 d a 0 0

/-- The fields of a memory form: SP, SZ, SX, the operand and the data registers. -/
def encM (h : Hd) (opc : BitVec 8) (mod : BitVec 6) (d b : BitVec 9) (sp : BitVec 2) (sz : Sz) (sx : Bool)
    (m : MemRef) : Fields :=
  fieldsOf h opc mod d m.base.num b (xM sp sz sx m)

/-- The fields of a submission with a card. -/
def encCard (h : Hd) (opc : BitVec 8) (add : BitVec 6) (d : VReg) (c : CardSrc) : Fields :=
  fieldsOf h opc (c.mod + add) d c.numA c.numB c.x

/-- The fields of a handle form. -/
def encHandle (h : Hd) (opc : BitVec 8) (d : BitVec 9) (a : Src) : Fields :=
  fieldsOf h opc (mod1 a.isS) d a.num 0 0

/-- The fields of SYSR (R386). -/
def encSysr (h : Hd) (f : SysForm) (n : Srn) : Fields := fieldsOf h 0xD0 f.mod f.num 0 0 (xSys n)
/-- The fields of SYSW (R386). -/
def encSysw (h : Hd) (f : SysForm) (n : Nat) : Fields := fieldsOf h 0xD1 f.mod 0 f.num 0 (xSys (BitVec.ofNat 12 n))

/-- The fields of every format-G instruction; none for a pair and for an event. -/
def encodeG : Instr → Option Fields
  | .nop h => some (fieldsOf h 0x00 0 0 0 0 0)
  | .bra h imm => some (fieldsOf h 0x01 0 0 0 0 imm)
  | .brx h a imm => some (fieldsOf h 0x02 (mod1 a.isS) 0 a.num 0 imm)
  | .call h t =>
    match t with
    | .label imm => some (fieldsOf h 0x03 0 0 0 0 imm)
    | .reg a imm => some (fieldsOf h 0x03 2 0 a 0 imm)
  | .callLink h d t =>
    match t with
    | .label imm => some (fieldsOf h 0x03 1 d 0 0 imm)
    | .reg a imm => some (fieldsOf h 0x03 3 d a 0 imm)
  | .ret h => some (fieldsOf h 0x04 0 0 0 0 0)
  | .retLink h a => some (fieldsOf h 0x04 1 0 a 0 0)
  | .exit h => some (fieldsOf h 0x05 0 0 0 0 0)
  | .yield h => some (fieldsOf h 0x06 0 0 0 0 0)
  | .sleep h imm => some (fieldsOf h 0x07 0 0 0 0 imm)
  | .sleepAbs h a => some (fieldsOf h 0x07 (if a.isS then 2 else 1) 0 a.num 0 0)
  | .join h d a sz => some (fieldsOf h 0x08 0 (pNum d) a 0 ((0 : BitVec 29) ++ sz))
  | .joinRank h d a b sz => some (fieldsOf h 0x08 1 (pNum d) a b ((0 : BitVec 29) ++ sz))
  | .joinT h d a sz => some (fieldsOf h 0x08 2 (pNum d) a 0 ((0 : BitVec 29) ++ sz))
  | .joinRankT h d a b sz => some (fieldsOf h 0x08 3 (pNum d) a b ((0 : BitVec 29) ++ sz))
  | .leave h => some (fieldsOf h 0x09 0 0 0 0 0)
  | .ginfo h d => some (fieldsOf h 0x0A 0 d 0 0 0)
  | .post h a b => some (fieldsOf h 0x0B 0 0 a b 0)
  | .iadd h ty v d a b pd => some (encAlu h 0x20 ty.bits v.bits d a b pd)
  | .isub h ty v d a b pd => some (encAlu h 0x21 ty.bits v.bits d a b pd)
  | .imul h ty v d a b => some (encAlu h 0x22 ty.bits v.bits d a b none)
  | .imulh h ty d a b => some (encAlu h 0x23 ty.bits 0 d a b none)
  | .imad h ty v d a b c => some (enc3 h 0x24 (modI false ty.bits v.bits) d a b c)
  | .imin h ty d a b => some (encAlu h 0x25 ty.bits 0 d a b none)
  | .imax h ty d a b => some (encAlu h 0x26 ty.bits 0 d a b none)
  | .iabs h ty v d a => some (encAlu1 h 0x27 ty.bits v.bits d a)
  | .and h w d a b => some (encAlu h 0x28 (wideTy w) 0 d a b none)
  | .or h w d a b => some (encAlu h 0x29 (wideTy w) 0 d a b none)
  | .xor h w d a b => some (encAlu h 0x2A (wideTy w) 0 d a b none)
  | .andn h w d a b => some (encAlu h 0x2B (wideTy w) 0 d a b none)
  | .shl h w d a b => some (encAlu h 0x2C (wideTy w) 0 d a b none)
  | .shr h w d a b => some (encAlu h 0x2D (wideTy w) 0 d a b none)
  | .sar h w d a b => some (encAlu h 0x2E (if w then 2 else 0) 0 d a b none)
  | .rol h w d a b => some (encAlu h 0x2F (wideTy w) 0 d a b none)
  | .popc h w d a => some (encAlu1 h 0x30 (wideTy w) 0 d a)
  | .clz h w d a => some (encAlu1 h 0x31 (wideTy w) 0 d a)
  | .brev h w d a => some (encAlu1 h 0x32 (wideTy w) 0 d a)
  | .bfx h ty d a f =>
    some (fieldsOf h 0x33 (modI false ty.bits f.v) d.num a.num f.num
      (xReg 0 a.isS f.isS false d.isS 0 false f.sub))
  | .bfi h w d a b f =>
    some (fieldsOf h 0x34 (modI false (wideTy w) f.v) d.num a.num b.num
      (xReg f.num a.isS b.isS f.isS d.isS 0 false f.sub))
  | .icmp h ty d a b c => some (fieldsOf h 0x35 (modI false ty.bits 0) (pNum d) a.num b.num (xAB a b c.bits))
  | .sel h w d a b n p =>
    some (fieldsOf h 0x36 (modI false (wideTy w) 0) d.num a.num b.num
      (xReg 0 a.isS b.isS false d.isS 0 false ((0 : BitVec 9) ++ BitVec.ofBool n ++ p)))
  | .mov h w d a => some (encAlu1 h 0x37 (wideTy w) 0 d a)
  | .movi h k d imm =>
    some (fieldsOf h 0x38 (match k with | .b32 => 0x24 | .i64 => 0x28 | .n64 => 0x2C) d 0 0 imm)
  | .lea h sg d a b sh =>
    some (fieldsOf h 0x39 (if sg then 0x0D else 0x0C) d a.num b.num (xAB a b ((0 : BitVec 11) ++ sh)))
  | .idot4 h as bs d a b c =>
    some (fieldsOf h 0x3A ((0 : BitVec 4) ++ BitVec.ofBool bs ++ BitVec.ofBool as) d a b
      (xReg c false false false false 0 false 0))
  | .prmt h d a b sel => some (fieldsOf h 0x3B 0x04 d a b ((0 : BitVec 20) ++ sel))
  | .prmtCtl h d a b c => some (fieldsOf h 0x3B 0x05 d a b (xReg c false false false false 0 false 0))
  | .smov h d x =>
    match x with
    | .pair a r => some (fieldsOf h 0x3C 0 (sNum d) a 0 ((0 : BitVec 26) ++ r))
    | .reg a r => some (fieldsOf h 0x3C 1 (sNum d) a 0 ((0 : BitVec 26) ++ r))
    | .imm x => some (fieldsOf h 0x3C 2 (sNum d) 0 0 x)
    | .s a => some (fieldsOf h 0x3C 4 (sNum d) (sNum a) 0 0)
  | .smovHi h d x => some (fieldsOf h 0x3C 3 (sNum d) 0 0 x)
  | .salu h op d a b =>
    match b with
    | .s r => some (fieldsOf h 0x3D ((0 : BitVec 2) ++ op.bits) (sNum d) (sNum a) (sNum r) 0)
    | .imm x => some (fieldsOf h 0x3D ((2 : BitVec 2) ++ op.bits) (sNum d) (sNum a) 0 x)
  | .iclamp h ty d a b c => some (enc3 h 0x3E (modI false ty.bits 0) d a b c)
  | .fadd h d a b => some (encF h 0x40 false d a b)
  | .fsub h d a b => some (encF h 0x41 false d a b)
  | .fmul h d a b => some (encF h 0x42 false d a b)
  | .ffma h nab nc d a b c =>
    some (enc3 h 0x43 ((0 : BitVec 4) ++ BitVec.ofBool nc ++ BitVec.ofBool nab) d a b c)
  | .fmin h d a b => some (encF h 0x44 false d a b)
  | .fmax h d a b => some (encF h 0x45 false d a b)
  | .fcmp h fmt d a b c =>
    some (fieldsOf h 0x46 (match fmt with | .f32 => 0 | .f16 => 1 | .bf16 => 2) (pNum d) a.num b.num
      (xAB a b c.bits))
  | .fclass h d a pd mask =>
    some (fieldsOf h 0x47 0 d a.num 0
      (xReg 0 a.isS false false false (pd.getD 0) pd.isSome ((0 : BitVec 4) ++ mask)))
  | .frnd h rm d a => some (fieldsOf h 0x48 ((0 : BitVec 4) ++ rm.bits) d a.num 0 (xA a))
  | .fcvt h c rm d a =>
    some (fieldsOf h 0x49 (c.bits ++ rm.bits) d a.num c.src.num (xAB a c.src 0))
  | .icvt h c rm d a => some (fieldsOf h 0x4A (c.bits ++ rm.bits) d a.num 0 (xA a))
  | .frcp h d a => some (encSf h 0x4B d a)
  | .frsq h d a => some (encSf h 0x4C d a)
  | .fsqrt h d a => some (encSf h 0x4D d a)
  | .fdiv h d a b => some (fieldsOf h 0x4E 0 d a b 0)
  | .fexp2 h d a => some (encSf h 0x4F d a)
  | .flog2 h d a => some (encSf h 0x50 d a)
  | .fsin h d a => some (encSf h 0x51 d a)
  | .fcos h d a => some (encSf h 0x52 d a)
  | .ftanh h d a => some (encSf h 0x53 d a)
  | .hadd2 h bf d a b => some (encF h 0x54 bf (.v d) (.v a) b)
  | .hmul2 h bf d a b => some (encF h 0x55 bf (.v d) (.v a) b)
  | .hfma2 h bf d a b c => some (enc3 h 0x56 (mod1 bf) (.v d) (.v a) (.v b) (.v c))
  | .hdot2 h bf d a b c => some (enc3 h 0x57 (mod1 bf) (.v d) (.v a) (.v b) (.v c))
  | .fscale h d a b => some (encF h 0x58 false (.v d) a b)
  | .fflagTrap h m => some (fieldsOf h 0x59 0 0 0 0 ((0 : BitVec 27) ++ m))
  | .fflagClr h m => some (fieldsOf h 0x59 1 0 0 0 ((0 : BitVec 27) ++ m))
  | .fflagRd h d => some (fieldsOf h 0x59 2 d 0 0 0)
  | .rngd h f d => some (fieldsOf h 0x5A (mod1 f) d 0 0 0)
  | .rngs h f d a k => some (fieldsOf h 0x5B (mod1 f) d a k.num (xAB (.v 0) k 0))
  | .plop h d a b c t =>
    some (fieldsOf h 0x60 0 (pNum d) (pNum a) (pNum b)
      (xReg (pNum c) false false false false 0 false ((0 : BitVec 6) ++ t)))
  | .pmov h f =>
    match f with
    | .toV d a => some (fieldsOf h 0x61 0 d (pNum a) 0 0)
    | .fromV d a => some (fieldsOf h 0x61 1 (pNum d) a 0 0)
    | .imm d x => some (fieldsOf h 0x61 2 (pNum d) 0 0 ((0 : BitVec 24) ++ x))
  | .voteMask h d a => some (fieldsOf h 0x62 0 d (pNum a) 0 0)
  | .voteCount h d a => some (fieldsOf h 0x62 1 d (pNum a) 0 0)
  | .voteTest h d a c => some (fieldsOf h 0x62 2 (pNum d) (pNum a) 0 (xReg 0 false false false false 0 false c.bits))
  | .xbfly h w d a n =>
    some (fieldsOf h 0x63 ((0 : BitVec 3) ++ BitVec.ofBool w ++ (0 : BitVec 2)) d a 0 ((0 : BitVec 26) ++ n))
  | .xbflyTr h d s => some (fieldsOf h 0x63 2 d 0 0 ((0 : BitVec 26) ++ s))
  | .xshfl h w d a m =>
    let mo : BitVec 2 → BitVec 6 := fun k => (0 : BitVec 3) ++ BitVec.ofBool w ++ k
    match m with
    | .from b => some (fieldsOf h 0x64 (mo 0) d a b 0)
    | .bwd n => some (fieldsOf h 0x64 (mo 1) d a 0 ((0 : BitVec 26) ++ n))
    | .fwd n => some (fieldsOf h 0x64 (mo 2) d a 0 ((0 : BitVec 26) ++ n))
    | .rot n => some (fieldsOf h 0x64 (mo 3) d a 0 ((0 : BitVec 26) ++ n))
  | .xbcast h w d a n =>
    some (fieldsOf h 0x65 ((0 : BitVec 3) ++ BitVec.ofBool w ++ (0 : BitVec 2)) d a 0 ((0 : BitVec 26) ++ n))
  | .xred h op d a => some (fieldsOf h 0x66 ((0 : BitVec 2) ++ op.bits) d a 0 0)
  | .xscan h op ex d a => some (fieldsOf h 0x67 ((0 : BitVec 1) ++ BitVec.ofBool ex ++ op.bits) d a 0 0)
  | .ld h pr sz sx d m => some (encM h 0x70 0 d 0 (if pr then 1 else 0) sz sx m)
  | .lda h sz sx d m => some (encM h 0x71 0 d 0 0 sz sx m)
  | .st h pr sz m b => some (encM h 0x72 0 0 b (if pr then 1 else 0) sz false m)
  | .stl h sz m b => some (encM h 0x73 0 0 b 0 sz false m)
  | .atom h o op w d m b => some (encM h 0x74 (o.bits ++ op.bits) d b 0 (wideSz w) false m)
  | .cas h o w d m b => some (encM h 0x75 (o.bits ++ (0 : BitVec 4)) d b 0 (wideSz w) false m)
  | .fence h => some (fieldsOf h 0x76 0 0 0 0 0)
  | .smap h e w len f =>
    let x := (0 : BitVec 14) ++ len ++ (0 : BitVec 3) ++ BitVec.ofBool w ++ e
    match f with
    | .v a b => some (fieldsOf h 0x77 0 0 a b x)
    | .s a b => some (fieldsOf h 0x77 1 0 (sNum a) (sNum b) x)
  | .sunmap h e => some (fieldsOf h 0x78 0 0 0 0 ((0 : BitVec 28) ++ e))
  | .sflush h e => some (fieldsOf h 0x79 0 0 0 0 ((0 : BitVec 28) ++ e))
  | .binit h g m b => some (encM h 0x7A (mod1 g) 0 b 2 .b128 false m)
  | .barv h m n =>
    match n with
    | none => some (encM h 0x7B 0 0 0 2 .b128 false m)
    | some r => some (encM h 0x7B (if r.isS then 2 else 1) 0 r.num 2 .b128 false m)
  | .bexp h m n => some (encM h 0x7C (mod1 n.isS) 0 n.num 2 .b128 false m)
  | .bexpMax h m n => some (encM h 0x7C (if n.isS then 3 else 2) 0 n.num 2 .b128 false m)
  | .bwait h d m k => some (encM h 0x7D k.mod (pNum d) k.num 2 .b128 false m)
  | .btest h d m k => some (encM h 0x7E k.mod (pNum d) k.num 2 .b128 false m)
  | .bwaitt h d m k dl =>
    some (encM h 0x7F ((0 : BitVec 4) ++ BitVec.ofBool dl.isS ++ BitVec.ofBool k) (pNum d) dl.num 2 .b128 false m)
  | .bdrop h m => some (encM h 0x80 0 0 0 2 .b128 false m)
  | .baddb h m n => some (encM h 0x81 (mod1 n.isS) 0 n.num 2 .b128 false m)
  | .sld h sz sx d m => some (encM h 0x82 0 d 0 2 sz sx m)
  | .sst h sz m b => some (encM h 0x83 0 0 b 2 sz false m)
  | .atomf h o op d m b => some (encM h 0x84 (o.bits ++ op.bits) d b 0 .b32 false m)
  | .rowact h d b off => some (fieldsOf h 0x90 (mod1 b.isS) (tNum d) b.num 0 off)
  | .rowconW h a k => some (fieldsOf h 0x91 0 1 (tNum a) 0 ((0 : BitVec 29) ++ k))
  | .rowconS h a b off => some (fieldsOf h 0x91 (if b.isS then 2 else 1) 0 (tNum a) b.num off)
  | .rowconV h d a => some (fieldsOf h 0x91 3 d (tNum a) 0 0)
  | .rowput h a b off => some (fieldsOf h 0x92 (mod1 b.isS) 0 (tNum a) b.num off)
  | .rowputV h a b => some (fieldsOf h 0x92 2 0 (tNum a) b 0)
  | .rowpre h a => some (fieldsOf h 0x93 0 0 (tNum a) 0 0)
  | .rowqry h d a => some (fieldsOf h 0x94 0 d (tNum a) 0 0)
  | .rowwt h d a => some (fieldsOf h 0x95 0 (pNum d) (tNum a) 0 0)
  | .xcopy h d c => some (encCard h 0xA0 0 d c)
  | .xwait h d a => some (encHandle h 0xA1 (pNum d) a)
  | .xqry h d a => some (encHandle h 0xA2 d a)
  | .xcancel h d a => some (encHandle h 0xA3 (pNum d) a)
  | .crs h d c => some (encCard h 0xA4 0 d c)
  | .crsNorm h d c => some (encCard h 0xA4 4 d c)
  | .cag h d c => some (encCard h 0xA5 0 d c)
  | .car h d c => some (encCard h 0xA6 0 d c)
  | .cbc h d c => some (encCard h 0xA7 0 d c)
  | .fput h d a r => some (fieldsOf h 0xA8 0 (sNum d) (sNum a) 0 ((0 : BitVec 26) ++ r))
  | .fget h d a r => some (fieldsOf h 0xA9 0 (sNum d) (sNum a) 0 ((0 : BitVec 26) ++ r))
  | .fatom h o op w m b => some (encM h 0xAA (o.bits ++ op.bits) 0 b 0 (wideSz w) false m)
  | .fsig h x =>
    match x with
    | .v a b => some (fieldsOf h 0xAB 0 0 a b 0)
    | .s a b => some (fieldsOf h 0xAB 1 0 (sNum a) (sNum b) 0)
  | .mldw h ty tr a => some (fieldsOf h 0xB0 (modT ty tr) 1 (sNum a) 0 0)
  | .mswap h => some (fieldsOf h 0xB1 0 0 0 0 0)
  | .mstream h ty z d a => some (fieldsOf h 0xB2 (modT ty z) (tNum d) (sNum a) 0 0)
  | .mclr h m => some (fieldsOf h 0xB3 0 0 0 0 ((0 : BitVec 24) ++ m))
  | .mst h cv a b => some (fieldsOf h 0xB4 (modC cv false) 0 (tNum a) (sNum b) 0)
  | .mstReg h cv d a => some (fieldsOf h 0xB4 (modC cv true) d (tNum a) 0 0)
  | .mlda h cv d a => some (fieldsOf h 0xB5 (modC cv false) (tNum d) (sNum a) 0 0)
  | .mldaReg h cv d a => some (fieldsOf h 0xB5 (modC cv true) (tNum d) a 0 0)
  | .mgrp h ty z d a => some (fieldsOf h 0xB6 (modT ty z) (tNum d) (sNum a) 0 0)
  | .mqry h d => some (fieldsOf h 0xB7 0 (sNum d) 0 0 0)
  | .mtake h d m => some (fieldsOf h 0xB8 0 (pNum d) 0 0 ((0 : BitVec 23) ++ m))
  | .mgive h m => some (fieldsOf h 0xB9 0 0 0 0 ((0 : BitVec 23) ++ m))
  | .macc h i d a => some (fieldsOf h 0xBA (mod1 i) (tNum d) (tNum a) 0 0)
  | .mscl h d a => some (fieldsOf h 0xBB 0 (tNum d) (sNum a) 0 0)
  | .norma h f a b => some (fieldsOf h 0xC0 (mod1 f) 0 (sNum a) (sNum b) 0)
  | .normb h f a b => some (fieldsOf h 0xC1 (mod1 f) 0 (sNum a) (sNum b) 0)
  | .nprod h d a => some (fieldsOf h 0xC2 0 (sNum d) (sNum a) 0 0)
  | .aliasT h a b => some (fieldsOf h 0xC3 0 0 (sNum a) (sNum b) 0)
  | .sampmm h f d a b => some (fieldsOf h 0xC4 (mod1 f) (tNum d) (sNum a) (sNum b) 0)
  | .svrd h d => some (fieldsOf h 0xC5 0 (sNum d) 0 0 0)
  | .svrdW h d => some (fieldsOf h 0xC5 1 (sNum d) 0 0 0)
  | .svset h r c => some (fieldsOf h 0xC6 0 0 0 0 ((0 : BitVec 19) ++ c ++ r))
  | .awupd h bf d a b => some (fieldsOf h 0xC8 (mod1 bf) d a (sNum b) 0)
  | .sgdm h bf d a b => some (fieldsOf h 0xC9 (mod1 bf) d a (sNum b) 0)
  | .gscale h d a b => some (fieldsOf h 0xCA 0 d a (sNum b) 0)
  | .gscaleF h d b => some (fieldsOf h 0xCA 1 (sNum d) 0 (sNum b) 0)
  | .sysr h f n => some (encSysr h f n)
  | .sysw h f n => some (encSysw h f n.toNat)
  | .trap h imm => some (fieldsOf h 0xD2 0 0 0 0 imm)
  | .trapBrk h imm => some (fieldsOf h 0xD2 1 0 0 0 imm)
  | .eret h => some (fieldsOf h 0xD3 0 0 0 0 0)
  | .eretNext h => some (fieldsOf h 0xD3 1 0 0 0 0)
  | .xlate h d a => some (fieldsOf h 0xD4 0 d a 0 0)
  | .xlateCtx h d a b => some (fieldsOf h 0xD4 1 d a b 0)
  | .leaseq h d a => some (fieldsOf h 0xD5 0 d a 0 0)
  | .margin h d a b => some (fieldsOf h 0xD6 0 (pNum d) a b 0)
  | .marginRd h d a => some (fieldsOf h 0xD6 1 d a 0 0)
  | .scan h d a => some (fieldsOf h 0xD7 0 (pNum d) a 0 0)
  | .scanAbort h d a => some (fieldsOf h 0xD7 1 (pNum d) a 0 0)
  | .quar h d a => some (fieldsOf h 0xD8 0 (pNum d) a 0 0)
  | .snap h d c => some (fieldsOf h 0xD9 (mod1 c) (pNum d) 0 0 0)
  | .snapq h d c => some (fieldsOf h 0xDA (mod1 c) d 0 0 0)
  | .snapqW h d c => some (fieldsOf h 0xDA (if c then 3 else 2) d 0 0 0)
  | .haltc h d a => some (fieldsOf h 0xDB 0 (pNum d) a 0 0)
  | .haltcRel h d a => some (fieldsOf h 0xDB 1 (pNum d) a 0 0)
  | .ctxsv h d a => some (fieldsOf h 0xDC 0 (pNum d) a 0 0)
  | .ctxld h d a => some (fieldsOf h 0xDD 0 (pNum d) a 0 0)
  | .ctxldImg h d a b => some (fieldsOf h 0xDD 1 (pNum d) a b 0)
  | .cyccmpWrite h f => some (encSysw h f 0x001)
  | .eqheadWrite h f => some (encSysw h f 0x02A)
  | .eqRingWrite h f size => some (encSysw h f (if size then 0x029 else 0x028))
  | .eqtailRead h f => some (encSysr h f 0x02B)
  | .partmodeWrite h f n => some (encSysw h f (0xD00 + n.toNat))
  | .lcmapWrite h f n => some (encSysw h f (0x800 + n.toNat))
  | .fmtrangeWrite h f n hi => some (encSysw h f (0x100 + 2 * n.toNat + (if hi then 1 else 0)))
  | .marginRegWrite h f n => some (encSysw h f (0x400 + n.toNat))
  | .svarWrite h f n => some (encSysw h f (0x014 + n.toNat))
  | _ => none

/-- The word of an instruction; none for an event. -/
def encode (i : Instr) : Option W96 :=
  match i with
  | .pair w => some w.pack
  | _ => (encodeG i).map Fields.pack

/-! ### Decoding -/

/-- The two-source forms of the integer class, with the MOD values a table accepts. -/
def Fields.alu2 (f : Fields) (ok : Bool) (k : Ov → Instr) : Option Instr :=
  if ok then (ovOf f.mv).map k else none

/-- MOD has V = 0, and I = 0 unless `im`; TY is one of the list (R239). -/
def Fields.modIn (f : Fields) (im : Bool) (tys : List Nat) (vmax : Nat) : Bool :=
  (im || !f.mi) && tys.contains f.mty.toNat && f.mv.toNat ≤ vmax

/-- TY 3 against TY 1. -/
def Fields.wideTyB (f : Fields) : Bool := f.mty == 3

/-- OPC 0x00 to 0x0F (R52, R71, R72). -/
def parse0 (f : Fields) (h : Hd) : Option Instr :=
  let m := f.mod.toNat
  match f.opc.toNat % 16 with
  | 0x0 => if m = 0 then some (.nop h) else none
  | 0x1 => if m = 0 then some (.bra h f.x) else none
  | 0x2 => f.mod1?.map (fun k => .brx h (srcOf k f.a) f.x)
  | 0x3 =>
    match m with
    | 0 => some (.call h (.label f.x))
    | 1 => some (.callLink h f.d (.label f.x))
    | 2 => some (.call h (.reg f.a f.x))
    | 3 => some (.callLink h f.d (.reg f.a f.x))
    | _ => none
  | 0x4 =>
    match m with
    | 0 => some (.ret h)
    | 1 => some (.retLink h f.a)
    | _ => none
  | 0x5 => if m = 0 then some (.exit h) else none
  | 0x6 => if m = 0 then some (.yield h) else none
  | 0x7 =>
    match m with
    | 0 => some (.sleep h f.x)
    | 1 => some (.sleepAbs h (.v f.a))
    | 2 => some (.sleepAbs h (.s (sOf f.a)))
    | _ => none
  | 0x8 =>
    let sz := f.x.extractLsb' 0 3
    match m with
    | 0 => some (.join h (pOf f.d) f.a sz)
    | 1 => some (.joinRank h (pOf f.d) f.a f.b sz)
    | 2 => some (.joinT h (pOf f.d) f.a sz)
    | 3 => some (.joinRankT h (pOf f.d) f.a f.b sz)
    | _ => none
  | 0x9 => if m = 0 then some (.leave h) else none
  | 0xA => if m = 0 then some (.ginfo h f.d) else none
  | 0xB => if m = 0 then some (.post h f.a f.b) else none
  | _ => none

/-- OPC 0x20 to 0x2F (R239). -/
def parse2 (f : Fields) (h : Hd) : Option Instr :=
  let ty := tyOf f.mty
  let all := [0, 1, 2, 3, 4, 5, 6, 7]
  let sc := [0, 1, 2, 3]
  let raw := [1, 3]
  match f.opc.toNat % 16 with
  | 0x0 => f.alu2 (f.modIn true all 2) (fun v => .iadd h ty v f.dD f.aA f.bB f.pdO)
  | 0x1 => f.alu2 (f.modIn true all 2) (fun v => .isub h ty v f.dD f.aA f.bB f.pdO)
  | 0x2 => f.alu2 (f.modIn true sc 2) (fun v => .imul h ty v f.dD f.aA f.bB)
  | 0x3 => if f.modIn true sc 0 then some (.imulh h ty f.dD f.aA f.bB) else none
  | 0x4 =>
    f.alu2 (f.modIn false sc 1)
      (fun v => .imad h ty v (dstOf f.dk f.d) (srcOf f.ak f.a) (srcOf f.bk f.b) (srcOf f.ck f.c))
  | 0x5 => if f.modIn true all 0 then some (.imin h ty f.dD f.aA f.bB) else none
  | 0x6 => if f.modIn true all 0 then some (.imax h ty f.dD f.aA f.bB) else none
  | 0x7 => f.alu2 (f.modIn false [0, 2, 4, 6] 2) (fun v => .iabs h ty v (dstOf f.dk f.d) (srcOf f.ak f.a))
  | 0x8 => if f.modIn true raw 0 then some (.and h f.wideTyB f.dD f.aA f.bB) else none
  | 0x9 => if f.modIn true raw 0 then some (.or h f.wideTyB f.dD f.aA f.bB) else none
  | 0xA => if f.modIn true raw 0 then some (.xor h f.wideTyB f.dD f.aA f.bB) else none
  | 0xB => if f.modIn true raw 0 then some (.andn h f.wideTyB f.dD f.aA f.bB) else none
  | 0xC => if f.modIn true raw 0 then some (.shl h f.wideTyB f.dD f.aA f.bB) else none
  | 0xD => if f.modIn true raw 0 then some (.shr h f.wideTyB f.dD f.aA f.bB) else none
  | 0xE => if f.modIn true [0, 2] 0 then some (.sar h (f.mty == 2) f.dD f.aA f.bB) else none
  | _ => if f.modIn true raw 0 then some (.rol h f.wideTyB f.dD f.aA f.bB) else none

/-- OPC 0x30 to 0x3F (R239). -/
def parse3 (f : Fields) (h : Hd) : Option Instr :=
  let ty := tyOf f.mty
  let sc := [0, 1, 2, 3]
  let raw := [1, 3]
  let d := dstOf f.dk f.d
  let a := srcOf f.ak f.a
  let b := srcOf f.bk f.b
  let fld : Src → Field := fun r =>
    if f.mv = 0 then .imm (f.sub.extractLsb' 0 6) (f.sub.extractLsb' 6 7) else .reg r
  match f.opc.toNat % 16 with
  | 0x0 => if f.modIn false raw 0 then some (.popc h f.wideTyB d a) else none
  | 0x1 => if f.modIn false raw 0 then some (.clz h f.wideTyB d a) else none
  | 0x2 => if f.modIn false raw 0 then some (.brev h f.wideTyB d a) else none
  | 0x3 => if f.modIn false sc 1 then some (.bfx h ty d a (fld b)) else none
  | 0x4 => if f.modIn false raw 1 then some (.bfi h f.wideTyB d a b (fld (srcOf f.ck f.c))) else none
  | 0x5 => if f.modIn false [0, 1, 2, 3, 4, 5, 6, 7] 0 then some (.icmp h ty (pOf f.d) a b (condOf f.sub)) else none
  | 0x6 =>
    if f.modIn false raw 0 then
      some (.sel h f.wideTyB d a b (f.sub.getLsbD 4) (f.sub.extractLsb' 0 4))
    else none
  | 0x7 => if f.modIn false raw 0 then some (.mov h f.wideTyB d a) else none
  | 0x8 =>
    match f.mod.toNat with
    | 0x24 => some (.movi h .b32 f.d f.x)
    | 0x28 => some (.movi h .i64 f.d f.x)
    | 0x2C => some (.movi h .n64 f.d f.x)
    | _ => none
  | 0x9 =>
    match f.mod.toNat with
    | 0x0C => some (.lea h false f.d a b (f.sub.extractLsb' 0 3))
    | 0x0D => some (.lea h true f.d a b (f.sub.extractLsb' 0 3))
    | _ => none
  | 0xA =>
    if f.mod.toNat ≤ 3 then some (.idot4 h (f.mod.getLsbD 0) (f.mod.getLsbD 1) f.d f.a f.b f.c) else none
  | 0xB =>
    match f.mod.toNat with
    | 0x04 => some (.prmt h f.d f.a f.b (f.sub.extractLsb' 0 12))
    | 0x05 => some (.prmtCtl h f.d f.a f.b f.c)
    | _ => none
  | 0xC =>
    match f.mod.toNat with
    | 0 => some (.smov h (sOf f.d) (.pair f.a (f.x.extractLsb' 0 6)))
    | 1 => some (.smov h (sOf f.d) (.reg f.a (f.x.extractLsb' 0 6)))
    | 2 => some (.smov h (sOf f.d) (.imm f.x))
    | 3 => some (.smovHi h (sOf f.d) f.x)
    | 4 => some (.smov h (sOf f.d) (.s (sOf f.a)))
    | _ => none
  | 0xD =>
    if f.mod.getLsbD 4 then none
    else
      (saluOpOf (f.mod.extractLsb' 0 4)).map
        (fun op => .salu h op (sOf f.d) (sOf f.a) (if f.mi then .imm f.x else .s (sOf f.b)))
  | 0xE =>
    if f.modIn false sc 0 then some (.iclamp h ty d a b (srcOf f.ck f.c)) else none
  | _ => none

/-- MOD is I in bit 5 and at most `top` below (R235, R252). -/
def Fields.fpMod (f : Fields) (top : Nat) : Bool := (f.mod.extractLsb' 0 5).toNat ≤ top

/-- OPC 0x40 to 0x4F (R252). -/
def parse4 (f : Fields) (h : Hd) : Option Instr :=
  let a := srcOf f.ak f.a
  let b := srcOf f.bk f.b
  let m := f.mod.toNat
  match f.opc.toNat % 16 with
  | 0x0 => if f.fpMod 0 then some (.fadd h f.dD f.aA f.bB) else none
  | 0x1 => if f.fpMod 0 then some (.fsub h f.dD f.aA f.bB) else none
  | 0x2 => if f.fpMod 0 then some (.fmul h f.dD f.aA f.bB) else none
  | 0x3 =>
    if m ≤ 3 then
      some (.ffma h (f.mod.getLsbD 0) (f.mod.getLsbD 1) (dstOf f.dk f.d) a b (srcOf f.ck f.c))
    else none
  | 0x4 => if f.fpMod 0 then some (.fmin h f.dD f.aA f.bB) else none
  | 0x5 => if f.fpMod 0 then some (.fmax h f.dD f.aA f.bB) else none
  | 0x6 =>
    match m with
    | 0 => some (.fcmp h .f32 (pOf f.d) a b (fcondOf f.sub))
    | 1 => some (.fcmp h .f16 (pOf f.d) a b (fcondOf f.sub))
    | 2 => some (.fcmp h .bf16 (pOf f.d) a b (fcondOf f.sub))
    | _ => none
  | 0x7 =>
    if m = 0 then
      some (.fclass h f.d a (if f.pdv then some f.pd else none) (f.sub.extractLsb' 0 10))
    else none
  | 0x8 => if m ≤ 3 then some (.frnd h (rmOf f.mv) f.d a) else none
  | 0x9 =>
    match fcvtOf (f.mod.extractLsb' 2 4) b with
    | none => none
    | some c => if c.exact && f.mv != 0 then none else some (.fcvt h c (rmOf f.mv) f.d a)
  | 0xA =>
    match icvtOf (f.mod.extractLsb' 2 4) with
    | none => none
    | some c => if c.exact && f.mv != 0 then none else some (.icvt h c (rmOf f.mv) f.d a)
  | 0xB => if m = 0 then some (.frcp h f.d f.a) else none
  | 0xC => if m = 0 then some (.frsq h f.d f.a) else none
  | 0xD => if m = 0 then some (.fsqrt h f.d f.a) else none
  | 0xE => if m = 0 then some (.fdiv h f.d f.a f.b) else none
  | _ => if m = 0 then some (.fexp2 h f.d f.a) else none

/-- OPC 0x50 to 0x5B (R252). -/
def parse5 (f : Fields) (h : Hd) : Option Instr :=
  let m := f.mod.toNat
  match f.opc.toNat % 16 with
  | 0x0 => if m = 0 then some (.flog2 h f.d f.a) else none
  | 0x1 => if m = 0 then some (.fsin h f.d f.a) else none
  | 0x2 => if m = 0 then some (.fcos h f.d f.a) else none
  | 0x3 => if m = 0 then some (.ftanh h f.d f.a) else none
  | 0x4 => if f.fpMod 1 then some (.hadd2 h (f.mod.getLsbD 0) f.d f.a f.bB) else none
  | 0x5 => if f.fpMod 1 then some (.hmul2 h (f.mod.getLsbD 0) f.d f.a f.bB) else none
  | 0x6 => f.mod1?.map (fun bf => .hfma2 h bf f.d f.a f.b f.c)
  | 0x7 => f.mod1?.map (fun bf => .hdot2 h bf f.d f.a f.b f.c)
  | 0x8 => if f.fpMod 0 then some (.fscale h f.d f.aA f.bB) else none
  | 0x9 =>
    match m with
    | 0 => some (.fflagTrap h (f.x.extractLsb' 0 5))
    | 1 => some (.fflagClr h (f.x.extractLsb' 0 5))
    | 2 => some (.fflagRd h f.d)
    | _ => none
  | 0xA => f.mod1?.map (fun k => .rngd h k f.d)
  | 0xB => f.mod1?.map (fun k => .rngs h k f.d f.a (srcOf f.bk f.b))
  | _ => none

/-- OPC 0x60 to 0x67 (R266 to R272). -/
def parse6 (f : Fields) (h : Hd) : Option Instr :=
  let m := f.mod.toNat
  let w := f.mod.getLsbD 2
  let lo := m % 4
  let n := f.x.extractLsb' 0 6
  match f.opc.toNat % 16 with
  | 0x0 => if m = 0 then some (.plop h (pOf f.d) (pOf f.a) (pOf f.b) (pOf f.c) (f.sub.extractLsb' 0 8)) else none
  | 0x1 =>
    match m with
    | 0 => some (.pmov h (.toV f.d (pOf f.a)))
    | 1 => some (.pmov h (.fromV (pOf f.d) f.a))
    | 2 => some (.pmov h (.imm (pOf f.d) (f.x.extractLsb' 0 8)))
    | _ => none
  | 0x2 =>
    match m with
    | 0 => some (.voteMask h f.d (pOf f.a))
    | 1 => some (.voteCount h f.d (pOf f.a))
    | 2 => some (.voteTest h (pOf f.d) (pOf f.a) (voteCondOf f.sub))
    | _ => none
  | 0x3 =>
    match m with
    | 0 | 4 => some (.xbfly h w f.d f.a n)
    | 2 => some (.xbflyTr h f.d n)
    | _ => none
  | 0x4 =>
    if m < 8 then
      match lo with
      | 0 => some (.xshfl h w f.d f.a (.from f.b))
      | 1 => some (.xshfl h w f.d f.a (.bwd n))
      | 2 => some (.xshfl h w f.d f.a (.fwd n))
      | _ => some (.xshfl h w f.d f.a (.rot n))
    else none
  | 0x5 => if m = 0 || m = 4 then some (.xbcast h w f.d f.a n) else none
  | 0x6 => if m < 16 then (redOpOf (f.mod.extractLsb' 0 4)).map (fun op => .xred h op f.d f.a) else none
  | 0x7 =>
    if m < 32 then (redOpOf (f.mod.extractLsb' 0 4)).map (fun op => .xscan h op (f.mod.getLsbD 4) f.d f.a)
    else none
  | _ => none

/-- OPC 0x70 to 0x7F (R128). -/
def parse7 (f : Fields) (h : Hd) : Option Instr :=
  let m := f.mod.toNat
  match f.opc.toNat % 16 with
  | 0x0 => if m = 0 then some (.ld h (f.sp == 1) f.sz f.sx f.d f.mem) else none
  | 0x1 => if m = 0 then some (.lda h f.sz f.sx f.d f.mem) else none
  | 0x2 => if m = 0 then some (.st h (f.sp == 1) f.sz f.mem f.b) else none
  | 0x3 => if m = 0 then some (.stl h f.sz f.mem f.b) else none
  | 0x4 => (atomOpOf (f.mod.extractLsb' 0 4)).map (fun op => .atom h f.ord op f.wide f.d f.mem f.b)
  | 0x5 => if f.mod.extractLsb' 0 4 = 0 then some (.cas h f.ord f.wide f.d f.mem f.b) else none
  | 0x6 => if m = 0 then some (.fence h) else none
  | 0x7 =>
    f.mod1?.map (fun k =>
      .smap h (f.x.extractLsb' 0 4) (f.x.getLsbD 4) (f.x.extractLsb' 8 10)
        (if k then .s (sOf f.a) (sOf f.b) else .v f.a f.b))
  | 0x8 => if m = 0 then some (.sunmap h (f.x.extractLsb' 0 4)) else none
  | 0x9 => if m = 0 then some (.sflush h (f.x.extractLsb' 0 4)) else none
  | 0xA => f.mod1?.map (fun g => .binit h g f.mem f.b)
  | 0xB =>
    match m with
    | 0 => some (.barv h f.mem none)
    | 1 => some (.barv h f.mem (some (.v f.b)))
    | 2 => some (.barv h f.mem (some (.s (sOf f.b))))
    | _ => none
  | 0xC =>
    match m with
    | 0 => some (.bexp h f.mem (.v f.b))
    | 1 => some (.bexp h f.mem (.s (sOf f.b)))
    | 2 => some (.bexpMax h f.mem (.v f.b))
    | 3 => some (.bexpMax h f.mem (.s (sOf f.b)))
    | _ => none
  | 0xD => f.parity?.map (fun k => .bwait h (pOf f.d) f.mem k)
  | 0xE => f.parity?.map (fun k => .btest h (pOf f.d) f.mem k)
  | _ => if m ≤ 3 then some (.bwaitt h (pOf f.d) f.mem (f.mod.getLsbD 0) (srcOf (f.mod.getLsbD 1) f.b)) else none

/-- OPC 0x80 to 0x84 (R128). -/
def parse8 (f : Fields) (h : Hd) : Option Instr :=
  let m := f.mod.toNat
  match f.opc.toNat % 16 with
  | 0x0 => if m = 0 then some (.bdrop h f.mem) else none
  | 0x1 => f.mod1?.map (fun k => .baddb h f.mem (srcOf k f.b))
  | 0x2 => if m = 0 then some (.sld h f.sz f.sx f.d f.mem) else none
  | 0x3 => if m = 0 then some (.sst h f.sz f.mem f.b) else none
  | 0x4 => (atomfOpOf (f.mod.extractLsb' 0 4)).map (fun op => .atomf h f.ord op f.d f.mem f.b)
  | _ => none

/-- OPC 0x90 to 0x95 (R169). -/
def parse9 (f : Fields) (h : Hd) : Option Instr :=
  let m := f.mod.toNat
  match f.opc.toNat % 16 with
  | 0x0 => f.mod1?.map (fun k => .rowact h (tOf f.d) (srcOf k f.a) f.x)
  | 0x1 =>
    match m with
    | 0 => some (.rowconW h (tOf f.a) (f.x.extractLsb' 0 3))
    | 1 => some (.rowconS h (tOf f.a) (.v f.b) f.x)
    | 2 => some (.rowconS h (tOf f.a) (.s (sOf f.b)) f.x)
    | 3 => some (.rowconV h f.d (tOf f.a))
    | _ => none
  | 0x2 =>
    match m with
    | 0 => some (.rowput h (tOf f.a) (.v f.b) f.x)
    | 1 => some (.rowput h (tOf f.a) (.s (sOf f.b)) f.x)
    | 2 => some (.rowputV h (tOf f.a) f.b)
    | _ => none
  | 0x3 => if m = 0 then some (.rowpre h (tOf f.a)) else none
  | 0x4 => if m = 0 then some (.rowqry h f.d (tOf f.a)) else none
  | 0x5 => if m = 0 then some (.rowwt h (pOf f.d) (tOf f.a)) else none
  | _ => none

/-- OPC 0xA0 to 0xAB (R194). -/
def parseA (f : Fields) (h : Hd) : Option Instr :=
  let m := f.mod.toNat
  match f.opc.toNat % 16 with
  | 0x0 => (f.card? m).map (fun c => .xcopy h f.d c)
  | 0x1 => f.mod1?.map (fun k => .xwait h (pOf f.d) (srcOf k f.a))
  | 0x2 => f.mod1?.map (fun k => .xqry h f.d (srcOf k f.a))
  | 0x3 => f.mod1?.map (fun k => .xcancel h (pOf f.d) (srcOf k f.a))
  | 0x4 =>
    if m < 4 then (f.card? m).map (fun c => .crs h f.d c)
    else (f.card? (m - 4)).map (fun c => .crsNorm h f.d c)
  | 0x5 => (f.card? m).map (fun c => .cag h f.d c)
  | 0x6 => (f.card? m).map (fun c => .car h f.d c)
  | 0x7 => (f.card? m).map (fun c => .cbc h f.d c)
  | 0x8 => if m = 0 then some (.fput h (sOf f.d) (sOf f.a) (f.x.extractLsb' 0 6)) else none
  | 0x9 => if m = 0 then some (.fget h (sOf f.d) (sOf f.a) (f.x.extractLsb' 0 6)) else none
  | 0xA => (fatomOpOf (f.mod.extractLsb' 0 4)).map (fun op => .fatom h f.ord op f.wide f.mem f.b)
  | 0xB => f.mod1?.map (fun k => .fsig h (if k then .s (sOf f.a) (sOf f.b) else .v f.a f.b))
  | _ => none

/-- OPC 0xB0 to 0xBB (R278). -/
def parseB (f : Fields) (h : Hd) : Option Instr :=
  let m := f.mod.toNat
  let bit2 := f.mod.getLsbD 2
  let ty := if m < 8 then mtyOf f.mv else none
  match f.opc.toNat % 16 with
  | 0x0 => ty.map (fun t => .mldw h t bit2 (sOf f.a))
  | 0x1 => if m = 0 then some (.mswap h) else none
  | 0x2 => ty.map (fun t => .mstream h t bit2 (tOf f.d) (sOf f.a))
  | 0x3 => if m = 0 then some (.mclr h (f.x.extractLsb' 0 8)) else none
  | 0x4 =>
    if m < 4 then some (.mst h (cvOf f.mv) (tOf f.a) (sOf f.b))
    else if m < 8 then some (.mstReg h (cvOf f.mv) f.d (tOf f.a))
    else none
  | 0x5 =>
    if m < 4 then some (.mlda h (cvOf f.mv) (tOf f.d) (sOf f.a))
    else if m < 8 then some (.mldaReg h (cvOf f.mv) (tOf f.d) f.a)
    else none
  | 0x6 => ty.map (fun t => .mgrp h t bit2 (tOf f.d) (sOf f.a))
  | 0x7 => if m = 0 then some (.mqry h (sOf f.d)) else none
  | 0x8 => if m = 0 then some (.mtake h (pOf f.d) (f.x.extractLsb' 0 9)) else none
  | 0x9 => if m = 0 then some (.mgive h (f.x.extractLsb' 0 9)) else none
  | 0xA => f.mod1?.map (fun k => .macc h k (tOf f.d) (tOf f.a))
  | 0xB => if m = 0 then some (.mscl h (tOf f.d) (sOf f.a)) else none
  | _ => none

/-- OPC 0xC0 to 0xCA (R299, R306). -/
def parseC (f : Fields) (h : Hd) : Option Instr :=
  let m := f.mod.toNat
  match f.opc.toNat % 16 with
  | 0x0 => f.mod1?.map (fun k => .norma h k (sOf f.a) (sOf f.b))
  | 0x1 => f.mod1?.map (fun k => .normb h k (sOf f.a) (sOf f.b))
  | 0x2 => if m = 0 then some (.nprod h (sOf f.d) (sOf f.a)) else none
  | 0x3 => if m = 0 then some (.aliasT h (sOf f.a) (sOf f.b)) else none
  | 0x4 => f.mod1?.map (fun k => .sampmm h k (tOf f.d) (sOf f.a) (sOf f.b))
  | 0x5 => f.mod1?.map (fun k => if k then .svrdW h (sOf f.d) else .svrd h (sOf f.d))
  | 0x6 => if m = 0 then some (.svset h (f.x.extractLsb' 0 8) (f.x.extractLsb' 8 5)) else none
  | 0x8 => f.mod1?.map (fun k => .awupd h k f.d f.a (sOf f.b))
  | 0x9 => f.mod1?.map (fun k => .sgdm h k f.d f.a (sOf f.b))
  | 0xA => f.mod1?.map (fun k => if k then .gscaleF h (sOf f.d) (sOf f.b) else .gscale h f.d f.a (sOf f.b))
  | _ => none

/-- SYSW by its register: the registers whose write has a row of its own, then all others (R388). -/
def syswOf (h : Hd) (f : SysForm) (n : Srn) : Instr :=
  let k := n.toNat
  if k = 0x001 then .cyccmpWrite h f
  else if k = 0x028 then .eqRingWrite h f false
  else if k = 0x029 then .eqRingWrite h f true
  else if k = 0x02A then .eqheadWrite h f
  else if 0x014 ≤ k ∧ k ≤ 0x017 then .svarWrite h f (BitVec.ofNat 2 (k - 0x014))
  else if 0x100 ≤ k ∧ k ≤ 0x17F then .fmtrangeWrite h f (BitVec.ofNat 6 ((k - 0x100) / 2)) (n.getLsbD 0)
  else if 0x400 ≤ k ∧ k ≤ 0x61F then .marginRegWrite h f (BitVec.ofNat 10 (k - 0x400))
  else if 0x800 ≤ k ∧ k ≤ 0x9FF then .lcmapWrite h f (BitVec.ofNat 9 (k - 0x800))
  else if 0xD00 ≤ k ∧ k ≤ 0xD07 then .partmodeWrite h f (BitVec.ofNat 3 (k - 0xD00))
  else .sysw h f n

/-- SYSR by its register: EQTAIL has a row of its own (R384, R387). -/
def sysrOf (h : Hd) (f : SysForm) (n : Srn) : Instr :=
  if n.toNat = 0x02B then .eqtailRead h f else .sysr h f n

/-- OPC 0xD0 to 0xDD (R342, R386, R409, R433). -/
def parseD (f : Fields) (h : Hd) : Option Instr :=
  let m := f.mod.toNat
  match f.opc.toNat % 16 with
  | 0x0 => (sysFormOf f.mod f.d).map (fun k => sysrOf h k f.srn)
  | 0x1 => (sysFormOf f.mod f.a).map (fun k => syswOf h k f.srn)
  | 0x2 => f.mod1?.map (fun k => if k then .trapBrk h f.x else .trap h f.x)
  | 0x3 => f.mod1?.map (fun k => if k then .eretNext h else .eret h)
  | 0x4 => f.mod1?.map (fun k => if k then .xlateCtx h f.d f.a f.b else .xlate h f.d f.a)
  | 0x5 => if m = 0 then some (.leaseq h f.d f.a) else none
  | 0x6 => f.mod1?.map (fun k => if k then .marginRd h f.d f.a else .margin h (pOf f.d) f.a f.b)
  | 0x7 => f.mod1?.map (fun k => if k then .scanAbort h (pOf f.d) f.a else .scan h (pOf f.d) f.a)
  | 0x8 => if m = 0 then some (.quar h (pOf f.d) f.a) else none
  | 0x9 => f.mod1?.map (fun c => .snap h (pOf f.d) c)
  | 0xA =>
    match m with
    | 0 => some (.snapq h f.d false)
    | 1 => some (.snapq h f.d true)
    | 2 => some (.snapqW h f.d false)
    | 3 => some (.snapqW h f.d true)
    | _ => none
  | 0xB => f.mod1?.map (fun k => if k then .haltcRel h (pOf f.d) f.a else .haltc h (pOf f.d) f.a)
  | 0xC => if m = 0 then some (.ctxsv h (pOf f.d) f.a) else none
  | 0xD => f.mod1?.map (fun k => if k then .ctxldImg h (pOf f.d) f.a f.b else .ctxld h (pOf f.d) f.a)
  | _ => none

/-- The instruction the opcode and MOD of a format-G word name; none where they are unassigned (R52, R53). -/
def parseG (f : Fields) : Option Instr :=
  let h := f.hd
  match f.opc.toNat / 16 with
  | 0x0 => parse0 f h
  | 0x2 => parse2 f h
  | 0x3 => parse3 f h
  | 0x4 => parse4 f h
  | 0x5 => parse5 f h
  | 0x6 => parse6 f h
  | 0x7 => parse7 f h
  | 0x8 => parse8 f h
  | 0x9 => parse9 f h
  | 0xA => parseA f h
  | 0xB => parseB f h
  | 0xC => parseC f h
  | 0xD => parseD f h
  | _ => none

/-- Decodes a format-P word (R47 to R50, R53). -/
def decodePair (w : W96) : Except DecodeFault Instr :=
  match parsePair w with
  | none => .error .illegalOpcode
  | some p =>
    if p.pack ≠ w || !p.op0.ok || !p.op1.ok then .error .reservedBits
    else if p.ruleOk then .ok (.pair p)
    else .error .pairRule

/-- Decodes a format-G word (R34 to R46, R53). -/
def decodeG (w : W96) : Except DecodeFault Instr :=
  match parseG (Fields.unpack w) with
  | none => .error .illegalOpcode
  | some i =>
    if i.srnBad then .error .illegalOpcode
    else if encode i = some w && i.wf then .ok i
    else .error .reservedBits

/-- Decodes one word, total on its 96 bits, with the first fault of R54 that its encoding has. -/
def decode (w : W96) : Except DecodeFault Instr :=
  if w.extractLsb' 92 4 = 0xF then decodePair w else decodeG w

/-- The word has a format-P select, which no guard turns off as a whole (R54). -/
def selectPair (w : W96) : Bool :=
  w.extractLsb' 92 4 == 0xF && (w.extractLsb' 82 6 == 0x09 || w.extractLsb' 55 6 == 0x09)

/-- The guard bits a word holds, whatever its encoding: GN and GP (R34, R47). -/
def wordGuard (w : W96) : Bool × PReg :=
  if w.extractLsb' 92 4 = 0xF then (w.getLsbD 33, w.extractLsb' 29 4) else (w.getLsbD 54, w.extractLsb' 50 4)

/-- The word of twelve bytes in memory: three little-endian 32-bit words, the lowest bits first (R32). -/
def wordOfBytes (bs : List Byte) : W96 :=
  BitVec.ofNat 96 (bs.foldr (fun b acc => b.toNat + 256 * acc) 0)

/-- The twelve bytes of a word in memory (R32). -/
def bytesOfWord (w : W96) : List Byte := (upTo 12).map (fun k => w.extractLsb' (8 * k) 8)

/-- The instruction the decoder reads from the bits `w` of an instruction, numbered as the opcode table numbers them;
bits at and above `nbits` are zero. -/
def decodeTableWord (nbits w : Nat) : Option Instr :=
  match decode (wordOfBytes (bytesOfWord (BitVec.ofNat 96 (w % 2 ^ nbits)))) with
  | .ok i => some i
  | .error _ => none

end Sys2Proof
end

