-- ==== Sys2Proof/Machine/Base.lean ====
section
/-! DEFINITION. Looking up and changing threads, gangs, chunks, launches, contexts and cores; the cause codes; registers
with their poison and lookahead; the guard; retiring (spec/01 R13 to R18, spec/02 R36, R44, R46, spec/03 R63 to R69,
spec/18 R368, R377 to R381). -/

namespace Sys2Proof.Machine

/-! ### Small helpers -/

/-- A bit of a number. -/
def bitOf (x : Nat) (k : Nat) : Bool := x / 2 ^ k % 2 = 1
/-- Bits k to k + n − 1 of a number. -/
def bitsOf (x k n : Nat) : Nat := x / 2 ^ k % 2 ^ n
/-- A number as one bit. -/
def b2n (b : Bool) : Nat := if b then 1 else 0
/-- The mask with bit k set for each listed k. -/
def maskOf (ks : List Nat) : Nat := (upTo 64).foldl (fun m k => if ks.contains k then m + 2 ^ k else m) 0
/-- The least element of a list by a measure. -/
def minBy {α : Type} (f : α → Nat) : List α → Option α
  | [] => none
  | a :: r =>
    match minBy f r with
    | none => some a
    | some b => if f b < f a then some b else some a
/-- A list sorted by a measure, stable. -/
def sortBy {α : Type} (f : α → Nat) (l : List α) : List α :=
  l.foldr (fun a acc => acc.takeWhile (fun b => f b < f a) ++ a :: acc.dropWhile (fun b => f b < f a)) []
/-- Inserts an event by its cycle, after those of the same cycle. -/
def insertEvent (t : Nat) (i : Instr) : List (Nat × Instr) → List (Nat × Instr)
  | [] => [(t, i)]
  | e :: r => if e.1 ≤ t then e :: insertEvent t i r else (t, i) :: e :: r
/-- 64 bits sign-extended from 32. -/
def sext64 (x : W32) : W64 := x.signExtend 64
/-- 64 bits zero-extended from 32. -/
def zext64 (x : W32) : W64 := x.zeroExtend 64
/-- Bits [31:0]. -/
def lo32 (x : W64) : W32 := x.extractLsb' 0 32
/-- Bits [63:32]. -/
def hi32 (x : W64) : W32 := x.extractLsb' 32 32
/-- The pair with low word `a` and high word `b` (R217). -/
def pairOf (a b : W32) : W64 := b ++ a

/-! ### Causes (R378) -/

/-- A cause by group and index (R377). -/
def cause (g i : Nat) : Cause := BitVec.ofNat 8 (8 * g + i)
/-- The group of a cause. -/
def causeGroup (c : Cause) : Nat := c.toNat / 8

/-- ILLEGAL_OPCODE -/
def cIllegalOpcode : Cause := 0x08
/-- RESERVED_BITS -/
def cReservedBits : Cause := 0x09
/-- PAIR_RULE -/
def cPairRule : Cause := 0x0A
/-- PRIVILEGE -/
def cPrivilege : Cause := 0x0B
/-- MISALIGNED_PC -/
def cMisalignedPc : Cause := 0x0C
/-- TRAP_INSN -/
def cTrapInsn : Cause := 0x0D
/-- BREAKPOINT -/
def cBreakpoint : Cause := 0x0E
/-- REG_LIMIT -/
def cRegLimit : Cause := 0x0F
/-- INVALID, the first of the five causes of FFLAG -/
def cInvalid : Cause := 0x10
/-- INT_OVERFLOW -/
def cIntOverflow : Cause := 0x15
/-- CONVERT_RANGE -/
def cConvertRange : Cause := 0x16
/-- RNG_EXHAUSTED -/
def cRngExhausted : Cause := 0x17
/-- LEASE_VIOLATION -/
def cLeaseViolation : Cause := 0x18
/-- PROTECTION -/
def cProtection : Cause := 0x19
/-- ALIGNMENT -/
def cAlignment : Cause := 0x1A
/-- STASH_RANGE -/
def cStashRange : Cause := 0x1B
/-- FORMAT_RANGE_STORE -/
def cFormatRangeStore : Cause := 0x1C
/-- PRIVATE_LIMIT -/
def cPrivateLimit : Cause := 0x1D
/-- OWNER_MISMATCH -/
def cOwnerMismatch : Cause := 0x1E
/-- ATOMIC_SPACE -/
def cAtomicSpace : Cause := 0x1F
/-- BARRIER_OVERFLOW -/
def cBarrierOverflow : Cause := 0x20
/-- BARRIER_BAD_OBJECT -/
def cBarrierBadObject : Cause := 0x21
/-- GANG_FULL -/
def cGangFull : Cause := 0x22
/-- GANG_LANE_CLASH -/
def cGangLaneClash : Cause := 0x23
/-- GANG_NOT_MEMBER -/
def cGangNotMember : Cause := 0x24
/-- TASK_QUEUE_FULL -/
def cTaskQueueFull : Cause := 0x25
/-- BARRIER_PHASE_MISUSE -/
def cBarrierPhaseMisuse : Cause := 0x26
/-- CALL_DEPTH -/
def cCallDepth : Cause := 0x27
/-- ROW_NOT_READY -/
def cRowNotReady : Cause := 0x28
/-- ROW_LOST -/
def cRowLost : Cause := 0x29
/-- BANK_BUSY -/
def cBankBusy : Cause := 0x2A
/-- SLOT_EMPTY -/
def cSlotEmpty : Cause := 0x2B
/-- SLOT_IN_USE -/
def cSlotInUse : Cause := 0x2C
/-- ROW_NOT_LOCAL -/
def cRowNotLocal : Cause := 0x2D
/-- ROW_FORMAT_RANGE -/
def cRowFormatRange : Cause := 0x2E
/-- ROW_ACT_RATE -/
def cRowActRate : Cause := 0x2F
/-- PROMISE_MISSED -/
def cPromiseMissed : Cause := 0x30
/-- JOB_CARD_INVALID -/
def cJobCardInvalid : Cause := 0x31
/-- FOOTPRINT_SELF_OVERLAP -/
def cFootprintSelfOverlap : Cause := 0x32
/-- ENGINE_QUEUE_FULL -/
def cEngineQueueFull : Cause := 0x33
/-- COLLECTIVE_RETRY_EXHAUSTED -/
def cCollectiveRetryExhausted : Cause := 0x34
/-- COLLECTIVE_MEMBER_LOST -/
def cCollectiveMemberLost : Cause := 0x35
/-- JOB_CANCELLED -/
def cJobCancelled : Cause := 0x36
/-- ENGINE_FAULT_ADDRESS -/
def cEngineFaultAddress : Cause := 0x37
/-- REMOTE_UNREACHABLE -/
def cRemoteUnreachable : Cause := 0x38
/-- REMOTE_LEASE -/
def cRemoteLease : Cause := 0x39
/-- REMOTE_PROTECTION -/
def cRemoteProtection : Cause := 0x3A
/-- PACKET_STOMPED -/
def cPacketStomped : Cause := 0x3B
/-- SEQUENCE_GAP -/
def cSequenceGap : Cause := 0x3C
/-- ARRIVAL_COUNTER_BAD -/
def cArrivalCounterBad : Cause := 0x3D
/-- SEALED_MISMATCH -/
def cSealedMismatch : Cause := 0x3E
/-- FABRIC_TIMEOUT -/
def cFabricTimeout : Cause := 0x3F
/-- MATRIX_NOT_OWNED -/
def cMatrixNotOwned : Cause := 0x40
/-- SHAPE_RANGE -/
def cShapeRange : Cause := 0x41
/-- GROUP_OVERRUN -/
def cGroupOverrun : Cause := 0x42
/-- PLANE_NOT_LOADED -/
def cPlaneNotLoaded : Cause := 0x43
/-- ALIAS_SIZE -/
def cAliasSize : Cause := 0x44
/-- ALIAS_ZERO_MASS -/
def cAliasZeroMass : Cause := 0x45
/-- SAMPLE_NONFINITE -/
def cSampleNonfinite : Cause := 0x46
/-- ACCUM_COUNTER_SATURATED -/
def cAccumCounterSaturated : Cause := 0x47
/-- KEY_SLOT_EMPTY -/
def cKeySlotEmpty : Cause := 0x48
/-- GCM_TAG_FAIL -/
def cGcmTagFail : Cause := 0x49
/-- GCM_COUNTER_REUSE -/
def cGcmCounterReuse : Cause := 0x4A
/-- PLAINTEXT_RELEASE -/
def cPlaintextRelease : Cause := 0x4B
/-- ATTESTATION_STATE -/
def cAttestationState : Cause := 0x4C
/-- TDISP_UNLOCKED -/
def cTdispUnlocked : Cause := 0x4D
/-- SEALED_CHANNEL -/
def cSealedChannel : Cause := 0x4E
/-- SNAPSHOT_KEY -/
def cSnapshotKey : Cause := 0x4F
/-- REPLAY_LIMIT -/
def cReplayLimit : Cause := 0x50
/-- MARGIN_ESCALATED -/
def cMarginEscalated : Cause := 0x51
/-- NONREPLAYABLE_TIMING -/
def cNonreplayableTiming : Cause := 0x52
/-- QUARANTINE -/
def cQuarantine : Cause := 0x53
/-- SCAN_FAIL -/
def cScanFail : Cause := 0x54
/-- SCAN_ABORTED -/
def cScanAborted : Cause := 0x55
/-- ECC_CORRECTED -/
def cEccCorrected : Cause := 0x58
/-- ECC_UNCORRECTED -/
def cEccUncorrected : Cause := 0x59
/-- POISON_CONSUMED -/
def cPoisonConsumed : Cause := 0x5A
/-- BUS_PARITY_RETRIED -/
def cBusParityRetried : Cause := 0x5B
/-- LANE_SWAPPED -/
def cLaneSwapped : Cause := 0x5C
/-- PROTECTED_MISMATCH -/
def cProtectedMismatch : Cause := 0x5D
/-- REGISTER_PARITY -/
def cRegisterParity : Cause := 0x5E
/-- ERROR_QUEUE_OVERFLOW -/
def cErrorQueueOverflow : Cause := 0x5F
/-- SNAPSHOT_BUSY -/
def cSnapshotBusy : Cause := 0x60
/-- SNAPSHOT_STAGING_FULL -/
def cSnapshotStagingFull : Cause := 0x61
/-- SNAPSHOT_ABORTED -/
def cSnapshotAborted : Cause := 0x62
/-- RESTORE_MISMATCH -/
def cRestoreMismatch : Cause := 0x63
/-- CHANNEL_LOG_FULL -/
def cChannelLogFull : Cause := 0x64
/-- DRAIN_DEADLINE -/
def cDrainDeadline : Cause := 0x68
/-- CONTEXT_SAVED -/
def cContextSaved : Cause := 0x69
/-- CONTEXT_RESET -/
def cContextReset : Cause := 0x6A
/-- TIMER -/
def cTimer : Cause := 0x6B
/-- WATCHDOG -/
def cWatchdog : Cause := 0x6C

/-- The severity of a cause's records that are no trap (R381). -/
def sevOf (c : Cause) : Nat :=
  if [cEccCorrected, cBusParityRetried, cLaneSwapped, cReplayLimit, cMarginEscalated].contains c then 0
  else if [cAccumCounterSaturated, cSequenceGap, cDrainDeadline, cContextSaved, cSnapshotStagingFull, cScanAborted,
    cErrorQueueOverflow].contains c then 1
  else if [cLeaseViolation, cWatchdog, cNonreplayableTiming, cContextReset].contains c then 4
  else 3

/-- The bit of DETAIL.W2 that says SELF, for the groups that have it (R379). -/
def selfBit (c : Cause) : Option Nat :=
  match causeGroup c with
  | 3 => some 6
  | 4 => some 6
  | 5 => some 28
  | 7 => some 30
  | _ => none

/-- No detail. -/
def Detail.zero : Detail := { w0 := 0, w1 := 0, w2 := 0 }

/-- DETAIL with SELF set for the causes that have it (R379). -/
def Detail.withSelf (x : Detail) (c : Cause) (own : Bool) : Detail :=
  match selfBit c with
  | some k => if own then { x with w2 := x.w2 ||| (1#32 <<< k) } else x
  | none => x

/-- A detail of three numbers. -/
def detailOf (a b c : Nat) : Detail := { w0 := BitVec.ofNat 32 a, w1 := BitVec.ofNat 32 b, w2 := BitVec.ofNat 32 c }

/-! ### Looking up and changing -/

/-- The thread of a uid. -/
def Dev.thread? (d : Dev) (u : Nat) : Option Thread := d.threads.find? (fun t => t.uid == u)
/-- Changes every thread the test accepts. -/
def Dev.mapThreads (d : Dev) (p : Thread → Bool) (f : Thread → Thread) : Dev :=
  { d with threads := d.threads.map (fun t => if p t then f t else t) }
/-- Changes the thread of a uid. -/
def Dev.mapThread (d : Dev) (u : Nat) (f : Thread → Thread) : Dev := d.mapThreads (fun t => t.uid == u) f
/-- Changes the threads of some uids. -/
def Dev.mapUids (d : Dev) (us : List Nat) (f : Thread → Thread) : Dev := d.mapThreads (fun t => us.contains t.uid) f
/-- The threads of some uids, in ascending lane order (R105). -/
def Dev.threadsOf (d : Dev) (us : List Nat) : List Thread :=
  sortBy (fun t => t.lane) (d.threads.filter (fun t => us.contains t.uid))

/-- The context in a slot. -/
def Dev.ctx? (d : Dev) (k : Nat) : Option Ctx := KV.get? d.ctxs k
/-- Changes the context in a slot. -/
def Dev.mapCtx (d : Dev) (k : Nat) (f : Ctx → Ctx) : Dev :=
  match d.ctx? k with
  | none => d
  | some c => { d with ctxs := KV.set d.ctxs k (f c) }
/-- CYC of a context (R20). -/
def Dev.cyc (d : Dev) (k : Nat) : W64 :=
  match d.ctx? k with
  | some c => c.regs.cyc
  | none => 0

/-- The resources of a logical core. -/
def Dev.core (d : Dev) (n : Nat) : Core := KV.get d.cores Core.reset n
/-- Changes a logical core. -/
def Dev.mapCore (d : Dev) (n : Nat) (f : Core → Core) : Dev := { d with cores := KV.set d.cores n (f (d.core n)) }
/-- The physical core a logical core runs on; 0x3FF for none (R11, R407). -/
def Dev.physOf (d : Dev) (n : Nat) : Nat := KV.get d.lcmap (lcmapReset n) n
/-- A physical core. -/
def Dev.phys? (d : Dev) (p : Nat) : Phys := KV.get d.phys (Phys.reset p) p
/-- Changes a physical core. -/
def Dev.mapPhys (d : Dev) (p : Nat) (f : Phys → Phys) : Dev := { d with phys := KV.set d.phys p (f (d.phys? p)) }
/-- A die. -/
def Dev.die (d : Dev) (k : Nat) : Die := d.dies[k]?.getD Die.reset
/-- Changes a die. -/
def Dev.mapDie (d : Dev) (k : Nat) (f : Die → Die) : Dev := { d with dies := mapAt d.dies k f }
/-- The launch of a context and an id. -/
def Dev.launch? (d : Dev) (ctx lid : Nat) : Option Launch :=
  d.launches.find? (fun l => l.ctx == ctx && l.lid == lid)
/-- Changes a launch. -/
def Dev.mapLaunch (d : Dev) (ctx lid : Nat) (f : Launch → Launch) : Dev :=
  { d with launches := d.launches.map (fun l => if l.ctx == ctx && l.lid == lid then f l else l) }
/-- The chunk of a context, a launch and an index. -/
def Dev.chunk? (d : Dev) (ctx lid k : Nat) : Option Chunk :=
  d.chunks.find? (fun c => c.ctx == ctx && c.lid == lid && c.idx == k)
/-- Changes a chunk. -/
def Dev.mapChunk (d : Dev) (ctx lid k : Nat) (f : Chunk → Chunk) : Dev :=
  { d with chunks := d.chunks.map (fun c => if c.ctx == ctx && c.lid == lid && c.idx == k then f c else c) }
/-- The chunk of a thread. -/
def Dev.chunkOf? (d : Dev) (t : Thread) : Option Chunk := d.chunk? t.ctx t.lid t.chunk
/-- A fresh number. -/
def Dev.newId (d : Dev) : Nat × Dev := (d.fresh, { d with fresh := d.fresh + 1 })
/-- The device's counter for free values, and the device with it advanced. -/
def Dev.tick (d : Dev) : Dev := { d with ctr := d.ctr + 1 }
/-- PARTMODE of a partition (R29). -/
def Dev.mode (d : Dev) (p : Nat) : W64 := KV.get d.partmode 0 p
/-- The partition of a logical core (R23). -/
def Dev.partOf (d : Dev) (n : Nat) : Nat := KV.get d.corePart 0 n
/-- The priority class of a chunk's requests (R96). -/
def Dev.prioOf (d : Dev) (t : Thread) : Nat := ((d.chunkOf? t).map Chunk.prio).getD 2

/-! ### Gangs -/

/-- The gang-table entry of a core. -/
def Dev.gang? (d : Dev) (core g : Nat) : Option Gang := KV.get? (d.core core).gangs g
/-- Changes a gang. -/
def Dev.mapGang (d : Dev) (core g : Nat) (f : Gang → Gang) : Dev :=
  match d.gang? core g with
  | none => d
  | some x => d.mapCore core (fun c => { c with gangs := KV.set c.gangs g (f x) })
/-- The rank of a member. -/
def Gang.rankOf (g : Gang) (u : Nat) : Option Nat := g.remap.findIdx? (fun x => x == some u)
/-- The members, by uid, in rank order. -/
def Gang.members (g : Gang) : List Nat := g.remap.filterMap id
/-- The ranks that hold a member (R67). -/
def Gang.mask (g : Gang) : Nat := maskOf ((upTo g.size).filter (fun r => (g.remap[r]?.getD none).isSome))
/-- The entry of the gang a thread is in, if any. -/
def Dev.gangIdx? (d : Dev) (t : Thread) : Option Nat :=
  ((d.core t.core).gangs.find? (fun e => (e.2.rankOf t.uid).isSome)).map Prod.fst
/-- The uid whose membership a thread follows: its own, or that of its primary (R67). -/
def Thread.gangUid (t : Thread) : Nat := if t.shadow then t.partner.getD t.uid else t.uid
/-- The entry and the gang of a thread; a shadow follows its primary (R67, R404). -/
def Dev.gangOf? (d : Dev) (t : Thread) : Option (Nat × Gang) :=
  (d.core t.core).gangs.find? (fun e => (e.2.rankOf t.gangUid).isSome)
/-- The rank of a thread in its gang. -/
def Dev.rank? (d : Dev) (t : Thread) : Option Nat :=
  match d.gangOf? t with
  | some (_, g) => g.rankOf t.gangUid
  | none => none
/-- A gang scalar of a gang; s0 reads as zero (R17). -/
def Gang.sreg (g : Gang) (r : SReg) : W64 := if r = 0 then 0 else g.sregs[r.toNat]?.getD 0
/-- The poison of a gang scalar. -/
def Gang.spsn (g : Gang) (r : SReg) : Bool := r != 0 && g.sregPsn[r.toNat]?.getD false
/-- Writes a gang scalar; a write to s0 is discarded (R17). -/
def Gang.setS (g : Gang) (r : SReg) (v : W64) (p : Bool) : Gang :=
  if r = 0 then g
  else { g with sregs := g.sregs.set r.toNat v, sregPsn := g.sregPsn.set r.toNat p }
/-- A gang scalar as a thread reads it; zero outside a gang. -/
def Dev.sreg (d : Dev) (t : Thread) (r : SReg) : W64 :=
  match d.gangOf? t with
  | some (_, g) => g.sreg r
  | none => 0
/-- The poison of a gang scalar as a thread reads it. -/
def Dev.spsn (d : Dev) (t : Thread) (r : SReg) : Bool :=
  match d.gangOf? t with
  | some (_, g) => g.spsn r
  | none => false

/-! ### Vector registers, predicates and the guard -/

/-- The pending result that writes a register, if its value is known. -/
def Thread.lateFor? (t : Thread) (r : VReg) : Option (Late × LateReg) :=
  t.late.findSome? (fun l => (l.regs.find? (fun x => x.reg == r)).map (fun x => (l, x)))

/-- A read of the registers of a pending result sees the new value (R44): a free choice, the same for all of them; not while the
access it comes from is not performed. DESIGN CHOICE: notes/assumptions/14. -/
def Late.shows (l : Late) (c u : Nat) : Bool :=
  l.unread.isNone && Config.seesNew c u ((l.regs.map (fun y => y.reg.toNat)).headD 0)

/-- What a read of a register sees (R44): the register, or, where a pending result will write it, either value. `c` is the
device's counter. DESIGN CHOICE: notes/assumptions/14. -/
def Thread.rd (t : Thread) (c : Nat) (r : VReg) : W32 :=
  match t.lateFor? r with
  | some (l, x) => if l.shows c t.uid then x.val else t.regs[r.toNat]?.getD 0
  | none => t.regs[r.toNat]?.getD 0

/-- The poison a read of a register sees. -/
def Thread.rdP (t : Thread) (c : Nat) (r : VReg) : Bool :=
  match t.lateFor? r with
  | some (l, x) => if l.shows c t.uid then x.psn else t.regPsn[r.toNat]?.getD false
  | none => t.regPsn[r.toNat]?.getD false

/-- A pair of registers as 64 bits (R217). -/
def Thread.rd64 (t : Thread) (c : Nat) (r : VReg) : W64 := pairOf (t.rd c r) (t.rd c (r + 1))
/-- The poison of a pair. -/
def Thread.rdP64 (t : Thread) (c : Nat) (r : VReg) : Bool := t.rdP c r || t.rdP c (r + 1)

/-- Writes a register with its poison. A pending result no longer writes it, and its latch is discarded (R44, R45). -/
def Thread.wr (t : Thread) (r : VReg) (v : W32) (p : Bool) : Thread :=
  { t with
    regs := t.regs.set r.toNat v
    regPsn := t.regPsn.set r.toNat p
    late := t.late.map (fun l => { l with regs := l.regs.filter (fun x => x.reg ≠ r) })
    latches := t.latches.filter (fun x => x.reg ≠ r) }

/-- Writes a pair. -/
def Thread.wr64 (t : Thread) (r : VReg) (v : W64) (p : Bool) : Thread :=
  (t.wr r (lo32 v) p).wr (r + 1) (hi32 v) p

/-- Writes consecutive registers. -/
def Thread.wrs (t : Thread) (r : VReg) : List W32 → Bool → Thread
  | [], _ => t
  | v :: vs, p => Thread.wrs (t.wr r v p) (r + 1) vs p

/-- A predicate; p0 reads 0xFF (R18). -/
def Thread.pred (t : Thread) (p : PReg) : Byte := if p = 0 then 0xFF else t.preds[p.toNat]?.getD 0
/-- The poison of a predicate; p0 is never poisoned (R375). -/
def Thread.predP (t : Thread) (p : PReg) : Bool := p != 0 && t.predPsn[p.toNat]?.getD false
/-- Writes a predicate; a write to p0 is discarded (R18). -/
def Thread.setPred (t : Thread) (p : PReg) (v : Byte) (psn : Bool) : Thread :=
  if p = 0 then t
  else { t with preds := t.preds.set p.toNat v, predPsn := t.predPsn.set p.toNat psn }

/-- The 8 guard bits (R36). -/
def Thread.guardBits (t : Thread) (gn : Bool) (gp : PReg) : Byte :=
  if gn then ~~~ (t.pred gp) else t.pred gp
/-- One guard bit. -/
def Thread.guardBit (t : Thread) (h : Hd) (k : Nat) : Bool := (t.guardBits h.gn h.gp).getLsbD k
/-- The guard of instructions without vector elements, bit 0 (R36). -/
def Thread.guard (t : Thread) (h : Hd) : Bool := t.guardBit h 0
/-- A governing bit is true, or the guard is poisoned: the lane is not guarded off (R36, R375). -/
def Thread.active (t : Thread) (h : Hd) (bits : List Nat) : Bool :=
  t.predP h.gp || bits.any (fun k => t.guardBit h k)

/-! ### Retiring -/

/-- The PC after the instruction (R32). -/
def nextPc (pc : W64) : W64 := pc + 12

/-- An issue restarts the age (R63), and counts one covered instruction of each pending result (R44). -/
def Thread.issued (t : Thread) (now : Nat) : Thread :=
  { t with since := now, late := t.late.map (fun l => { l with cover := l.cover - 1 }) }

/-- The instruction retires and the thread goes on at `pc` (R368, R371). DEDUCED: notes/assumptions/123. -/
def Thread.retireTo (t : Thread) (pc : W64) (now : Nat) : Thread :=
  { t.issued now with
    pc := pc
    wait := .none
    replays := 0
    asked := none
    retired := t.retired + 1
    skid := if t.inTrap then t.skid else t.skid + 1 }

/-- The instruction retires and the thread goes on after it. DEDUCED: notes/assumptions/34. -/
def Thread.retire (t : Thread) (now : Nat) : Thread := t.retireTo (nextPc t.pc) now

/-- A thread that waited becomes ready in the following cycle, with an age of zero (R63). -/
def Thread.readyNext (t : Thread) (now : Nat) : Thread := { t with wait := .none, since := now + 1 }

/-- An instruction for whose condition a thread waited retires: the thread becomes ready in the following cycle (R63, R69). -/
def Thread.woken (t : Thread) (now : Nat) : Thread := (t.retire now).readyNext now

/-- The yield hint of an instruction (R46). -/
def Thread.hint (t : Thread) (y : Yield) (now : Nat) : Thread :=
  match y with
  | .spin => { t with spin := now + 64 }
  | _ => t

/-! ### Issue groups -/

/-- The uids of the issue group; none when a rendezvous completes. -/
def Dev.group (d : Dev) : List Nat :=
  match d.cur with
  | .group _ us _ => us
  | _ => []

/-- The threads of the issue group, in ascending lane order. -/
def Dev.members (d : Dev) : List Thread := d.threadsOf d.group

/-- After an instruction with yield=switch the core prefers another issue group than the one that issued it (R46). DEDUCED: notes/assumptions/12. -/
def Dev.prefer (d : Dev) (y : Yield) : Dev :=
  match y, d.cur with
  | .switch, .group core us _ => d.mapCore core (fun c => { c with avoid := us })
  | _, _ => d

/-- Retires the threads of some uids, with the yield hint of the instruction. DESIGN CHOICE: notes/assumptions/14. -/
def Dev.retire (d : Dev) (us : List Nat) (y : Yield) : Dev :=
  d.mapUids us (fun t => (t.retire d.pcyc).hint y d.pcyc)

end Sys2Proof.Machine
end

