-- ==== Sys2Proof/Machine/Caches.lean ====
section
/-! DEFINITION. What an agent may still read of memory that another has overwritten (spec/05 R102 to R116). Memory holds each word as
the write that is last in coherence order left it; here stand the earlier values, and which writes happen before what each
agent does next: a read returns the latest value, or an earlier one that nothing orders before it (R114). -/

namespace Sys2Proof.Machine

/-- The agents of a write, and its kind (R104): a release, a read-modify-write. A gang-wide operation writes for every participant
(R105). -/
structure Writer where
  by_ : List Agent
  rel : Bool
  rmw : Bool

/-- A plain write of some agents. -/
def Writer.plain (as : List Agent) : Writer := { by_ := as, rel := false, rmw := false }

/-- A plain write of some threads. -/
def Writer.threads (us : List Nat) : Writer := Writer.plain (us.map Agent.thread)

/-- A number for an agent, for the free choices. -/
def Agent.code : Agent → Nat
  | .thread u => 8 * u
  | .job k h => 8 * (4 * h.toNat + k) + 1
  | .peer s v => 8 * (4096 * s + v) + 2
  | .host => 3
  | .device => 4

/-! ### Happens-before (R110, R111) -/

/-- The writes that happen before what an agent does next, its own apart. -/
def Caches.known (c : Caches) (a : Agent) : List Nat := ((c.knows.find? (fun e => e.1 == a)).map Prod.snd).getD []

/-- The writes that happen before what some agents do together next, their own apart. -/
def Caches.past (c : Caches) (as : List Agent) : List Nat := as.flatMap c.known

/-- Those writes and the agents' own. -/
def Caches.done (c : Caches) (as : List Agent) : List Nat :=
  c.past as ++ (c.olds.filter (fun o => o.by_.any as.contains)).map OldWord.num

/-- Some writes happen before what an agent does next. -/
def Caches.learn (c : Caches) (a : Agent) (ns : List Nat) : Caches :=
  if ns = [] then c else { c with knows := (a, (c.known a ++ ns).eraseDups) :: c.knows.filter (fun e => e.1 != a) }

/-- What some agents have done happens before what another does next. -/
def Caches.passTo (c : Caches) (as : List Agent) (b : Agent) : Caches := c.learn b (c.done as)

/-- What releases have left with a carrier of order. -/
def Caches.left (c : Caches) (s : Sync) : List Nat := ((c.syncs.find? (fun e => e.1 == s)).map Prod.snd).getD []

/-- What a carrier of order holds is replaced. -/
def Caches.put (c : Caches) (s : Sync) (ns : List Nat) : Caches :=
  let rest := c.syncs.filter (fun e => e.1 != s)
  { c with syncs := if ns = [] then rest else (s, ns) :: rest }

/-- Some agents release through a carrier of order. -/
def Caches.leave (c : Caches) (as : List Agent) (s : Sync) : Caches :=
  if c.olds = [] then c else c.put s (c.left s ++ c.done as).eraseDups

/-- Some agents acquire through a carrier of order. -/
def Caches.take (c : Caches) (as : List Agent) (s : Sync) : Caches := as.foldl (fun c a => c.learn a (c.left s)) c

/-- A barrier object flips: what its arrivals released is what waits for that flip acquire (R110). -/
def Caches.flip (c : Caches) (ctx lid chunk off : Nat) : Caches :=
  if c.syncs = [] then c
  else (c.put (.obj ctx lid chunk off true) (c.left (.obj ctx lid chunk off false))).put (.obj ctx lid chunk off false) []

/-- Some agents have learnt of every write of another module. -/
def Caches.takePeers (c : Caches) (as : List Agent) : Caches :=
  let ns := (c.olds.filter (fun o => o.by_.any (fun a => match a with | .peer _ _ => true | _ => false))).map OldWord.num
  as.foldl (fun c a => c.learn a ns) c

/-! ### What a read may return (R114) -/

/-- The number of the first write whose old value an agent may still read in a word, after what it has read there. -/
def Caches.from_ (c : Caches) (a : Agent) (word : Nat) : Nat :=
  ((c.seen.find? (fun e => e.1 == (a, word))).map Prod.snd).getD 0

/-- Some agents may read the value a write replaced: the write is not theirs, does not happen before the read, and they have read
nothing later in the word. -/
def OldWord.readable (o : OldWord) (c : Caches) (as : List Agent) : Bool :=
  !(o.by_.any as.contains) && !((c.past as).contains o.num) && as.all (fun a => decide (c.from_ a o.word ≤ o.num))

/-- The earlier values of a word that some agents may still read, the latest first. -/
def Caches.choices (c : Caches) (as : List Agent) (word : Nat) : List OldWord :=
  ((c.olds.filter (fun o => o.word == word)).reverse).takeWhile (fun o => o.readable c as)

/-- Some agents have read a word: an earlier value, or the value in memory. They read nothing earlier there any more. -/
def Caches.saw (c : Caches) (as : List Agent) (word : Nat) (o : Option OldWord) : Caches :=
  if c.olds.all (fun x => x.word != word) then c
  else as.foldl (fun c a => { c with seen := ((a, word), (o.map OldWord.num).getD c.next) :: c.seen.filter (fun e => e.1 != (a, word)) }) c

/-! ### Writes -/

/-- What an acquire of some bytes acquires after a write of them (R110): what a release has left; a read-modify-write goes on with what
was there; a plain write leaves nothing. -/
def Caches.stamp (c : Caches) (w : Writer) (bytes : List Nat) : Caches :=
  if c.olds = [] then c
  else bytes.foldl (fun c b =>
    if w.rel then c.put (.byte b) ((if w.rmw then c.left (.byte b) else []) ++ c.done w.by_).eraseDups
    else if w.rmw then c else c.put (.byte b) []) c

/-- A word is written: the value before stays readable to others, or none of its earlier values does. DESIGN CHOICE: notes/assumptions/26. -/
def Caches.wrote (c : Caches) (w : Writer) (word : Nat) (mask : List Nat) (old : List Byte × Bool) (keep : Bool) : Caches :=
  if keep then
    let o : OldWord := { word := word, num := c.next, by_ := w.by_, mask := mask, fixed := w.rel || w.rmw, bytes := old.1, psn := old.2 }
    Caches.stamp { c with next := c.next + 1, olds := c.olds ++ [o] } w (mask.map (fun k => 8 * word + k))
  else if c.olds = [] then c
  else
    Caches.stamp { c with olds := c.olds.filter (fun o => o.word != word), seen := c.seen.filter (fun e => e.1.2 != word) } w
      (mask.map (fun k => 8 * word + k))

/-- The last write of a word, if a plain write of other agents may stand before it in coherence order: both are plain, and neither
the agents' past nor what they have read holds it. -/
def Caches.before? (c : Caches) (w : Writer) (word : Nat) : Option OldWord :=
  match (c.olds.filter (fun o => o.word == word)).getLast? with
  | some o =>
    if !(w.by_.isEmpty) && !w.rel && !w.rmw && !o.fixed && o.readable c w.by_ then some o else none
  | none => none

/-- A write goes into coherence order just before the last write `o` of its word: it replaced what `o` replaced, and `o`, with a
new number, replaces what it left. DESIGN CHOICE: notes/assumptions/26. -/
def Caches.slip (c : Caches) (w : Writer) (o : OldWord) (mask : List Nat) (left : List Byte × Bool) : Caches :=
  let ren := fun (n : Nat) => if n = o.num then c.next else n
  let first : OldWord := { o with by_ := w.by_, mask := mask }
  let second : OldWord := { o with num := c.next, bytes := left.1, psn := left.2 }
  { next := c.next + 1
    olds := c.olds.filter (fun x => x != o) ++ [first, second]
    seen := c.seen.map (fun e => if e.1.2 = o.word && o.num < e.2 then (e.1, c.next + 1) else e)
    knows := c.knows.map (fun e => (e.1, e.2.map ren))
    syncs := c.syncs.map (fun e => (e.1, e.2.map ren)) }

/-- No earlier value of a range stays readable. -/
def Caches.drop (c : Caches) (pa n : Nat) : Caches :=
  if c.olds = [] then c else { c with olds := c.olds.filter (fun o => !(pa < 8 * o.word + 8 && 8 * o.word < pa + n)) }

/-! ### On the device -/

/-- Someone else than some agents could hold an earlier value: a thread, a job, another module. -/
def Dev.watched (d : Dev) (as : List Agent) : Bool :=
  d.threads.any (fun t => !t.shadow && !(as.contains (.thread t.uid))) || d.dies.any (fun x => x.jobs ≠ []) ||
    d.ctxs.any (fun e => 1 < e.2.members.length)

/-- The agents that some threads are. -/
def agentsOf (ts : List Thread) : List Agent := ts.map (fun t => .thread t.gangUid)

/-- What some threads have done happens before what an agent does next. -/
def Dev.passTo (d : Dev) (ts : List Thread) (a : Agent) : Dev := { d with caches := d.caches.passTo (agentsOf ts) a }

/-- What an agent has done happens before what some threads do next. -/
def Dev.learns (d : Dev) (ts : List Thread) (a : Agent) : Dev :=
  { d with caches := (agentsOf ts).foldl (fun c b => c.passTo [a] b) d.caches }

/-- Threads release and acquire through a carrier of order. -/
def Dev.leaves (d : Dev) (ts : List Thread) (s : Sync) : Dev := { d with caches := d.caches.leave (agentsOf ts) s }

/-- Threads acquire through a carrier of order. -/
def Dev.takes (d : Dev) (ts : List Thread) (s : Sync) : Dev := { d with caches := d.caches.take (agentsOf ts) s }

/-- Threads fence (R112): what they did, and what fences before them left, is before what they and later fences do. A fence of
another module leaves nothing here, so that every write of another module is before it. -/
def Dev.fences (d : Dev) (ts : List Thread) : Dev :=
  { d with caches := ((d.caches.take (agentsOf ts) .fence).takePeers (agentsOf ts)).leave (agentsOf ts) .fence }

end Sys2Proof.Machine
end

