-- ==== Sys2Proof/Machine/Paging.lean ====
section
/-! DEFINITION. Addresses, page tables, leases and physical memory (spec/01 R25 to R28, spec/04 R90 to R92, spec/05 R115,
R119, spec/06 R136, spec/09 R232 to R234, spec/15 R331 to R336, spec/16 R357, spec/20 R420). -/

namespace Sys2Proof.Machine

/-! ### Virtual addresses (R25, R26) -/

/-- The window of a virtual address. -/
inductive Window where
  | bad
  | local_ (off : Nat)
  | fabric (vm off : Nat)
  deriving DecidableEq, Repr

/-- Splits a virtual address (R25). -/
def windowOf (va : W64) : Window :=
  let x := va.toNat
  let top := x / 2 ^ 56
  if top = 0 then .local_ x
  else if top = 0xFF then .fabric (x / 2 ^ 44 % 2 ^ 12) (x % 2 ^ 44)
  else .bad

/-- The window as the executing module sees it: its own vm in the fabric window is served locally (R26). -/
def Ctx.window (c : Ctx) (va : W64) : Window :=
  match windowOf va with
  | .fabric vm off => if vm = c.vm then .local_ off else .fabric vm off
  | w => w

/-! ### Physical addresses (R27, R115, R462) -/

/-- The logical core whose column holds the address, for tier 1. -/
def columnOf (pa : Nat) : Nat := pa / 0x10000000
/-- The address is in tier 1. -/
def inTier1 (pa : Nat) : Bool := pa < 0x2000000000
/-- The address is in tier 2. -/
def inTier2 (pa : Nat) : Bool := 0x10000000000 ≤ pa && pa < 0x1C000000000
/-- The CXL port of a tier-3 address. -/
def tier3Port (pa : Nat) : Option Nat :=
  if 0x100000000000 ≤ pa && pa < 0x140000000000 then some 0
  else if 0x140000000000 ≤ pa && pa < 0x180000000000 then some 1
  else none
/-- The address is one of the physical map. -/
def inMap (pa : Nat) : Bool := inTier1 pa || inTier2 pa || (tier3Port pa).isSome
/-- The address can be accessed: a port without a device reads as unmapped (R27, R462). -/
def Dev.paOk (d : Dev) (pa : Nat) : Bool :=
  inTier1 pa || inTier2 pa ||
    match tier3Port pa with
    | some p => d.cxl.contains p
    | none => false
/-- The home die of a physical address (R115). -/
def homeDie (pa : Nat) : Nat :=
  if inTier1 pa then columnOf pa / 128 else (pa / 2 ^ 12 % 4) ^^^ (pa / 2 ^ 22 % 4)

/-- The home slice of a physical address on its home die (R115). -/
def homeSlice (pa : Nat) : Nat := (pa / 2 ^ 14 % 16) ^^^ (pa / 2 ^ 24 % 16)

/-! ### Array errors (R182) -/

/-- The codeword bits flipped in a 128-bit word. DESIGN CHOICE: notes/assumptions/72. -/
def Dev.flipsOf (d : Dev) (w : Nat) : List Nat := (d.flips.filter (fun f => f.1 == w)).map Prod.snd

/-- How a 128-bit word with flipped bits is delivered (R182): corrected or clean; uncorrectable; with other bits. Three
or more flips decode as they happen to: uncorrectable, with a correction of a bit that was not in error, or unchanged. -/
inductive EccOut where
  | clean
  | corrected (bit : Nat)
  | bad
  | wrong (bits : List Nat)
  deriving DecidableEq, Repr

/-- How a 128-bit word is delivered. DESIGN CHOICE: notes/assumptions/126. -/
def Dev.ecc (d : Dev) (w : Nat) : EccOut :=
  match d.flipsOf w with
  | [] => .clean
  | [b] => .corrected b
  | [_, _] => .bad
  | fs =>
    match Config.pick w % 3 with
    | 0 => .bad
    | 1 =>
      let good := (upTo 137).filter (fun k => !(fs.contains k))
      .wrong (good[Config.pick (w + 1) % good.length]?.getD 0 :: fs)
    | _ => .wrong fs

/-- The byte the array delivers, and whether it is poisoned. -/
def Dev.arrayByte (d : Dev) (pa : Nat) : Byte × Bool :=
  let b := d.mem.get pa
  let p := d.psn.contains (pa / 8)
  if d.flips.isEmpty then (b, p)
  else
    match d.ecc (pa / 16) with
    | .clean => (b, p)
    | .corrected _ => (b, p)
    | .bad => (b, true)
    | .wrong bits =>
      (bits.foldl (fun x k => if k < 128 && k / 8 == pa % 16 then x ^^^ (1#8 <<< (k % 8)) else x) b, p)

/-- Memory as its reads deliver it: words with flipped bits as their code decodes them. -/
def Dev.readMem (d : Dev) : Memory :=
  if d.flips.isEmpty then d.mem
  else ((d.flips.map Prod.fst).eraseDups).foldl (fun m w => m.setBytes (16 * w) ((upTo 16).map (fun k => (d.arrayByte (16 * w + k)).1))) d.mem

/-! ### The walk (R331 to R333) -/

/-- The leaf a walk finds: its entry, where the entry lies, its level and the physical address. -/
structure Leaf where
  entry : W64
  at_   : Nat
  level : Nat
  pa    : Nat
  deriving DecidableEq, Repr

/-- The position of the VA bits of a level, and their number. -/
def levelShift (k : Nat) : Nat × Nat :=
  match k with
  | 0 => (16, 5)
  | 1 => (21, 9)
  | 2 => (30, 13)
  | _ => (43, 13)

/-- A leaf entry is malformed at this level (R333). -/
def leafBad (e : Nat) (k : Nat) : Bool :=
  let size := (levelShift k).1
  let frame := bitsOf e 16 32 * 2 ^ 16
  k = 3 || bitOf e 7 || frame % 2 ^ size ≠ 0 || !(inMap frame) || (bitOf e 3 && !(bitOf e 2)) ||
    (bitsOf e 10 6 ≠ 0 && !(bitOf e 6))

/-- A non-leaf entry is malformed at this level (R333). -/
def nodeBad (e : Nat) (k : Nat) : Bool := k = 0 || bitsOf e 2 6 ≠ 0 || bitsOf e 48 16 ≠ 0

/-- Walks from a level down to the first leaf (R331); a malformed entry reads as V = 0 (R333). -/
def walkFrom (m : Memory) (va : Nat) : Nat → Nat → Option Leaf
  | 0, _ => none
  | k + 1, table =>
    let (sh, n) := levelShift k
    let ea := table + 8 * bitsOf va sh n
    let e := m.getLE ea 8
    if !(bitOf e 0) then none
    else if bitOf e 1 then
      if leafBad e k then none
      else some { entry := BitVec.ofNat 64 e, at_ := ea, level := k, pa := bitsOf e 16 32 * 2 ^ 16 + va % 2 ^ sh }
    else if nodeBad e k then none
    else walkFrom m va k (bitsOf e 8 40 * 2 ^ 8)

/-- A page that a context's table maps: virtual address, physical address and size. -/
structure Page where
  va   : Nat
  pa   : Nat
  size : Nat
  deriving DecidableEq, Repr

/-- The addresses of the entries that a walk reads (R331). -/
def walkReads (m : Memory) (va : Nat) : Nat → Nat → List Nat
  | 0, _ => []
  | k + 1, table =>
    let (sh, n) := levelShift k
    let ea := table + 8 * bitsOf va sh n
    let e := m.getLE ea 8
    ea :: (if !(bitOf e 0) || bitOf e 1 || nodeBad e k then [] else walkReads m va k (bitsOf e 8 40 * 2 ^ 8))

/-- The pages below a table of a level, from a virtual address on (R331). -/
def pagesFrom (m : Memory) : Nat → Nat → Nat → List Page
  | 0, _, _ => []
  | k + 1, table, va =>
    let (sh, n) := levelShift k
    let cells := m.filter (fun c => table ≤ c.1 && c.1 < table + 8 * 2 ^ n)
    ((cells.map (fun c => (c.1 - table) / 8)).eraseDups).flatMap (fun i =>
      let e := m.getLE (table + 8 * i) 8
      if !(bitOf e 0) then []
      else if bitOf e 1 then
        if leafBad e k then [] else [{ va := va + i * 2 ^ sh, pa := bitsOf e 16 32 * 2 ^ 16, size := 2 ^ sh }]
      else if nodeBad e k then []
      else pagesFrom m k (bitsOf e 8 40 * 2 ^ 8) (va + i * 2 ^ sh))

/-- The pages of a context, by the tables as they stand in a memory. -/
def Ctx.pages (c : Ctx) (m : Memory) : List Page := pagesFrom m 4 c.root 0

/-- The leaf of a local address in a context's table. -/
def Dev.leaf? (d : Dev) (c : Ctx) (off : Nat) : Option Leaf := walkFrom d.readMem off 4 c.root

/-- R of a leaf -/
def Leaf.r (l : Leaf) : Bool := l.entry.getLsbD 2
/-- W of a leaf -/
def Leaf.w (l : Leaf) : Bool := l.entry.getLsbD 3
/-- X of a leaf -/
def Leaf.x (l : Leaf) : Bool := l.entry.getLsbD 4
/-- P of a leaf -/
def Leaf.p (l : Leaf) : Bool := l.entry.getLsbD 5
/-- CONF of a leaf -/
def Leaf.conf (l : Leaf) : Bool := l.entry.getLsbD 6
/-- OWNER of a leaf -/
def Leaf.owner (l : Leaf) : Nat := (l.entry.extractLsb' 10 6).toNat
/-- EPOCH of a leaf -/
def Leaf.epoch (l : Leaf) : Nat := (l.entry.extractLsb' 48 16).toNat

/-- The owner tag of the frame of a physical address (R335). -/
def Dev.ownerOf (d : Dev) (pa : Nat) : Option Nat := KV.get? d.owners (pa / 2 ^ 16)

/-- The comparison of the owner tag with the entry (R335), for context slot `c`. -/
def Dev.ownerOk (d : Dev) (l : Leaf) (c : Nat) : Bool :=
  match d.ownerOf l.pa with
  | none => !l.conf
  | some o => l.conf && l.owner == o && o == c

/-! ### Leases (R90, R92) -/

/-- Two ranges of addresses meet. -/
def meets (a n b m : Nat) : Bool := a < b + m && b < a + n

/-- [a, a + n) lies in [b, b + len). DEDUCED: notes/assumptions/51. -/
def covers (b len a n : Nat) : Bool := b ≤ a && a + n ≤ b + len

/-- A launch holds its lease (R90, R101). -/
def LaunchState.holds : LaunchState → Bool
  | .ready | .running | .draining | .saving | .saved => true
  | _ => false

/-- The lease of a launch covers a local range for the access (R92): a write needs write intent, the code and read-only
data of the image are for reading. DEDUCED: notes/assumptions/51. -/
def leaseOk (c : Ctx) (l : Launch) (a n : Nat) (wr : Bool) : Bool :=
  l.ranges.any (fun r => covers r.base.toNat r.len a n && (!wr || r.wr)) ||
    (!wr && (covers c.code.1 c.code.2 a n || covers c.ro.1 c.ro.2 a n))

/-- The lease covers every 4 KiB granule of a range that may span several. -/
def leaseSpan (c : Ctx) (l : Launch) (a n : Nat) (wr : Bool) : Bool :=
  n = 0 ||
    (upTo ((a + n - 1) / 4096 + 1 - a / 4096)).all (fun k =>
      let g := (a / 4096 + k) * 4096
      leaseOk c l (max a g) (min (a + n) (g + 4096) - max a g) wr)

/-- The address lies in a ROW range of the launch's lease. -/
def inRowRange (l : Launch) (a n : Nat) : Bool := l.ranges.any (fun r => r.row && covers r.base.toNat r.len a n)

/-- Any held lease of a context covers the range; for accesses from other modules (R92). -/
def Dev.anyLease (d : Dev) (slot : Nat) (c : Ctx) (a n : Nat) (wr : Bool) : Bool :=
  d.launches.any (fun l => l.ctx == slot && l.state.holds && leaseOk c l a n wr)

/-! ### Format ranges (R232 to R234) -/

/-- An enabled format range. -/
structure FmtRange where
  vbase : Nat
  vlen  : Nat
  cbase : Nat
  sc    : Bool
  deriving DecidableEq, Repr

/-- FMTRANGE.n.W0 or W1: its value, by 2n + word (R232). -/
def Dev.fmtWord (d : Dev) (k : Nat) : W64 := KV.get d.fmt 0 k

/-- The range a pair of words enables. -/
def fmtOf (w0 w1 : W64) : Option FmtRange :=
  if w0.getLsbD 0 then
    some { vbase := bitsOf w0.toNat 12 36 * 4096, vlen := (bitsOf w0.toNat 48 16 + 1) * 65536,
           cbase := bitsOf w1.toNat 12 36 * 4096, sc := w0.getLsbD 1 }
  else none

/-- The enabled range of register n. -/
def Dev.fmtRange (d : Dev) (n : Nat) : Option FmtRange := fmtOf (d.fmtWord (2 * n)) (d.fmtWord (2 * n + 1))

/-- The length of a store: codes, codebook, and scales if SC is 1 (R232). -/
def FmtRange.storeLen (r : FmtRange) : Nat := r.vlen / 4 + 32 + (if r.sc then r.vlen / 64 * 2 else 0)

/-- The range that decodes a physical address: an enabled register of its home die that covers it (R233). -/
def Dev.viewOf (d : Dev) (pa : Nat) : Option FmtRange :=
  if d.fmt.isEmpty then none
  else
    (upTo 16).findSome? (fun k =>
      (d.fmtRange (16 * homeDie pa + k)).bind (fun r => if r.vbase ≤ pa && pa < r.vbase + r.vlen then some r else none))

/-- A range of physical addresses touches the view or the store of an enabled range (R234). -/
def Dev.touchesFmt (d : Dev) (pa n : Nat) : Bool :=
  !d.fmt.isEmpty &&
    (upTo 64).any (fun k =>
      match d.fmtRange k with
      | none => false
      | some r =>
        (pa < r.vbase + r.vlen && r.vbase < pa + n) || (pa < r.cbase + r.storeLen && r.cbase < pa + n))

/-- A range of physical addresses touches the view of an enabled range. -/
def Dev.touchesView (d : Dev) (pa n : Nat) : Bool :=
  !d.fmt.isEmpty &&
    (upTo 64).any (fun k =>
      match d.fmtRange k with
      | none => false
      | some r => pa < r.vbase + r.vlen && r.vbase < pa + n)

/-! ### Array errors (R182) -/

/-- One stored byte as its store delivers it: from the array (R182), poisoned in a tier-3 line whose tag fails (R357). -/
def Dev.plainByte (d : Dev) (pa : Nat) : Byte × Bool :=
  let x := d.arrayByte pa
  (x.1, x.2 || d.badTags.contains (pa / 64))

/-- A little-endian half word as its store delivers it. -/
def Dev.plainHalf (d : Dev) (pa : Nat) : Nat × Bool :=
  let a := d.plainByte pa
  let b := d.plainByte (pa + 1)
  (a.1.toNat + 256 * b.1.toNat, a.2 || b.2)

/-- A BF16 value of a view: a NaN is 0x7FC0 (R233). -/
def c4Value (v : Nat) : Nat := if (FVal.ofBits Fmt.bf16 v).isNan then 0x7FC0 else v

/-- Element j of a view, and whether a word it is decoded from is poisoned or uncorrectable (R225, R233). -/
def Dev.decodeC4 (d : Dev) (r : FmtRange) (j : Nat) : Nat × Bool :=
  let byte := d.plainByte (r.cbase + j / 2)
  let code := if j % 2 = 0 then byte.1.toNat % 16 else byte.1.toNat / 16
  let v := d.plainHalf (r.cbase + r.vlen / 4 + 2 * code)
  if r.sc then
    let q := d.plainHalf (r.cbase + r.vlen / 4 + 32 + 2 * (j / 32))
    (c4Value (fpMul Fmt.bf16 (FVal.ofBits Fmt.bf16 v.1) (FVal.ofBits Fmt.bf16 q.1)).1, byte.2 || v.2 || q.2)
  else (c4Value v.1, byte.2 || v.2)

/-- One byte of physical memory as every reader above the home slice sees it: decoded in a C4 view (R233), poisoned in a
tier-3 line whose tag fails (R357). -/
def Dev.readByte (d : Dev) (pa : Nat) : Byte × Bool :=
  match d.viewOf pa with
  | some r =>
    let (v, p) := d.decodeC4 r ((pa - r.vbase) / 2)
    (BitVec.ofNat 8 (v / 256 ^ ((pa - r.vbase) % 2)), p)
  | none => d.plainByte pa

/-- `n` bytes of physical memory and whether any byte is poisoned (R136). -/
def Dev.readPhys (d : Dev) (pa n : Nat) : List Byte × Bool :=
  let bs := (upTo n).map (fun k => d.readByte (pa + k))
  (bs.map Prod.fst, bs.any Prod.snd)

/-- The bytes of a physical range by offset, as a reader sees them. -/
def Dev.bytesAt (d : Dev) (pa n : Nat) : Memory :=
  if d.touchesView pa n then Memory.setBytes [] 0 ((upTo n).map (fun k => (d.readByte (pa + k)).1)) else d.readMem.slice pa n

/-- The code of a context's image, by virtual address, as its pages hold it now (R32). DEDUCED: notes/assumptions/27. -/
def Dev.codeBytes (d : Dev) (c : Ctx) : Memory :=
  (c.pages d.readMem).foldl (fun m p =>
    let lo := max p.va c.code.1
    let hi := min (p.va + p.size) (c.code.1 + c.code.2)
    if lo < hi then Memory.splice m lo (hi - lo) (d.bytesAt (p.pa + (lo - p.va)) (hi - lo)) else m) []

/-- A launch leases the code: what fetches see is what its pages hold now (R32). DEDUCED: notes/assumptions/27. -/
def Dev.leaseCode (d : Dev) (slot : Nat) : Dev :=
  match d.ctx? slot with
  | none => d
  | some c => d.mapCtx slot (fun c' => { c' with fetchMem := d.codeBytes c })

/-! ### Units and copy-on-write (R418 to R420) -/

/-- The tag of a unit. A unit that no copy or write of a snapshot has touched lies two below SNAPEPOCH, behind every live
snapshot that counts it among its units. -/
def Ctx.tag (c : Ctx) (u : UnitId) : Nat :=
  ((c.tags.find? (fun e => e.1 == u)).map Prod.snd).getD ((c.regs.epoch + 65534) % 65536)

/-- How far a tag lies behind an epoch, modulo 2^16 (R417). DEDUCED: notes/assumptions/24. -/
def behind (e u : Nat) : Nat := (e + 65536 - u) % 65536

/-- A live snapshot still needs the old value of a unit with this tag. -/
def Snap.needs (s : Snap) (epoch tag : Nat) : Bool := s.live && behind epoch s.epoch < behind epoch tag

/-- A write to the unit would need a copy (R420). -/
def Ctx.needsCopy (c : Ctx) (u : UnitId) : Bool :=
  c.snaps.any (fun s => s.needs c.regs.epoch (c.tag u) && s.todo.contains u)

/-- Sets a unit's tag. -/
def Ctx.setTag (c : Ctx) (u : UnitId) (e : Nat) : Ctx :=
  { c with tags := (u, e) :: c.tags.filter (fun x => x.1 ≠ u) }

/-- The unit is copied for every live snapshot that needs it, and takes the tag of the epoch (R420). DEDUCED: notes/assumptions/24. -/
def Ctx.copyUnit (c : Ctx) (n : Nat) (u : UnitId) (prio : Nat) : Ctx :=
  { (c.setTag u c.regs.epoch) with
    snaps := c.snaps.map (fun s =>
      if s.needs c.regs.epoch (c.tag u) && s.todo.contains u then
        { s with todo := s.todo.filter (fun x => x ≠ u), staged := s.staged ++ [{ num := n, unit := u, prio := prio, passed := 0 }] }
      else s) }

/-- The class of an agent's requests (R96). DESIGN CHOICE: notes/assumptions/143. -/
def Dev.agentPrio (d : Dev) : Agent → Nat
  | .thread u => ((d.thread? u).map (fun t => d.prioOf t)).getD 2
  | .job k h => (((d.die k).jobs.find? (fun j => j.handle == h)).map Job.prio).getD 2
  | .peer .. => 2
  | .host | .device => 0

/-- The class of a write: the highest of its agents' (R96). -/
def Dev.writerPrio (d : Dev) (w : Writer) : Nat := (minBy id (w.by_.map (fun a => d.agentPrio a))).getD 0

/-- A context with a live snapshot makes the copy a write to a unit needs; one staging granule serves every snapshot. DEDUCED: notes/assumptions/25. -/
def Dev.cowIn (d : Dev) (slot : Nat) (u : UnitId) (prio : Nat) : Dev :=
  match d.ctx? slot with
  | none => d
  | some c =>
    if c.snaps.any (fun s => s.live) then
      { (d.mapCtx slot (fun c => c.copyUnit d.fresh u prio)) with fresh := d.fresh + 1 }
    -- no context is recorded at epoch 0, in which no tag or EPOCH differs from it
    else if c.regs.epoch = 0 then d
    else d.mapCtx slot (fun c => c.setTag u c.regs.epoch)

/-- The same in every context, for a granule of memory. DEDUCED: notes/assumptions/24. -/
def Dev.cow (d : Dev) (u : UnitId) (prio : Nat) : Dev :=
  d.ctxs.foldl (fun d e => if e.2.snaps.any (fun s => s.live) || e.2.regs.epoch ≠ 0 then d.cowIn e.1 u prio else d) d

/-- The capacity of the staging area in granules (R419). -/
def stagingCap : Nat := 393216

/-- The 64-bit words that a range touches, each with the bytes of it that lie in the range. -/
def maskedWords (pa n : Nat) : List (Nat × List Nat) :=
  (wordsOf pa n).map (fun w => (w, (upTo 8).filter (fun k => pa ≤ 8 * w + k && 8 * w + k < pa + n)))

/-- The last write of a word, where a write stands before it in coherence order by a free choice (R114). DESIGN CHOICE: notes/assumptions/26. -/
def Dev.slipsUnder (d : Dev) (w : Writer) (word : Nat) : Option OldWord :=
  if d.caches.olds = [] then none
  else if Config.slips d.ctr word then d.caches.before? w word else none

/-- The bytes of a range that a write leaves as a later write in coherence order has them. -/
def Dev.hidden (d : Dev) (w : Writer) (pa n : Nat) : List Nat :=
  if d.caches.olds = [] then []
  else (maskedWords pa n).flatMap (fun x =>
    match d.slipsUnder w x.1 with
    | some o => (x.2.filter o.mask.contains).map (fun k => 8 * x.1 + k)
    | none => [])

/-- A list of bytes with the masked ones from another. -/
def overlay (old new : List Byte) (mask : List Nat) : List Byte :=
  (upTo 8).map (fun k => if mask.contains k then new[k]?.getD 0 else old[k]?.getD 0)

/-- The earlier values after a write of a range: in each word, whether the value before stays readable, and where in coherence order
the write stands, are free choices (R114). DESIGN CHOICE: notes/assumptions/26. -/
def Dev.cachesAfter (d : Dev) (w : Writer) (pa : Nat) (bs : List Byte) (psn : Bool) : Caches :=
  (maskedWords pa bs.length).foldl (fun c x =>
    match d.slipsUnder w x.1 with
    | some o => c.slip w o x.2 (overlay o.bytes ((upTo 8).map (fun k => bs[8 * x.1 + k - pa]?.getD 0)) x.2, o.psn || psn)
    | none => c.wrote w x.1 x.2 (d.readPhys (8 * x.1) 8) (d.watched w.by_ && Config.lingers d.ctr x.1)) d.caches

/-- Memory and its poison after a write of bytes of which some stay hidden (R114). -/
def Dev.store (d : Dev) (hidden : List Nat) (pa : Nat) (bs : List Byte) (psn : Bool) : Dev :=
  if hidden = [] then { d with mem := d.mem.setBytes pa bs, psn := psnPut d.psn pa bs.length psn }
  else
    ((upTo bs.length).filter (fun k => !(hidden.contains (pa + k)))).foldl (fun d k =>
      { d with mem := d.mem.set (pa + k) (bs[k]?.getD 0), psn := psnPut d.psn (pa + k) 1 psn }) d

/-- The versions of sealed tier-3 lines after a write of a range: each line of an owned frame has the next one (R357). -/
def Dev.versAfter (d : Dev) (pa n : Nat) : List (Nat × Nat) :=
  if (tier3Port pa).isNone || n = 0 then d.vers
  else
    ((upTo ((pa + n - 1) / 64 + 1 - pa / 64)).map (fun k => pa / 64 + k)).foldl (fun v l =>
      if (d.ownerOf (64 * l)).isSome then KV.set v l ((KV.get v 0 l + 1) % 2 ^ 64) else v) d.vers

/-- The 4 KiB granules that a range touches. -/
def granulesOf (pa n : Nat) : List Nat :=
  if n = 0 then [] else (upTo ((pa + n - 1) / 4096 + 1 - pa / 4096)).map (fun k => pa / 4096 + k)

/-- Writes bytes to physical memory with their poison: copies what a snapshot needs, rewrites the array words, reseals
tier-3 lines. -/
def Dev.writePhys (d : Dev) (w : Writer) (pa : Nat) (bs : List Byte) (psn : Bool) : Dev :=
  let n := bs.length
  let d := (granulesOf pa n).foldl (fun d g => d.cow (.granule g) (d.writerPrio w)) d
  { d.store (d.hidden w pa n) pa bs psn with
    caches := d.cachesAfter w pa bs psn
    flips := if d.flips.isEmpty then [] else d.flips.filter (fun f => !(pa < 16 * f.1 + 16 && 16 * f.1 < pa + n))
    badTags := if d.badTags.isEmpty then [] else d.badTags.filter (fun l => !(pa < 64 * l + 64 && 64 * l < pa + n))
    lineFlips := if d.lineFlips.isEmpty then [] else d.lineFlips.filter (fun f => !(pa < 8 * f.2.1 + 8 && 8 * f.2.1 < pa + n))
    vers := d.versAfter pa n }

/-! ### Reads that may return an earlier value (R114) -/

/-- The earlier value of a word that some agents read, if it is not the value in memory: one of those that R114 allows, a free
choice. DESIGN CHOICE: notes/assumptions/26. -/
def Dev.staleFor (d : Dev) (as : List Agent) (word : Nat) : Option OldWord :=
  if d.caches.olds = [] then none
  else
    match d.caches.choices as word with
    | [] => none
    | os =>
      match Config.sees d.ctr (((as.head?).map Agent.code).getD 0) word % (os.length + 1) with
      | 0 => none
      | k + 1 => os[k]?

/-- `n` bytes of physical memory as some agents read them, word by word. -/
def Dev.readAs (d : Dev) (as : List Agent) (pa n : Nat) : List Byte × Bool :=
  if d.caches.olds = [] then d.readPhys pa n
  else
    let ps := (maskedWords pa n).map (fun x =>
      match d.staleFor as x.1 with
      | some o => (x.2.map (fun k => o.bytes[k]?.getD 0), o.psn)
      | none => d.readPhys (8 * x.1 + x.2.headD 0) x.2.length)
    (ps.flatMap Prod.fst, ps.any Prod.snd)

/-- Some agents have read a range so. -/
def Dev.sawAs (d : Dev) (as : List Agent) (pa n : Nat) : Dev :=
  if d.caches.olds = [] then d
  else { d with caches := (wordsOf pa n).foldl (fun c w => c.saw as w (d.staleFor as w)) d.caches }

/-- Some agents have read the latest values of a range. -/
def Dev.sawLast (d : Dev) (as : List Agent) (pa n : Nat) : Dev :=
  if d.caches.olds = [] then d else { d with caches := (wordsOf pa n).foldl (fun c w => c.saw as w none) d.caches }

/-- Some agents acquire through the bytes they have read (R110). -/
def Dev.takesBytes (d : Dev) (as : List Agent) (pa n : Nat) : Dev :=
  if d.caches.syncs = [] then d else { d with caches := (upTo n).foldl (fun c k => c.take as (.byte (pa + k))) d.caches }

/-- Zeroes a frame: its array words, and the tags of its sealed lines, are written afresh (R351, R357). -/
def Dev.zeroFrame (d : Dev) (frame : Nat) : Dev :=
  { d with
    badTags := d.badTags.filter (fun l => l / 1024 ≠ frame)
    mem := d.mem.zero (frame * 65536) 65536
    psn := d.psn.filter (fun w => w / 8192 ≠ frame)
    caches := d.caches.drop (frame * 65536) 65536
    flips := d.flips.filter (fun f => f.1 / 4096 ≠ frame)
    lineFlips := d.lineFlips.filter (fun f => f.2.1 / 8192 ≠ frame) }

/-- The partition of a context is not locked (R349). -/
def Dev.unlocked (d : Dev) (c : Ctx) : Bool := c.conf && !((d.mode c.part).getLsbD 8)

/-- The physical address of a local address, where the table maps it. -/
def Dev.pa? (d : Dev) (c : Ctx) (off : Nat) : Option Nat := (d.leaf? c off).map Leaf.pa

end Sys2Proof.Machine
end

