-- ==== Sys2Proof/Machine/Ops.lean ====
section
/-! DEFINITION. The shared operations: error records, barrier objects, leaving a gang, ending a thread or a launch,
taking an exception and returning from one (spec/18 R369 to R390, spec/06 R153 to R162, spec/03 R69, R76, R81,
spec/04 R92, R100, spec/07 R168, R173, spec/11 R276, R277). -/

namespace Sys2Proof.Machine

/-! ### Error records (R380 to R385) -/

/-- The number of a level (R380). -/
def Level.num : Level → Nat
  | .user => 0
  | .context => 1
  | .system => 2

/-- No instruction is named: the fields that do not apply are all ones (R380). -/
def Who.nobody (slot : Option Nat) : Who :=
  { slot := slot, level := 0, pc := BitVec.allOnes 64, tid := BitVec.allOnes 32, lid := BitVec.allOnes 32, gang := none,
    vcore := 0x1FF }

/-- The fields that name a thread at its PC. -/
def Dev.whoOf (d : Dev) (t : Thread) : Who :=
  { slot := if t.level = .system then none else some t.ctx
    level := t.level.num
    pc := t.pc
    tid := t.tid
    lid := BitVec.ofNat 32 t.lid
    gang := (d.gangOf? t).map (fun e => (e.1 % 64, (e.2.rankOf t.gangUid).getD 0))
    vcore := ((d.chunkOf? t).map Chunk.vc).getD 0x1FF }

/-- The fields that name the instruction which submitted a job (R380). -/
def Who.ofOrigin (slot : Nat) (o : Origin) : Who :=
  { slot := if o.level = .system then none else some slot, level := o.level.num, pc := o.pc, tid := o.tid,
    lid := BitVec.ofNat 32 o.lid, gang := none, vcore := o.core }

/-- A record before its queue has numbered it (R380). -/
structure Rec where
  cause  : Cause
  sev    : Nat
  prec   : Bool
  trap   : Bool
  who    : Who
  skid   : Nat
  /-- the lanes concerned -/
  lanes  : List Nat
  detail : Detail
  /-- cycles since the error was detected -/
  ago    : Nat := 0
  deriving DecidableEq, Repr

/-- The sum of some fields: bit position, width, value. -/
def packFields (fs : List (Nat × Nat × Nat)) : Nat := fs.foldl (fun x f => x + f.2.2 % 2 ^ f.2.1 * 2 ^ f.1) 0

/-- The 64 bytes of a record (R380). DEDUCED: notes/assumptions/32. -/
def Rec.bits (r : Rec) (ctxid seq vm : Nat) (stamp : W64) : BitVec 512 :=
  BitVec.ofNat 512 (packFields
    [(0, 8, r.cause.toNat), (8, 3, r.sev), (11, 1, b2n r.prec), (12, 1, b2n r.trap), (13, 2, r.who.level),
     (16, 16, ctxid), (32, 32, seq), (64, 64, r.who.pc.toNat), (128, 32, r.who.tid.toNat), (160, 32, r.who.lid.toNat),
     (192, 6, (r.who.gang.map Prod.fst).getD 0), (198, 1, b2n r.who.gang.isSome),
     (200, 6, (r.who.gang.map Prod.snd).getD 0), (208, 9, r.who.vcore), (224, 16, min r.skid 0xFFFF), (240, 12, vm),
     (256, 64, maskOf r.lanes), (320, 32, r.detail.w0.toNat), (352, 32, r.detail.w1.toNat),
     (384, 32, r.detail.w2.toNat), (416, 64, stamp.toNat)])

/-- A record that is no trap, of the severity its cause has (R381). DEDUCED: notes/assumptions/32. -/
def Rec.plain (who : Who) (c : Cause) (x : Detail) : Rec :=
  { cause := c, sev := sevOf c, prec := false, trap := false, who := who, skid := 0, lanes := [], detail := x }

/-- Adds a record to the system queue (R385). Its CTXID is all ones, its STAMP the physical cycle. DEDUCED: notes/assumptions/125. -/
def Dev.sysRecord (d : Dev) (r : Rec) : Dev :=
  { d with sysq := { recs := d.sysq.recs ++ [r.bits 0xFFFF d.sysq.seq 0 (BitVec.ofNat 64 (d.pcyc - r.ago))],
                     seq := (d.sysq.seq + 1) % 2 ^ 32 } }

/-- The queue of a context has room (R383). DEDUCED: notes/assumptions/124. -/
def CtxRegs.room (r : CtxRegs) : Bool := (r.eqtail - r.eqhead).toNat < r.eqsize.toNat

/-- Writes a record to slot EQTAIL of a context's ring, numbers it and advances EQTAIL (R382, R383). DEDUCED: notes/assumptions/124. -/
def Dev.putRecord (d : Dev) (slot : Nat) (c : Ctx) (r : Rec) : Dev :=
  let va := c.regs.eqbase + BitVec.ofNat 64 (64 * (c.regs.eqtail.toNat % c.regs.eqsize.toNat))
  let bits := r.bits c.ctxid.toNat c.regs.eqseq.toNat c.vm (c.regs.cyc - BitVec.ofNat 64 r.ago)
  let d1 :=
    match d.pa? c va.toNat with
    | some pa => d.writePhys (.plain [.device]) pa (leBytes 64 bits.toNat) false
    | none => d
  d1.mapCtx slot (fun c => { c with regs := { c.regs with eqtail := c.regs.eqtail + 1, eqseq := c.regs.eqseq + 1 } })

/-- When room has returned, the count of dropped records is written first, and returns to zero (R383). DEDUCED: notes/assumptions/124. -/
def Dev.flushDropped (d : Dev) (slot : Nat) : Dev :=
  match d.ctx? slot with
  | none => d
  | some c =>
    if c.regs.dropped ≠ 0 && c.regs.room then
      (d.putRecord slot c (Rec.plain (Who.nobody (some slot)) cErrorQueueOverflow
        (detailOf (min c.regs.dropped 0xFFFFFFFF) c.regs.firstDropped.toNat 0))).mapCtx slot
        (fun c => { c with regs := { c.regs with dropped := 0, firstDropped := 0 } })
    else d

/-- Adds a record to a context's queue: it is written, or dropped and counted; SEQ advances either way (R383). -/
def Dev.ctxRecord (d0 : Dev) (slot : Nat) (r : Rec) : Dev :=
  let d := d0.flushDropped slot
  match d.ctx? slot with
  | none => d
  | some c =>
    if c.regs.room then d.putRecord slot c r
    else
      d.mapCtx slot (fun c =>
        { c with regs := { c.regs with
            dropped := c.regs.dropped + 1
            firstDropped := if c.regs.dropped = 0 then c.regs.eqseq else c.regs.firstDropped
            eqseq := c.regs.eqseq + 1 } })

/-- Adds a record to the queue its origin names. -/
def Dev.record (d : Dev) (r : Rec) : Dev :=
  match r.who.slot with
  | none => d.sysRecord r
  | some k => d.ctxRecord k r

/-- Records a cause that is no trap. -/
def Dev.note (d : Dev) (who : Who) (c : Cause) (x : Detail) : Dev := d.record (Rec.plain who c x)

/-! ### Barrier objects (R153 to R162) -/

/-- The fields of a barrier object (R153). -/
structure Obj where
  thrT  : Nat
  thrC  : Nat
  byT   : Nat
  byC   : Nat
  phase : Bool
  err   : Bool
  bound : Bool
  gang  : Nat
  rsv   : Bool
  deriving DecidableEq, Repr

/-- Where a barrier object lies: context, launch, chunk and stash offset. -/
structure ObjLoc where
  ctx   : Nat
  lid   : Nat
  chunk : Nat
  off   : Nat
  deriving DecidableEq, Repr

/-- What carries order from an object's arrivals, and from its last flip (R110). -/
def ObjLoc.sync (l : ObjLoc) (done : Bool) : Sync := .obj l.ctx l.lid l.chunk l.off done

/-- The fields of 128 bits (R153). -/
def Obj.ofNat (x : Nat) : Obj :=
  { thrT := bitsOf x 0 12, thrC := bitsOf x 12 12, byT := bitsOf x 24 47, byC := bitsOf x 71 47, phase := bitOf x 118,
    err := bitOf x 119, bound := bitOf x 120, gang := bitsOf x 121 6, rsv := bitOf x 127 }

/-- The 128 bits of an object (R153). -/
def Obj.toNat (o : Obj) : Nat :=
  packFields [(0, 12, o.thrT), (12, 12, o.thrC), (24, 47, o.byT), (71, 47, o.byC), (118, 1, b2n o.phase),
    (119, 1, b2n o.err), (120, 1, b2n o.bound), (121, 6, o.gang), (127, 1, b2n o.rsv)]

/-- The chunk of an object. -/
def Dev.objChunk? (d : Dev) (l : ObjLoc) : Option Chunk := d.chunk? l.ctx l.lid l.chunk

/-- Reads a barrier object; zero where its chunk is not bound. -/
def Dev.obj (d : Dev) (l : ObjLoc) : Obj :=
  match d.objChunk? l with
  | some c => Obj.ofNat (c.stash.getLE l.off 16)
  | none => Obj.ofNat 0

/-- Writes a barrier object. -/
def Dev.setObj (d : Dev) (l : ObjLoc) (o : Obj) : Dev :=
  d.mapChunk l.ctx l.lid l.chunk (fun c =>
    { c with stash := c.stash.setLE l.off 16 o.toNat, stashPsn := psnPut c.stashPsn l.off 16 false })

/-- The largest byte count of an object (R153). -/
def byteMax : Nat := 2 ^ 47 - 1

/-- The detail of a barrier fault (R379, group 4). DEDUCED: notes/assumptions/18. -/
def objDetail (l : ObjLoc) (o : Obj) (lane : Nat) : Detail :=
  detailOf l.off (o.toNat % 2 ^ 24 + 2 ^ 24 * b2n o.phase + 2 ^ 25 * b2n o.err) lane

/-- Changes the binding of an object in the gangs of its chunk's core. -/
def Dev.mapBinding (d : Dev) (l : ObjLoc) (f : Binding → Option Binding) : Dev :=
  match d.objChunk? l with
  | none => d
  | some c =>
    d.mapCore c.core (fun k =>
      { k with gangs := k.gangs.map (fun e =>
          (e.1, if e.2.ctx == l.ctx then
            { e.2 with bindings := e.2.bindings.filterMap (fun b =>
                if b.lid == l.lid && b.chunk == l.chunk && b.off == l.off then f b else some b) }
          else e.2)) })

/-- The predicate a completed wait writes (R159). -/
def waitDone (err : Bool) : Byte := if err then 0x0F else 0xFF

/-- A thread sleeps on an object. -/
def Thread.sleepsOn (t : Thread) (l : ObjLoc) : Bool :=
  t.ctx == l.ctx && t.lid == l.lid && t.chunk == l.chunk &&
    (match t.wait with
     | .barrier _ off _ _ => off == l.off
     | _ => false)

/-- Wakes the threads that sleep on an object: each acquires, writes its predicate and goes on (R104, R155, R159). DEDUCED: notes/assumptions/122. -/
def Dev.wakeBarrier (d : Dev) (l : ObjLoc) (err : Bool) : Dev :=
  (d.takes (d.threads.filter (fun t => t.sleepsOn l)) (l.sync true)).mapThreads (fun t => t.ctx == l.ctx && t.lid == l.lid && t.chunk == l.chunk)
    (fun t =>
      match t.wait with
      | .barrier p off _ _ => if off = l.off then (t.setPred p (waitDone err) false).woken d.pcyc else t
      | _ => t)

/-- The phase ends (R155). -/
def Obj.flip (o : Obj) : Obj := { o with phase := !o.phase, thrC := 0, byC := 0, byT := 0 }

/-- An object flips: its arrived ranks are cleared and its sleepers become ready (R155). DEDUCED: notes/assumptions/122. -/
def Dev.flipObj (d : Dev) (l : ObjLoc) (o : Obj) : Dev :=
  let d1 := (d.setObj l o.flip).mapBinding l (fun b => some { b with arrived := [] })
  ({ d1 with caches := d1.caches.flip l.ctx l.lid l.chunk l.off } : Dev).wakeBarrier l o.err

/-- The object settles after an operation left it as `o` (R155). DEDUCED: notes/assumptions/18. -/
def Dev.settle (d : Dev) (l : ObjLoc) (o : Obj) (who : Who) : Dev :=
  if o.thrT = 0 && o.byT = 0 then d.setObj l o
  else if o.thrC = o.thrT then
    if o.byC = o.byT then d.flipObj l o
    else if o.byC > o.byT then
      (d.flipObj l { o with err := true }).note who cBarrierOverflow (objDetail l { o with err := true } 0)
    else d.setObj l o
  else d.setObj l o

/-- Bytes arrive at an object from some agents, which release, and it settles (R104, R156). `fail` sets ERR, for the uncounted bytes of
a failed job. DEDUCED: notes/assumptions/60. -/
def Dev.byteArrive (d0 : Dev) (l : ObjLoc) (n : Nat) (fail : Bool) (by_ : List Agent) (who : Who) : Dev :=
  let d : Dev := { d0 with caches := d0.caches.leave by_ (l.sync false) }
  let o := d.obj l
  if o.byC + n > byteMax then
    let o' := { o with byC := byteMax, err := true }
    (d.note who cBarrierOverflow (objDetail l o' 0)).settle l o' who
  else d.settle l { o with byC := o.byC + n, err := o.err || fail } who

/-- The range of stash bytes touches a mapped range (R154, R171). -/
def Chunk.mapped (c : Chunk) (off n : Nat) : Bool :=
  c.map.any (fun e => off < e.2.off + e.2.len && e.2.off < off + n)

/-- The object fails the checks of R154. DEDUCED: notes/assumptions/67. -/
def Dev.objBad (d : Dev) (l : ObjLoc) : Bool :=
  match d.objChunk? l with
  | none => true
  | some c =>
    let o := d.obj l
    c.mapped l.off 16 || o.rsv || o.thrC > o.thrT ||
      (o.bound &&
        match d.gang? c.core o.gang with
        | none => true
        | some g => !(g.bindings.any (fun b => b.lid == l.lid && b.chunk == l.chunk && b.off == l.off)))

/-- A rank leaves the bound ranks of one binding (R162). -/
def Dev.unbindRank (d : Dev) (ctx : Nat) (b : Binding) (r : Nat) (who : Who) : Dev :=
  if b.bound.contains r then
    let l : ObjLoc := { ctx := ctx, lid := b.lid, chunk := b.chunk, off := b.off }
    let d1 := d.mapBinding l (fun b =>
      some { b with bound := b.bound.filter (· ≠ r), arrived := b.arrived.filter (· ≠ r) })
    match d1.objChunk? l with
    | none => d1
    | some _ =>
      let o := d1.obj l
      if o.thrT > 0 then
        d1.settle l { o with thrT := o.thrT - 1, thrC := if b.arrived.contains r then o.thrC - 1 else o.thrC } who
      else d1.settle l o who
  else d

/-! ### Barrier endpoints (R207) -/

/-- BV of an endpoint: it names an object. DEDUCED: notes/assumptions/59. -/
def endpointNames (e : W64) : Bool := e.getLsbD 14
/-- VM of an endpoint. DEDUCED: notes/assumptions/101. -/
def endpointVm (e : W64) : Nat := bitsOf e.toNat 44 12

/-- The age of a chunk for the order of binding: the earlier bound, then the lower launch id, then the lower index (R207). -/
def Chunk.rank (c : Chunk) : Nat := (c.bound * 2 ^ 32 + c.lid) * 2 ^ 32 + c.idx

/-- The object an endpoint names here: in the stash of the oldest chunk of the context on its virtual core. -/
def Dev.endpointObj? (d : Dev) (slot : Nat) (e : W64) : Option ObjLoc :=
  let cs := d.chunks.filter (fun c => c.ctx == slot && c.vc == bitsOf e.toNat 32 12)
  (minBy Chunk.rank cs).bind (fun c =>
    let l : ObjLoc := { ctx := slot, lid := c.lid, chunk := c.idx, off := 16 * bitsOf e.toNat 0 14 }
    if c.stashLen < l.off + 16 || d.objBad l then none else some l)

/-! ### Channels (R205) -/

/-- A channel on which nothing was sent. DEDUCED: notes/assumptions/104. -/
def Chan.new : Chan := { sendSeq := 0, recvSeq := 0, sent := [], window := [], gaps := [], key := none, keyEpoch := 0 }

/-- The channel of a context to and from a member. -/
def Ctx.chan (c : Ctx) (vm : Nat) : Chan := KV.get c.chans Chan.new vm

/-- Changes a channel. -/
def Ctx.mapChan (c : Ctx) (vm : Nat) (f : Chan → Chan) : Ctx := { c with chans := KV.set c.chans vm (f (c.chan vm)) }

/-- Changes a channel of the context in a slot. -/
def Dev.mapChan (d : Dev) (slot vm : Nat) (f : Chan → Chan) : Dev := d.mapCtx slot (fun c => c.mapChan vm f)

/-! ### Sealed packets (R359) -/

/-- The bytes of a packet's payload. -/
def payloadOf : PacketBody → List Byte
  | .store _ b _ | .put _ b _ _ | .reply _ b _ => b
  | .atom _ _ _ x _ | .atomReq _ _ _ x _ _ => leBytes 8 x.toNat ++ leBytes 8 0
  | .casReq _ _ c x _ _ => leBytes 8 c.toNat ++ leBytes 8 x.toNat
  | .atomfReq _ _ x _ _ => leBytes 4 x.toNat ++ leBytes 12 0
  | _ => []

/-- A packet with another payload of the same length. -/
def withPayload (b : PacketBody) (l : List Byte) : PacketBody :=
  match b with
  | .store o _ p => .store o l p
  | .put o _ p e => .put o l p e
  | .reply t _ p => .reply t l p
  | .atom o w op _ p => .atom o w op (BitVec.ofNat 64 (leOf (l.take 8))) p
  | .atomReq o w op _ p t => .atomReq o w op (BitVec.ofNat 64 (leOf (l.take 8))) p t
  | .casReq o w _ _ p t => .casReq o w (BitVec.ofNat 64 (leOf (l.take 8))) (BitVec.ofNat 64 (leOf ((l.drop 8).take 8))) p t
  | .atomfReq o op _ p t => .atomfReq o op (BitVec.ofNat 32 (leOf (l.take 4))) p t
  | b => b

/-- The fields of a packet's header beat, as numbers: everything but the payload. DESIGN CHOICE: notes/assumptions/142. -/
def packetFields (b : PacketBody) : List Nat :=
  match b with
  | .store o d p => [1, o, d.length, maskOf p]
  | .atom o w op _ p => [2, o, b2n w, op.ctorIdx, b2n p]
  | .put o d p e => [3, o, d.length, maskOf p, e.toNat]
  | .sig e n f => [4, e.toNat, n, b2n f]
  | .loadReq o n t => [5, o, n, t]
  | .atomReq o w op _ p t => [6, o, b2n w, op.ctorIdx, b2n p, t]
  | .casReq o w _ _ p t => [7, o, b2n w, b2n p, t]
  | .atomfReq o op _ p t => [8, o, op.ctorIdx, b2n p, t]
  | .getReq o n t => [9, o, n, t]
  | .reply t d p => [10, t, d.length, maskOf p]
  | .ackStore q => [11, q]
  | .refuse x n c => [12, b2n x, n, c.toNat]
  | .marker => [13]
  | .halted => [14]
  | .completed e => [15, e]
  | .aborted e => [16, e]
  | .ready => [17]
  | .gap q => [18, q]
  | .check o n w t => [19, o, n, b2n w, t]
  | .collFailed ms n => 20 :: n :: ms

/-- The header beat of a packet, which its seal authenticates. DESIGN CHOICE: notes/assumptions/142. -/
def packetBeat (p : Packet) : List Byte :=
  Config.headerBeat (p.src :: p.dst :: p.seq :: p.epoch :: p.keyEpoch :: p.ord.ctorIdx :: packetFields p.body)

/-- The IV of a packet (R359): source and destination, the key epoch, the sequence number. DESIGN CHOICE: notes/assumptions/142. -/
def packetIv (p : Packet) : List Byte := beBytes 4 (p.src % 4096 * 65536 + p.dst % 4096) ++ beBytes 4 p.keyEpoch ++ beBytes 4 p.seq

/-- The key of a channel: derived from the secret of its members' exchange with the label "sx9 chan" and the ordered pair of virtual
ids (R360). DESIGN CHOICE: notes/assumptions/142. -/
def chanKey (exchange keyEpoch src dst : Nat) : BitVec 256 :=
  hkdfKey (beBytes 48 (Config.secret exchange keyEpoch).toNat)
    ([0x73, 0x78, 0x39, 0x20, 0x63, 0x68, 0x61, 0x6E] ++ beBytes 2 src ++ beBytes 2 dst)

/-- A context runs in sealed-fabric mode (R359). -/
def Ctx.sealedMode (c : Ctx) : Bool := c.conf && 1 < c.members.length

/-- A packet as it leaves: in sealed-fabric mode its payload is sealed and its header authenticated under the channel's key. -/
def Ctx.sealed (c : Ctx) (p : Packet) : Packet :=
  match c.sealedMode, (c.chan p.dst).key with
  | true, some n =>
    let r := sealIv (chanKey n p.keyEpoch p.src p.dst) (packetIv p) (packetBeat p) (payloadOf p.body)
    { p with body := withPayload p.body r.1, mac := some (BitVec.ofNat 128 (beOf r.2)) }
  | _, _ => p

/-- A packet as it is read on arrival; none if its tag fails. -/
def Ctx.opened (c : Ctx) (p : Packet) : Option Packet :=
  if c.sealedMode then
    match (c.chan p.src).key, p.mac with
    | some n, some tag =>
      (openIv (chanKey n p.keyEpoch p.src p.dst) (packetIv p) (packetBeat p) (payloadOf p.body) (beBytes 16 tag.toNat)).map (fun b =>
        { p with body := withPayload p.body b, mac := none })
    | _, _ => none
  else some p

/-! ### Sending (R96, R205, R206) -/

/-- The link beats of a packet (R205). -/
def packetBeats (p : Packet) : Nat := 1 + ((payloadOf p.body).length + 63) / 64

/-- The bytes that a logged packet takes in staging: its link beats (R205). DEDUCED: notes/assumptions/94. -/
def packetSize (p : Packet) : Nat := 64 * packetBeats p

/-- The staging granules that a context's copies hold, where one serves every snapshot that needs it, and its channel logs and re-run log,
with 16 bytes for each logged input (R420, R426, R443). DESIGN CHOICE: notes/assumptions/98. -/
def Ctx.staging (c : Ctx) : Nat :=
  (((c.snaps.map (fun s => s.staged.map Staged.num)).flatten).eraseDups).length +
    (c.snaps.map (fun s => ((s.log.map packetSize).sum + 4095) / 4096)).sum + (if c.rerun then 0 else (16 * c.rlog.length + 4095) / 4096)

/-- Staging granules in use on the module (R419). -/
def Dev.staging (d : Dev) : Nat := (d.ctxs.map (fun e => e.2.staging)).sum

/-- The port that a packet takes: the one with the fewest queued beats, the lowest on a tie (R206). -/
def Dev.portNow (d : Dev) : Nat :=
  (minBy (fun (k : Nat) => ((d.egress.filter (fun e => e.port == k)).map (fun e => packetBeats e.pkt)).sum) (upTo 18)).getD 0

/-- A packet queues at a port in a class. -/
def Dev.queueOut (d : Dev) (prio : Nat) (p : Packet) : Dev :=
  { d with egress := d.egress ++ [{ pkt := p, port := d.portNow, prio := prio, passed := 0 }] }

/-- The class of a packet: that of the job or of the chunk that made it; answers and Levante's own are P0 (R96). DESIGN CHOICE: notes/assumptions/143. -/
def Dev.classOf (d : Dev) (origin : Option Origin) (job : Option (Nat × W32)) : Nat :=
  match job, origin with
  | some (k, h), _ => (((d.die k).jobs.find? (fun j => j.handle == h)).map Job.prio).getD 2
  | none, some o => ((d.thread? o.uid).map (fun t => d.prioOf t)).getD 2
  | none, none => 0

/-- The next packet of a context to a member. DEDUCED: notes/assumptions/86. -/
def Ctx.packet (c : Ctx) (slot vm : Nat) (ord : Ord) (body : PacketBody) : Packet :=
  { slot := slot, src := c.vm, dst := vm, seq := (c.chan vm).sendSeq, epoch := c.regs.epoch, keyEpoch := (c.chan vm).keyEpoch,
    mac := none, ord := ord, body := body }

/-- Sends a packet: it takes the channel's next number and is kept until it is acknowledged (R205, R211). The channel's key
is replaced before its numbers wrap (R359). DEDUCED: notes/assumptions/86. -/
def Dev.send (d : Dev) (slot vm : Nat) (ord : Ord) (body : PacketBody) (origin : Option Origin) (job : Option (Nat × W32)) (lane : Nat) : Dev :=
  match d.ctx? slot with
  | none => d
  | some c =>
    let p := c.sealed (c.packet slot vm ord body)
    (d.mapChan slot vm (fun x =>
        { x with
          sendSeq := (x.sendSeq + 1) % 2 ^ 32
          keyEpoch := if x.sendSeq + 1 = 2 ^ 32 then x.keyEpoch + 1 else x.keyEpoch
          sent := x.sent ++ [{ pkt := p, last := d.pcyc, tries := 0, origin := origin, job := job, lane := lane }] })).queueOut
      (d.classOf origin job) p

/-! ### Closing a row slot (R168, R173) -/

/-- The bank of a row's physical address (R164). -/
def bankOf (pa : Nat) : Nat := bitsOf pa 11 7

/-- ROWWT's sleepers on a slot that leaves OPENING write their predicate and go on (R175). -/
def Dev.wakeRow (d : Dev) (core slot act : Nat) (ready : Bool) : Dev :=
  d.mapThreads (fun t => t.core == core)
    (fun t =>
      match t.wait with
      | .row p k a =>
        if k.toNat = slot && a = act then (t.setPred p (if ready then 0xFF else 0x00) false).woken d.pcyc else t
      | _ => t)

/-- A bank's state; precharged and never activated if it is not listed. -/
def Core.bank (c : Core) (b : Nat) : Bank := KV.get c.banks { preEnd := 0, lastAct := none, cache := none } b
/-- Changes a bank. -/
def Core.mapBank (c : Core) (b : Nat) (f : Bank → Bank) : Core := { c with banks := KV.set c.banks b (f (c.bank b)) }

/-- At the close of a row its words with one flipped bit are rewritten (R182). -/
def Dev.rewriteRow (d : Dev) (pa : Nat) : Dev :=
  if d.flips.isEmpty then d
  else { d with flips := d.flips.filter (fun f => !(f.1 / 128 == pa / 2048 && (d.flipsOf f.1).length == 1)) }

/-- Empties a slot as ROWPRE does: the bank's precharge starts at the later of now and the slot's ready time, and lasts
18 cycles; a LOST slot is emptied at once (R173). -/
def Dev.closeSlot (d : Dev) (core k : Nat) : Dev :=
  match (d.core core).slots[k]? with
  | none => d
  | some s =>
    match s.state with
    | .empty => d
    | .lost => d.mapCore core (fun c => { c with slots := c.slots.set k RowSlot.empty })
    | _ =>
      let late := if s.state = .opening then s.ready.toNat - (d.cyc s.ctx).toNat else 0
      let bank := bankOf s.pa
      let d1 := (d.rewriteRow s.pa).mapCore core (fun c =>
        { c.mapBank bank (fun b => { b with preEnd := d.pcyc + late + 18 }) with slots := c.slots.set k RowSlot.empty })
      if s.state = .opening then d1.wakeRow core k s.act false else d1

/-! ### Gangs that lose members or end (R14, R81, R162, R168, R277) -/

/-- Every object bound to a gang has BOUND cleared (R162). -/
def Dev.unbindAll (d : Dev) (g : Gang) : Dev :=
  g.bindings.foldl (fun d b =>
    let l : ObjLoc := { ctx := g.ctx, lid := b.lid, chunk := b.chunk, off := b.off }
    d.setObj l { d.obj l with bound := false }) d

/-- A transfer through a slot is queued. -/
def Core.slotBusy (c : Core) (k : Nat) : Bool := c.bus.any (fun b => b.slot == k)

/-- A slot that no gang holds any more is closed as by ROWPRE, once the transfers through it are complete (R168, R173). Until then the
model keeps it under a gang number above the 64 entries. DEDUCED: notes/assumptions/138. -/
def Dev.dropSlot (d : Dev) (core k : Nat) : Dev :=
  if (d.core core).slotBusy k then
    d.mapCore core (fun c =>
      { c with
        slots := mapAt c.slots k (fun s => { s with gang := 64 })
        bus := c.bus.map (fun b => if b.slot = k then { b with gang := 64 } else b) })
  else d.closeSlot core k

/-- A dropped slot whose last transfer is complete closes (R168, R173). -/
def Dev.closeDropped (d : Dev) (core k : Nat) : Dev :=
  match (d.core core).slots[k]? with
  | some s => if s.state ≠ .empty && s.gang = 64 && !((d.core core).slotBusy k) then d.closeSlot core k else d
  | none => d

/-- A gang's tiles, planes and row slots are released, and its entry removed (R14, R168). -/
def Dev.releaseGang (d : Dev) (core k : Nat) : Dev :=
  let d1 := (upTo 8).foldl (fun d i =>
    match (d.core core).slots[i]? with
    | some s => if s.state ≠ .empty && s.gang = k then d.dropSlot core i else d
    | none => d) d
  d1.mapCore core (fun c =>
    { c with
      gangs := KV.del c.gangs k
      tiles := c.tiles.map (fun t => if t.owner = some k then { t with owner := none } else t)
      planeOwner := if c.planeOwner = some k then none else c.planeOwner })

/-- Everything of a core that names gang `k` names `k'` instead. -/
def Core.renameGang (c : Core) (k k' : Nat) : Core :=
  let f := fun (i : Nat) => if i = k then k' else i
  { c with
    gangs := c.gangs.map (fun e => (f e.1, e.2))
    slots := c.slots.map (fun s => { s with gang := f s.gang })
    bus := c.bus.map (fun b => { b with gang := f b.gang })
    tiles := c.tiles.map (fun t => { t with owner := t.owner.map f })
    planeOwner := c.planeOwner.map f
    mq := c.mq.map (fun m => { m with gang := f m.gang })
    mwait := c.mwait.map (fun m => { m with job := { m.job with gang := f m.job.gang } }) }

/-- The core still has an accepted or waiting matrix instruction of a gang. -/
def Core.busyGang (c : Core) (k : Nat) : Bool :=
  c.mq.any (fun m => m.gang == k) || c.mwait.any (fun m => m.job.gang == k)

/-- A gang whose last member left is freed: its entry at once, its resources when its accepted instructions have run to
completion (R14, R277). Until then the model keeps it under a number above the 64 entries. DEDUCED: notes/assumptions/35. -/
def Dev.freeGang (d : Dev) (core k : Nat) : Dev :=
  match d.gang? core k with
  | none => d
  | some g =>
    let d1 := (d.unbindAll g).mapGang core k (fun g => { g with freed := true, bindings := [], rdv := none })
    if (d1.core core).busyGang k then
      let (n, d2) := d1.newId
      d2.mapCore core (fun c => c.renameGang k (65 + n))
    else d1.releaseGang core k

/-- The charge of a gang whose home chunk has no thread left passes to the chunk of the member at the lowest rank
(R276). -/
def Dev.passHome (d : Dev) (core ctx lid chunk : Nat) : Dev :=
  (d.core core).gangs.foldl (fun d e =>
    if e.2.ctx = ctx && e.2.lid = lid && e.2.home = chunk && !e.2.freed then
      match (e.2.members.filterMap d.thread?).head? with
      | some t =>
        (d.mapGang core e.1 (fun g => { g with lid := t.lid, home := t.chunk })).mapCore core (fun c =>
          { c with tiles := c.tiles.map (fun x => if x.owner = some e.1 then { x with lid := t.lid, chunk := t.chunk } else x) })
      | none => d
    else d) d

/-- Opens a rendezvous of a gang for an instruction at a PC: its members of this moment are the participants, and some of
them have arrived (R69). -/
def Gang.open (g : Gang) (pc : W64) (i : Instr) (arrived : List Nat) (now : W64) : Gang :=
  { g with rdv := some { pc := pc, instr := i, parts := g.members.filterMap (fun u => (g.rankOf u).map (fun r => (u, r))),
                         arrived := arrived, opened := now } }

/-- The members of a gang that wait for the open rendezvous to close, and the threads that wait there. -/
def Dev.busyMembers (d : Dev) (core : Nat) (g : Gang) : List Thread :=
  d.threads.filter (fun t => t.core == core && g.members.contains t.gangUid && t.wait == .gangBusy)

/-- A rendezvous has closed: members that wait for a new one of the same instruction open it and have arrived there; if there
are none, those that wait with another instruction try again (R69, R70). DEDUCED: notes/assumptions/123. -/
def Dev.reopen (d : Dev) (core k : Nat) (v : Rendezvous) : Dev :=
  match d.gang? core k with
  | none => d
  | some g =>
    let busy := d.busyMembers core g
    match busy.filter (fun t => t.pc == v.pc && !t.shadow) with
    | [] => d.mapUids (busy.map Thread.uid) (fun t => t.readyNext d.pcyc)
    | late =>
      (d.mapUids ((busy.filter (fun t => t.pc == v.pc)).map Thread.uid) (fun t => { t with wait := .rendezvous })).mapGang core k
        (fun g => g.open v.pc v.instr (late.map Thread.uid) (d.cyc g.ctx))

/-- An open rendezvous whose participants have all left closes (R69). DEDUCED: notes/assumptions/123. -/
def Dev.closeEmpty (d : Dev) (core k : Nat) (g : Gang) : Dev :=
  match g.rdv with
  | some v => if v.parts.isEmpty then (d.mapGang core k (fun g => { g with rdv := none })).reopen core k v else d
  | none => d

/-- A thread leaves its gang: its bound objects lose a target, its rank empties, an open rendezvous no longer counts it,
and the last member frees the gang (R81, R69, R162). -/
def Dev.leaveGang (d : Dev) (t : Thread) : Dev :=
  match d.gangIdx? t with
  | none => d
  | some k =>
    match d.gang? t.core k with
    | none => d
    | some g =>
      let r := (g.rankOf t.uid).getD 0
      let who := d.whoOf t
      let d1 := g.bindings.foldl (fun d b => d.unbindRank g.ctx b r who) d
      let d2 := d1.mapGang t.core k (fun g =>
        { g with
          remap := g.remap.map (fun x => if x = some t.uid then none else x)
          rdv := g.rdv.map (fun v =>
            { v with parts := v.parts.filter (fun p => p.1 ≠ t.uid), arrived := v.arrived.filter (· ≠ t.uid) }) })
      match d2.gang? t.core k with
      | none => d2
      | some g' => if g'.members = [] then d2.freeGang t.core k else d2.closeEmpty t.core k g'

/-! ### Ending threads and launches (R76, R92) -/

/-- The accesses for whose replies some threads waited leave the core's outstanding-transaction table (R142). -/
def Dev.takeFars (d : Dev) (core : Nat) (us : List Nat) : Dev :=
  if (d.core core).ott = [] then d
  else
    d.mapCore core (fun c =>
      { c with ott := c.ott.map (fun e => { e with accs := e.accs.filter (fun a => a.ask.isNone || !(us.contains a.uid)) }) })

/-- Every access of a thread that waits for a reply leaves the table. -/
def Dev.endFars (d : Dev) (core u : Nat) : Dev :=
  if (d.core core).ott = [] then d
  else
    d.mapCore core (fun c =>
      { c with ott := c.ott.map (fun e => { e with accs := e.accs.filter (fun a => a.posted || a.uid ≠ u) }) })

/-- The lane capacity of a launch of n registers (R13). -/
def laneCap (n : Nat) : Nat := if n = 0 then 32 else min 32 (2048 / n)

/-- The threads of a full chunk (R89). -/
def Launch.chunkSize (l : Launch) : Nat := (if l.prot then 32 else 64) * laneCap l.regsN

/-- How many chunks a launch has (R89). -/
def Launch.numChunks (l : Launch) : Nat := (l.nthr + l.chunkSize - 1) / l.chunkSize

/-- A halt-requested core whose last bound chunk is gone is halted (R411). -/
def Dev.haltCheck (d : Dev) (core : Nat) : Dev :=
  let p := d.physOf core
  if (d.phys? p).state = 1 && !(d.chunks.any (fun c => c.core == core)) then d.mapPhys p (fun x => { x with state := 2 })
  else d

/-- A chunk without threads leaves its core: its bind slot clears, and the launch is done with its last chunk (R76, R93,
R101, R146). The map entries end as by SUNMAP; their bytes are gone with the stash. -/
def Dev.chunkGone (d : Dev) (c : Chunk) : Dev :=
  let d1 := { d with chunks := d.chunks.filter (fun x => !(x.ctx == c.ctx && x.lid == c.lid && x.idx == c.idx)) }
  let d2 := d1.mapCore c.core (fun k => { k with binds := k.binds.set c.bindSlot none })
  let d3 :=
    match d2.launch? c.ctx c.lid with
    | some l =>
      if l.numChunks ≤ ((l.started.filter (fun k => k < l.numChunks)).eraseDups).length && !(d2.chunks.any (fun x => x.ctx == c.ctx && x.lid == c.lid)) &&
          (l.state = LaunchState.running || l.state = LaunchState.draining) then
        d2.mapLaunch c.ctx c.lid (fun l => { l with state := .done })
      else d2
    | none => d2
  d3.haltCheck c.core

/-- The detail of TIMER and of the other causes of group 13 (R379). DEDUCED: notes/assumptions/84. -/
def cycDetail (c : W64) (level : Nat) : Detail := detailOf (c.toNat % 2 ^ 32) (c.toNat / 2 ^ 32) level

/-- The TIMER record of a context whose arming thread has ended (R372). -/
def Dev.timerRecord (d : Dev) (slot : Nat) (v : W64) : Dev :=
  d.record { Rec.plain (Who.nobody (some slot)) cTimer (cycDetail v 0) with sev := 2 }

/-- A TIMER that a thread still has to take is written as a record if the thread ends first (R372). -/
def Dev.timerLost (d : Dev) (t : Thread) : Dev :=
  match t.timerDue with
  | some v => if t.shadow then d else d.timerRecord t.ctx v
  | none => d

/-- The frames that the private map gave a thread are zeroed and free (R340, R351). -/
def Dev.dropPriv (d : Dev) (t : Thread) : Dev :=
  let mine := fun (e : (Nat × Nat × Nat) × Nat) => e.1.1 == t.lid && e.1.2.1 == t.tid.toNat
  match d.ctx? t.ctx with
  | none => d
  | some c =>
    if t.shadow || c.privMap.all (fun e => !(mine e)) then d
    else
      (c.privMap.filter mine).foldl (fun (d : Dev) e => { (d.zeroFrame e.2) with owners := KV.del d.owners e.2 })
        (d.mapCtx t.ctx (fun c => { c with privMap := c.privMap.filter (fun e => !(mine e)) }))

/-- A thread ends (R76): it leaves its gang, its slot, registers, results and private memory are gone; a home chunk
without threads passes its charge on; the chunk goes with its last thread. A shadow ends with its primary. -/
def Dev.endThread (d : Dev) (u : Nat) : Dev :=
  match d.thread? u with
  | none => d
  | some t =>
    let d1 := ((((d.timerLost t).leaveGang t).endFars t.core u).dropPriv t).passTo [t] .host
    let d2 := { d1 with threads := d1.threads.filter (fun x => x.uid ≠ u) }
    if d2.threads.any (fun x => x.ctx == t.ctx && x.lid == t.lid && x.chunk == t.chunk) then d2
    else
      let d3 := d2.passHome t.core t.ctx t.lid t.chunk
      match d3.chunk? t.ctx t.lid t.chunk with
      | some c => d3.chunkGone c
      | none => d3

/-- Ends some threads, one after another. -/
def Dev.endThreads (d : Dev) (us : List Nat) : Dev := us.foldl Dev.endThread d

/-! ### Inputs logged for a re-run (R443, R444) -/

/-- A launch with REC = 1 runs in the context: RERUN of SNAPSTAT (R443). -/
def Dev.recording (d : Dev) (slot : Nat) : Bool :=
  d.launches.any (fun l => l.ctx == slot && l.rcd && (l.state == .running || l.state == .draining))

/-- The key of a logged input of a source: kind 0 an arrival, 1 a job's completion, 2 a dequeue, 3 a value derived from CYC,
4 a BWAITT timeout, 5 a place in the order of a word, an object or a gang. -/
def logKey (kind src : Nat) : Nat := 8 * src + kind

/-- A thread as the log names it, the same in every run: launch, TID, and whether it is the shadow. -/
def Thread.logId (t : Thread) : Nat := (t.lid * 2 ^ 32 + t.tid.toNat) * 2 + b2n t.shadow

/-- A job as the log names it: the thread that submitted it, and after how many instructions. -/
def Origin.logId (o : Origin) : Nat := (o.lid * 2 ^ 32 + o.tid.toNat) * 2 ^ 64 + o.nth

/-- Adds an input to the log of a context that records; a re-run takes it off its log instead. DESIGN CHOICE: notes/assumptions/98. -/
def Dev.logInput (d : Dev) (slot key : Nat) (v : W64) : Dev :=
  match d.ctx? slot with
  | none => d
  | some c =>
    if c.rerun then
      match c.rlog.find? (fun e => e.1 == key) with
      | some e => d.mapCtx slot (fun c => { c with rlog := c.rlog.erase e })
      | none => d
    else if d.recording slot then d.mapCtx slot (fun c => { c with rlog := c.rlog ++ [(key, v)] })
    else d

/-- A log write of a context finds staging full (R443). -/
def Dev.logStalls (d : Dev) (slot : Nat) : Bool :=
  stagingCap ≤ d.staging && d.recording slot && !(((d.ctx? slot).map Ctx.rerun).getD false)

/-! The place of an operation in the order of its word, object or gang (R443): of the word of memory at an offset of the module's window, of
the word of a chunk's stash, and of the gang of a key; and who makes it: a thread, a packet or a job, each as every run names it. -/

/-- A word of memory. -/
def memPlace (off : Nat) : Nat := 3 * (off / 8)
/-- A word or object of a chunk's stash. -/
def stashPlace (lid chunk off : Nat) : Nat := 3 * ((lid * 2 ^ 16 + chunk) * 2 ^ 16 + off / 8) + 1
/-- A gang. -/
def gangPlace (key : W64) : Nat := 3 * key.toNat + 2
/-- The place of an object. -/
def ObjLoc.place (l : ObjLoc) : Nat := stashPlace l.lid l.chunk l.off
/-- A thread. -/
def Thread.placeId (t : Thread) : Nat := 3 * t.logId
/-- A packet. -/
def packetOp (p : Packet) : Nat := 3 * (p.src + 4096 * p.seq) + 1
/-- A job. -/
def Job.placeId (j : Job) : Nat := 3 * j.origin.logId + 2

/-- The key of an operation's place. -/
def placeKey (place who : Nat) : Nat := logKey 5 (place * 2 ^ 140 + who % 2 ^ 140)

/-- Operations, each a place and who makes it, come before their turns in a log. -/
def outOfTurn : List (Nat × W64) → List (Nat × Nat) → Bool
  | _, [] => false
  | l, (p, w) :: r =>
    match l.find? (fun e => e.1 % 8 = 5 && e.1 / 8 / 2 ^ 140 = p) with
    | none => outOfTurn l r
    | some e => if e.1 = placeKey p w then outOfTurn (l.erase e) r else true

/-- Operations of a context in a re-run come before their turns: they wait (R444). DESIGN CHOICE: notes/assumptions/98. -/
def Dev.early (d : Dev) (slot : Nat) (ops : List (Nat × Nat)) : Bool :=
  match d.ctx? slot with
  | some c => c.rerun && outOfTurn c.rlog ops
  | none => false

/-- The places of operations are logged, or taken off the log of a re-run, where what waits for its turn tries again (R443, R444). DESIGN CHOICE: notes/assumptions/98. -/
def Dev.places (d : Dev) (slot : Nat) (ops : List (Nat × Nat)) : Dev :=
  let d1 := ops.foldl (fun d o => d.logInput slot (placeKey o.1 o.2) 0) d
  if ops ≠ [] && ((d.ctx? slot).map Ctx.rerun).getD false then
    d1.mapThreads (fun t => t.ctx == slot && t.wait == .release) (fun t => t.readyNext d.pcyc)
  else d1

/-- Bytes arrive at an endpoint of this module, from module `src` in packet `seq`, as operation `op` of the object's order; a refused
arrival is recorded here, and the answer is false. DEDUCED: notes/assumptions/101. -/
def Dev.endpointArrive (d : Dev) (slot : Nat) (e : W64) (n : Nat) (fail : Bool) (by_ : List Agent) (src seq op : Nat) : Dev × Bool :=
  if !(endpointNames e) then (d, true)
  else
    let who := Who.nobody (some slot)
    match d.endpointObj? slot e with
    | some l => ((d.places slot [(l.place, op)]).byteArrive l n fail by_ who, true)
    | none => (d.note who cArrivalCounterBad (detailOf seq 0 (src * 2 ^ 12)), false)

/-- A value derived from CYC as a thread gets it: the logged one in a re-run (R444). DESIGN CHOICE: notes/assumptions/98. -/
def Dev.cycInput (d : Dev) (t : Thread) (v : W64) : W64 × Dev :=
  let key := logKey 3 t.logId
  match (d.ctx? t.ctx).bind (fun c => if c.rerun then c.rlog.find? (fun e => e.1 == key) else none) with
  | some e => (e.2, d.logInput t.ctx key v)
  | none => (v, d.logInput t.ctx key v)

/-- A job of a re-run completes at its logged CYC, not before (R444). DESIGN CHOICE: notes/assumptions/98. -/
def Dev.rerunHolds (d : Dev) (j : Job) : Bool :=
  match d.ctx? j.ctx with
  | some c => c.rerun && c.rlog.any (fun e => e.1 == logKey 1 j.origin.logId && c.regs.cyc.toNat < e.2.toNat)
  | none => false

/-- A thread sleeps on a job. -/
def Thread.awaits (t : Thread) (ctx : Nat) (h : W32) : Bool :=
  t.ctx == ctx &&
    (match t.wait with
     | .job _ x _ _ _ _ => x == h
     | _ => false)

/-- What a job's waiters are told: its state is final; each acquires (R104, R196). -/
def Dev.wakeJob (d : Dev) (die ctx : Nat) (h : W32) (ok : Bool) : Dev :=
  (d.learns (d.threads.filter (fun t => t.awaits ctx h)) (.job die h)).mapThreads (fun t => t.ctx == ctx)
    (fun t =>
      match t.wait with
      | .job p x _ _ _ q => if x = h then (t.setPred p (if ok then 0xFF else 0x0F) q).woken d.pcyc else t
      | _ => t)

/-- The size of a region's address space. -/
def Region.space (r : Region) : Nat := if r.stash.isSome then 2 ^ 32 else 2 ^ 64

/-- How far a byte lies into a region. -/
def Region.into (r : Region) (a : Nat) : Nat := (a + r.space - r.base % r.space) % r.space

/-- Two regions overlap in the same space. -/
def Region.meets (r q : Region) : Bool := r.stash == q.stash && (r.into q.base < r.len || q.into r.base < q.len)

/-- The footprints of two jobs of a context give an edge between them (R193). -/
def Job.orders (j i : Job) : Bool :=
  i.ctx == j.ctx && i.handle != j.handle && j.regions.any (fun r => i.regions.any (fun q => (r.wr || q.wr) && r.meets q))

/-- A job leaves its queue for the list of outcomes, newest first (R187, R196), its accesses are before those of the jobs
that it holds back (R110, R193), and its waiters wake. DEDUCED: notes/assumptions/55. -/
def Dev.retireJob (d : Dev) (k : Nat) (j : Job) (st : JobState) : Dev :=
  let d1 : Dev := { d with caches := (((d.die k).jobs.filter (fun i => j.orders i)).foldl (fun c i => c.passTo [.job k j.handle] (.job k i.handle)) d.caches) }
  ((d1.logInput j.ctx (logKey 1 j.origin.logId) (d.cyc j.ctx)).mapDie k (fun x =>
    { x with
      jobs := x.jobs.filter (fun y => y.handle ≠ j.handle)
      retired := (j.handle, j.ctx, st) :: x.retired })).wakeJob k j.ctx j.handle (st = .completed)

/-- The local barrier object of a job. -/
def Job.loc? (j : Job) : Option ObjLoc :=
  j.barrier.map (fun b => { ctx := j.ctx, lid := b.1, chunk := b.2.1, off := b.2.2 })

/-- The detail of a job's record (R379, group 6): handle, low address bits, high address bits and the state. -/
def jobDetail (h : W32) (addr : W64) (st : Nat) : Detail :=
  detailOf h.toNat (addr.toNat % 2 ^ 32) (addr.toNat / 2 ^ 32 % 2 ^ 25 + st % 8 * 2 ^ 25)

/-- The number of a job's state (R197). -/
def JobState.num : JobState → Nat
  | .queued => 0
  | .running => 1
  | .completed => 2
  | .failed => 3
  | .withdrawn => 4

/-- The bytes a job has not counted arrive with ERR set: at its local object, or at the endpoint of an FPUT (R156). DEDUCED: notes/assumptions/56. -/
def Dev.failBytes (d : Dev) (k : Nat) (j : Job) : Dev :=
  let who := Who.ofOrigin j.ctx j.origin
  let n := j.total - j.counted
  match j.loc?, j.endpoint, d.ctx? j.ctx with
  | some l, _, _ => if (d.objChunk? l).isSome then (d.places j.ctx [(l.place, j.placeId)]).byteArrive l n true [.job k j.handle] who else d
  | none, some e, some c =>
    if !(endpointNames e) then d
    else if endpointVm e = c.vm then (d.endpointArrive j.ctx e n true [.job k j.handle] c.vm 0 j.placeId).1
    else d.send j.ctx (endpointVm e) .rel (.sig e n true) none none 0
  | _, _, _ => d

/-- A job ends in failure or is withdrawn: its uncounted bytes arrive at once with ERR set, its record is written, and
it leaves the queue (R156, R192, R198). -/
def Dev.abandonJob (d : Dev) (k : Nat) (j : Job) (st : JobState) (c : Cause) (x : Detail) : Dev :=
  ((d.failBytes k j).note (Who.ofOrigin j.ctx j.origin) c x).retireJob k j st

/-- Withdraws every queued job the test accepts (R92, R198). -/
def Dev.withdrawJobs (d : Dev) (p : Job → Bool) : Dev :=
  (upTo 4).foldl (fun d k =>
    ((d.die k).jobs.filter (fun j => j.state = .queued && p j)).foldl
      (fun d j => d.abandonJob k j .withdrawn cJobCancelled (jobDetail j.handle 0 4)) d) d

/-- A gang of an ended launch is freed: its started instructions have stopped at a step boundary, the others never run
(R92 step 4, R277). Threads of other launches that waited for it go on. -/
def Dev.dropGang (d : Dev) (core k : Nat) : Dev :=
  match d.gang? core k with
  | none => d
  | some g =>
    let c := d.core core
    let tickets := (c.mq.filter (fun m => m.gang == k)).map (fun m => m.ticket) ++
      (c.mwait.filter (fun m => m.job.gang == k)).map (fun m => m.ticket)
    let d1 := (d.unbindAll g).mapCore core (fun c =>
      { c with
        mq := c.mq.filter (fun m => m.gang ≠ k)
        mwait := c.mwait.filter (fun m => m.job.gang ≠ k) })
    let d2 := d1.mapUids g.members (fun t =>
      match t.wait with
      | .rendezvous | .gangBusy => t.readyNext d.pcyc
      | .matrix n | .matrixQueue n => if tickets.contains n then t.woken d.pcyc else t
      | _ => t)
    d2.releaseGang core k

/-- A core without the unbound bind records of a context that the test accepts: Levante withdraws them (R93). -/
def Core.withdrawn (c : Core) (ctx : Nat) (p : BindRec → Bool) : Core :=
  { c with binds := c.binds.map (fun b => match b with | some r => if r.ctx = ctx && !r.bound && p r then none else b | none => none) }

/-- Ends a launch (R92): a record per chunk if `r` gives one, its threads retired, its queued jobs withdrawn, its gangs
freed, its bind slots freed, its lease released. DEDUCED: notes/assumptions/31. -/
def Dev.endLaunch (d : Dev) (ctx lid : Nat) (r : Option Rec) (st : LaunchState) : Dev :=
  let chunks := d.chunks.filter (fun c => c.ctx == ctx && c.lid == lid)
  let lanesOf := fun (c : Chunk) =>
    (d.threads.filter (fun t => t.ctx == ctx && t.lid == lid && t.chunk == c.idx)).map Thread.lane
  let d1 :=
    match r with
    | none => d
    | some r =>
      chunks.foldl (fun (d : Dev) (c : Chunk) => d.record { r with who := { r.who with vcore := c.vc }, lanes := lanesOf c }) d
  let mine := fun (t : Thread) => t.ctx == ctx && t.lid == lid
  let d2 := d1.withdrawJobs (fun j => j.ctx == ctx && j.origin.lid == lid)
  let d3 : Dev := d2.cores.foldl (fun (d : Dev) (e : Nat × Core) =>
    e.2.gangs.foldl (fun (d : Dev) (g : Nat × Gang) => if g.2.ctx = ctx && g.2.lid = lid then d.dropGang e.1 g.1 else d) d) d2
  let d4 := (d3.threads.filter mine).foldl (fun d t => (d.timerLost t).leaveGang t) d3
  let gone := d4.threads.filter mine
  let d5 := { ((gone.foldl (fun (d : Dev) t => (d.endFars t.core t.uid).dropPriv t) d4).passTo gone .host) with threads := d4.threads.filter (fun t => !(mine t)) }
  let d6 := chunks.foldl (fun d c => (d.passHome c.core c.ctx c.lid c.idx).chunkGone c) d5
  ({ d6 with cores := d6.cores.map (fun (e : Nat × Core) => (e.1, e.2.withdrawn ctx (fun b => b.lid == lid))) }).mapLaunch ctx lid
    (fun l => { l with state := st, endPending := none, intents := [] })

/-- A launch ends by a lease violation or the watchdog; while its context is being saved, or is saved, the end waits
for the resumption (R92, R100). DEDUCED: notes/assumptions/31. -/
def Dev.endLaunchBy (d : Dev) (ctx lid : Nat) (who : Who) (c : Cause) (x : Detail) : Dev :=
  let r : Rec := { cause := c, sev := 4, prec := false, trap := false, who := who, skid := 0, lanes := [], detail := x }
  match d.launch? ctx lid with
  | none => d
  | some l =>
    if l.state = .saving || l.state = .saved then
      d.mapLaunch ctx lid (fun l => { l with endPending := some (l.endPending.getD (c, x, who.pc)) })
    else d.endLaunch ctx lid (some r) .ended

/-! ### Taking an exception and returning from one (R369 to R374, R390) -/

/-- The trap ends the thread instead of entering its handler (R370). -/
def Thread.endsOnTrap (t : Thread) (tvec : W64) : Bool := t.inTrap || tvec = 0 || t.level = .system

/-- TVEC of a thread's context. -/
def Dev.tvec (d : Dev) (t : Thread) : W64 := ((d.ctx? t.ctx).map (fun c => c.regs.tvec)).getD 0

/-- A thread enters its handler (R370): CAUSE, DETAIL and EPC are written, the level is kept in PLEV and becomes
context, IN_TRAP is set, the latches go, and the next instruction waits for every late result (R44). It becomes ready in the following
cycle (R63). -/
def Thread.enter (t : Thread) (c : Cause) (x : Detail) (epc tvec : W64) (now : Nat) : Thread :=
  { t with
    cause := c
    detail := x
    epc := epc
    plev := t.level
    level := .context
    inTrap := true
    latches := []
    late := t.late.map (fun l => { l with cover := 0 })
    pc := tvec
    wait := .none
    replays := 0
    asked := none
    since := now + 1 }

/-- A thread takes a trap with EPC at `epc`, or is ended by it. -/
def Dev.enter (d : Dev) (t : Thread) (c : Cause) (x : Detail) (epc : W64) : Dev :=
  if t.endsOnTrap (d.tvec t) then d.endThread t.uid
  else (d.takeFars t.core [t.uid]).mapThread t.uid (fun t => t.enter c x epc (d.tvec t) d.pcyc)

/-- ERET's target (R390). -/
def Thread.eretTarget (t : Thread) (next : Bool) : W64 := if next then t.epc + 12 else t.epc

/-- A thread returns from its trap to `target` (R390): its level is that of PLEV, IN_TRAP is cleared. A trap that was held
has no instruction left to wait for: it is due before the instruction there issues (R371). -/
def Thread.eretTo (t : Thread) (target : W64) (now : Nat) : Thread :=
  { (t.retireTo target now) with level := t.plev, inTrap := false, skid := if t.pending.isSome then 255 else t.skid }

/-- The lanes of some threads. DEDUCED: notes/assumptions/32. -/
def lanesOf (ts : List Thread) : List Nat := ts.map Thread.lane

/-- What a precise fault of an instruction reports: the cause, the detail of the lowest lane that failed with it, and
the uids that failed with it. -/
structure Fail where
  cause  : Cause
  detail : Detail
  failed : List Nat
  deriving DecidableEq, Repr

/-- The record of a precise trap for some of its threads, and its queue (R369). DEDUCED: notes/assumptions/32. -/
def Dev.trapRecord (d : Dev) (ts : List Thread) (f : Fail) (trap : Bool) : Dev :=
  let bad := ts.filter (fun t => f.failed.contains t.uid)
  match (match bad with | t :: _ => some t | [] => ts.head?) with
  | none => d
  | some t =>
    d.record
      { cause := f.cause
        sev := if trap then 2 else 4
        prec := true
        trap := trap
        who := d.whoOf t
        skid := 0
        lanes := lanesOf bad
        detail := f.detail.withSelf f.cause true }

/-- A precise trap of some threads (R369): one record for those that take it, one for those of the context that it
ends, one in the system queue for the system-level threads; each thread then enters the trap or ends, with SELF in the
detail of a thread that failed itself (R379). -/
def Dev.trap (d : Dev) (ts : List Thread) (f : Fail) : Dev :=
  let takers := ts.filter (fun t => !(t.endsOnTrap (d.tvec t)))
  let ended := ts.filter (fun t => t.endsOnTrap (d.tvec t) && t.level ≠ .system)
  let system := ts.filter (fun t => t.level = .system)
  let d1 := ((d.trapRecord takers f true).trapRecord ended f false).trapRecord system f false
  ts.foldl (fun d t => d.enter t f.cause (f.detail.withSelf f.cause (f.failed.contains t.uid)) t.pc) d1

/-- An instruction fails for some threads (R132, R369): a lease violation ends the launches of the threads that failed,
every other cause traps every active thread. DEDUCED: notes/assumptions/31. -/
def Dev.fail (d : Dev) (act : List Thread) (f : Fail) : Dev :=
  if f.cause = cLeaseViolation then
    let bad := act.filter (fun t => f.failed.contains t.uid)
    let lids := (bad.map (fun t => (t.ctx, t.lid))).eraseDups
    lids.foldl (fun d k =>
      match bad.find? (fun t => t.ctx == k.1 && t.lid == k.2) with
      | some t => d.endLaunchBy k.1 k.2 (d.whoOf t) f.cause (f.detail.withSelf f.cause true)
      | none => d) d
  else d.trap act f

/-- An imprecise error that a thread's earlier instruction caused (R371): a record now, and, if the thread exists and
holds no pending trap, a pending trap. `was` is the thread's count of retired instructions just after that one. DEDUCED: notes/assumptions/34. -/
def Dev.imprecise (d : Dev) (who : Who) (u : Nat) (was : Nat) (c : Cause) (x : Detail) (lanes : List Nat) : Dev :=
  let t := d.thread? u
  let skid := (t.map (fun t => t.retired - was)).getD 0
  let takes := (t.map (fun t => t.pending.isNone)).getD false
  let ends := (t.map (fun t => d.tvec t = 0 || t.level = .system)).getD false
  let d1 := d.record
    { cause := c, sev := if takes && ends then 4 else 2, prec := false, trap := takes, who := who, skid := skid,
      lanes := lanes, detail := x.withSelf c true }
  if takes then
    d1.mapThreads (fun t => t.uid == u || (t.shadow && t.partner == some u))
      (fun t => { t with pending := some { cause := c, detail := x.withSelf c true }, skid := 0 })
  else d1

/-- A thread takes its pending trap at an instruction boundary: EPC is the instruction it would issue next (R371). DEDUCED: notes/assumptions/33. -/
def Dev.takePending (d : Dev) (u : Nat) : Dev :=
  match d.thread? u with
  | none => d
  | some t =>
    match t.pending with
    | none => d
    | some p =>
      if t.inTrap then d
      else (d.mapThread u (fun t => { t with pending := none, skid := 0 })).enter t p.cause p.detail t.pc

/-- A thread takes TIMER when it is next ready (R372): one record, then the trap. DEDUCED: notes/assumptions/33. -/
def Dev.takeTimer (d : Dev) (u : Nat) : Dev :=
  match d.thread? u with
  | none => d
  | some t =>
    match t.timerDue with
    | none => d
    | some v =>
      if t.inTrap then d
      else
        let ends := t.endsOnTrap (d.tvec t)
        ((d.mapThread u (fun t => { t with timerDue := none })).record
          { cause := cTimer, sev := if ends then 4 else 2, prec := false, trap := !ends, who := d.whoOf t, skid := 0,
            lanes := [t.lane], detail := cycDetail v 0 }).enter t cTimer (cycDetail v 0) t.pc

end Sys2Proof.Machine
end

