-- ==== Sys2Proof/Machine/Operands.lean ====
section
/-! DEFINITION. Operand forms: the registers an instruction names, the level it needs, the values of its sources with
their poison, and how a lane's results are written, at once or under lookahead (spec/01 R15 to R22, spec/02 R35 to R45,
spec/10 R235 to R238, spec/09 R225). -/

namespace Sys2Proof.Machine

/-! ### Registers an instruction names (R16, R17, R35) -/

/-- A named vector group (first register, size; the first must be a multiple of the size) or a named gang-scalar
group. -/
inductive Named where
  | v (r : VReg) (n : Nat)
  | s (r : SReg) (n : Nat)
  deriving DecidableEq, Repr

/-- A source, as a pair if `wide`. -/
def srcNamed (wide : Bool) : Src → List Named
  | .v r => [.v r (if wide then 2 else 1)]
  | .s r => [.s r 1]

/-- A second source. -/
def srcINamed (wide : Bool) : SrcI → List Named
  | .v r => [.v r (if wide then 2 else 1)]
  | .s r => [.s r 1]
  | .imm _ => []

/-- A destination. -/
def dstNamed (wide : Bool) : Dst → List Named
  | .v r => [.v r (if wide then 2 else 1)]
  | .s r => [.s r 1]

/-- The size in bytes. -/
def szBytes : Sz → Nat
  | .b8 => 1
  | .b16 => 2
  | .b32 => 4
  | .b64 => 8
  | .b128 => 16

/-- The registers an access of a size names (R129). -/
def szRegs : Sz → Nat
  | .b64 => 2
  | .b128 => 4
  | _ => 1

/-- The base of a memory operand: a pair for a virtual address (R40). -/
def memNamed (virt : Bool) (m : MemRef) : List Named := srcNamed virt m.base

/-- The registers of a card operand (R194). -/
def cardNamed : CardSrc → List Named
  | .group a => [.s a 8]
  | .stash b _ => srcNamed false b

/-- The registers of a handle operand (R194). -/
def handleNamed : Src → List Named
  | .v r => [.v r 4]
  | .s r => [.s r 2]

/-- The registers of a SYSR or SYSW operand (R386). -/
def sysNamed : SysForm → List Named
  | .one r => [.v r 1]
  | .pair r => [.v r 2]
  | .s r => [.s r 1]

/-- The register of a field operand (R243). -/
def fieldNamed : Field → List Named
  | .imm _ _ => []
  | .reg r => srcNamed false r

/-- The registers of the register group of a tile row (R278). -/
def cvRegs : Cv → Nat
  | .f32 | .i32 => 32
  | .bf16 | .f16 => 16

/-- One register. -/
def v1 (r : VReg) : Named := .v r 1
/-- A pair or a register. -/
def vw (wide : Bool) (r : VReg) : Named := .v r (if wide then 2 else 1)

/-- Every register an instruction names, destinations and sources. -/
def namedOf (i : Instr) : List Named :=
  match i with
  | .brx _ b _ => srcNamed true b
  | .call _ t => match t with
    | .label _ => []
    | .reg a _ => [.v a 2]
  | .callLink _ d t => .v d 2 :: match t with
    | .label _ => []
    | .reg a _ => [.v a 2]
  | .retLink _ a => [.v a 2]
  | .sleepAbs _ a => srcNamed true a
  | .join _ _ a _ | .joinT _ _ a _ => [.v a 2]
  | .joinRank _ _ a b _ | .joinRankT _ _ a b _ => [.v a 2, v1 b]
  | .ginfo _ d => [.v d 4]
  | .post _ a b => [.v a 4, .v b 4]
  | .pair w =>
    [v1 (w.op0.reg w.op0.d), v1 (w.op1.reg w.op1.d)] ++ (w.op0.sources ++ w.op1.sources).map v1
  | .iadd _ ty _ d a b _ | .isub _ ty _ d a b _ | .imul _ ty _ d a b | .imulh _ ty d a b | .imin _ ty d a b
  | .imax _ ty d a b => dstNamed ty.wide d ++ srcNamed ty.wide a ++ srcINamed ty.wide b
  | .imad _ ty _ d a b c | .iclamp _ ty d a b c =>
    dstNamed ty.wide d ++ srcNamed ty.wide a ++ srcNamed ty.wide b ++ srcNamed ty.wide c
  | .iabs _ ty _ d a => dstNamed ty.wide d ++ srcNamed ty.wide a
  | .and _ w d a b | .or _ w d a b | .xor _ w d a b | .andn _ w d a b => dstNamed w d ++ srcNamed w a ++ srcINamed w b
  | .shl _ w d a b | .shr _ w d a b | .sar _ w d a b | .rol _ w d a b =>
    dstNamed w d ++ srcNamed w a ++ srcINamed false b
  | .popc _ w d a | .clz _ w d a => dstNamed false d ++ srcNamed w a
  | .brev _ w d a | .mov _ w d a => dstNamed w d ++ srcNamed w a
  | .bfx _ ty d a f => dstNamed ty.wide d ++ srcNamed ty.wide a ++ fieldNamed f
  | .bfi _ w d a b f => dstNamed w d ++ srcNamed w a ++ srcNamed w b ++ fieldNamed f
  | .icmp _ ty _ a b _ => srcNamed ty.wide a ++ srcNamed ty.wide b
  | .sel _ w d a b _ _ => dstNamed w d ++ srcNamed w a ++ srcNamed w b
  | .movi _ k d _ => [vw (k != .b32) d]
  | .lea _ _ d a b _ => .v d 2 :: srcNamed true a ++ srcNamed false b
  | .idot4 _ _ _ d a b c | .prmtCtl _ d a b c | .hfma2 _ _ d a b c | .hdot2 _ _ d a b c => [v1 d, v1 a, v1 b, v1 c]
  | .prmt _ d a b _ | .fdiv _ d a b => [v1 d, v1 a, v1 b]
  | .smov _ d x => .s d 1 :: match x with
    | .pair a _ => [.v a 2]
    | .reg a _ => [v1 a]
    | .imm _ => []
    | .s a => [.s a 1]
  | .smovHi _ d _ => [.s d 1]
  | .salu _ _ d a b => .s d 1 :: .s a 1 :: match b with
    | .s r => [.s r 1]
    | .imm _ => []
  | .fadd _ d a b | .fsub _ d a b | .fmul _ d a b | .fmin _ d a b | .fmax _ d a b =>
    dstNamed false d ++ srcNamed false a ++ srcINamed false b
  | .ffma _ _ _ d a b c => dstNamed false d ++ srcNamed false a ++ srcNamed false b ++ srcNamed false c
  | .fcmp _ _ _ a b _ => srcNamed false a ++ srcNamed false b
  | .fclass _ d a _ _ | .frnd _ _ d a => v1 d :: srcNamed false a
  | .fcvt _ c _ d a =>
    vw (match c with | .i64 _ | .n64 _ => true | _ => false) d :: srcNamed false a ++ match c with
      | .f16x2 b | .bf16x2 b => srcNamed false b
      | _ => []
  | .icvt _ c _ d a =>
    vw (c == .i64 || c == .n64) d :: srcNamed (c == .f32i64 || c == .f32n64) a
  | .frcp _ d a | .frsq _ d a | .fsqrt _ d a | .fexp2 _ d a | .flog2 _ d a | .fsin _ d a | .fcos _ d a
  | .ftanh _ d a => [v1 d, v1 a]
  | .hadd2 _ _ d a b | .hmul2 _ _ d a b => v1 d :: v1 a :: srcINamed false b
  | .fscale _ d a b => v1 d :: srcNamed false a ++ srcINamed false b
  | .fflagRd _ d => [v1 d]
  | .rngd _ f d => [vw (!f) d]
  | .rngs _ f d a key => vw (!f) d :: .v a 2 :: srcNamed true key
  | .pmov _ f => match f with
    | .toV d _ => [v1 d]
    | .fromV _ a => [v1 a]
    | .imm _ _ => []
  | .voteMask _ d _ => [.v d 2]
  | .voteCount _ d _ => [v1 d]
  | .xbfly _ w d a _ | .xbcast _ w d a _ => [vw w d, vw w a]
  | .xbflyTr _ d _ => [.v d 16]
  | .xshfl _ w d a m => vw w d :: vw w a :: match m with
    | .from b => [v1 b]
    | _ => []
  | .xred _ op d a | .xscan _ op _ d a => [vw (op == .addN64) d, vw (op == .addN64) a]
  | .ld _ p sz _ d m => .v d (szRegs sz) :: memNamed (!p) m
  | .lda _ sz _ d m => .v d (szRegs sz) :: memNamed true m
  | .st _ p sz m b => .v b (szRegs sz) :: memNamed (!p) m
  | .stl _ sz m b => .v b (szRegs sz) :: memNamed true m
  | .atom _ _ _ w d m b | .cas _ _ w d m b => vw w d :: vw w b :: memNamed true m
  | .atomf _ _ _ d m b => v1 d :: v1 b :: memNamed true m
  | .smap _ _ _ _ f => match f with
    | .v a b => [.v a 2, v1 b]
    | .s a b => [.s a 1, .s b 1]
  | .sld _ sz _ d m => .v d (szRegs sz) :: memNamed false m
  | .sst _ sz m b => .v b (szRegs sz) :: memNamed false m
  | .binit _ _ m b => v1 b :: memNamed false m
  | .barv _ m n => memNamed false m ++ (n.map (srcNamed false)).getD []
  | .bexp _ m n | .bexpMax _ m n | .baddb _ m n => memNamed false m ++ srcNamed false n
  | .bdrop _ m => memNamed false m
  | .bwait _ _ m k | .btest _ _ m k => memNamed false m ++ match k with
    | .imm _ => []
    | .reg r => srcNamed false r
  | .bwaitt _ _ m _ dl => memNamed false m ++ srcNamed true dl
  | .rowact _ _ b _ => srcNamed true b
  | .rowconS _ _ b _ | .rowput _ _ b _ => srcNamed false b
  | .rowconV _ d _ => [.v d 8]
  | .rowputV _ _ b => [.v b 8]
  | .rowqry _ d _ => [.v d 4]
  | .xcopy _ d c | .crs _ d c | .crsNorm _ d c | .cag _ d c | .car _ d c | .cbc _ d c => .v d 4 :: cardNamed c
  | .xwait _ _ a | .xcancel _ _ a => handleNamed a
  | .xqry _ d a => .v d 4 :: handleNamed a
  | .fput _ d a _ | .fget _ d a _ => [.s d 2, .s a 4]
  | .fatom _ _ _ w m b => vw w b :: memNamed true m
  | .fsig _ x => match x with
    | .v a b => [.v a 2, v1 b]
    | .s a b => [.s a 1, .s b 1]
  | .mldw _ _ _ a | .mstream _ _ _ _ a | .mlda _ _ _ a => [.s a 3]
  | .mst _ _ _ b => [.s b 3]
  | .mstReg _ cv d _ => [.v d (cvRegs cv)]
  | .mldaReg _ cv _ a => [.v a (cvRegs cv)]
  | .mgrp _ _ _ _ a => [.s a 4]
  | .mqry _ d => [.s d 1]
  | .mscl _ _ a => [.s a 1]
  | .norma _ _ a b | .normb _ _ a b => [.s a 3, .s b 1]
  | .nprod _ d a => [.s d 1, .s a 2]
  | .aliasT _ a b => [.s a 1, .s b 1]
  | .sampmm _ _ _ a b => [.s a 7, .s b 1]
  | .svrd _ d | .svrdW _ d => [.s d 2]
  | .awupd _ _ d a b => [.v d 4, v1 a, .s b 4]
  | .sgdm _ _ d a b => [.v d 2, v1 a, .s b 2]
  | .gscale _ d a b => [v1 d, v1 a, .s b 1]
  | .gscaleF _ d b => [.s d 1, .s b 1]
  | .sysr _ f _ | .sysw _ f _ | .cyccmpWrite _ f | .eqheadWrite _ f | .eqRingWrite _ f _ | .eqtailRead _ f
  | .partmodeWrite _ f _ | .lcmapWrite _ f _ | .fmtrangeWrite _ f _ _ | .marginRegWrite _ f _
  | .svarWrite _ f _ => sysNamed f
  | .xlate _ d a | .leaseq _ d a => [.v d 4, .v a 2]
  | .xlateCtx _ d a b => [.v d 4, .v a 2, v1 b]
  | .margin _ _ a b => [v1 a, v1 b]
  | .marginRd _ d a => [.v d 2, v1 a]
  | .scan _ _ a | .scanAbort _ _ a | .quar _ _ a | .haltc _ _ a | .haltcRel _ _ a | .ctxsv _ _ a
  | .ctxld _ _ a => [v1 a]
  | .snapq _ d _ | .snapqW _ d _ => [.v d 4]
  | .ctxldImg _ _ a b => [v1 a, .v b 2]
  | _ => []

/-- The guard bits that govern an operation of a pair (R18, R36). -/
def pairGov : PairCode → List Nat
  | .hadd2F16 | .hadd2Bf16 | .hfma2F16 | .hfma2Bf16 => [0, 2]
  | _ => [0]

/-- The guard bits that govern an instruction (R18, R36, R238). -/
def govOf (i : Instr) : List Nat :=
  match i with
  | .pair w => pairGov w.op0.code ++ pairGov w.op1.code
  | .iadd _ ty .. | .isub _ ty .. | .imin _ ty .. | .imax _ ty .. | .iabs _ ty .. | .icmp _ ty .. =>
    govBits ty.width ty.count
  | .hadd2 .. | .hmul2 .. | .hfma2 .. => [0, 2]
  | .fcmp _ f .. => if f = .f32 then [0] else [0, 2]
  | _ => [0]

/-- A named vector group breaks R16 or R35 for a thread of `n` registers. -/
def Named.regBad (n : Nat) : Named → Bool
  | .v r k => r.toNat % k ≠ 0 || r.toNat + k > n
  | .s _ _ => false

/-- The instruction names s1 to s63 (R17). -/
def Named.isGang : Named → Bool
  | .v _ _ => false
  | .s r k => r ≠ 0 || k > 1

/-! ### Levels (R20 to R22, R342, R386, R409, R433) -/

/-- The least level that may read a system register (R20). -/
def srnReadLevel (n : Srn) : Nat :=
  let k := n.toNat
  if k = 0x002 || 0x100 ≤ k then 2
  else if k = 0x001 || (0x020 ≤ k && k ≤ 0x030) then 1
  else 0

/-- The least level that may write a system register (R20). -/
def srnWriteLevel (n : Srn) : Nat :=
  let k := n.toNat
  if 0x100 ≤ k then 2
  else if k = 0x001 || k = 0x012 || k = 0x013 || 0x020 ≤ k then 1
  else 0

/-- The level an instruction requires. -/
def levelOf (i : Instr) : Nat :=
  match i with
  | .sysr _ _ n => srnReadLevel n
  | .sysw _ _ n => srnWriteLevel n
  | .cyccmpWrite .. | .eqheadWrite .. | .eqRingWrite .. | .eqtailRead .. => 1
  | .partmodeWrite .. | .lcmapWrite .. | .fmtrangeWrite .. | .marginRegWrite .. => 2
  | .eret _ | .eretNext _ => 1
  | .xlate .. => 1
  | .xlateCtx .. => 2
  | .margin .. | .marginRd .. | .scan .. | .scanAbort .. | .quar .. | .haltc .. | .haltcRel .. => 2
  | .snap .. | .snapq .. | .snapqW .. => 1
  | .ctxsv .. | .ctxld .. | .ctxldImg .. => 2
  | _ => 0

/-! ### Source values -/

/-- What a lane reads its operands from: the device's counter, its thread, and its gang, if it is in one. -/
structure Env where
  c : Nat
  t : Thread
  g : Option Gang

/-- An operand: none, a register or a pair, a gang scalar in whole or its low half, or a number (R217, R235, R237). -/
inductive Opd where
  | none
  | v (r : VReg) (wide : Bool)
  | s (r : SReg) (wide : Bool)
  | imm (x : Nat)
  deriving DecidableEq, Repr

/-- A source of one width. -/
def opdOf (wide : Bool) : Src → Opd
  | .v r => .v r wide
  | .s r => .s r wide

/-- A second source of one width; an immediate of 64 bits is sign- or zero-extended (R236). -/
def opdI (wide signed : Bool) : SrcI → Opd
  | .v r => .v r wide
  | .s r => .s r wide
  | .imm x => .imm (if wide && signed then (sext64 x).toNat else x.toNat)

/-- The value of an operand at a position, with its poison. -/
def Env.read (e : Env) (pos : Nat) (o : Opd) : Nat × Bool :=
  let c := 4 * e.c + pos
  match o with
  | .none => (0, false)
  | .v r wide => if wide then ((e.t.rd64 c r).toNat, e.t.rdP64 c r) else ((e.t.rd c r).toNat, e.t.rdP c r)
  | .s r wide =>
    match e.g with
    | some g => (if wide then (g.sreg r).toNat else (lo32 (g.sreg r)).toNat, g.spsn r)
    | none => (0, false)
  | .imm x => (x, false)

/-- The environment of a thread; an instruction that waits for another module reads as it first read (R44). -/
def Dev.env (d : Dev) (t : Thread) : Env := { c := t.asked.getD d.ctr, t := t, g := (d.gangOf? t).map Prod.snd }

/-- A source of 64 bits as an address. -/
def Env.addr (e : Env) (b : Src) : W64 × Bool :=
  let (x, p) := e.read 0 (opdOf true b)
  (BitVec.ofNat 64 x, p)

/-- The address of a memory operand (R40): modulo 2^64 for a virtual address, modulo 2^32 otherwise. -/
def Env.memAddr (e : Env) (virt : Bool) (m : MemRef) : Nat × Bool :=
  let (x, p) := e.read 0 (opdOf virt m.base)
  ((x + (m.off.signExtend 64).toNat) % 2 ^ (if virt then 64 else 32), p)

/-- The address or stash offset of a row or engine instruction's operand: base plus the signed offset (R169, R194). -/
def Env.rowAddr (e : Env) (virt : Bool) (base : Src) (off : W32) : Nat × Bool :=
  let (x, p) := e.read 0 (opdOf virt base)
  ((x + (sext64 off).toNat) % 2 ^ (if virt then 64 else 32), p)

/-! ### Results under lookahead (R44) -/

/-- Consecutive registers with their values and poison. -/
def regRun (r : VReg) (vals : List (W32 × Bool)) : List (VReg × W32 × Bool) :=
  (upTo vals.length).zip vals |>.map (fun x => (r + BitVec.ofNat 9 x.1, x.2))

/-- Pending results no longer write these registers; a known value they held becomes the register's (R44). -/
def Thread.dropLate (t : Thread) (rs : List VReg) : Thread :=
  rs.foldl (fun t r =>
    match t.lateFor? r with
    | some (l, x) =>
      if l.unread.isNone then t.wr r x.val x.psn
      else { t with late := t.late.map (fun l => { l with regs := l.regs.filter (fun x => x.reg ≠ r) }) }
    | none => { t with late := t.late.map (fun l => { l with regs := l.regs.filter (fun x => x.reg ≠ r) }) }) t

/-- A pending result of an instruction: the registers, with the values known so far. The issue of the instruction itself is not one
of those it covers. -/
def lateOf (cover : Nat) (r : VReg) (vals : List (W32 × Bool)) (unread : Option Unread) (guess acq : Bool) (va : Option W64) : Late :=
  { regs := ((upTo vals.length).zip (regRun r vals)).map (fun x => { reg := x.2.1, val := x.2.2.1, psn := x.2.2.2, k := x.1 }),
    cover := cover, unread := unread, guess := guess, acq := acq, va := va }

/-- A result is to be written later. -/
def Thread.addLate (t : Thread) (l : Late) : Thread :=
  let t1 := t.dropLate (l.regs.map LateReg.reg)
  { t1 with late := t1.late ++ [l] }

/-- Writes an instruction's result, each register with its poison: at once with LAH = 0, else as a late result that
covers LAH instructions. -/
def Thread.wrResP (t : Thread) (h : Hd) (r : VReg) (vals : List (W32 × Bool)) : Thread :=
  if h.lah = 0 then (regRun r vals).foldl (fun t x => t.wr x.1 x.2.1 x.2.2) t
  else t.addLate (lateOf (h.lah.toNat + 1) r vals none false false none)

/-- The same with one poison for all registers. -/
def Thread.wrRes (t : Thread) (h : Hd) (r : VReg) (vals : List W32) (p : Bool) : Thread :=
  t.wrResP h r (vals.map (fun v => (v, p)))

/-- The registers a loaded value of some bytes writes (R134). -/
def loadWords (size : Nat) (sx : Bool) (x : Nat) : List W32 :=
  if size ≤ 2 then
    [if sx then (if size = 1 then (BitVec.ofNat 8 x).signExtend 32 else (BitVec.ofNat 16 x).signExtend 32)
     else BitVec.ofNat 32 (x % 2 ^ (8 * size))]
  else (upTo (size / 4)).map (fun k => BitVec.ofNat 32 (x / 2 ^ (32 * k)))

/-- The latched operands of an instruction (R45): the register fields of its word whose RU bit is set. -/
def latchesOf (i : Instr) : List Latch :=
  match i.hd?, encodeG i with
  | some h, some f =>
    if h.ru = 0 then []
    else
      (if h.ru.getLsbD 2 then [{ pos := 4, reg := f.a }] else []) ++
        (if h.ru.getLsbD 1 then [{ pos := 2, reg := f.b }] else []) ++
        (if h.ru.getLsbD 0 then [{ pos := 1, reg := f.c }] else [])
  | _, _ => []

end Sys2Proof.Machine
end

