-- ==== Sys2Proof/Machine/Spot.lean ====
section
/-! DEFINITION. What an access reaches, and reads that are performed after later instructions of their thread have issued (spec/02
R40, R44, spec/05 R107, R108, spec/06 R134, R144 to R149). -/

namespace Sys2Proof.Machine

/-! ### Where an access goes -/

/-- What an access reaches: private memory; unmapped stash; physical memory; another module; a line of a map entry whose
global location lies here or on another module. -/
inductive Spot where
  | priv (off : Nat)
  | stash (off : Nat)
  | phys (pa : Nat)
  | remote (vm off : Nat)
  | mapped (k off pa : Nat)
  | mappedFar (k off vm roff : Nat)
  deriving DecidableEq, Repr

/-- The spot `n` bytes further on. -/
def Spot.plus (s : Spot) (n : Nat) : Spot :=
  match s with
  | .priv o => .priv (o + n)
  | .stash o => .stash (o + n)
  | .phys a => .phys (a + n)
  | .remote v o => .remote v (o + n)
  | .mapped k o a => .mapped k (o + n) (a + n)
  | .mappedFar k o v r => .mappedFar k (o + n) v (r + n)

/-- The physical address of a spot in this module's memory. -/
def Spot.pa? : Spot → Option Nat
  | .phys pa => some pa
  | .mapped _ _ pa => some pa
  | _ => none

/-- The map entry that holds a stash offset. -/
def Chunk.entryAt (c : Chunk) (off : Nat) : Option (Nat × MapEntry) :=
  c.map.find? (fun e => e.2.off ≤ off && off < e.2.off + e.2.len)

/-- The spot of a virtual address. -/
def Dev.virtSpot (d : Dev) (c : Ctx) (va : W64) : Spot :=
  match c.window va with
  | .fabric vm off => .remote vm off
  | .local_ off => .phys ((d.pa? c off).getD 0)
  | .bad => .phys 0

/-- The spot of a stash offset of a chunk. DEDUCED: notes/assumptions/66. -/
def Dev.stashSpot (d : Dev) (c : Ctx) (ch : Chunk) (off : Nat) : Spot :=
  match ch.entryAt off with
  | none => .stash off
  | some (k, e) =>
    match d.virtSpot c (e.va + BitVec.ofNat 64 (off - e.off)) with
    | .remote vm r => .mappedFar k off vm r
    | .phys a => .mapped k off a
    | s => s

/-- The spaces of a memory operand: 0 virtual, 1 private, 2 stash (R40). -/
def Dev.spot (d : Dev) (t : Thread) (sp ea : Nat) : Spot :=
  match sp with
  | 1 => .priv ea
  | 2 =>
    match d.ctx? t.ctx, d.chunkOf? t with
    | some c, some ch => d.stashSpot c ch ea
    | _, _ => .stash ea
  | _ =>
    match d.ctx? t.ctx with
    | some c => d.virtSpot c (BitVec.ofNat 64 ea)
    | none => .phys 0

/-- The space, the address and the size of an instruction's access in one lane, if it makes one. -/
def Env.access (e : Env) (i : Instr) : Option (Nat × Nat × Nat) :=
  match i with
  | .ld _ priv sz _ _ m | .st _ priv sz m _ => some (b2n priv, (e.memAddr (!priv) m).1, szBytes sz)
  | .lda _ sz _ _ m | .stl _ sz m _ => some (0, (e.memAddr true m).1, szBytes sz)
  | .atom _ _ _ w _ m _ | .cas _ _ w _ m _ | .fatom _ _ _ w m _ => some (0, (e.memAddr true m).1, if w then 8 else 4)
  | .atomf _ _ _ _ m _ => some (0, (e.memAddr true m).1, 4)
  | .sld _ sz _ _ m | .sst _ sz m _ => some (2, (e.memAddr false m).1, szBytes sz)
  | .binit _ _ m _ | .barv _ m _ | .bexp _ m _ | .bexpMax _ m _ | .baddb _ m _ | .bdrop _ m
  | .bwait _ _ m _ | .btest _ _ m _ | .bwaitt _ _ m _ _ => some (2, (e.memAddr false m).1, 16)
  | _ => none

/-- The address of an instruction's access in one lane, for the detail of a mismatch (R406); 0 where it has none. DEDUCED: notes/assumptions/132. -/
def Env.addrOf (e : Env) (i : Instr) : Nat := ((e.access i).map (fun x => x.2.1)).getD 0

/-! ### Reads performed late (R107, R108) -/

/-- The accesses of a load: 128 bits are two of 64 (R106). -/
def partsOf (a n : Nat) : List (Nat × Nat) := if n = 16 then [(a, 8), (a + 8, 8)] else [(a, n)]

/-- The words that a late read of this module returns. -/
def Dev.readUnread (d : Dev) (t : Thread) : Unread → List (W32 × Bool)
  | .mem pa n sx =>
    (partsOf pa n).flatMap (fun x =>
      let b := d.readAs [.thread t.gangUid] x.1 x.2
      (loadWords x.2 sx (leOf b.1)).map (fun w => (w, b.2)))
  | .stash off n sx =>
    match d.chunkOf? t with
    | some c =>
      (partsOf off n).flatMap (fun x =>
        (loadWords x.2 sx (c.stash.getLE x.1 x.2)).map (fun w => (w, psnAny c.stashPsn x.1 x.2)))
    | none => []
  | .far .. => []

/-- A late read is one of this module. -/
def Unread.here : Unread → Bool
  | .far .. => false
  | _ => true

/-- A load that poisons a register moves its thread's poison origin to the word it came from (R304). DEDUCED: notes/assumptions/44. -/
def Thread.sawPoison (t : Thread) (va : Option W64) (ws : List (W32 × Bool)) : Thread :=
  match va, ws.findIdx? Prod.snd with
  | some a, some k => { t with psnFrom := a + BitVec.ofNat 64 (4 * k) }
  | _, _ => t

/-- One pending result is written. -/
def Thread.landOne (t : Thread) (l : Late) : Thread :=
  l.regs.foldl (fun t x => t.wr x.reg x.val x.psn) { t with late := t.late.erase l }

/-- A pending result has its words. -/
def Late.filled (l : Late) (ws : List (W32 × Bool)) : Late :=
  { l with unread := none, regs := l.regs.map (fun x => { x with val := (ws[x.k]?.getD (0, false)).1, psn := (ws[x.k]?.getD (0, false)).2 }) }

/-- A thread's late read returns its words; a predicted value is then the register's. -/
def Thread.fill (t : Thread) (u : Unread) (ws : List (W32 × Bool)) : Thread :=
  match t.late.find? (fun l => l.unread == some u) with
  | none => t
  | some l =>
    let l' := l.filled ws
    let t1 := { t with late := t.late.map (fun y => if y == l then l' else y) }
    (if l.guess then t1.landOne l' else t1).sawPoison l.va ws

/-- A late read of this module is performed, for a thread and its shadow. -/
def Dev.perform (d : Dev) (t : Thread) (u : Unread) : Dev :=
  let ws := d.readUnread t u
  let d1 := d.mapThreads (fun x => x.uid == t.uid || (x.shadow && x.partner == some t.uid)) (fun x => x.fill u ws)
  match u with
  | .mem pa n _ => d1.sawAs [.thread t.gangUid] pa n
  | _ => d1

/-- The late reads of this module that a thread has still to perform. -/
def Thread.unreads (t : Thread) : List Late := t.late.filter (fun l => (l.unread.map Unread.here).getD false)

/-- The instruction is a release, so that every earlier read of its thread is performed before it (R104, R107, R116). -/
def isRelease : Instr → Bool
  | .stl .. | .fence .. | .barv .. | .baddb .. | .bdrop .. | .post .. | .exit .. | .fsig .. | .fput .. | .fget .. => true
  | .xcopy .. | .crs .. | .crsNorm .. | .cag .. | .car .. | .cbc .. | .sunmap .. | .sflush .. | .eqheadWrite .. => true
  | .atom _ o .. | .cas _ o .. | .atomf _ o .. | .fatom _ o .. => o == .rel || o == .ar
  | _ => false

/-- An access may touch what a late read reads (R107, case 1). -/
def Unread.touches (u : Unread) (s : Spot) (n : Nat) : Bool :=
  match u, s with
  | .mem pa k _, s => (s.pa?.map (fun a => decide (a < pa + k) && decide (pa < a + n))).getD false
  | .stash o k _, .stash a => decide (a < o + k) && decide (o < a + n)
  | _, _ => false

/-- A late read of a thread is performed before an instruction: the instruction names a register whose value was predicted, is a
release, is a gang-wide operation, or accesses what the read reads. -/
def Dev.mustPerform (d : Dev) (i : Instr) (gangOp : Bool) (t : Thread) (l : Late) : Bool :=
  (l.guess && (namedOf i).any (fun n => match n with | .v r k => l.regs.any (fun x => decide (r.toNat ≤ x.reg.toNat) && decide (x.reg.toNat < r.toNat + k)) | _ => false)) ||
    isRelease i || gangOp ||
    (match (d.env t).access i, l.unread with
     | some (sp, ea, n), some u => u.touches (d.spot t sp ea) n
     | _, _ => false)

/-- The late reads that an instruction of the issue group waits for are performed (R44, R107, R108). -/
def Dev.confirmed (d : Dev) (i : Instr) (gangOp : Bool) : Dev :=
  let ts := (d.threads.filter (fun t => d.group.contains t.uid && !t.shadow && !t.unreads.isEmpty))
  ts.foldl (fun d t => (t.unreads.filter (d.mustPerform i gangOp t)).foldl (fun d l => (l.unread.map (d.perform t)).getD d) d) d

end Sys2Proof.Machine
end

