-- ==== Sys2Proof/Machine/Issue.lean ====
section
/-! DEFINITION. What every instruction shares: which lanes of the issue group act, the checks before an instruction's own,
the choice of the reported fault, protected pairs, and gang-wide operations with their rendezvous (spec/02 R36, R54,
spec/03 R69, R70, R73, spec/06 R132, spec/11 R283, spec/18 R369, R375, R376, spec/19 R404 to R406). -/

namespace Sys2Proof.Machine

/-- A meaning that changes the device alone: the machine always goes on. -/
def onDev (s : State) (f : Dev → Dev) : Host.Outcome State Fault Refusal := .next { s with dev := f s.dev }

/-! ### Choosing the fault of an instruction (R132) -/

/-- A check that fails in one lane: its place in the instruction's order, its cause and its detail. -/
structure Flt where
  ord    : Nat
  cause  : Cause
  detail : Detail
  deriving DecidableEq, Repr

/-- The 64-bit lane mask of a group-2 detail goes into W0 and W1 (R379). -/
def Detail.withMask (x : Detail) (c : Cause) (lanes : List Nat) : Detail :=
  if causeGroup c = 2 then
    { x with w0 := BitVec.ofNat 32 (maskOf lanes), w1 := BitVec.ofNat 32 (maskOf lanes / 2 ^ 32) }
  else x

/-- The reported fault among lanes in ascending order: the earliest check that fails in any lane, with the detail of
the lowest lane that fails with its cause, and every lane that fails with it (R132). -/
def pickFail (fs : List (Thread × Flt)) : Option Fail :=
  match minBy (fun (x : Thread × Flt) => x.2.ord) fs with
  | none => none
  | some x =>
    let bad := fs.filter (fun y => y.2.cause == x.2.cause)
    match bad with
    | [] => none
    | y :: _ =>
      some { cause := y.2.cause, detail := y.2.detail.withMask y.2.cause (bad.map (fun z => z.1.lane)),
             failed := bad.map (fun z => z.1.uid) }

/-- The detail of PROTECTED_MISMATCH (R406): the primary's address and lane. DEDUCED: notes/assumptions/132. -/
def mismatchDetail (addr : Nat) (lane : Nat) : Detail :=
  detailOf (addr % 2 ^ 32) (addr / 2 ^ 32) (lane * 2 ^ 4)

/-- The first check that fails among some. -/
def firstFlt (fs : List (Option Flt)) : Option Flt := fs.findSome? id

/-- A check as an option. -/
def flt (bad : Bool) (ord : Nat) (c : Cause) (x : Detail) : Option Flt :=
  if bad then some { ord := ord, cause := c, detail := x } else none

/-- The address that the primary of a shadow gives. -/
def primaryAddr (all : List Thread) (addr : Thread → Nat) (t : Thread) : Nat :=
  ((all.find? (fun p => some p.uid == t.partner)).map addr).getD 0

/-- The fault of an instruction over its active threads. In protected mode a pair whose causes differ, a thread that is guarded
off having none, takes PROTECTED_MISMATCH in place of both (R369, R406). -/
def faultOf (all act : List Thread) (addr : Thread → Nat) (chk : Thread → Option Flt) : Option Fail :=
  let fs := act.filterMap (fun t => (chk t).map (fun f => (t, f)))
  if fs = [] then none
  else
    let causeIn := fun (t : Thread) => if act.any (fun x => x.uid == t.uid) then (chk t).map Flt.cause else none
    let odd := all.filter (fun t => t.shadow && all.any (fun p => some p.uid == t.partner && causeIn p != causeIn t))
    match odd with
    | [] => pickFail fs
    | t :: _ =>
      some { cause := cProtectedMismatch, detail := mismatchDetail (primaryAddr all addr t) (t.lane - 1),
             failed := (odd.map (fun t => [t.uid] ++ t.partner.toList)).flatten }

/-- The pairs whose primary and shadow disagree on what leaves the core (R405, R406): guard, or the listed values. The
first value is the address. DEDUCED: notes/assumptions/45. DEDUCED: notes/assumptions/132. -/
def mismatchOf (all act : List Thread) (key : Thread → List Nat) : Option Fail :=
  let bad := all.filter (fun t =>
    t.shadow && all.any (fun p =>
      some p.uid == t.partner &&
        (act.any (fun x => x.uid == p.uid) != act.any (fun x => x.uid == t.uid) ||
          (act.any (fun x => x.uid == p.uid) && key p != key t))))
  match bad with
  | [] => none
  | t :: _ =>
    some { cause := cProtectedMismatch, detail := mismatchDetail (primaryAddr all (fun p => (key p).headD 0) t) (t.lane - 1),
           failed := (bad.map (fun t => [t.uid] ++ t.partner.toList)).flatten }

/-- The threads that act for a pair: every thread but the shadows (R404). -/
def primaries (ts : List Thread) : List Thread := ts.filter (fun t => !t.shadow)

/-- Changes a thread and its shadow alike: what enters a pair is delivered to both (R404). -/
def Dev.deliver (d : Dev) (u : Nat) (f : Thread → Thread) : Dev :=
  d.mapThreads (fun t => t.uid == u || (t.shadow && t.partner == some u)) f

/-! ### The checks before an instruction's own (R54, R376) -/

/-- The detail of group 1: the instruction's 96 bits (R379). -/
def wordDetail (w : W96) : Detail :=
  { w0 := w.extractLsb' 0 32, w1 := w.extractLsb' 32 32, w2 := w.extractLsb' 64 32 }

/-- The detail of group 1 for an instruction. -/
def insnDetail (i : Instr) : Detail := wordDetail ((encode i).getD 0)

/-- The detail of GANG_NOT_MEMBER for a lane in no gang (R379). -/
def noGangDetail (lane : Nat) : Detail := detailOf 0 0 lane

/-- The detail of POISON_CONSUMED for a register (R379, group 11): kind 0 v, 1 s, 2 p; the thread's poison origin. DEDUCED: notes/assumptions/22. -/
def Thread.poisonDetail (t : Thread) (reg kind : Nat) : Detail :=
  detailOf (lo32 t.psnFrom).toNat (hi32 t.psnFrom).toNat (6 + reg % 512 * 2 ^ 21 + kind * 2 ^ 30)

/-- PRIVILEGE, then REG_LIMIT, then GANG_NOT_MEMBER for a lane (R54, R17). -/
def Dev.preFlt (d : Dev) (i : Instr) (gangOp : Bool) (t : Thread) : Option Flt :=
  let ns := namedOf i
  let regsN := t.regs.length
  firstFlt
    [flt (t.level.num < levelOf i) 1 cPrivilege (insnDetail i),
     flt (ns.any (Named.regBad regsN)) 2 cRegLimit (insnDetail i),
     flt ((gangOp || ns.any Named.isGang) && (d.gangOf? t).isNone) 3 cGangNotMember (noGangDetail t.lane)]

/-- The same checks, then POISON_CONSUMED for a poisoned guard (R375, R376). -/
def Dev.guardFlt (d : Dev) (i : Instr) (h : Hd) (gangOp : Bool) (t : Thread) : Option Flt :=
  firstFlt [d.preFlt i gangOp t, flt (t.predP h.gp) 4 cPoisonConsumed (t.poisonDetail h.gp.toNat 2)]

/-- POISON_CONSUMED for a source, by register and kind (R376). -/
def Thread.poisonFlt (t : Thread) (p : Bool) (reg kind : Nat) : Option Flt := flt p 0 cPoisonConsumed (t.poisonDetail reg kind)

/-- POISON_CONSUMED for a card in the stash (R379: SRC 5). -/
def Thread.stashPoison (t : Thread) (p : Bool) : Option Flt :=
  flt p 0 cPoisonConsumed (detailOf (lo32 t.psnFrom).toNat (hi32 t.psnFrom).toNat 5)

/-- The registers of an operand of some words, with kind and poison. -/
def Env.run (e : Env) (pos : Nat) (s : Src) (n : Nat) : List (Nat × Nat × Bool) :=
  match s with
  | .v r => (upTo n).map (fun k => ((r + BitVec.ofNat 9 k).toNat, 0, (e.read pos (.v (r + BitVec.ofNat 9 k) false)).2))
  | .s r => (upTo n).map (fun k => ((r + BitVec.ofNat 6 k).toNat, 1, (e.read pos (.s (r + BitVec.ofNat 6 k) true)).2))

/-- POISON_CONSUMED for the first poisoned register of an instruction's operands (R376, R379). DEDUCED: notes/assumptions/22. -/
def Thread.poisonRun (t : Thread) (l : List (Nat × Nat × Bool)) : Option Flt :=
  match l.find? (fun x => x.2.2) with
  | some x => flt true 0 cPoisonConsumed (t.poisonDetail x.1 x.2.1)
  | none => none

/-- The words of an address operand: two in a vector pair. -/
def Env.addrRun (e : Env) (virt : Bool) (b : Src) : List (Nat × Nat × Bool) :=
  e.run 0 b (match b with | .v _ => (if virt then 2 else 1) | .s _ => 1)

/-! ### Per-lane instructions -/

/-- The instruction retires in the whole issue group, and its latches stand for the next instruction. -/
def Dev.done (d : Dev) (h : Hd) : Dev := d.retire d.group h.yh

/-- The threads of the issue group that are some threads or belong to a pair with one of them. DEDUCED: notes/assumptions/131. -/
def Dev.pairsOf (d : Dev) (ts : List Thread) : List Thread :=
  d.members.filter (fun t => ts.any (fun a => a.uid == t.uid || some a.uid == t.partner))

/-- The instruction traps in its active threads, a pair together, or ends launches; the other threads of the group retire (R369,
R375). -/
def Dev.failGroup (d : Dev) (h : Hd) (act : List Thread) (f : Fail) : Dev :=
  let both := d.pairsOf act
  let off := d.group.filter (fun u => !(both.any (fun t => t.uid == u)))
  (d.retire off h.yh).fail both f

/-- The fault of an instruction over its active threads, by its own addresses. -/
def Dev.faultIn (d : Dev) (i : Instr) (act : List Thread) (chk : Thread → Option Flt) : Option Fail :=
  faultOf d.members act (fun t => (d.env t).addrOf i) chk

/-- An instruction that acts per lane. `bits` are the guard bits that govern it, `gangOp` says that it needs a gang;
`body` gets the active threads in ascending lane order, and retires the group or fails. -/
def Dev.lanes (d0 : Dev) (i : Instr) (h : Hd) (bits : List Nat) (gangOp : Bool) (body : List Thread → Dev → Dev) : Dev :=
  let d1 := (d0.tick.prefer h.yh).confirmed i false
  let d := d1.mapUids d1.group (fun t => { t with latches := latchesOf i })
  let act := d.members.filter (fun t => t.active h bits)
  if act = [] then d.done h
  else
    match d.faultIn i act (d.guardFlt i h gangOp) with
    | some f => d.failGroup h act f
    | none => body act d

/-- An instruction that acts per lane with checks of its own, governed by bit 0. -/
def Dev.lanesChk (d : Dev) (i : Instr) (h : Hd) (gangOp : Bool) (chk : Dev → Thread → Option Flt)
    (body : List Thread → Dev → Dev) : Dev :=
  d.lanes i h [0] gangOp (fun act d =>
    match d.faultIn i act (chk d) with
    | some f => d.failGroup h act f
    | none => body act d)

/-- The same for an instruction whose effect leaves the core: the pairs are compared first (R405), then the primaries
act. -/
def Dev.lanesOut (d : Dev) (i : Instr) (h : Hd) (gangOp : Bool) (key : Dev → Thread → List Nat)
    (chk : Dev → Thread → Option Flt) (body : List Thread → Dev → Dev) : Dev :=
  d.lanes i h [0] gangOp (fun act d =>
    match d.faultIn i act (chk d) with
    | some f => d.failGroup h act f
    | none =>
      match mismatchOf d.members act (key d) with
      | some f => d.failGroup h act f
      | none => body (primaries act) d)

/-- Changes each of some threads and its shadow, then the group retires. -/
def Dev.each (d : Dev) (h : Hd) (ts : List Thread) (f : Dev → Thread → Thread → Thread) : Dev :=
  (ts.foldl (fun d t => d.deliver t.uid (f d t)) d).done h

/-- Retires the guarded-off lanes of an instruction whose other lanes wait. -/
def Dev.retireOff (d : Dev) (h : Hd) (act : List Thread) : Dev :=
  d.retire ((d.members.filter (fun t => !(act.any (fun a => a.uid == t.uid || t.partner == some a.uid)))).map Thread.uid) h.yh

/-! ### Waiting for earlier accesses (R116, R120, R282) -/

/-- An accepted matrix instruction in which a thread took part and which is not complete. DEDUCED: notes/assumptions/38. -/
def Core.owesMatrix (c : Core) (u : Nat) (p : MatrixJob → Bool) : Bool :=
  c.mq.any (fun m => p m && m.parts.any (fun x => x.1 == u)) ||
    c.mwait.any (fun m => p m.job && m.job.parts.any (fun x => x.1 == u))

/-- A store, FATOM or FSIG of a thread to another module is not acknowledged yet, or one of this module is not registered (R116,
R120). -/
def Core.owesStores (c : Core) (u : Nat) : Bool :=
  c.ott.any (fun e => e.accs.any (fun a => a.uid == u && a.posted) || (e.here.map (fun x => x.uids.contains u)).getD false)

/-- A store of the context to a range of another module is not acknowledged yet. -/
def Core.owesRange (c : Core) (ctx vm off n : Nat) : Bool :=
  c.ott.any (fun e => e.accs.any (fun a => a.ctx == ctx && a.posted && a.vm == vm && decide (a.off < off + n) && decide (off < a.off + a.len)))

/-- A read or atomic of a thread at another module has not returned yet. -/
def Thread.owesReads (t : Thread) : Bool := t.late.any (fun l => l.unread.isSome)

/-- Earlier accesses of a thread are not performed, or a gang instruction of the matrix queue it took part in
is not complete: a release, EXIT or submission waits. DEDUCED: notes/assumptions/38. -/
def Dev.owes (d : Dev) (t : Thread) : Bool :=
  let c := d.core t.core
  c.owesStores t.gangUid || t.owesReads || c.owesMatrix t.gangUid (fun _ => true)

/-- Threads of a core that wait for such accesses issue again, and wait again if they still must. -/
def Dev.wakeReleases (d : Dev) (core : Nat) : Dev :=
  d.mapThreads (fun t => t.core == core && t.wait == .release) (fun t => t.readyNext d.pcyc)

/-- Some threads, with their shadows, wait for a reason. -/
def Dev.waitAll (d : Dev) (us : List Nat) (w : Wait) : Dev :=
  d.mapThreads (fun t => us.contains t.uid || (t.shadow && us.any (fun u => t.partner == some u))) (fun t => { t with wait := w })

/-- If the test holds of one of an instruction's threads, all of them wait for a reason and issue it again together; else the
body runs. -/
def Dev.unless (d : Dev) (act : List Thread) (p : Thread → Bool) (w : Wait) (body : Dev → Dev) : Dev :=
  if act.any p then d.waitAll (act.map Thread.uid) w else body d

/-- The threads the test names wait for a reason; the rest of the group issues again without them. None is named: the
body runs. -/
def Dev.unlessOwn (d : Dev) (act : List Thread) (p : Thread → Bool) (w : Wait) (body : Dev → Dev) : Dev :=
  let us := (act.filter p).map Thread.uid
  if us = [] then body d else d.waitAll us w

/-- A release of an instruction's threads: they wait until none of them owes anything, so that the effects of its lanes are in
their order (R84, R195). DEDUCED: notes/assumptions/64. -/
def Dev.afterRelease (d : Dev) (act : List Thread) (body : Dev → Dev) : Dev := d.unless act d.owes .release body

/-! ### Places in a logged order (R443, R444) -/

/-- A log write of an instruction's threads waits for staging (R443). -/
def Dev.logRoom (d : Dev) (act : List Thread) (body : Dev → Dev) : Dev :=
  d.unless act (fun t => d.logStalls t.ctx) (.staging d.pcyc) body

/-- The operations of an instruction's lanes, in their order. -/
def placesOf (act : List Thread) (place : Thread → Option Nat) : List (Nat × Nat) :=
  act.filterMap (fun t => (place t).map (fun p => (p, t.placeId)))

/-- Lanes whose operations have a place in a logged order wait for room in the log, and in a re-run for their turns (R443, R444). DESIGN CHOICE: notes/assumptions/98. -/
def Dev.inTurn (d : Dev) (act : List Thread) (place : Thread → Option Nat) (body : Dev → Dev) : Dev :=
  d.unless act (fun t => (place t).isSome && d.logStalls t.ctx) (.staging d.pcyc) (fun d =>
    d.unless act (fun t => d.early t.ctx (placesOf act place)) .release body)

/-- The lanes' operations take their places. -/
def Dev.placed (d : Dev) (act : List Thread) (place : Thread → Option Nat) : Dev :=
  d.places (((act.head?).map Thread.ctx).getD 0) (placesOf act place)

/-! ### The grants of a shared resource (R96) -/

/-- The request a shared resource grants (R96): of the oldest of each class, one that is due, of the highest class; else
the one of the highest class. -/
def grantOf {α : Type} (prio passed : α → Nat) (l : List α) : Option α :=
  let heads := (upTo 4).filterMap (fun c => l.find? (fun x => prio x == c))
  match heads.find? (fun x => 32 ≤ passed x) with
  | some x => some x
  | none => heads.head?

/-- The requests a grant passes over: the oldest of each lower class. -/
def passedBy {α : Type} (prio : α → Nat) (l : List α) (x : α) : List α :=
  (upTo 4).filterMap (fun c => if prio x < c then l.find? (fun y => prio y == c) else none)

/-! ### Gang-wide operations (R69, R70, R283) -/

/-- What the completion of a rendezvous has: the core, the gang's entry, the gang, and the participants that are still
members, by rank. -/
structure Meet where
  core  : Nat
  idx   : Nat
  gang  : Gang
  parts : List (Nat × Thread)

/-- The participants whose guard bit 0 is true. -/
def Meet.true? (m : Meet) (h : Hd) : List Thread := (m.parts.filter (fun p => p.2.guard h)).map Prod.snd

/-- The thread at a rank. -/
def Meet.at (m : Meet) (r : Nat) : Option Thread := (m.parts.find? (fun p => p.1 == r)).map Prod.snd

/-- What a rank supplies: zero where it has no participant (R69). -/
def Meet.supply (m : Meet) (d : Dev) (o : Opd) (r : Nat) : Nat × Bool :=
  match m.at r with
  | some t => Env.read { c := d.ctr, t := t, g := some m.gang } 0 o
  | none => (0, false)

/-- The open rendezvous of a gang as a meeting. -/
def Dev.meet? (d : Dev) (core k : Nat) : Option Meet :=
  match d.gang? core k with
  | none => none
  | some g =>
    match g.rdv with
    | none => none
    | some v =>
      some { core := core, idx := k, gang := g,
             parts := sortBy (fun (p : Nat × Thread) => p.1)
               (v.parts.filterMap (fun p => (d.thread? p.1).map (fun t => (p.2, t)))) }

/-- Every participant that is still a member has arrived (R69). -/
def Rendezvous.complete (v : Rendezvous) : Bool := v.parts.all (fun p => v.arrived.contains p.1)

/-- The rendezvous of a meeting has closed. -/
def Dev.reopened (d : Dev) (m : Meet) : Dev :=
  match m.gang.rdv with
  | some v => d.reopen m.core m.idx v
  | none => d

/-- The rendezvous completes: it closes, its participants go on after the instruction, and members that waited for it
try again (R69, R70). DEDUCED: notes/assumptions/36. -/
def Dev.meetDone (d : Dev) (h : Hd) (m : Meet) : Dev :=
  let us := m.parts.map (fun p => p.2.uid)
  let d1 := d.mapGang m.core m.idx (fun g => { g with rdv := none })
  let d2 := d1.mapThreads (fun t => us.contains t.uid || (t.shadow && us.any (fun u => t.partner == some u)))
    (fun t => (t.woken d.pcyc).hint h.yh d.pcyc)
  let d3 := if h.yh = .switch then d2.mapCore m.core (fun c => { c with avoid := us }) else d2
  d3.reopened m

/-- The rendezvous completes, and its participants stay not ready until their instruction completes (R279). -/
def Dev.meetWait (d : Dev) (m : Meet) (w : Wait) : Dev :=
  let us := m.parts.map (fun p => p.2.uid)
  let d1 := d.mapGang m.core m.idx (fun g => { g with rdv := none })
  let d2 := d1.mapThreads (fun t => us.contains t.uid || (t.shadow && us.any (fun u => t.partner == some u)))
    (fun t => { t with wait := w })
  d2.reopened m

/-- The operation fails at completion: the participants of `act` trap, their arrivals are withdrawn, and the rendezvous
stays open with the others (R283, R70). DEDUCED: notes/assumptions/36. -/
def Dev.meetFail (d : Dev) (m : Meet) (act : List Thread) (f : Fail) : Dev :=
  let us := act.map Thread.uid
  let d1 := d.mapGang m.core m.idx (fun g =>
    { g with rdv := g.rdv.map (fun v => { v with arrived := v.arrived.filter (fun u => !(us.contains u)) }) })
  let both := d1.threadsOf ((d1.threads.filter (fun t => us.contains t.uid || (t.shadow && us.any (fun u => t.partner == some u)))).map Thread.uid)
  d1.fail both f

/-- A check at completion fails in every participant whose guard bit 0 is true, or whose guard is poisoned. DEDUCED: notes/assumptions/45. -/
def Meet.fail (act : List Thread) (c : Cause) (x : Detail) : Fail :=
  { cause := c, detail := x.withMask c (lanesOf act), failed := act.map Thread.uid }

/-- The detail of POISON_CONSUMED at a completion: that of the lowest lane (R379). -/
def Meet.poison (act : List Thread) (reg kind : Nat) : Detail :=
  match minBy Thread.lane act with
  | some t => t.poisonDetail reg kind
  | none => Detail.zero

/-- The gang-wide instructions whose effect leaves the core or changes shared registers, so that the guards of a pair are compared
before it (R405). DEDUCED: notes/assumptions/132. -/
def comparesGuards : Instr → Bool
  | .fput .. | .fget .. | .sysw .. | .svarWrite .. => true
  | .mldw .. | .mswap .. | .mstream .. | .mclr .. | .mst .. | .mstReg .. | .mlda .. | .mldaReg .. | .mgrp .. | .mtake .. | .mgive .. => true
  | .macc .. | .mscl .. | .norma .. | .normb .. | .nprod .. | .aliasT .. | .sampmm .. | .svset .. => true
  | _ => false

/-- The shadows of a meeting's participants whose guard differs from that of their primary. -/
def Dev.oddGuards (d : Dev) (h : Hd) (m : Meet) : List Thread :=
  d.threads.filter (fun y => y.shadow &&
    m.parts.any (fun p => some p.2.uid == y.partner && p.2.active h [0] != y.active h [0]))

/-- A gang-wide operation executes at the completion of its rendezvous. A poisoned guard raises POISON_CONSUMED first
(R376); where guards are compared, a difference raises PROTECTED_MISMATCH. The body gets the participants whose guard bit 0 is
true. DEDUCED: notes/assumptions/45. -/
def Dev.meetRun (d : Dev) (h : Hd) (cmp : Bool) (m : Meet) (body : Meet → List Thread → Dev → Dev) : Dev :=
  let act := (m.parts.filter (fun p => p.2.active h [0])).map Prod.snd
  let bad := act.filter (fun t => t.predP h.gp)
  match minBy Thread.lane bad with
  | none =>
    match (if cmp then d.oddGuards h m else []) with
    | [] => body m act d
    | t :: ts =>
      let us := (t :: ts).filterMap Thread.partner
      let both := (m.parts.map Prod.snd).filter (fun x => us.contains x.uid || x.active h [0])
      d.meetFail m both
        { cause := cProtectedMismatch, detail := mismatchDetail 0 (t.lane - 1), failed := us ++ (t :: ts).map Thread.uid }
  | some t =>
    d.meetFail m act
      { cause := cPoisonConsumed, detail := t.poisonDetail h.gp.toNat 2, failed := bad.map Thread.uid }

/-- One member issues a gang-wide operation: it opens a rendezvous, arrives at the open one, or waits for it to
complete (R69, R70). DEDUCED: notes/assumptions/36. -/
def Dev.arrive (d : Dev) (i : Instr) (t : Thread) : Dev :=
  match d.gangOf? t with
  | none => d
  | some (k, g) =>
    let wait := fun (w : Wait) => d.deliver t.uid (fun x => { x with wait := w })
    match g.rdv with
    | none =>
      (wait .rendezvous).mapGang t.core k (fun g => g.open t.pc i [t.uid] (d.cyc t.ctx))
    | some v =>
      if v.pc = t.pc && v.parts.any (fun p => p.1 == t.uid) then
        (wait .rendezvous).mapGang t.core k (fun g =>
          { g with rdv := some { v with instr := i, arrived := if v.arrived.contains t.uid then v.arrived else v.arrived ++ [t.uid] } })
      else wait .gangBusy

/-- Runs the operation of a gang whose rendezvous is complete. -/
def Dev.meetIf (d : Dev) (h : Hd) (cmp : Bool) (core k : Nat) (body : Meet → List Thread → Dev → Dev) : Dev :=
  match d.gang? core k with
  | none => d
  | some g =>
    match g.rdv with
    | none => d
    | some v =>
      if v.complete then
        match d.meet? core k with
        | some m => d.meetRun h cmp m body
        | none => d
      else d

/-- A gang-wide operation (R69). Issued by a group, its members arrive, in ascending lane order, and each gang whose
rendezvous that completes executes it once; as the completion of a rendezvous, it executes for that gang. -/
def Dev.gangWide (d0 : Dev) (i : Instr) (h : Hd) (body : Meet → List Thread → Dev → Dev) : Dev :=
  let d := d0.tick.confirmed i true
  match d.cur with
  | .complete core k => d.meetIf h (comparesGuards i) core k body
  | .none => d
  | .group core _ _ =>
    let ms := d.members
    let act := ms.filter (fun t => t.active h [0])
    match d.faultIn i act (d.preFlt i true) with
    | some f => d.fail (d.pairsOf act) f
    | none =>
      -- a guarded-off lane in no gang has no rendezvous to arrive at
      let inGang := ms.filter (fun t => (d.gangOf? t).isSome)
      let out := (ms.filter (fun t => (d.gangOf? t).isNone)).map Thread.uid
      let d1 := d.retire out h.yh
      let d2 := d1.mapUids (inGang.map Thread.uid) (fun t => { t with latches := [] })
      let d3 := (primaries inGang).foldl (fun d t => d.arrive i t) d2
      let gs := (((primaries inGang).filterMap d.gangOf?).map Prod.fst).eraseDups
      gs.foldl (fun d k => d.meetIf h (comparesGuards i) core k body) d3

end Sys2Proof.Machine
end

