-- ==== Sys2Proof/Machine/Sched.lean ====
section
/-! DEFINITION. Which threads are ready, which issue group a core chooses, and the fetch of its instruction (spec/02 R32,
R46, R54, spec/03 R62 to R65, spec/04 R90, R92, spec/15 R333). -/

namespace Sys2Proof.Machine

/-- The context's threads issue (R98, R101, R422, R440). DEDUCED: notes/assumptions/90. -/
def CtxPhase.issues : CtxPhase → Bool
  | .running | .draining _ => true
  | _ => false

/-- The cycle counter of the context runs (R20, R98). -/
def CtxPhase.counts : CtxPhase → Bool
  | .running | .draining _ | .recording .. => true
  | _ => false

/-- A thread's context issues. -/
def Dev.ctxIssues (d : Dev) (k : Nat) : Bool :=
  match d.ctx? k with
  | some c => c.phase.issues
  | none => false

/-- A thread may issue: its context issues, or is being saved while the thread's access to another module, already made, has
its reply (R142, R163). -/
def Dev.mayIssue (d : Dev) (t : Thread) : Bool :=
  d.ctxIssues t.ctx ||
    match (d.ctx? t.ctx).map Ctx.phase with
    | some (.saving _) => (d.core t.core).ott.any (fun e => e.accs.any (fun a => a.uid == t.uid && a.ask.isSome))
    | _ => false

/-- A thread waits for nothing, and its results leave it free to issue (R63, R44). -/
def Thread.idle (t : Thread) : Bool :=
  t.wait = .none && t.late.all (fun l => l.cover ≠ 0 && !(l.acq && l.unread.isSome))

/-- A thread is ready at a PCYC: it waits for nothing, no later cycle makes it ready, and yield=spin does not pass it over (R63). -/
def Thread.readyAt (t : Thread) (now : Nat) : Bool := t.idle && t.since ≤ now && t.spin = 0

/-- A thread and its shadow are ready, or neither counts as ready: a pair issues in one group (R64, R404). DEDUCED: notes/assumptions/13. -/
def Dev.pairReady (d : Dev) (t : Thread) : Bool :=
  t.readyAt d.pcyc &&
    match t.partner with
    | some u => ((d.thread? u).map (fun x => x.readyAt d.pcyc)).getD true
    | none => true

/-- The ready threads of a core; a shadow is counted with its primary (R63, R64). -/
def Dev.readyOn (d : Dev) (core : Nat) : List Thread :=
  d.threads.filter (fun t => t.core == core && !t.shadow && d.pairReady t && d.mayIssue t)

/-- How old a ready thread is (R63). -/
def Thread.age (t : Thread) (now : Nat) : Nat := now - t.since

/-- The issue group of a thread among ready ones (R64): the same PC and context, distinct lanes; of two threads on one
lane the older, or the one in the lower slot. DEDUCED: notes/assumptions/13. -/
def groupWith (ts : List Thread) (t : Thread) (now : Nat) : List Thread :=
  let same := ts.filter (fun x => x.pc == t.pc && x.ctx == t.ctx)
  same.filter (fun x =>
    !(same.any (fun y => y.lane == x.lane && y.uid != x.uid &&
      (x.age now < y.age now || (x.age now == y.age now && y.slot < x.slot)))))

/-- The threads of a group with their shadows (R64). -/
def Dev.withShadows (d : Dev) (ts : List Thread) : List Thread :=
  ts.flatMap (fun t => t :: (t.partner.bind d.thread?).toList)

/-- The threads a group counts: each pair counts as two (R64). -/
def groupSize (ts : List Thread) : Nat := (ts.map (fun t => if t.partner.isSome then 2 else 1)).sum

/-- The age of the oldest thread of a group. DEDUCED: notes/assumptions/13. -/
def oldest (ts : List Thread) (now : Nat) : Nat := ts.foldl (fun m t => max m (t.age now)) 0

/-! ### The issue table (R65) -/

/-- The table holds the PC of a thread. -/
def tableHas (tb : List IssueEntry) (t : Thread) : Bool := tb.any (fun e => e.pc == t.pc && e.ctx == t.ctx)

/-- The entry of a thread's PC, at the place that the hash of the PC names among the 256. DESIGN CHOICE: notes/assumptions/130. -/
def IssueEntry.for_ (t : Thread) (now : Nat) : IssueEntry :=
  { pc := t.pc, ctx := t.ctx, place := Config.hash t.pc t.ctx % 256, since := now }

/-- The table admits the PC of a thread if its place is free; else the thread stays in the ready list. DESIGN CHOICE: notes/assumptions/130. -/
def enterTable (tb : List IssueEntry) (t : Thread) (now : Nat) : List IssueEntry :=
  if tableHas tb t || tb.any (fun e => e.place == (IssueEntry.for_ t now).place) then tb else tb ++ [IssueEntry.for_ t now]

/-- The table with the PC of a thread in it: the entry at its place gives way; in a full table that is the youngest. DESIGN CHOICE: notes/assumptions/130. -/
def enterAged (tb : List IssueEntry) (t : Thread) (now : Nat) : List IssueEntry :=
  if tableHas tb t then tb
  else
    let e := IssueEntry.for_ t now
    let tb1 := tb.filter (fun x => x.place ≠ e.place)
    let tb2 := if 256 ≤ tb1.length then (match minBy (fun (x : IssueEntry) => 2 ^ 60 - x.since) tb1 with | some y => tb1.erase y | none => tb1) else tb1
    tb2 ++ [e]

/-- A core's issue table in this cycle: entries without a ready thread are free, and the ready list is admitted, older
threads first. DESIGN CHOICE: notes/assumptions/130. -/
def Dev.tableNow (d : Dev) (core : Nat) : List IssueEntry :=
  let all := d.readyOn core
  let kept := (d.core core).table.filter (fun e => all.any (fun t => t.pc == e.pc && t.ctx == e.ctx))
  (sortBy (fun t => t.since) all).foldl (fun tb t => enterTable tb t d.pcyc) kept

/-- What a core issues in this cycle: a group, and the issue table it leaves. -/
structure Chosen where
  group : List Thread
  table : List IssueEntry

/-- The group a core issues (R65): the group of the oldest thread of age 2,048 or more, the hints ignored; else, of the PCs in
the issue table, the one with the most threads, the older on a tie, where after yield=switch another group is preferred (R46). DEDUCED: notes/assumptions/12. DEDUCED: notes/assumptions/13. -/
def Dev.choose (d : Dev) (core : Nat) : Chosen :=
  let now := d.pcyc
  let all := d.readyOn core
  let tb := d.tableNow core
  let aged := all.filter (fun t => 2048 ≤ t.age now)
  match minBy (fun (t : Thread) => 2 ^ 60 - t.age now) aged with
  | some t => { group := d.withShadows (groupWith all t now), table := enterAged tb t now }
  | none =>
    let groups := tb.filterMap (fun e =>
      (all.find? (fun t => t.pc == e.pc && t.ctx == e.ctx)).map (fun t => groupWith all t now))
    let other := groups.filter (fun g =>
      !(g.any (fun t => (d.core core).avoid.contains t.uid)))
    let pick := if other = [] then groups else other
    { group := d.withShadows ((minBy (fun (g : List Thread) => (2 ^ 20 - groupSize g) * 2 ^ 60 + (2 ^ 50 - oldest g now)) pick).getD [])
      table := tb }

/-- The first core from `turn` on that can issue, with what it issues. -/
def Dev.nextIssue (d : Dev) : Option (Nat × Chosen) :=
  let cores := (d.threads.filter (fun t => d.turn ≤ t.core && !t.shadow && d.pairReady t && d.mayIssue t)).map Thread.core
  match minBy id cores with
  | none => none
  | some n => some (n, d.choose n)

/-! ### Fetch (R32, R33, R92) -/

/-- The detail of MISALIGNED_PC: the target (R379). -/
def targetDetail (x : W64) : Detail := detailOf (lo32 x).toNat (hi32 x).toNat 0

/-- The detail of an address fault of a lane (R379, group 3). -/
def addrDetail (addr : Nat) (lane sz sp : Nat) (wr : Bool) (remote : Option Nat) : Detail :=
  detailOf (addr % 2 ^ 32) (addr / 2 ^ 32 % 2 ^ 32)
    (lane + sz * 2 ^ 7 + sp * 2 ^ 10 + b2n wr * 2 ^ 12 + b2n remote.isSome * 2 ^ 13 + remote.getD 0 * 2 ^ 14)

/-- What a fetch finds. -/
inductive Fetched where
  | word (w : W96)
  | fails (c : Cause)
  deriving DecidableEq, Repr

/-- The twelve bytes at a PC of a context, as they were at the last lease of the code (R32): MISALIGNED_PC at a PC that is no multiple
of 4, before all else (R33, R54), PROTECTION outside the local window or in a page without X, LEASE_VIOLATION
outside the leased code. DEDUCED: notes/assumptions/27. DEDUCED: notes/assumptions/28. -/
def Dev.fetch (d : Dev) (slot : Nat) (pc : W64) : Fetched :=
  match d.ctx? slot with
  | none => .fails cProtection
  | some c =>
    if pc.toNat % 4 ≠ 0 then .fails cMisalignedPc else
    match windowOf pc with
    | .local_ off =>
      if !(covers c.code.1 c.code.2 off 12) then .fails cLeaseViolation
      else
        match d.leaf? c off, d.leaf? c (off + 11) with
        | some l, some l' =>
          if !(l.x && l'.x) then .fails cProtection
          else if !(d.ownerOk l slot && d.ownerOk l' slot) then .fails cOwnerMismatch
          else
            .word (wordOfBytes (c.fetchMem.getBytes off 12))
        | _, _ => .fails cLeaseViolation
    | _ => .fails cProtection

/-- The issue group of a core is about to execute: its preference ends, its issue table is that of this cycle, and shadows stand
where their primaries stand. DEDUCED: notes/assumptions/131. -/
def Dev.begin (d : Dev) (core : Nat) (us : List Nat) (pc : W64) (tb : List IssueEntry) : Dev :=
  { ((d.mapCore core (fun c => { c with avoid := [], table := tb })).mapUids us (fun t => { t with pc := pc })) with
    cur := .group core us pc, turn := core + 1 }

/-- The detail of a fetch that fails: the PC, as the target of what led there for MISALIGNED_PC (R379, groups 1 and 3). -/
def fetchDetail (c : Cause) (pc : W64) (lane : Nat) : Detail :=
  if c = cMisalignedPc then targetDetail pc else addrDetail pc.toNat lane 4 0 false none

/-- A fetch that fails does so for every thread of the group. DEDUCED: notes/assumptions/28. -/
def Dev.fetchFail (d : Dev) (c : Cause) : Dev :=
  let act := d.members
  let pc := (act.head?.map Thread.pc).getD 0
  match pickFail (act.map (fun t => (t, { ord := 0, cause := c, detail := fetchDetail c pc t.lane }))) with
  | some f => d.fail act f
  | none => d

/-- The cause of a word that does not decode (R53). -/
def decodeCause : DecodeFault → Cause
  | .illegalOpcode => cIllegalOpcode
  | .reservedBits => cReservedBits
  | .pairRule => cPairRule

/-- The guard bits that govern a word, as far as its opcode tells (R36): those of the instruction it names, else bit 0. DEDUCED: notes/assumptions/29. -/
def wordGovern (w : W96) : List Nat :=
  if w.extractLsb' 92 4 = 0xF then
    match parsePair w with
    | some p => govOf (.pair p)
    | none => [0]
  else
    match parseG (Fields.unpack w) with
    | some i => govOf i
    | none => [0]

/-- An encoding fault (R54): raised by every lane the word's guard does not turn off, and by every lane for a format-P
select; the other lanes go on. DEDUCED: notes/assumptions/29. -/
def Dev.encodingFault (d : Dev) (w : W96) (f : DecodeFault) : Dev :=
  let (gn, gp) := wordGuard w
  let act := d.members.filter (fun t => selectPair w || t.predP gp || (wordGovern w).any (fun k => (t.guardBits gn gp).getLsbD k))
  let off := d.group.filter (fun u => !(act.any (fun t => t.uid == u)))
  let d1 := d.retire off .none
  d1.fail act { cause := decodeCause f, detail := wordDetail w, failed := act.map Thread.uid }

/-! ### Time -/

/-- One physical cycle passes: PCYC, and CYC of every context that runs (R20). DEDUCED: notes/assumptions/10. -/
def Dev.pass (d : Dev) : Dev :=
  { d with
    pcyc := d.pcyc + 1
    ctr := d.ctr + 1
    turn := 0
    cur := .none
    ctxs := d.ctxs.map (fun e =>
      if e.2.phase.counts then (e.1, { e.2 with regs := { e.2.regs with cyc := e.2.regs.cyc + 1 } }) else e) }

end Sys2Proof.Machine
end

