-- ==== Sys2Proof/Machine/Start.lean ====
section
/-! DEFINITION. Creating a context, binding a chunk and starting its threads (spec/01 R13, R18, R20, R24, spec/04 R89,
R93, spec/03 R85, spec/19 R404), and the state in which a given word is the next instruction. -/

namespace Sys2Proof.Machine

/-! ### A context (R24, R20, R382) -/

/-- The registers of a new context. CYCCMP starts at 0, at which no timer is armed (R372). -/
def CtxRegs.new (sgen : W64) : CtxRegs :=
  { cyc := 0, cyccmp := 0, armer := none, sgen := sgen, tvec := 0, eqbase := 0, eqsize := 0, eqhead := 0,
    eqtail := 0, eqseq := 0, dropped := 0, firstDropped := 0, epoch := 0 }

/-- A colour with no snapshot. -/
def Snap.idle : Snap :=
  { epoch := 0, state := .idle, live := false, section_ := none, mem := [], psn := [], todo := [], staged := [],
    markers := [], notices := [], log := [], sentNotice := false, part := none, born := 0, units := [] }

/-- A new context. DEDUCED: notes/assumptions/121. -/
def Ctx.new (part : Nat) (ctxid : BitVec 16) (conf : Bool) (members : List Nat) (vm plim root : Nat) (sgen : W64) : Ctx :=
  { ctxid := ctxid, part := part, conf := conf, members := members, vm := vm, vcmap := [], plim := plim, root := root, code := (0, 0),
    ro := (0, 0), fetchMem := [], regs := CtxRegs.new sgen, phase := .running, nextLid := 0, ring := [], head := 0, keys := [],
    snapKey := none, memKey := 0, privMap := [], streams := [], chans := [], nextTag := 0, colls := [], lostColls := [], areas := [none, none],
    snaps := [Snap.idle, Snap.idle], lastOk := 0, tags := [], saved := none, noResume := false, onto := [], lastImage := none,
    haltSeen := [], readySeen := [], held := [], haltAt := 0, rlog := [], rerun := false, reload := none }

/-! ### A chunk and its threads (R89, R404) -/

/-- Where the thread at position t of a chunk sits: lane and slot (R89). -/
def seat (prot : Bool) (t : Nat) : Nat × Nat := if prot then (2 * (t % 32), t / 32) else (t % 64, t / 64)

/-- The first words of v0 to v3 of a thread (R89, R85). -/
def Launch.firstRegs (l : Launch) : List W32 :=
  [lo32 l.arg, hi32 l.arg] ++ (match l.addr with | some a => [lo32 a, hi32 a] | none => [])

/-- The level at which the threads of a bind record start: CTXL's, or that of a launch of Levante's own (R22, R93). -/
def Launch.startLevel (l : Launch) (r : BindRec) : Level :=
  if l.level = .system then .system else if r.ctxl then .context else .user

/-- A thread as it starts (R18, R89). -/
def Thread.start (l : Launch) (r : BindRec) (uid core lane slot tid since : Nat) (partner : Option Nat) (shadow : Bool) : Thread :=
  { uid := uid, ctx := l.ctx, lid := l.lid, chunk := r.chunk, core := core, lane := lane, slot := slot, partner := partner,
    shadow := shadow, tid := BitVec.ofNat 32 tid, pc := l.entry,
    regs := (l.firstRegs ++ List.replicate r.regsN 0).take r.regsN, regPsn := List.replicate r.regsN false,
    preds := List.replicate 16 0, predPsn := List.replicate 16 false, flags := 0, rngcnt := 0, rstack := [],
    level := l.startLevel r, plev := .user, inTrap := false, cause := 0, epc := 0, detail := Detail.zero, pending := none,
    skid := 0, timerDue := none, wait := .none, since := since, spin := 0, late := [], latches := [], priv := [],
    privPsn := [], hwm := 0, replays := 0, retired := 0, psnFrom := 0, asked := none, upsets := [] }

/-- The threads of a bind record, with their shadows in protected mode, numbered from `uid` on. -/
def Launch.startThreads (l : Launch) (r : BindRec) (uid core now : Nat) : List Thread :=
  ((upTo (r.cnt + 1)).map (fun t =>
    let (lane, slot) := seat r.prot t
    -- one lane row of 64 threads, shadows counted, becomes ready per cycle, from the following cycle on (R63, R93)
    let since := now + 1 + (if r.prot then t / 32 else t / 64)
    if r.prot then
      [Thread.start l r (uid + 2 * t) core lane slot (r.tbase + t) since (some (uid + 2 * t + 1)) false,
       Thread.start l r (uid + 2 * t + 1) core (lane + 1) slot (r.tbase + t) since (some (uid + 2 * t)) true]
    else [Thread.start l r (uid + t) core lane slot (r.tbase + t) since none false])).flatten

/-- The first TID and the number of threads of chunk k (R89). -/
def Launch.chunkSpan (l : Launch) (k : Nat) : Nat × Nat :=
  (k * l.chunkSize, min ((k + 1) * l.chunkSize) l.nthr - k * l.chunkSize)

/-- Follows a map of virtual to logical cores from a number that it maps to one that it does not. DEDUCED: notes/assumptions/87. -/
def chainEnd (m : List (Nat × Nat)) : Nat → Nat → Nat
  | 0, n => n
  | fuel + 1, n =>
    match KV.get? m n with
    | some k => chainEnd m fuel k
    | none => n

/-- The virtual core that names a logical core in a context (R207, R440): the one a restore mapped there; a core whose own
number names another takes the number left over. DEDUCED: notes/assumptions/87. -/
def Ctx.vcOf (c : Ctx) (core : Nat) : Nat :=
  match c.vcmap.find? (fun e => e.2 == core) with
  | some e => e.1
  | none => chainEnd c.vcmap c.vcmap.length core

/-- When a chunk that is bound at a PCYC was bound: after every chunk that a restore placed in that cycle (R207). -/
def boundNow (now : Nat) : Nat := now * 65536 + 65535

/-- The bound chunk of a bind record: its stash is zero (R146). -/
def Chunk.start (r : BindRec) (core vc slot order now : Nat) : Chunk :=
  { ctx := r.ctx, lid := r.lid, idx := r.chunk, core := core, vc := vc, bindSlot := slot, tbase := r.tbase,
    cnt := r.cnt + 1, regsN := r.regsN, stashLen := 8 * r.stash, acc := r.acc, prot := r.prot, prio := r.prio,
    ctxl := r.ctxl, stash := [], stashPsn := [], map := [], order := order, bound := boundNow now, flips := [] }

/-- The bind record that Levante writes for chunk k of a launch (R93). -/
def Launch.bindRec (l : Launch) (k : Nat) : BindRec :=
  { ctx := l.ctx, lid := l.lid, chunk := k, prot := l.prot, prio := l.prio, ctxl := l.level = .context,
    tbase := (l.chunkSpan k).1, cnt := (l.chunkSpan k).2 - 1, regsN := l.regsN, stash := l.stashLen / 8, acc := l.acc,
    bound := false }

/-- The fields of 128 bits of a bind record (R93); the chunk is the one that its first TID lies in. -/
def BindRec.ofBits (raw : BitVec 128) (size : Nat) : BindRec :=
  let x := raw.toNat
  { ctx := bitsOf x 8 6, lid := bitsOf x 16 32, chunk := bitsOf x 48 32 / size, prot := bitOf x 1, prio := bitsOf x 2 2, ctxl := bitOf x 4,
    tbase := bitsOf x 48 32, cnt := bitsOf x 80 11, regsN := bitsOf x 92 10, stash := bitsOf x 102 16, acc := bitsOf x 118 4, bound := false }

/-- The 128 bits of a bind record (R93). -/
def BindRec.bits (r : BindRec) : BitVec 128 :=
  BitVec.ofNat 128 ([(0, 1, 1), (1, 1, b2n r.prot), (2, 2, r.prio), (4, 1, b2n r.ctxl), (8, 6, r.ctx), (16, 32, r.lid), (48, 32, r.tbase),
    (80, 11, r.cnt), (92, 10, r.regsN), (102, 16, r.stash), (118, 4, r.acc)].foldl (fun (x : Nat) f => x + f.2.2 % 2 ^ f.2.1 * 2 ^ f.1) 0)

/-- A bind record binds in its slot: its chunk's threads start. -/
def Dev.bindChunk (d : Dev) (l : Launch) (r : BindRec) (core slot : Nat) : Dev :=
  let ts := l.startThreads r d.fresh core d.pcyc
  let d1 := { d with
    fresh := d.fresh + 2 * r.cnt + 3
    threads := d.threads ++ ts
    chunks := d.chunks ++ [Chunk.start r core (((d.ctx? l.ctx).map (fun (c : Ctx) => c.vcOf core)).getD core) slot (d.fresh + 2 * r.cnt + 2) d.pcyc] }
  ((d1.learns ts .host).mapCore core (fun c => { c with binds := c.binds.set slot (some { r with bound := true }) })).mapLaunch l.ctx l.lid
    (fun x => { x with state := if x.state = .ready then .running else x.state, started := x.started ++ [r.chunk] })

/-! ### The state in which a given word is the next instruction -/

/-- Physical address of the code that `fetchDev` places, and of its page tables. -/
def fetchCode : Nat := 0x10040000000
/-- The root table that `fetchDev` places. -/
def fetchRoot : Nat := 0x10000000000

/-- Context 0 of `fetchDev`: its window's first GiB is one page of tier 2, its first 64 KiB the code. -/
def fetchCtx : Ctx := { Ctx.new 0 1 false [0] 0 4096 fetchRoot 0 with code := (0, 0x10000) }

/-- The launch of `fetchDev`: one thread of 512 registers, with the GiB after the code for reading and writing. -/
def fetchLaunch : Launch :=
  { ctx := 0, lid := 0, entry := 0, nthr := 1, regsN := 512, stashLen := 4096, acc := 1, prio := 2, prot := false,
    rcd := false, level := .user, pers := false, arg := 0, addr := none, die := none,
    ranges := [{ base := 0x10000, len := 0x100000, rd := true, wr := true, row := false, inherited := false }],
    state := .ready, started := [], intents := [], endPending := none }

/-- A module with one context, one launch and one thread on core 0, whose next twelve bytes are a word: what bring-up, the
host and Levante do before a program's first instruction. The chunk was bound in the cycle before, so the thread is ready (R93); nothing
else is bound and nothing is due. DESIGN CHOICE: notes/assumptions/1. -/
def fetchDev (d : Dev) (w : W96) : Dev :=
  let d0 : Dev :=
    { d with
      cur := .none, turn := 0, threads := [], chunks := [], cores := [], agenda := [],
      launches := [fetchLaunch]
      ctxs := [(0, { fetchCtx with fetchMem := Memory.setBytes [] 0 (bytesOfWord w) })]
      dies := List.replicate 4 Die.reset
      owners := [], fmt := [], flips := [], lineFlips := [], badTags := [], vers := [], psn := [], caches := Caches.empty
      mem := Memory.setBytes (Memory.setLE (Memory.setLE [] fetchRoot 8 (fetchRoot + 0x10000 + 1)) (fetchRoot + 0x10000) 8
        (fetchCode + 0x3F)) fetchCode (bytesOfWord w) }
  { d0.bindChunk fetchLaunch (fetchLaunch.bindRec 0) 0 0 with pcyc := d.pcyc + 1 }

end Sys2Proof.Machine
end

