-- ==== Sys2Proof/Machine/Fabric.lean ====
section
/-! DEFINITION. Sending packets, and the outstanding-transaction table (spec/06 R142, R143, spec/08 R205, R211, R212). -/

namespace Sys2Proof.Machine

/-! ### Tags -/

/-- A fresh tag of a context. -/
def Dev.newTag (d : Dev) (slot : Nat) : Nat × Dev :=
  (((d.ctx? slot).map Ctx.nextTag).getD 0, d.mapCtx slot (fun c => { c with nextTag := c.nextTag + 1 }))

/-- The fields that name a thread's instruction. -/
def Thread.origin (t : Thread) : Origin :=
  { pc := t.pc, tid := t.tid, lid := t.lid, core := t.core, level := t.level, uid := t.uid, lane := t.lane, nth := t.retired }

/-- The same, with the virtual core that records name (R380). -/
def Dev.originOf (d : Dev) (t : Thread) : Origin := { t.origin with core := ((d.chunkOf? t).map Chunk.vc).getD t.core }

/-! ### The outstanding-transaction table (R142, R143) -/

/-- The entries of a core's table. -/
def ottSize : Nat := 256

/-- An entry granted to a thread that is gone, or that has gone on without it, counts no more. -/
def Dev.grantStands (d : Dev) (e : OttEntry) : Bool :=
  match e.granted with
  | none => true
  | some (u, pc) => d.threads.any (fun t => t.uid == u && t.pc == pc)

/-- The free entries of a core. -/
def Dev.ottFree (d : Dev) (core : Nat) : Nat := ottSize - ((d.core core).ott.filter d.grantStands).length

/-- The lowest number no entry has. -/
def Core.ottIdx (c : Core) : Nat := ((upTo ottSize).find? (fun k => !(c.ott.any (fun e => e.idx == k)))).getD 0

/-- A request of a lane to another module: where, whether it writes, the kind of access (R104), and the packet it sends under a tag. -/
structure Far where
  vm     : Nat
  off    : Nat
  len    : Nat
  posted : Bool
  wr     : Bool
  ord    : Ord
  body   : Nat → PacketBody

/-- The 64-byte line of another module that a request concerns. -/
def Far.line (f : Far) : Nat × Nat := (f.vm, f.off / 64)

/-- The access of a lane's request. -/
def Far.acc (f : Far) (t : Thread) (tag seq : Nat) (ask : Option Nat) (o : Origin) : OttAcc :=
  { ctx := t.ctx, uid := t.uid, lane := t.lane, tag := tag, vm := f.vm, seq := seq, off := f.off, len := f.len, posted := f.posted, wr := f.wr,
    ask := ask, origin := o, was := t.retired + 1, acked := none, reply := .none }

/-- Adds an access to the entry of its line among the entries this instruction took (`mine`), or to a new one. -/
def Dev.addAcc (d : Dev) (core : Nat) (mine : List (Nat × Nat × Nat)) (line : Nat × Nat) (acc : OttAcc) :
    Dev × List (Nat × Nat × Nat) :=
  match mine.find? (fun m => (m.1, m.2.1) == line) with
  | some m =>
    (d.mapCore core (fun c =>
      { c with ott := c.ott.map (fun e => if e.idx = m.2.2 then { e with accs := e.accs ++ [acc] } else e) }), mine)
  | none =>
    let k := (d.core core).ottIdx
    (d.mapCore core (fun c => { c with ott := c.ott ++ [{ idx := k, granted := none, accs := [acc], here := none }] }),
      mine ++ [(line.1, line.2, k)])

/-- Sends one lane's request, as an access of the entry of its line. -/
def Dev.sendFar (d : Dev) (ask : Option Nat) (mine : List (Nat × Nat × Nat)) (t : Thread) (f : Far) : Dev × List (Nat × Nat × Nat) :=
  let (tag, d1) := d.newTag t.ctx
  let seq := ((d1.ctx? t.ctx).map (fun c => (c.chan f.vm).sendSeq)).getD 0
  let d2 := d1.send t.ctx f.vm f.ord (f.body tag) (some (d.originOf t)) none t.lane
  d2.addAcc t.core mine f.line (f.acc t tag seq ask (d.originOf t))

/-- Sends the requests of an instruction's lanes. -/
def Dev.sendFars (d : Dev) (ask : Option Nat) (xs : List (Thread × Far)) : Dev :=
  (xs.foldl (fun (s : Dev × List (Nat × Nat × Nat)) x => s.1.sendFar ask s.2 x.1 x.2) (d, [])).1

/-- The question whether another module would refuse an access (R133), as a request of its own. -/
def Far.question (f : Far) : Far := { f with ord := .rlx, body := fun tag => .check f.off f.len f.wr tag }

/-- The accesses of an entry that stand for a lane's question make its access instead. -/
def Dev.requestFar (d : Dev) (t : Thread) (f : Far) : Dev × Nat :=
  let (tag, d1) := d.newTag t.ctx
  let seq := ((d1.ctx? t.ctx).map (fun c => (c.chan f.vm).sendSeq)).getD 0
  let d2 := d1.send t.ctx f.vm f.ord (f.body tag) (some (d.originOf t)) none t.lane
  (d2.mapCore t.core (fun c =>
    { c with ott := c.ott.map (fun e =>
        { e with accs := e.accs.map (fun a =>
            if a.uid = t.uid && a.ask.isSome then f.acc t tag seq none (d.originOf t) else a) }) }), tag)

/-- Entries granted to some threads are theirs to use now. DEDUCED: notes/assumptions/65. -/
def Dev.claimGrants (d : Dev) (core : Nat) (us : List Nat) : Dev :=
  if (d.core core).ott.any (fun e => (e.granted.map (fun g => us.contains g.1)).getD false) then
    d.mapCore core (fun c =>
      { c with ott := c.ott.filter (fun e => !((e.granted.map (fun g => us.contains g.1)).getD false)) })
  else d

/-- The tickets that wait for entries of a core, oldest first, with what they need. -/
def Dev.ottWaiters (d : Dev) (core : Nat) : List (Nat × Nat) :=
  sortBy Prod.fst ((d.threads.filterMap (fun t =>
    if t.core = core then
      match t.wait with
      | .ott n k => some (k, n)
      | _ => none
    else none)).eraseDups)

/-- Takes `n` entries for a thread's instruction, to be used when it is performed. DEDUCED: notes/assumptions/65. -/
def Dev.reserve (d : Dev) (core n : Nat) (t : Thread) : Dev :=
  (upTo n).foldl (fun (d : Dev) _ =>
    d.mapCore core (fun c => { c with ott := c.ott ++ [{ idx := c.ottIdx, granted := some (t.uid, t.pc), accs := [], here := none }] })) d

/-- Grants `n` entries to the threads of a ticket, which issue again. DEDUCED: notes/assumptions/65. -/
def Dev.grantOtt (d : Dev) (core ticket n : Nat) : Dev :=
  let ts := d.threads.filter (fun t => t.core == core && t.wait == .ott n ticket)
  match ts with
  | [] => d
  | t :: _ => (d.reserve core n t).mapUids (ts.map Thread.uid) (fun t => t.readyNext d.pcyc)

/-- Freed entries go to the waiting instructions in the order in which they began to wait (R143). DEDUCED: notes/assumptions/65. -/
def Dev.grantAll (d : Dev) (core : Nat) : Dev :=
  ((d.ottWaiters core).foldl (fun (s : Dev × Bool) w =>
    if s.2 && w.2 ≤ s.1.ottFree core then (s.1.grantOtt core w.1 w.2, true) else (s.1, false)) (d, true)).1

/-- An entry whose accesses have all completed at a PCYC. -/
def OttEntry.complete (e : OttEntry) (now : Nat) : Bool :=
  e.granted.isNone && e.accs.all (fun a => a.posted && a.reply != .none) && (e.here.map (fun x => decide (x.till ≤ now))).getD true

/-- A thread's access for whose reply its instruction waits, or which has it. -/
def Core.farOf (c : Core) (u : Nat) : Option OttAcc :=
  c.ott.findSome? (fun e => e.accs.find? (fun a => a.uid == u && a.ask.isSome))

/-- The access of a thread under a tag. -/
def Core.accOf (c : Core) (u tag : Nat) : Option OttAcc :=
  c.ott.findSome? (fun e => e.accs.find? (fun a => a.uid == u && !a.posted && a.tag == tag))

/-- The instruction takes its entries at once: they have been granted to it, or enough are free and no instruction that began to
wait before it is still waiting. Else its threads wait for them (R143). -/
def Dev.withOtt (d : Dev) (core : Nat) (act : List Thread) (need : Nat) (body : Dev → Dev) : Dev :=
  let d1 := d.claimGrants core (act.map Thread.uid)
  let mine := (d.core core).ott.length ≠ (d1.core core).ott.length
  if need = 0 || (need ≤ d1.ottFree core && (mine || d1.ottWaiters core = [])) then body d1
  else
    let (k, d2) := d1.newId
    d2.unless act (fun _ => true) (.ott need k) body

/-- Lines of this module that an instruction sends beyond its core take an entry each until they complete (R142). -/
def Dev.takeHere (d : Dev) (core : Nat) (ls us : List Nat) : Dev :=
  ls.foldl (fun (d : Dev) k =>
    d.mapCore core (fun c =>
      { c with ott := c.ott ++ [{ idx := c.ottIdx, granted := none, accs := [],
                                  here := some { line := k, uids := us, till := d.pcyc + 1 + Config.delay (d.ctr + k) } }] })) d

/-- The ticket of the instruction that waits for a line. -/
def Transfer.ticket (b : Transfer) : Option Nat :=
  match b.kind with
  | .line _ _ k => k
  | _ => none

/-- Lines of tier 1 are requested across the vertical buses of their columns, in a thread's class (R96, R165). DESIGN CHOICE: notes/assumptions/139. -/
def Dev.requestLines (d : Dev) (t : Thread) (ticket : Option Nat) (wr : Bool) (ls : List Nat) : Dev :=
  ls.foldl (fun (d : Dev) k =>
    let (n, d1) := d.newId
    d1.mapCore (columnOf (64 * k)) (fun c =>
      { c with bus := c.bus ++
          [{ id := n, prio := d.prioOf t, slot := 8, ctx := t.ctx, gang := 64, kind := .line (64 * k) wr ticket, uids := [], passed := 0,
             att := 0, after := 0, beats := none, second := 0, swaps := [] }] })) d

/-- An instruction still waits for an answer of another module, or for a line. -/
def Core.asking (c : Core) (ticket : Nat) : Bool :=
  c.ott.any (fun e => e.accs.any (fun a => a.ask == some ticket && a.reply == .none)) || c.bus.any (fun b => b.ticket == some ticket)

/-- An answer or a line has come: once its instruction has all of them, its threads issue it again, together (R132). -/
def Dev.wakeFar (d : Dev) (ticket : Nat) : Dev :=
  if d.cores.any (fun e => e.2.asking ticket) then d
  else d.mapThreads (fun t => t.wait == .remote ticket) (fun t => t.readyNext d.pcyc)

/-- Some threads wait until their instruction's accesses at other modules are accepted, refused or answered; until then it reads its
operands as it first did (R44). -/
def Dev.waitFar (d : Dev) (us : List Nat) (ticket : Nat) : Dev :=
  d.mapThreads (fun t => us.contains t.uid || (t.shadow && us.any (fun u => t.partner == some u)))
    (fun t => { t with wait := .remote ticket, asked := some (t.asked.getD d.ctr) })

end Sys2Proof.Machine
end

