-- ==== Sys2Proof/Machine/Access.lean ====
section
/-! DEFINITION. What one access reaches and what it may do there: the checks of R131 in their order, and reads and writes
of private memory, the stash, mapped stash and physical memory (spec/06 R130 to R136, R144 to R151, spec/07 R182,
spec/18 R375, R376, spec/20 R420, R421). -/

namespace Sys2Proof.Machine

/-! ### Array errors on reads (R182) -/

/-- The virtual address under which a held lease of a context reaches a physical address. -/
def Dev.vaOf (d : Dev) (slot : Nat) (c : Ctx) (pa : Nat) : Option Nat :=
  (d.launches.filter (fun l => l.ctx == slot && l.state.holds)).findSome? (fun l =>
    l.ranges.findSome? (fun r =>
      (upTo ((r.len + 65535) / 65536)).findSome? (fun k =>
        let va := (r.base.toNat / 65536 + k) * 65536
        match d.pa? c va with
        | some p => if p / 65536 = pa / 65536 then some (va + pa % 65536) else none
        | none => none)))

/-- The context that holds a physical address, with its virtual address there. DESIGN CHOICE: notes/assumptions/26. DEDUCED: notes/assumptions/117. -/
def Dev.holderOf (d : Dev) (pa : Nat) : Option (Nat × Nat) :=
  d.ctxs.findSome? (fun e => (d.vaOf e.1 e.2 pa).map (fun va => (e.1, va)))

/-- One array error log entry (R184). -/
def arrayEntry (pa bit : Nat) (bad cache : Bool) (now : Nat) : LogEntry :=
  BitVec.ofNat 128 (packFields
    [(0, 10, bitsOf pa 18 10), (10, 7, bankOf pa), (17, 7, bitsOf pa 4 7), (24, 8, if bad then 255 else bit),
     (32, 1, b2n bad), (33, 1, b2n cache), (64, 64, now)])

/-- A ring of 256 entries with a count of those written (R184). -/
def ringAdd (l : List LogEntry) (e : LogEntry) : List LogEntry := (l ++ [e]).drop ((l.length + 1) - 256)

/-- The physical core whose column holds the bytes of a logical core: the one it runs on, or, while that is filled or there is none, the
one it ran on (R414, R415). -/
def Dev.columnPhys (d : Dev) (n : Nat) : Nat := KV.get d.colPhys (d.physOf n) n

/-- Adds an entry to the array error log of a physical core. -/
def Dev.logPhys (d : Dev) (p pa bit : Nat) (bad cache : Bool) : Dev :=
  d.mapPhys p (fun x => { x with arrayLog := ringAdd x.arrayLog (arrayEntry pa bit bad cache d.pcyc), arrayCnt := (x.arrayCnt + 1) % 2 ^ 32 })

/-- Adds an entry to the array error log of the physical core whose column holds an address. -/
def Dev.logArray (d : Dev) (pa bit : Nat) (bad cache : Bool) : Dev :=
  if inTier1 pa then d.logPhys (d.columnPhys (columnOf pa)) pa bit bad cache
  else d

/-- The detail of an array error (R379, group 11): virtual in a context's queue, physical in the system queue. -/
def arrayDetail (held : Option Nat) (pa bit : Nat) : Detail :=
  let src := if inTier1 pa then 0 else if inTier2 pa then 1 else 2
  match held with
  | some va => detailOf (va % 2 ^ 32) (va / 2 ^ 32) (src + bit * 2 ^ 4)
  | none => detailOf (pa % 2 ^ 32) (pa / 2 ^ 32) (src + 8 + bit * 2 ^ 4)

/-- The 128-bit words that a read of a range takes from their stores: in a view, those of the codes, the codebook and the scales (R233). -/
def Dev.sourceWords (d : Dev) (pa n : Nat) : List Nat :=
  if n = 0 then []
  else if !(d.touchesView pa n) then (upTo ((pa + n - 1) / 16 + 1 - pa / 16)).map (fun k => pa / 16 + k)
  else ((upTo n).flatMap (fun k =>
    match d.viewOf (pa + k) with
    | none => [(pa + k) / 16]
    | some r =>
      let j := (pa + k - r.vbase) / 2
      let byte := (d.plainByte (r.cbase + j / 2)).1.toNat
      let code := if j % 2 = 0 then byte % 16 else byte / 16
      [(r.cbase + j / 2) / 16, (r.cbase + r.vlen / 4 + 2 * code) / 16] ++
        (if r.sc then [(r.cbase + r.vlen / 4 + 32 + 2 * (j / 32)) / 16] else []))).eraseDups

/-- A read of array words records what it corrects and what it cannot correct (R182, R184). The record of an activation names
the thread that opened the row (R448); no rule names an instruction for the others. DEDUCED: notes/assumptions/21. -/
def Dev.arrayNote (d : Dev) (by_ : Option (Who × Nat)) (cache : Bool) (pa n : Nat) : Dev :=
  if d.flips.isEmpty || n = 0 then d
  else
    (d.sourceWords pa n).foldl (fun d w =>
      let a := 16 * w
      let held := d.holderOf a
      let say := fun (d : Dev) (c : Cause) (bit : Nat) =>
        let x := arrayDetail (held.map Prod.snd) a bit
        match by_ with
        | some (w, lane) => d.record { Rec.plain { w with slot := held.map Prod.fst } c x with lanes := [lane] }
        | none => d.note (Who.nobody (held.map Prod.fst)) c x
      match d.ecc (a / 16) with
      | .clean => d
      | .wrong bits => if bits.length = (d.flipsOf (a / 16)).length then d else say (d.logArray a (bits.headD 0) false cache) cEccCorrected (bits.headD 0)
      | .corrected b => say (d.logArray a b false cache) cEccCorrected b
      | .bad => say (d.logArray a 0 true cache) cEccUncorrected 0) d

/-- A read of tier-3 lines whose tags fail writes a record for each, whose stream and counter the spec does not state (R357, R361). DEDUCED: notes/assumptions/117. -/
def Dev.tagNote (d : Dev) (pa n : Nat) : Dev :=
  if d.badTags.isEmpty || n = 0 then d
  else
    (d.badTags.filter (fun l => pa / 64 ≤ l && l ≤ (pa + n - 1) / 64)).foldl (fun d l =>
      let ctr := Config.random (d.ctr + 1)
      d.tick.tick.note (Who.nobody (d.ownerOf (64 * l))) cGcmTagFail (Detail.mk (lo32 (Config.random d.ctr)) (lo32 ctr) (hi32 ctr))) d

/-- What a read of a range records: array errors and failing tags. -/
def Dev.eccNote (d : Dev) (by_ : Option (Who × Nat)) (cache : Bool) (pa n : Nat) : Dev := (d.arrayNote by_ cache pa n).tagNote pa n

/-- The walk of a local address reads its entries (R182, R331). -/
def Dev.eccWalk (d : Dev) (c : Ctx) (off : Nat) : Dev :=
  if d.flips.isEmpty then d else (walkReads d.readMem off 4 c.root).foldl (fun d e => d.eccNote none true e 8) d

/-- A launch leases the code, whose words are read (R32, R182). -/
def Dev.fetchCode (d : Dev) (slot : Nat) : Dev :=
  match d.ctx? slot with
  | none => d
  | some c =>
    if d.flips.isEmpty then d.leaseCode slot
    else ((c.pages d.readMem).foldl (fun d p =>
      let lo := max p.va c.code.1
      let hi := min (p.va + p.size) (c.code.1 + c.code.2)
      if lo < hi then d.eccNote none true (p.pa + (lo - p.va)) (hi - lo) else d) d).leaseCode slot

/-! ### Checks (R131) -/

/-- What an access does, for its checks: its size, the code of its size, whether it writes, whether it is an atomic. -/
structure Want where
  n      : Nat
  sz     : Nat
  wr     : Bool
  atomic : Bool

/-- Permissions, owner and format of a local range within one page (R131, steps 5 to 7). -/
def Dev.pageFlt (d : Dev) (t : Thread) (c : Ctx) (off : Nat) (w : Want) (x : Detail) : Option Flt :=
  match d.leaf? c off with
  | none => flt true 5 cProtection x
  | some l =>
    firstFlt
      [flt (!l.r || (w.wr && !l.w) || !(d.paOk l.pa)) 5 cProtection x,
       flt (!(d.ownerOk l t.ctx)) 6 cOwnerMismatch x,
       flt (w.wr && d.touchesFmt l.pa w.n) 7 cFormatRangeStore x]

/-- The launch of a thread. -/
def Dev.launchOf? (d : Dev) (t : Thread) : Option Launch := d.launch? t.ctx t.lid

/-- The lease of the thread's launch covers a range. -/
def Dev.leased (d : Dev) (t : Thread) (c : Ctx) (off n : Nat) (wr : Bool) : Bool :=
  match d.launchOf? t with
  | some l => leaseSpan c l off n wr
  | none => false

/-- The range lies in a ROW range of the thread's launch. -/
def Dev.rowLeased (d : Dev) (t : Thread) (off n : Nat) : Bool :=
  match d.launchOf? t with
  | some l => inRowRange l off n
  | none => false

/-- The detail of an access at another module (R379, group 7). DEDUCED: notes/assumptions/17. -/
def farDetail (seq vm off lane : Nat) (wr : Bool) : Detail :=
  detailOf seq (off % 2 ^ 32) (off / 2 ^ 32 % 2 ^ 12 + vm * 2 ^ 12 + lane * 2 ^ 24 + b2n wr * 2 ^ 31)

/-- A confidential context of several modules has no key for the channel to a member (R359, R360). -/
def Ctx.unsealed (c : Ctx) (vm : Nat) : Bool :=
  c.conf && 1 < c.members.length && vm ≠ c.vm && ((KV.get? c.chans vm).bind Chan.key).isNone

/-- The checks of a virtual access (R131, steps 1 to 7; R360). DEDUCED: notes/assumptions/17. -/
def Dev.virtFlt (d : Dev) (t : Thread) (ea : Nat) (w : Want) : Option Flt :=
  match d.ctx? t.ctx with
  | none => none
  | some c =>
    let x := addrDetail ea t.lane w.sz 0 w.wr none
    match c.window (BitVec.ofNat 64 ea) with
    | .bad => firstFlt [flt (ea % w.n ≠ 0) 1 cAlignment x, flt true 2 cProtection x]
    | .fabric vm off =>
      firstFlt
        [flt (ea % w.n ≠ 0) 1 cAlignment (addrDetail ea t.lane w.sz 0 w.wr (some vm)),
         flt (!(c.members.contains vm)) 3 cRemoteUnreachable (farDetail 0 vm off t.lane w.wr),
         flt (c.unsealed vm) 3 cSealedChannel (detailOf vm 0 0)]
    | .local_ off =>
      firstFlt
        [flt (ea % w.n ≠ 0) 1 cAlignment x,
         flt (!(d.leased t c off w.n w.wr)) 4 cLeaseViolation x,
         d.pageFlt t c off w x,
         flt (w.atomic && d.rowLeased t off w.n) 7 cAtomicSpace x]

/-- The checks of a private access (R131, R144). -/
def Dev.privFlt (d : Dev) (t : Thread) (ea : Nat) (w : Want) : Option Flt :=
  let x := addrDetail ea t.lane w.sz 1 w.wr none
  let lim := ((d.ctx? t.ctx).map Ctx.plim).getD 0
  firstFlt [flt (ea % w.n ≠ 0) 1 cAlignment x, flt (lim < ea + w.n) 2 cPrivateLimit x]

/-- The stash bytes of a thread's chunk. -/
def Dev.stashLen (d : Dev) (t : Thread) : Nat := ((d.chunkOf? t).map Chunk.stashLen).getD 0

/-- The checks of a stash access (R131, R150): a store to an entry mapped read only raises PROTECTION. -/
def Dev.stashFlt (d : Dev) (t : Thread) (ea : Nat) (w : Want) : Option Flt :=
  let x := addrDetail ea t.lane w.sz 2 w.wr none
  let ro := match (d.chunkOf? t).bind (fun c => c.entryAt ea) with
    | some e => !e.2.write
    | none => false
  firstFlt
    [flt (ea % w.n ≠ 0) 1 cAlignment x,
     flt (d.stashLen t < ea + w.n) 2 cStashRange x,
     flt (w.wr && ro) 5 cProtection x]

/-- The step of R131 at which another module refused an access (R133). -/
def refusalOrd (c : Cause) : Nat := if c = cRemoteLease then 4 else if c = cRemoteProtection then 5 else 6

/-- Another module refused the access of a lane's earlier issue of this instruction (R133). -/
def Dev.refusedFlt (d : Dev) (t : Thread) (x : Nat → Detail) (wr : Bool) : Option Flt :=
  match (d.core t.core).farOf t.uid with
  | some a =>
    match a.reply with
    | .refused c => flt true (refusalOrd c) c (if causeGroup c = 7 then farDetail a.seq a.vm a.off t.lane wr else x a.vm)
    | _ => none
  | none => none

/-- The checks of one lane: a poisoned base, then those of the space, then a refusal at another module. -/
def Dev.memFlt (d : Dev) (t : Thread) (sp : Nat) (m : MemRef) (w : Want) : Option Flt :=
  let e := d.env t
  let ea := e.memAddr (sp = 0) m
  firstFlt
    [t.poisonRun (e.addrRun (sp = 0) m.base),
     (match sp with
      | 1 => d.privFlt t ea.1 w
      | 2 => d.stashFlt t ea.1 w
      | _ => d.virtFlt t ea.1 w),
     d.refusedFlt t (fun vm => addrDetail ea.1 t.lane w.sz sp w.wr (some vm)) w.wr]

/-! ### Reading and writing at most eight bytes -/

/-- The reply a lane's instruction waits for, or has. -/
def Dev.replyOf (d : Dev) (t : Thread) : Option OttAcc := (d.core t.core).farOf t.uid

/-- Bytes of a reply from an offset on, with their poison; an access that is lost yields poisoned bytes of no given value (R212). -/
def OttAcc.bytes (a : OttAcc) (off n : Nat) : List Byte × Bool :=
  match a.reply with
  | .data bs psn => ((upTo n).map (fun k => bs[off - a.off + k]?.getD 0), psn.any (fun w => (off - a.off) / 8 ≤ w && w ≤ (off - a.off + n - 1) / 8))
  | _ => ((upTo n).map (fun k => (Config.random (64 * a.tag + (off - a.off + k))).extractLsb' 0 8), true)

/-- Reads at most eight bytes of a spot. -/
def Dev.readAt (d : Dev) (t : Thread) (s : Spot) (n : Nat) : List Byte × Bool :=
  match s with
  | .priv off => (t.priv.getBytes off n, psnAny t.privPsn off n)
  | .stash off =>
    match d.chunkOf? t with
    | some c => (c.stash.getBytes off n, psnAny c.stashPsn off n)
    | none => (List.replicate n 0, false)
  | .phys pa => d.readPhys pa n
  | .mapped _ _ pa => d.readPhys pa n
  | .remote _ _ => (List.replicate n 0, false)
  | .mappedFar _ _ _ off => ((d.replyOf t).map (fun a => a.bytes off n)).getD (List.replicate n 0, false)

/-- The value a load of at most eight bytes returns. `fresh` for an acquire, which is performed at the home, and for a ROW range, which
is uncached (R116, R118). -/
def Dev.loadAt (d : Dev) (fresh : Bool) (t : Thread) (s : Spot) (n : Nat) : List Byte × Bool :=
  match (if fresh then none else s.pa?) with
  | some pa => d.readAs [.thread t.gangUid] pa n
  | none => d.readAt t s n

/-- A thread has read the word of a spot. -/
def Dev.sawAt (d : Dev) (fresh : Bool) (t : Thread) (s : Spot) (n : Nat) : Dev :=
  match s.pa? with
  | none => d
  | some pa => if fresh then d.sawLast [.thread t.gangUid] pa n else d.sawAs [.thread t.gangUid] pa n

/-- A line of a map entry has been touched (R117). -/
def Dev.touch (d : Dev) (t : Thread) (k off : Nat) : Dev :=
  d.mapChunk t.ctx t.lid t.chunk (fun c =>
    { c with map := c.map.map (fun e =>
        if e.1 = k then (e.1, { e.2 with filled := NatSet.add e.2.filled ((off - e.2.off) / 64) }) else e) })

/-- Stores bytes into the stash of a thread's chunk. -/
def Dev.putStash (d : Dev) (t : Thread) (off : Nat) (bs : List Byte) (p : Bool) : Dev :=
  d.mapChunk t.ctx t.lid t.chunk (fun c =>
    { c with stash := c.stash.setBytes off bs, stashPsn := psnPut c.stashPsn off bs.length p })

/-- A slot holds the row of an address open, or another row of its bank. -/
def Core.openIn (c : Core) (pa : Nat) (same : Bool) : Bool :=
  c.slots.any (fun s => (s.state = .opening || s.state = .ready) && bankOf s.pa == bankOf pa && (s.pa / 2048 == pa / 2048) == same)

/-- The cache path opens the row of an address in its bank, and may leave it open (R170, R181); the row it held open there closes, and its
corrected words are rewritten (R182). DESIGN CHOICE: notes/assumptions/26. -/
def Dev.cacheOpens (d : Dev) (pa : Nat) : Dev :=
  if inTier1 pa then
    let row := pa / 2048
    let c := d.core (columnOf pa)
    if c.openIn pa true || c.openIn pa false then d
    else
      let d1 := match (c.bank (bankOf pa)).cache with
        | some r => if r = row then d else d.rewriteRow (2048 * r)
        | none => d
      d1.mapCore (columnOf pa) (fun c => c.mapBank (bankOf pa) (fun b => { b with cache := some row }))
  else d

/-- What a read leaves behind: an error record of the array, a touched line, or a filled line of another module. -/
def Dev.afterRead (d : Dev) (t : Thread) (s : Spot) (n : Nat) : Dev :=
  match s with
  | .phys pa => d.eccNote none true pa n
  | .mapped k off pa => (d.eccNote none true pa n).touch t k off
  | .mappedFar k off _ roff =>
    let line := roff / 64 * 64
    match d.replyOf t with
    | some a =>
      (upTo 8).foldl (fun d w =>
        let b := a.bytes (line + 8 * w) 8
        d.putStash t (off / 64 * 64 + 8 * w) b.1 b.2) (d.touch t k off)
    | none => d
  | _ => d

/-- A write of one thread: a release, a read-modify-write. -/
def Thread.writer (t : Thread) (rel rmw : Bool) : Writer := { by_ := [.thread t.gangUid], rel := rel, rmw := rmw }

/-- Writes at most eight bytes at a spot of this module; a remote store is sent as a packet. DEDUCED: notes/assumptions/23. -/
def Dev.writeAt (d : Dev) (w : Writer) (t : Thread) (s : Spot) (bs : List Byte) (p : Bool) : Dev :=
  match s with
  | .priv off =>
    (d.cowIn t.ctx (.priv t.uid (off / 4096)) (d.prioOf t)).mapThread t.uid (fun t =>
      { t with priv := t.priv.setBytes off bs, privPsn := psnPut t.privPsn off bs.length p })
  | .stash off => d.putStash t off bs p
  | .phys pa => d.writePhys w pa bs p
  | .mapped k off pa => (d.writePhys w pa bs p).touch t k off
  | .mappedFar _ off _ _ => d.putStash t off bs p
  | .remote _ _ => d

/-! ### Waits of an access -/

/-- The private high-water mark an access needs (R145). -/
def Spot.mark : Spot → Nat → Nat
  | .priv off, n => (off + n + 4095) / 4096 * 4096
  | _, _ => 0

/-- The granule a write changes. -/
def Spot.granule : Spot → Option Nat
  | .phys pa => some (pa / 4096)
  | .mapped _ _ pa => some (pa / 4096)
  | _ => none

/-- A write to a granule of physical memory needs a copy and staging is full (R421). -/
def Dev.stagingStall (d : Dev) (g : Nat) : Bool :=
  stagingCap ≤ d.staging && d.ctxs.any (fun e => e.2.needsCopy (.granule g))

/-- The write of a lane waits for staging. -/
def Dev.stalls (d : Dev) (t : Thread) (s : Spot) : Bool :=
  match s with
  | .priv off => stagingCap ≤ d.staging && ((d.ctx? t.ctx).map (fun c => c.needsCopy (.priv t.uid (off / 4096)))).getD false
  | s =>
    match s.granule with
    | some g => d.stagingStall g
    | none => false

/-- The physical ranges of a local range of a context, granule by granule. -/
def Dev.pasOf (d : Dev) (c : Ctx) (a n : Nat) : List (Nat × Nat) :=
  if n = 0 then []
  else
    (upTo ((a + n - 1) / 4096 + 1 - a / 4096)).filterMap (fun k =>
      let lo := max a ((a / 4096 + k) * 4096)
      (d.pa? c lo).map (fun p => (p, min (a + n) ((a / 4096 + k + 1) * 4096) - lo)))

/-- A range of bytes of an accepted matrix instruction and an access of a thread have a byte in common (R282). -/
def Dev.spanMeets (d : Dev) (m : MatrixJob) (x : MSpan) (t : Thread) (s : Spot) (n : Nat) : Bool :=
  match s with
  | .stash o => x.stash && m.lid == t.lid && m.home == t.chunk && decide (o < x.addr + x.len) && decide (x.addr < o + n)
  | s =>
    match s.pa?, d.ctx? m.ctx with
    | some a, some c =>
      !x.stash && (d.pasOf c (x.addr % 2 ^ 56) x.len).any (fun p => decide (a < p.1 + p.2) && decide (p.1 < a + n))
    | _, _ => false

/-- An access of a thread waits for an accepted matrix instruction of its own that accesses the same location, where one of the
two writes (R282). DEDUCED: notes/assumptions/38. -/
def Dev.matrixHolds (d : Dev) (t : Thread) (wr : Bool) (s : Spot) (n : Nat) : Bool :=
  (d.core t.core).owesMatrix t.gangUid (fun m => m.spans.any (fun x => (wr || x.wr) && d.spanMeets m x t s n))

end Sys2Proof.Machine
end

