-- ==== Sys2Proof/Machine/Barrier.lean ====
section
/-! DEFINITION. The barrier instructions (spec/06 R153 to R162). -/

namespace Sys2Proof.Machine

/-- The object a lane's operand names. -/
def Dev.objLoc (_ : Dev) (t : Thread) (off : Nat) : ObjLoc := { ctx := t.ctx, lid := t.lid, chunk := t.chunk, off := off }

/-- The stash offset of a lane's operand. -/
def Dev.objOff (d : Dev) (t : Thread) (m : MemRef) : Nat := ((d.env t).memAddr false m).1

/-- The checks before the object's: a poisoned base, misalignment, the stash bytes (R130, R131). -/
def Dev.barFlt (d : Dev) (t : Thread) (m : MemRef) : Option Flt :=
  let e := (d.env t).memAddr false m
  let l := d.objLoc t e.1
  firstFlt
    [t.poisonRun ((d.env t).addrRun false m.base),
     flt (e.1 % 16 ≠ 0) 1 cBarrierBadObject (objDetail l (Obj.ofNat 0) t.lane),
     flt (d.stashLen t < e.1 + 16) 2 cStashRange (addrDetail e.1 t.lane 4 2 true none)]

/-- A fault of a barrier operation, with the object as it stands. -/
def Dev.objFlt (d : Dev) (t : Thread) (l : ObjLoc) (bad : Bool) (ord : Nat) (c : Cause) : Option Flt :=
  flt bad ord c (objDetail l (d.obj l) t.lane)

/-- The object's own checks (R154). -/
def Dev.objValid (d : Dev) (t : Thread) (l : ObjLoc) : Option Flt := d.objFlt t l (d.objBad l) 8 cBarrierBadObject

/-- A barrier instruction, which releases if `rel` and writes the object if `wr`: its lanes operate one after another, each checked in the state the lanes before it left; a
fault of any lane leaves everything as it was (R132, R158), and its detail holds the object so left (R379). DEDUCED: notes/assumptions/68. -/
def Dev.barrier (d : Dev) (i : Instr) (h : Hd) (gangOp rel wr : Bool) (m : MemRef) (data : Env → List Nat)
    (chk : Dev → Thread → ObjLoc → Option Flt) (act : Dev → Thread → ObjLoc → Dev) (fin : Dev → List Thread → Dev) : Dev :=
  d.lanesOut i h gangOp (fun d t => d.objOff t m :: data (d.env t)) (fun d t => d.barFlt t m) (fun ts d =>
    d.unless ts (fun t => (rel && d.owes t) || d.matrixHolds t wr (.stash (d.objOff t m)) 16) .release (fun d =>
      let place := fun (t : Thread) => some (d.objLoc t (d.objOff t m)).place
      d.inTurn ts place (fun d =>
        let r := ts.foldl (fun (x : Dev × List (Thread × Flt)) t =>
          let l := d.objLoc t (d.objOff t m)
          match chk x.1 t l with
          | some f => (x.1, x.2 ++ [(t, { f with detail := objDetail l (d.obj l) t.lane })])
          | none => (act x.1 t l, x.2)) (d.placed ts place, [])
        match pickFail r.2 with
        | some f => d.failGroup h ts f
        | none => fin r.1 ts)))

/-- A byte count operand: a vector register, or a gang scalar in whole (R158). -/
def Env.count (e : Env) (n : Src) : Nat :=
  (e.read 1 (match n with | .v r => .v r false | .s r => .s r true)).1

/-- Removes the binding of an object from every gang of its core (R157). -/
def Dev.unbindObj (d : Dev) (l : ObjLoc) : Dev := d.mapBinding l (fun _ => none)

/-- The checks of BINIT (R157). DEDUCED: notes/assumptions/67. -/
def Dev.binitFlt (d : Dev) (t : Thread) (gang : Bool) (l : ObjLoc) (n : Nat) : Option Flt :=
  let d1 := d.unbindObj l
  let full := match d1.gangOf? t with
    | some (_, g) => gang && 4 ≤ g.bindings.length
    | none => false
  let inMapped := match d.objChunk? l with
    | some c => c.mapped l.off 16
    | none => true
  firstFlt [d.objFlt t l (inMapped || full) 8 cBarrierBadObject, d.objFlt t l (4095 < n) 9 cBarrierOverflow]

/-- BINIT of a lane (R157). -/
def Dev.binitLane (d : Dev) (t : Thread) (gang : Bool) (l : ObjLoc) (n : Nat) : Dev :=
  let d1 := d.unbindObj l
  let o : Obj := { thrT := n, thrC := 0, byT := 0, byC := 0, phase := false, err := false, bound := false, gang := 0, rsv := false }
  match gang, d1.gangOf? t with
  | true, some (k, g) =>
    let ranks := (upTo g.size).filter (fun r => (g.remap[r]?.getD none).isSome)
    (d1.setObj l { o with bound := true, gang := k }).mapGang t.core k (fun g =>
      { g with bindings := g.bindings ++ [{ lid := l.lid, chunk := l.chunk, off := l.off, bound := ranks, arrived := [] }] })
  | _, _ => d1.setObj l o

/-- BINIT (R157). -/
def execBinit (h : Hd) (gang : Bool) (m : MemRef) (b : VReg) (s : State) : Host.Outcome State Fault Refusal :=
  let n := fun (d : Dev) (t : Thread) => ((d.env t).read 1 (.v b false)).1
  onDev s (fun d => d.barrier (.binit h gang m b) h gang false true m (fun e => [(e.read 1 (.v b false)).1])
    (fun d t l => d.binitFlt t gang l (n d t)) (fun d t l => d.binitLane t gang l (n d t)) (fun d _ => d.done h))

/-- Changes the binding of an object in a thread's own gang, given the thread's rank there; a binding of another gang has no rank of
this thread (R162). -/
def Dev.mapOwnBinding (d : Dev) (t : Thread) (l : ObjLoc) (f : Nat → Binding → Binding) : Dev :=
  match d.gangOf? t with
  | some (k, g) =>
    d.mapGang t.core k (fun x =>
      { x with bindings := x.bindings.map (fun b =>
          if b.lid = l.lid && b.chunk = l.chunk && b.off = l.off then f ((g.rankOf t.gangUid).getD 64) b else b) })
  | none => d

/-- The thread has arrived at an object in this phase, if it is a bound rank (R162). -/
def Dev.markArrived (d : Dev) (t : Thread) (l : ObjLoc) : Dev :=
  d.mapOwnBinding t l (fun r b => if b.bound.contains r then { b with arrived := b.arrived ++ [r] } else b)

/-- The thread is no longer a bound rank of an object (R158, R162). -/
def Dev.dropRank (d : Dev) (t : Thread) (l : ObjLoc) : Dev :=
  d.mapOwnBinding t l (fun r b => { b with bound := b.bound.filter (· ≠ r), arrived := b.arrived.filter (· ≠ r) })

/-- The checks of an arrival that adds `x` expected bytes (R158). -/
def Dev.barvFlt (d : Dev) (t : Thread) (l : ObjLoc) (x : Nat) : Option Flt :=
  let o := d.obj l
  firstFlt
    [d.objValid t l, d.objFlt t l (o.thrT = 0) 9 cBarrierPhaseMisuse,
     d.objFlt t l (o.thrC = o.thrT || byteMax < o.byT + x) 10 cBarrierOverflow]

/-- A lane's operation on an object releases (R104, R110). -/
def Dev.releasesTo (d : Dev) (t : Thread) (l : ObjLoc) : Dev := d.leaves [t] (l.sync false)

/-- An arrival of a lane (R158). -/
def Dev.barvLane (d : Dev) (t : Thread) (l : ObjLoc) (x : Nat) : Dev :=
  let d1 := (d.releasesTo t l).markArrived t l
  let o := d1.obj l
  d1.settle l { o with thrC := o.thrC + 1, byT := o.byT + x } (d.whoOf t)

/-- BARV (R158). -/
def execBarv (h : Hd) (m : MemRef) (n : Option Src) (s : State) : Host.Outcome State Fault Refusal :=
  let x := fun (d : Dev) (t : Thread) => match n with | some r => (d.env t).count r | none => 0
  onDev s (fun d => d.barrier (.barv h m n) h false true true m (fun e => match n with | some r => [e.count r] | none => [])
    (fun d t l => d.barvFlt t l (x d t)) (fun d t l => d.barvLane t l (x d t)) (fun d _ => d.done h))

/-- An expectation: the byte target becomes `f` of it (R158). -/
def Dev.bexpOp (d : Dev) (i : Instr) (h : Hd) (m : MemRef) (n : Src) (past : Nat → Nat → Bool) (f : Nat → Nat → Nat) : Dev :=
  d.barrier i h false false true m (fun e => [e.count n])
    (fun d t l => firstFlt
      [d.objValid t l, d.objFlt t l (past (d.obj l).byT ((d.env t).count n)) 9 cBarrierOverflow])
    (fun d t l =>
      let o := d.obj l
      d.settle l { o with byT := f o.byT ((d.env t).count n) } (d.whoOf t))
    (fun d _ => d.done h)

/-- BEXP (R158). -/
def execBexp (h : Hd) (m : MemRef) (n : Src) (s : State) : Host.Outcome State Fault Refusal :=
  onDev s (fun d => d.bexpOp (.bexp h m n) h m n (fun t x => byteMax < t + x) (fun t x => t + x))

/-- BEXP.MAX (R158). -/
def execBexpMax (h : Hd) (m : MemRef) (n : Src) (s : State) : Host.Outcome State Fault Refusal :=
  onDev s (fun d => d.bexpOp (.bexpMax h m n) h m n (fun _ x => byteMax < x) max)

/-- BADDB (R156, R158). -/
def execBaddb (h : Hd) (m : MemRef) (n : Src) (s : State) : Host.Outcome State Fault Refusal :=
  onDev s (fun d => d.barrier (.baddb h m n) h false true true m (fun e => [e.count n])
    (fun d t l => d.objValid t l)
    (fun d t l => d.byteArrive l ((d.env t).count n) false [.thread t.gangUid] (d.whoOf t)) (fun d _ => d.done h))

/-- BDROP (R158). -/
def execBdrop (h : Hd) (m : MemRef) (s : State) : Host.Outcome State Fault Refusal :=
  onDev s (fun d => d.barrier (.bdrop h m) h false true true m (fun _ => [])
    (fun d t l =>
      let o := d.obj l
      firstFlt
        [d.objValid t l, d.objFlt t l (o.thrT = 0) 9 cBarrierPhaseMisuse, d.objFlt t l (o.thrC = o.thrT) 10 cBarrierOverflow])
    (fun d t l =>
      let d1 := (d.releasesTo t l).dropRank t l
      let o := d1.obj l
      d1.settle l { o with thrT := o.thrT - 1 } (d.whoOf t)) (fun d _ => d.done h))

/-! ### Waiting (R159) -/

/-- The parity a lane names. -/
def Env.parity (e : Env) (k : Parity) : Bool :=
  match k with
  | .imm k => k
  | .reg r => (e.read 1 (opdOf false r)).1 % 2 = 1

/-- A waiting instruction of a lane: its phase has completed, and it writes its predicate; else it sleeps, or, with
`sleeps` false, writes 0x00. -/
def Dev.waitLane (d : Dev) (h : Hd) (t : Thread) (p : PReg) (l : ObjLoc) (k sleeps : Bool) (dl : Option W64) : Dev :=
  let o := d.obj l
  let go := fun (v : Byte) => d.deliver t.uid (fun x => ((x.setPred p v false).retire d.pcyc).hint h.yh d.pcyc)
  if o.phase ≠ k then (go (waitDone o.err)).takes [t] (l.sync true)
  else if sleeps then d.deliver t.uid (fun x => { x.hint h.yh d.pcyc with wait := .barrier p l.off k dl, since := d.pcyc })
  else go 0x00

/-- BWAIT, BTEST and BWAITT: the lanes that are guarded off retire, every other lane completes or sleeps. DEDUCED: notes/assumptions/69. -/
def Dev.barWait (d : Dev) (i : Instr) (h : Hd) (p : PReg) (m : MemRef) (par : Env → Bool) (sleeps : Dev → Thread → Bool)
    (dl : Env → Option W64) : Dev :=
  let act := d.members.filter (fun t => t.active h [0])
  let off := d.group.filter (fun u => !(act.any (fun t => t.uid == u)))
  d.barrier i h false false false m (fun e => [b2n (par e)]) (fun d t l => d.objValid t l)
    (fun d t l => d.waitLane h t p l (par (d.env t)) (sleeps d t) (dl (d.env t))) (fun d _ => d.retire off h.yh)

/-- BWAIT (R159). DEDUCED: notes/assumptions/69. -/
def execBwait (h : Hd) (p : PReg) (m : MemRef) (k : Parity) (s : State) : Host.Outcome State Fault Refusal :=
  onDev s (fun d => d.barWait (.bwait h p m k) h p m (fun e => e.parity k) (fun _ _ => true) (fun _ => none))

/-- BTEST (R159). -/
def execBtest (h : Hd) (p : PReg) (m : MemRef) (k : Parity) (s : State) : Host.Outcome State Fault Refusal :=
  onDev s (fun d => d.barWait (.btest h p m k) h p m (fun e => e.parity k) (fun _ _ => false) (fun _ => none))

/-- The deadline of BWAITT. -/
def Env.deadline (e : Env) (dl : Src) : W64 := BitVec.ofNat 64 (e.read 2 (opdOf true dl)).1

/-- BWAITT (R159): a deadline that CYC has reached makes it a BTEST. -/
def execBwaitt (h : Hd) (p : PReg) (m : MemRef) (k : Bool) (dl : Src) (s : State) : Host.Outcome State Fault Refusal :=
  onDev s (fun d => d.barWait (.bwaitt h p m k dl) h p m (fun _ => k)
    (fun d t => d.cyc t.ctx < (d.env t).deadline dl) (fun e => some (e.deadline dl)))

end Sys2Proof.Machine
end

