-- ==== Sys2Proof/Machine/Control.lean ====
section
/-! DEFINITION. The control instructions: transfers, calls, EXIT, YIELD, SLEEP, gangs and POST (spec/03 R71 to R85,
spec/01 R33). -/

namespace Sys2Proof.Machine

/-! ### Transfers (R33, R73 to R75) -/

/-- The target is in the local window. -/
def localTarget (x : W64) : Bool :=
  match windowOf x with
  | .local_ _ => true
  | _ => false

/-- MISALIGNED_PC, then PROTECTION, for a target (R33). -/
def targetFlt (ord lane : Nat) (x : W64) : Option Flt :=
  firstFlt
    [flt (x.toNat % 4 ≠ 0) ord cMisalignedPc (targetDetail x),
     flt (!(localTarget x)) (ord + 1) cProtection (addrDetail x.toNat lane 0 0 false none)]

/-- The target of a relative transfer (R74). -/
def relTarget (pc : W64) (imm : W32) : W64 := nextPc pc + sext64 imm

/-- The target of an indirect transfer and its poison (R74, R75). -/
def Env.regTarget (e : Env) (b : Src) (imm : W32) : W64 × Bool :=
  let (x, p) := e.addr b
  (x + sext64 imm, p)

/-- A target source that is poisoned. -/
def Dev.srcPoison (d : Dev) (t : Thread) (s : Src) : Option Flt :=
  t.poisonRun ((d.env t).addrRun true s)

/-- The active threads go to their targets after a change each; the others go on (R73). -/
def Dev.transfer (d : Dev) (h : Hd) (act : List Thread) (f : Dev → Thread → Thread) (tgt : Dev → Thread → W64) : Dev :=
  let off := d.group.filter (fun u => !(act.any (fun t => t.uid == u)))
  let d1 := d.retire off h.yh
  d1.mapUids (act.map Thread.uid) (fun t => (((f d t).retireTo (tgt d t) d.pcyc).hint h.yh d.pcyc))

/-- NOP (R71). -/
def execNop (h : Hd) (s : State) : Host.Outcome State Fault Refusal :=
  onDev s (fun d => d.lanes (.nop h) h [0] false (fun _ d => d.done h))

/-- BRA (R74). -/
def execBra (h : Hd) (imm : W32) (s : State) : Host.Outcome State Fault Refusal :=
  onDev s (fun d => d.lanesChk (.bra h imm) h false (fun _ t => targetFlt 1 t.lane (relTarget t.pc imm))
    (fun act d => d.transfer h act (fun _ t => t) (fun _ t => relTarget t.pc imm)))

/-- BRX (R74). -/
def execBrx (h : Hd) (base : Src) (imm : W32) (s : State) : Host.Outcome State Fault Refusal :=
  onDev s (fun d => d.lanesChk (.brx h base imm) h false
    (fun d t => firstFlt [d.srcPoison t base, targetFlt 1 t.lane ((d.env t).regTarget base imm).1])
    (fun act d => d.transfer h act (fun _ t => t) (fun d t => ((d.env t).regTarget base imm).1)))

/-- The target of a call (R75). -/
def Dev.callTarget (d : Dev) (t : Thread) (c : CallTgt) : W64 :=
  match c with
  | .label imm => relTarget t.pc imm
  | .reg a imm => ((d.env t).regTarget (.v a) imm).1

/-- A poisoned target of a call. -/
def Dev.callPoison (d : Dev) (t : Thread) : CallTgt → Option Flt
  | .label _ => none
  | .reg a _ => d.srcPoison t (.v a)

/-- The detail of CALL_DEPTH (R379). -/
def depthDetail (t : Thread) : Detail := detailOf t.rstack.length 0 t.lane

/-- CALL with the return stack (R75). -/
def execCall (h : Hd) (t : CallTgt) (s : State) : Host.Outcome State Fault Refusal :=
  onDev s (fun d => d.lanesChk (.call h t) h false
    (fun d x => firstFlt
      [d.callPoison x t, targetFlt 1 x.lane (d.callTarget x t), flt (16 ≤ x.rstack.length) 3 cCallDepth (depthDetail x)])
    (fun act d => d.transfer h act (fun _ x => { x with rstack := nextPc x.pc :: x.rstack }) (fun d x => d.callTarget x t)))

/-- CALL with a link pair (R75). -/
def execCallLink (h : Hd) (r : VReg) (t : CallTgt) (s : State) : Host.Outcome State Fault Refusal :=
  onDev s (fun d => d.lanesChk (.callLink h r t) h false
    (fun d x => firstFlt [d.callPoison x t, targetFlt 1 x.lane (d.callTarget x t)])
    (fun act d => d.transfer h act (fun _ x => x.wr64 r (nextPc x.pc) false) (fun d x => d.callTarget x t)))

/-- The top of the return stack. -/
def Thread.top (t : Thread) : W64 := t.rstack.headD 0

/-- RET with the return stack (R75). -/
def execRet (h : Hd) (s : State) : Host.Outcome State Fault Refusal :=
  onDev s (fun d => d.lanesChk (.ret h) h false
    (fun _ t => firstFlt [flt t.rstack.isEmpty 1 cCallDepth (depthDetail t), targetFlt 2 t.lane t.top])
    (fun act d => d.transfer h act (fun _ t => { t with rstack := t.rstack.drop 1 }) (fun _ t => t.top)))

/-- RET with a link pair (R75). -/
def execRetLink (h : Hd) (a : VReg) (s : State) : Host.Outcome State Fault Refusal :=
  onDev s (fun d => d.lanesChk (.retLink h a) h false
    (fun d t => firstFlt [d.srcPoison t (.v a), targetFlt 1 t.lane ((d.env t).addr (.v a)).1])
    (fun act d => d.transfer h act (fun _ t => t) (fun d t => ((d.env t).addr (.v a)).1)))

/-! ### Ending, yielding, sleeping (R76 to R78) -/

/-- EXIT (R76): a release; each active thread ends, a shadow with its primary and only then. DEDUCED: notes/assumptions/131. -/
def execExit (h : Hd) (s : State) : Host.Outcome State Fault Refusal :=
  onDev s (fun d => d.lanes (.exit h) h [0] false (fun act d =>
    d.unlessOwn (primaries act) d.owes .release (fun d =>
      let both := d.pairsOf (primaries act)
      let off := d.group.filter (fun u => !(both.any (fun t => t.uid == u)))
      (d.retire off h.yh).endThreads (both.map Thread.uid))))

/-- YIELD (R77): the thread is ready again with an age of zero. -/
def execYield (h : Hd) (s : State) : Host.Outcome State Fault Refusal :=
  onDev s (fun d => d.lanes (.yield h) h [0] false (fun act d =>
    (d.done h).mapUids (act.map Thread.uid) (fun t => { t with since := d.pcyc + 1 })))

/-- A thread sleeps until its deadline, or goes on where CYC has reached it (R78). -/
def Dev.sleepUntil (d : Dev) (h : Hd) (act : List Thread) (dl : Dev → Thread → W64) : Dev :=
  let us := act.map Thread.uid
  let d1 := d.retire (d.group.filter (fun u => !(us.contains u))) h.yh
  d1.mapUids us (fun t =>
    if d.cyc t.ctx < dl d t then { (t.hint h.yh d.pcyc) with wait := .sleep (dl d t), since := d.pcyc }
    else (t.retire d.pcyc).hint h.yh d.pcyc)

/-- SLEEP for an interval (R78). -/
def execSleep (h : Hd) (imm : W32) (s : State) : Host.Outcome State Fault Refusal :=
  onDev s (fun d => d.lanes (.sleep h imm) h [0] false (fun act d =>
    d.sleepUntil h act (fun d t => d.cyc t.ctx + zext64 imm)))

/-- SLEEP to a deadline (R78). -/
def execSleepAbs (h : Hd) (a : Src) (s : State) : Host.Outcome State Fault Refusal :=
  onDev s (fun d => d.lanes (.sleepAbs h a) h [0] false (fun act d =>
    d.sleepUntil h act (fun d t => ((d.env t).addr a).1)))

/-! ### Gangs (R79 to R82) -/

/-- A new gang of a thread (R17, R79). -/
def Gang.new (key : W64) (t : Thread) (size : Nat) : Gang :=
  { key := key, ctx := t.ctx, lid := t.lid, home := t.chunk, size := size, remap := List.replicate size none,
    sregs := List.replicate 64 0, sregPsn := List.replicate 64 false, mxcnt := 0,
    svar := { w := [0, 0, 0, 0], row := 0, col := 0 }, rdv := none, bindings := [], freed := false, upsets := [] }

/-- The gang-table entries in use (R14). -/
def Core.gangCount (c : Core) : Nat := (c.gangs.filter (fun e => e.1 < 64)).length

/-- The lowest free entry of the gang table. DEDUCED: notes/assumptions/35. -/
def Core.freeGangIdx (c : Core) : Nat := ((upTo 64).find? (fun k => (KV.get? c.gangs k).isNone)).getD 0

/-- The outcome of one JOIN: it fails, traps, or joins the gang of an entry at a rank. -/
inductive Joined where
  | fails
  | traps (c : Cause)
  | joins (idx : Nat) (g : Gang) (rank : Nat)

/-- One thread's JOIN (R79): key, requested rank if any, log2 of the size, and whether a lane clash traps. DEDUCED: notes/assumptions/35. -/
def Dev.join1 (d : Dev) (t : Thread) (key : W64) (want : Option Nat) (k : Nat) (clash : Bool) : Joined :=
  let size := 2 ^ k
  let c := d.core t.core
  if k > 6 || (t.partner.isSome && k > 5) then .fails
  else if (d.gangOf? t).isSome then .fails
  else
    let found := c.gangs.find? (fun e => e.2.key == key && e.2.ctx == t.ctx && !e.2.freed)
    if found.isNone && 64 ≤ c.gangCount then .traps cGangFull
    else
      let (idx, g) := found.getD (c.freeGangIdx, Gang.new key t size)
      if g.size ≠ size then .fails
      else
        let empty := fun (r : Nat) => r < g.size && (g.remap[r]?.getD none).isNone
        let rank := match want with
          | some r => if empty r then some r else none
          | none => (upTo g.size).find? empty
        match rank with
        | none => .fails
        | some r =>
          if g.members.any (fun u => ((d.thread? u).map Thread.lane) == some t.lane) then
            if clash then .traps cGangLaneClash else .fails
          else .joins idx g r

/-- JOIN's result in one lane: the predicate, and the membership (R79). DEDUCED: notes/assumptions/35. -/
def Dev.joinLane (d : Dev) (p : PReg) (t : Thread) (key : W64) (want : Option Nat) (k : Nat) (clash : Bool) :
    Dev × Option Flt :=
  match d.join1 t key want k clash with
  | .fails => (d.deliver t.uid (fun t => t.setPred p 0x00 false), none)
  | .traps c =>
    (d, some { ord := 0, cause := c,
               detail := detailOf (lo32 key).toNat (hi32 key).toNat (t.lane + (want.getD 0) % 64 * 2 ^ 7) })
  | .joins idx g r =>
    ((d.mapCore t.core (fun c =>
        { c with gangs := KV.set c.gangs idx { g with remap := g.remap.set r (some t.uid) } })).deliver t.uid
      (fun t => t.setPred p 0xFF false), none)

/-- JOIN (R79, R80): a pair is compared first (R394, R405); the lanes are served in ascending order; a fault of any lane leaves
everything as it was. -/
def Dev.join (d : Dev) (i : Instr) (h : Hd) (p : PReg) (a : VReg) (b : Option VReg) (size : BitVec 3) (clash : Bool) : Dev :=
  d.lanesOut i h false
    (fun d t => let e := d.env t; [0, (e.read 0 (.v a true)).1] ++ (b.map (fun b => (e.read 1 (.v b false)).1)).toList)
    (fun d t =>
      let e := d.env t
      firstFlt [t.poisonRun (e.run 0 (.v a) 2),
        match b with
        | some b => t.poisonFlt (e.read 1 (.v b false)).2 b.toNat 0
        | none => none])
    (fun act d =>
      let step := fun (x : Dev × List (Thread × Flt)) (t : Thread) =>
        let e := d.env t
        let key := BitVec.ofNat 64 (e.read 0 (.v a true)).1
        let want := b.map (fun b => (e.read 1 (.v b false)).1)
        match x.1.joinLane p t key want size.toNat clash with
        | (d', none) => (d', x.2)
        | (_, some f) => (x.1, x.2 ++ [(t, f)])
      let place := fun (t : Thread) => some (gangPlace (BitVec.ofNat 64 ((d.env t).read 0 (.v a true)).1))
      d.inTurn act place (fun d =>
        let (d', fs) := act.foldl step (d.placed act place, [])
        match pickFail fs with
        | some f => d.failGroup h act f
        | none => d'.done h))

/-- JOIN (R79). -/
def execJoin (h : Hd) (p : PReg) (a : VReg) (size : BitVec 3) (s : State) : Host.Outcome State Fault Refusal :=
  onDev s (fun d => d.join (.join h p a size) h p a none size false)
/-- JOIN at a requested rank (R79). -/
def execJoinRank (h : Hd) (p : PReg) (a b : VReg) (size : BitVec 3) (s : State) : Host.Outcome State Fault Refusal :=
  onDev s (fun d => d.join (.joinRank h p a b size) h p a (some b) size false)
/-- JOIN that traps on a lane clash (R79). -/
def execJoinT (h : Hd) (p : PReg) (a : VReg) (size : BitVec 3) (s : State) : Host.Outcome State Fault Refusal :=
  onDev s (fun d => d.join (.joinT h p a size) h p a none size true)
/-- JOIN at a requested rank that traps on a lane clash (R79). -/
def execJoinRankT (h : Hd) (p : PReg) (a b : VReg) (size : BitVec 3) (s : State) : Host.Outcome State Fault Refusal :=
  onDev s (fun d => d.join (.joinRankT h p a b size) h p a (some b) size true)

/-- The place of a thread's LEAVE: its gang's (R443). -/
def Dev.leavePlace (d : Dev) (t : Thread) : Option Nat := (d.gangOf? t).map (fun g => gangPlace g.2.key)

/-- LEAVE (R81): a pair is compared first (R394, R405). -/
def execLeave (h : Hd) (s : State) : Host.Outcome State Fault Refusal :=
  onDev s (fun d => d.lanesOut (.leave h) h true (fun _ _ => []) (fun _ _ => none) (fun act d =>
    d.inTurn act d.leavePlace (fun d => (act.foldl (fun d t => d.leaveGang t) (d.placed act d.leavePlace)).done h)))

/-- What GINFO writes (R82). -/
def Dev.ginfoWords (d : Dev) (t : Thread) : List W32 :=
  match d.gangOf? t with
  | some (_, g) =>
    [BitVec.ofNat 32 ((g.rankOf t.gangUid).getD 0), BitVec.ofNat 32 g.size, BitVec.ofNat 32 g.mask,
     BitVec.ofNat 32 (g.mask / 2 ^ 32)]
  | none => [BitVec.allOnes 32, 0, 0, 0]

/-- GINFO (R82). -/
def execGinfo (h : Hd) (r : VReg) (s : State) : Host.Outcome State Fault Refusal :=
  onDev s (fun d => d.lanes (.ginfo h r) h [0] false (fun act d =>
    d.each h (primaries act) (fun d t x => x.wrs r (d.ginfoWords t) false)))

/-! ### POST (R83, R84) -/

/-- The 256 bits of a thread's record (R83), and whether a register of it is poisoned. -/
def Dev.postBits (d : Dev) (t : Thread) (a b : VReg) : Nat × Bool :=
  let e := d.env t
  let words := (upTo 4).map (fun k => e.read 0 (.v (a + BitVec.ofNat 9 k) false)) ++
    (upTo 4).map (fun k => e.read 1 (.v (b + BitVec.ofNat 9 k) false))
  (packFields ((words.zip (upTo 8)).map (fun x => (32 * x.2, 32, x.1.1))), words.any Prod.snd)

/-- The continuation a record describes (R83). -/
def taskOf (t : Thread) (x : Nat) : Task :=
  { ctx := t.ctx, poster := t.lid, entry := BitVec.ofNat 64 x, addr := BitVec.ofNat 64 (x / 2 ^ 64),
    arg := BitVec.ofNat 64 (x / 2 ^ 128), nthr := bitsOf x 192 16 + 1, regsN := bitsOf x 208 10, prio := bitsOf x 218 2,
    ctxl := bitOf x 220 }

/-- The address lies in the local window. -/
def localOff (x : W64) : Option Nat :=
  match windowOf x with
  | .local_ off => some off
  | _ => none

/-- ADDR lies within the lease of the poster's launch (R84). -/
def Dev.postLease (d : Dev) (t : Thread) (x : W64) : Bool :=
  match d.ctx? t.ctx, d.launch? t.ctx t.lid, localOff x with
  | some c, some l, some off => leaseOk c l off 1 false
  | _, _, _ => false

/-- The home die of ADDR (R84, R115). -/
def Dev.postDie (d : Dev) (t : Thread) (x : W64) : Nat :=
  match d.ctx? t.ctx, localOff x with
  | some c, some off => ((d.pa? c off).map homeDie).getD 0
  | _, _ => 0

/-- The checks of one lane's record, in order, the lowest faulting lane first (R84). DEDUCED: notes/assumptions/49. -/
def Dev.postFlt (d : Dev) (i : Instr) (t : Thread) (a b : VReg) : Option Flt :=
  let x := (d.postBits t a b).1
  let k := taskOf t x
  let o := 10 * t.lane + 10
  firstFlt
    [t.poisonRun ((d.env t).run 0 (.v a) 4 ++ (d.env t).run 1 (.v b) 4),
     flt (x / 2 ^ 221 ≠ 0 || k.regsN < 4 || 512 < k.regsN) o cReservedBits (insnDetail i),
     flt (k.entry.toNat % 4 ≠ 0) (o + 1) cMisalignedPc (targetDetail k.entry),
     flt (!(localTarget k.entry)) (o + 2) cProtection (addrDetail k.entry.toNat t.lane 0 0 false none),
     flt (!(localTarget k.addr)) (o + 2) cProtection (addrDetail k.addr.toNat t.lane 0 0 false none),
     flt (k.ctxl && t.level = .user) (o + 3) cPrivilege (insnDetail i),
     flt (!(d.postLease t k.addr)) (o + 4) cLeaseViolation (addrDetail k.addr.toNat t.lane 0 0 false none),
     match d.ctx? t.ctx with
     | some c => flt (d.unlocked c) (o + 5) cTdispUnlocked (detailOf c.part 0 0)
     | none => none]

/-- The free records of a die's task queue (R83). -/
def Dev.taskRoom (d : Dev) (die : Nat) : Nat := 65536 - (d.die die).tasks.length

/-- The records of a POST, each with the die that queues it. DEDUCED: notes/assumptions/49. -/
def Dev.postTasks (d : Dev) (ts : List Thread) (a b : VReg) : List (Thread × Task × Nat) :=
  ts.map (fun t =>
    let k := taskOf t (d.postBits t a b).1
    (t, k, d.postDie t k.addr))

/-- POST (R84). -/
def execPost (h : Hd) (a b : VReg) (s : State) : Host.Outcome State Fault Refusal :=
  onDev s (fun d => d.lanesOut (.post h a b) h false (fun d t => let x := (d.postBits t a b).1; [bitsOf x 64 64, x])
    (fun d t => d.postFlt (.post h a b) t a b)
    (fun act d =>
      let ks := d.postTasks act a b
      let full := (upTo 4).find? (fun n => d.taskRoom n < (ks.filter (fun k => k.2.2 == n)).length)
      match full with
      | some n =>
        let bad := (ks.filter (fun k => k.2.2 == n)).map (fun k => k.1)
        d.failGroup h act
          { cause := cTaskQueueFull
            detail := detailOf (d.taskRoom n) 0 ((bad.head?.map Thread.lane).getD 0 + n * 2 ^ 13)
            failed := bad.map Thread.uid }
      | none =>
        d.afterRelease act (fun d =>
          (ks.foldl (fun d k => d.mapDie k.2.2 (fun x => { x with tasks := x.tasks ++ [k.2.1] })) (d.passTo act .host)).done h)))

end Sys2Proof.Machine
end

