-- ==== Sys2Proof/Machine/Alu.lean ====
section
/-! DEFINITION. The driver of the arithmetic instructions: sources, elements under their guard bits, poison, flags, the
precise fault, and the gang-wide form (spec/10 R235 to R240, spec/09 R224, R225). -/

namespace Sys2Proof.Machine

/-- The raw values of the three sources, and whether one is poisoned. -/
structure Srcs where
  a : Nat
  b : Nat
  c : Nat
  p : Bool

/-- Reads the sources. -/
def Env.srcs (e : Env) (a b c : Opd) : Srcs :=
  let x := e.read 0 a
  let y := e.read 1 b
  let z := e.read 2 c
  { a := x.1, b := y.1, c := z.1, p := x.2 || y.2 || z.2 }

/-- An arithmetic operation: element width and count of its result, the function of one element, and the cause that a
marked element raises. -/
structure AluFn where
  w     : Nat
  n     : Nat
  elem  : Srcs → Nat → Elem
  cause : Cause := cIntOverflow

/-- The elements of a result under a choice of elements: the merged bits, a mark, the flags. -/
def AluFn.run (f : AluFn) (s : Srcs) (gov : Nat → Bool) (old : Nat) : Elem :=
  (upTo f.n).foldl (fun (acc : Elem) k =>
    if gov k then
      let e := f.elem s k
      { val := acc.val + e.val % 2 ^ f.w * 2 ^ (f.w * k), mark := acc.mark || e.mark, flags := acc.flags ||| e.flags }
    else { acc with val := acc.val + elemOf f.w k old * 2 ^ (f.w * k) }) { val := 0 }

/-- A predicate result beside a register result: its register, and the bit of each element (R237, R238). -/
structure PredFn where
  p : PReg
  f : Srcs → Bool

/-- A written comparison result: the bits of the elements the guard governs, bits 4 to 7 cleared for results of 32 bits
or less (R238). DEDUCED: notes/assumptions/47. -/
def cmpWrite (w n : Nat) (gov : Nat → Bool) (f : Nat → Bool) (old : Byte) : Byte :=
  BitVec.ofNat 8 ((upTo n).foldl (fun x k =>
    x + (if gov k then cmpBits w k (f k) else old.toNat / 2 ^ (w / 8 * k) % 2 ^ (w / 8) * 2 ^ (w / 8 * k))) 0)

/-- The governed elements of a thread (R36, R238). -/
def Thread.gov (t : Thread) (h : Hd) (w : Nat) (k : Nat) : Bool := t.guardBit h (govBit w k)

/-- Some element of the thread is guarded off. -/
def Thread.partial? (t : Thread) (h : Hd) (w n : Nat) : Bool := !((upTo n).all (t.gov h w))

/-- Merges flags into FLAGS (R222, R224). -/
def Thread.orFlags (t : Thread) (f : FFlags) : Thread := { t with flags := t.flags ||| f }

/-- The result registers of a value of `w * n` bits: one, or a pair for 64 bits. -/
def aluWords (two : Bool) (x : Nat) : List W32 :=
  if two then [BitVec.ofNat 32 x, BitVec.ofNat 32 (x / 2 ^ 32)] else [BitVec.ofNat 32 x]

/-- What a lane of an arithmetic instruction does to its thread. `two` says that D is a pair. -/
def aluLane (e : Env) (h : Hd) (r : VReg) (two : Bool) (a b c : Opd) (f : AluFn) (pd : Option PredFn) (x : Thread) : Thread :=
  let s := e.srcs a b c
  let old := if two then (e.t.rd64 (4 * e.c + 3) r).toNat else (e.t.rd (4 * e.c + 3) r).toNat
  let oldP := if two then e.t.rdP64 (4 * e.c + 3) r else e.t.rdP (4 * e.c + 3) r
  let part := e.t.partial? h f.w f.n
  let res := f.run s (e.t.gov h f.w) (if part then old else 0)
  let x1 := (x.wrRes h r (aluWords two res.val) (s.p || (part && oldP))).orFlags res.flags
  match pd with
  | none => x1
  | some q => x1.setPred q.p (cmpWrite (if two then 64 else 32) 1 (fun _ => true) (fun _ => q.f s) 0) s.p

/-- A marked element of a lane (R240, R258). -/
def aluMark (e : Env) (h : Hd) (a b c : Opd) (f : AluFn) : Option Flt :=
  flt (f.run (e.srcs a b c) (e.t.gov h f.w) 0).mark 10 f.cause Detail.zero

/-- The gang-wide form (DK = 1): computed once from gang scalars; sD, the flags and PD are written if the guard is true
in at least one participant (R237). DEDUCED: notes/assumptions/47. -/
def Dev.aluGang (d : Dev) (i : Instr) (h : Hd) (r : SReg) (two : Bool) (a b c : Opd) (f : AluFn) (pd : Option PredFn) : Dev :=
  d.gangWide i h (fun m act d =>
    match act with
    | [] => d.meetDone h m
    | t :: _ =>
      let s := Env.srcs { c := d.ctr, t := t, g := some m.gang } a b c
      let res := f.run s (fun _ => true) 0
      if res.mark then d.meetFail m act (Meet.fail act f.cause Detail.zero)
      else
        let d1 := d.mapGang m.core m.idx (fun g => g.setS r (BitVec.ofNat 64 res.val) s.p)
        let d2 := act.foldl (fun d t => d.deliver t.uid (fun x =>
          let x := x.orFlags res.flags
          match pd with
          | none => x
          | some q => x.setPred q.p (cmpWrite (if two then 64 else 32) 1 (fun _ => true) (fun _ => q.f s) 0) s.p)) d1
        d2.meetDone h m)

/-- An arithmetic instruction: per lane into vector registers, or gang-wide into a gang scalar. -/
def Dev.alu (d : Dev) (i : Instr) (h : Hd) (dst : Dst) (two : Bool) (a b c : Opd) (f : AluFn) (pd : Option PredFn := none) : Dev :=
  match dst with
  | .v r =>
    d.lanes i h (govBits f.w f.n) false (fun act d =>
      match d.faultIn i act (fun t => aluMark (d.env t) h a b c f) with
      | some x => d.failGroup h act x
      | none => (d.mapUids (act.map Thread.uid) (fun t => aluLane (d.env t) h r two a b c f pd t)).done h)
  | .s r => d.aluGang i h r two a b c f pd

/-- A one-element operation on raw values without marks. -/
def AluFn.one (w : Nat) (f : Srcs → Nat × FFlags) : AluFn :=
  { w := w, n := 1, elem := fun s _ => let r := f s; { val := r.1, flags := r.2 } }

/-- A one-element operation without flags. -/
def AluFn.raw (w : Nat) (f : Srcs → Nat) : AluFn := { w := w, n := 1, elem := fun s _ => { val := f s } }

/-- An element-wise operation on integers as TY reads them, with V (R240). -/
def AluFn.int (ty : Ty) (v : Ov) (f : Int → Int → Int → Int) : AluFn :=
  { w := ty.width, n := ty.count
    elem := fun s k =>
      let g := fun x => elemInt ty.signed ty.width (elemOf ty.width k x)
      applyOv v ty.signed ty.width (f (g s.a) (g s.b) (g s.c)) }

/-- A comparison into a predicate, per element (R238). -/
def Dev.compare (d : Dev) (i : Instr) (h : Hd) (p : PReg) (w n : Nat) (a b : Opd) (f : Srcs → Nat → Bool × FFlags) : Dev :=
  d.lanes i h (govBits w n) false (fun act d =>
    (d.mapUids (act.map Thread.uid) (fun t =>
      let e := d.env t
      let s := e.srcs a b .none
      let gov := t.gov h w
      let fl := (upTo n).foldl (fun (x : FFlags) k => if gov k then x ||| (f s k).2 else x) 0
      (t.setPred p (cmpWrite w n gov (fun k => (f s k).1) (t.pred p))
        (s.p || (t.partial? h w n && t.predP p))).orFlags fl)).done h)

end Sys2Proof.Machine
end

