-- ==== Sys2Proof/Machine/Transc.lean ====
section
/-! DEFINITION. FEXP2, FLOG2, FSIN, FCOS and FTANH (spec/10 R260): the exact value, enclosed in fixed point with 1000
fraction bits and rounded toward zero. Where both ends of the enclosure round alike, that is the result. -/

namespace Sys2Proof.Machine

/-- Fraction bits of the fixed-point numbers. -/
def fxP : Nat := 1000

/-- 1.0 in fixed point. -/
def fxOne : Int := 2 ^ fxP

/-- The product of two fixed-point numbers, cut downwards. -/
def fxMul (a b : Int) : Int := (a * b).shiftRight fxP

/-- Sum over the remaining terms of a power series: `t` is the present term, `n` its index; the next term is
`t × x / d(n)`. -/
def fxSeries (x : Int) (d : Nat → Nat) : Nat → Nat → Int → Int → Int
  | 0, _, _, acc => acc
  | k + 1, n, t, acc =>
    let t' := fxMul t x / (d n : Int)
    fxSeries x d k (n + 1) t' (acc + t')

/-- exp(x) − 1 for |x| ≤ 2. -/
def fxExpm1 (x : Int) : Int := fxSeries x (fun n => n) 200 1 fxOne 0

/-- Sum of p^(2n+1)/(2n+1) with alternating signs if `alt`, from the power `t` on; `x2` is the square of the argument. -/
def fxOdd (alt : Bool) (x2 : Int) : Nat → Nat → Int → Int → Int
  | 0, _, _, acc => acc
  | k + 1, n, t, acc =>
    let q := t / (2 * n + 1 : Nat)
    fxOdd alt x2 k (n + 1) (fxMul t x2) (if alt && n % 2 == 1 then acc - q else acc + q)

/-- ln of M in [1, 2], from atanh((M − 1)/(M + 1)). -/
def fxLn (m : Int) : Int :=
  let z := (m - fxOne) * fxOne / (m + fxOne)
  2 * fxOdd false (fxMul z z) 330 0 z 0

/-- ln 2. -/
def fxLn2 : Int := fxLn (2 * fxOne)

/-- The arc tangent of 1/q. -/
def fxAtanInv (q : Nat) : Int :=
  let z := fxOne / (q : Int)
  fxOdd true (fxMul z z) 330 0 z 0

/-- π/2, by Machin's formula. -/
def fxHalfPi : Int := 8 * fxAtanInv 5 - 2 * fxAtanInv 239

/-- sin x for |x| ≤ 1. -/
def fxSin (x : Int) : Int := fxSeries (-(fxMul x x)) (fun n => 2 * n * (2 * n + 1)) 100 1 x x

/-- cos x for |x| ≤ 1. -/
def fxCos (x : Int) : Int := fxSeries (-(fxMul x x)) (fun n => (2 * n - 1) * (2 * n)) 100 1 fxOne fxOne

/-- The truncation toward zero of a value known to lie within 2^200 units of y × 2^(e − P), and never representable. DESIGN CHOICE: notes/assumptions/120. -/
def truncEnclosed (y : Int) (e : Int) (raw : Nat) : Nat × FFlags :=
  let lo := y - 2 ^ 200
  let hi := y + 2 ^ 200
  let a := roundFin Fmt.f32 .rz (lo < 0) lo.natAbs (e - fxP)
  let b := roundFin Fmt.f32 .rz (hi < 0) hi.natAbs (e - fxP)
  if a = b then a else ((Config.unsettled raw).toNat, fNX)

/-- ± m × 2^e in fixed point, exact for e ≥ −P. -/
def fxOf (s : Bool) (m : Nat) (e : Int) : Int := signedAt s m e (-(fxP : Int))

/-- FEXP2 (R260). DESIGN CHOICE: notes/assumptions/120. -/
def fpExp2 (x : Nat) : Nat × FFlags :=
  match FVal.ofBits Fmt.f32 x with
  | .nan s => (Fmt.f32.canon, flagIf s fNV)
  | .inf s => if s then (0, 0) else (Fmt.f32.inf, 0)
  | .fin s m e =>
    if m ≠ 0 && !s && (7 : Int) ≤ (bitLen m : Int) - 1 + e then (0x7F7FFFFF, fOF ||| fNX)
    else if m ≠ 0 && s && (8 : Int) ≤ (bitLen m : Int) - 1 + e then (0, fUF ||| fNX)
    else
      let a := fxOf s m e
      let i := a.shiftRight fxP
      let f := a - i * fxOne
      if f = 0 then roundFin Fmt.f32 .rz false 1 i
      else truncEnclosed (fxOne + fxExpm1 (fxMul f fxLn2)) i x

/-- FLOG2 (R260). DESIGN CHOICE: notes/assumptions/120. -/
def fpLog2 (x : Nat) : Nat × FFlags :=
  match FVal.ofBits Fmt.f32 x with
  | .nan s => (Fmt.f32.canon, flagIf s fNV)
  | .inf s => if s then (Fmt.f32.canon, fNV) else (Fmt.f32.inf, 0)
  | .fin s m e =>
    if m = 0 then (Fmt.f32.signBit true + Fmt.f32.inf, fDZ)
    else if s then (Fmt.f32.canon, fNV)
    else
      let n := bitLen m - 1
      let ex : Int := e + n
      if m = 2 ^ n then fpOfInt .rz ex
      else truncEnclosed (ex * fxOne + fxLn ((m : Int) * 2 ^ (fxP - n)) * fxOne / fxLn2) 0 x

/-- sin of the angle reduced by k quarter turns. -/
def fxQuarter (k : Int) (r : Int) : Int :=
  match (k % 4).toNat with
  | 0 => fxSin r
  | 1 => fxCos r
  | 2 => -fxSin r
  | _ => -fxCos r

/-- sin(A + j × π/2), enclosed. -/
def fpSinShift (j : Int) (s : Bool) (m : Nat) (e : Int) (x : Nat) : Nat × FFlags :=
  let a := fxOf s m e
  let h := fxHalfPi
  let k := (a + h / 2) / h
  truncEnclosed (fxQuarter (k + j) (a - k * h)) 0 x

/-- FSIN (R260). DESIGN CHOICE: notes/assumptions/120. -/
def fpSin (x : Nat) : Nat × FFlags :=
  match FVal.ofBits Fmt.f32 x with
  | .nan s => (Fmt.f32.canon, flagIf s fNV)
  | .inf _ => (Fmt.f32.canon, fNV)
  | .fin s m e => if m = 0 then (x, 0) else fpSinShift 0 s m e x

/-- FCOS (R260). DESIGN CHOICE: notes/assumptions/120. -/
def fpCos (x : Nat) : Nat × FFlags :=
  match FVal.ofBits Fmt.f32 x with
  | .nan s => (Fmt.f32.canon, flagIf s fNV)
  | .inf _ => (Fmt.f32.canon, fNV)
  | .fin s m e => if m = 0 then (0x3F800000, 0) else fpSinShift 1 s m e x

/-- FTANH (R260). DESIGN CHOICE: notes/assumptions/120. -/
def fpTanh (x : Nat) : Nat × FFlags :=
  match FVal.ofBits Fmt.f32 x with
  | .nan s => (Fmt.f32.canon, flagIf s fNV)
  | .inf s => (Fmt.f32.signBit s + 0x3F800000, 0)
  | .fin s m e =>
    if m = 0 then (x, 0)
    else if (4 : Int) ≤ (bitLen m : Int) - 1 + e then (Fmt.f32.signBit s + 0x3F7FFFFF, fNX)
    else
      let u := 2 * fxOf false m e
      let t :=
        if u ≤ fxOne then fxExpm1 u
        else
          let k := u / fxLn2
          (fxOne + fxExpm1 (u - k * fxLn2)) * 2 ^ k.toNat - fxOne
      let y := t * fxOne / (t + 2 * fxOne)
      truncEnclosed (if s then -y else y) 0 x

end Sys2Proof.Machine
end

