-- ==== Sys2Proof/Machine/FloatAlu.lean ====
section
/-! DEFINITION. The floating-point, special-function, flag and random instructions (spec/10 R252 to R265, spec/09
R222 to R231). -/

namespace Sys2Proof.Machine

/-! ### Binary32 (R253 to R258) -/

/-- A binary32 value. -/
def f32 (x : Nat) : FVal := FVal.ofBits Fmt.f32 (x % 2 ^ 32)

/-- A binary32 operation of two sources. -/
def f32Fn (f : Nat → Nat → Nat × FFlags) : AluFn := AluFn.one 32 (fun s => f s.a s.b)

/-- FADD. -/
def faddOp (a b : Nat) : Nat × FFlags := fpAdd Fmt.f32 (f32 a) (f32 b)
/-- FSUB: the negation of B is exact and takes part in the sign of zero (R220). -/
def fsubOp (a b : Nat) : Nat × FFlags := fpAdd Fmt.f32 (f32 a) (f32 b).negate
/-- FMUL. -/
def fmulOp (a b : Nat) : Nat × FFlags := fpMul Fmt.f32 (f32 a) (f32 b)

/-- A value with its sign changed, if asked. -/
def negIf (k : Bool) (v : FVal) : FVal := if k then v.negate else v

/-- FFMA with its two negations (R253). -/
def ffmaOp (nab nc : Bool) (a b c : Nat) : Nat × FFlags := fpFma Fmt.f32 (negIf nab (f32 a)) (f32 b) (negIf nc (f32 c))

/-- FADD (R253). -/
def execFadd (h : Hd) (d : Dst) (a : Src) (b : SrcI) (s : State) : Host.Outcome State Fault Refusal :=
  onDev s (fun x => x.alu (.fadd h d a b) h d false (opdOf false a) (opdI false false b) .none (f32Fn faddOp))
/-- FSUB (R253). -/
def execFsub (h : Hd) (d : Dst) (a : Src) (b : SrcI) (s : State) : Host.Outcome State Fault Refusal :=
  onDev s (fun x => x.alu (.fsub h d a b) h d false (opdOf false a) (opdI false false b) .none (f32Fn fsubOp))
/-- FMUL (R253). -/
def execFmul (h : Hd) (d : Dst) (a : Src) (b : SrcI) (s : State) : Host.Outcome State Fault Refusal :=
  onDev s (fun x => x.alu (.fmul h d a b) h d false (opdOf false a) (opdI false false b) .none (f32Fn fmulOp))
/-- FFMA (R253). -/
def execFfma (h : Hd) (nab nc : Bool) (d : Dst) (a b c : Src) (s : State) : Host.Outcome State Fault Refusal :=
  onDev s (fun x => x.alu (.ffma h nab nc d a b c) h d false (opdOf false a) (opdOf false b) (opdOf false c)
    (AluFn.one 32 (fun s => ffmaOp nab nc s.a s.b s.c)))
/-- FMIN (R254). -/
def execFmin (h : Hd) (d : Dst) (a : Src) (b : SrcI) (s : State) : Host.Outcome State Fault Refusal :=
  onDev s (fun x => x.alu (.fmin h d a b) h d false (opdOf false a) (opdI false false b) .none (f32Fn (fpMinMax Fmt.f32 false)))
/-- FMAX (R254). -/
def execFmax (h : Hd) (d : Dst) (a : Src) (b : SrcI) (s : State) : Host.Outcome State Fault Refusal :=
  onDev s (fun x => x.alu (.fmax h d a b) h d false (opdOf false a) (opdI false false b) .none (f32Fn (fpMinMax Fmt.f32 true)))

/-- The format FCMP compares in (R255). -/
def fcmpFmt : FFmt → Fmt
  | .f32 => Fmt.f32
  | .f16 => Fmt.f16
  | .bf16 => Fmt.bf16

/-- FCMP (R255). -/
def execFcmp (h : Hd) (fmt : FFmt) (d : PReg) (a b : Src) (c : FCond) (s : State) : Host.Outcome State Fault Refusal :=
  let f := fcmpFmt fmt
  onDev s (fun x => x.compare (.fcmp h fmt d a b c) h d f.width (32 / f.width) (opdOf false a) (opdOf false b)
    (fun s k => fpCmp c (FVal.ofBits f (elemOf f.width k s.a)) (FVal.ofBits f (elemOf f.width k s.b))))

/-- FCLASS (R256). -/
def execFclass (h : Hd) (d : VReg) (a : Src) (pd : Option PReg) (mask : BitVec 10) (s : State) :
    Host.Outcome State Fault Refusal :=
  onDev s (fun x => x.alu (.fclass h d a pd mask) h (.v d) false (opdOf false a) .none .none
    (AluFn.raw 32 (fun s => fpClass s.a))
    (pd.map (fun p => { p := p, f := fun s => fpClass s.a &&& mask.toNat != 0 })))

/-- FRND (R257). -/
def execFrnd (h : Hd) (rm : Rm) (d : VReg) (a : Src) (s : State) : Host.Outcome State Fault Refusal :=
  onDev s (fun x => x.alu (.frnd h rm d a) h (.v d) false (opdOf false a) .none .none
    (AluFn.one 32 (fun s => fpRnd rm s.a)))

/-! ### Conversions (R258) -/

/-- A conversion to an integer; the trap forms mark NaNs and values out of range. -/
def toIntElem (rm : Rm) (signed : Bool) (w : Nat) (trap : Bool) (x : Nat) : Elem :=
  let (v, fl, out) := fpToInt rm signed w (f32 x)
  { val := wrapInt w v, mark := trap && out, flags := fl }

/-- The element of FCVT. -/
def fcvtElem (c : FcvtCode) (rm : Rm) (s : Srcs) : Elem :=
  let one := fun (r : Nat × FFlags) => ({ val := r.1, flags := r.2 } : Elem)
  let two := fun (f : Fmt) =>
    let lo := fpConv Fmt.f32 f rm s.a
    let hi := fpConv Fmt.f32 f rm s.b
    ({ val := lo.1 + 2 ^ 16 * hi.1, flags := lo.2 ||| hi.2 } : Elem)
  match c with
  | .f16 => one (fpConv Fmt.f32 Fmt.f16 rm s.a)
  | .bf16 => one (fpConv Fmt.f32 Fmt.bf16 rm s.a)
  | .fromF16 => one (fpConv Fmt.f16 Fmt.f32 .rn (s.a % 2 ^ 16))
  | .fromBf16 => one (fpConv Fmt.bf16 Fmt.f32 .rn (s.a % 2 ^ 16))
  | .f16x2 _ => two Fmt.f16
  | .bf16x2 _ => two Fmt.bf16
  | .i32 t => toIntElem rm true 32 t s.a
  | .n32 t => toIntElem rm false 32 t s.a
  | .i64 t => toIntElem rm true 64 t s.a
  | .n64 t => toIntElem rm false 64 t s.a

/-- FCVT writes a pair. -/
def fcvtWide : FcvtCode → Bool
  | .i64 _ | .n64 _ => true
  | _ => false

/-- The second source of FCVT. -/
def fcvtB : FcvtCode → Opd
  | .f16x2 b | .bf16x2 b => opdOf false b
  | _ => .none

/-- FCVT (R258). -/
def execFcvt (h : Hd) (c : FcvtCode) (rm : Rm) (d : VReg) (a : Src) (s : State) : Host.Outcome State Fault Refusal :=
  onDev s (fun x => x.alu (.fcvt h c rm d a) h (.v d) (fcvtWide c) (opdOf false a) (fcvtB c) .none
    { w := if fcvtWide c then 64 else 32, n := 1, elem := fun s _ => fcvtElem c rm s, cause := cConvertRange })

/-- ICVT's source is a pair. -/
def icvtWideA : IcvtCode → Bool
  | .f32i64 | .f32n64 => true
  | _ => false

/-- ICVT writes a pair. -/
def icvtWideD : IcvtCode → Bool
  | .i64 | .n64 => true
  | _ => false

/-- The value and flags of ICVT. -/
def icvtOp (c : IcvtCode) (rm : Rm) (a : Nat) : Nat × FFlags :=
  let narrow := fun (signed : Bool) (w : Nat) => (wrapInt 32 (satInt signed w (elemInt signed 32 a)), (0 : FFlags))
  match c with
  | .f32i32 => fpOfInt rm (elemInt true 32 a)
  | .f32n32 => fpOfInt rm (elemInt false 32 a)
  | .f32i64 => fpOfInt rm (elemInt true 64 a)
  | .f32n64 => fpOfInt rm (elemInt false 64 a)
  | .i16 => narrow true 16
  | .i8 => narrow true 8
  | .n16 => narrow false 16
  | .n8 => narrow false 8
  | .i64 => (wrapInt 64 (elemInt true 32 a), 0)
  | .n64 => (a, 0)

/-- ICVT (R258). -/
def execIcvt (h : Hd) (c : IcvtCode) (rm : Rm) (d : VReg) (a : Src) (s : State) : Host.Outcome State Fault Refusal :=
  onDev s (fun x => x.alu (.icvt h c rm d a) h (.v d) (icvtWideD c) (opdOf (icvtWideA c) a) .none .none
    (AluFn.one (if icvtWideD c then 64 else 32) (fun s => icvtOp c rm s.a)))

/-! ### Special functions (R259 to R261) -/

/-- A special function of one binary32 operand. -/
def Dev.special (x : Dev) (i : Instr) (h : Hd) (d a : VReg) (f : Nat → Nat × FFlags) : Dev :=
  x.alu i h (.v d) false (.v a false) .none .none (AluFn.one 32 (fun s => f s.a))

/-- FRCP (R261). -/
def execFrcp (h : Hd) (d a : VReg) (s : State) : Host.Outcome State Fault Refusal :=
  onDev s (fun x => x.special (.frcp h d a) h d a seedRcp)
/-- FRSQ (R261). -/
def execFrsq (h : Hd) (d a : VReg) (s : State) : Host.Outcome State Fault Refusal :=
  onDev s (fun x => x.special (.frsq h d a) h d a seedRsq)
/-- FSQRT (R259). -/
def execFsqrt (h : Hd) (d a : VReg) (s : State) : Host.Outcome State Fault Refusal :=
  onDev s (fun x => x.special (.fsqrt h d a) h d a (fun v => fpSqrt Fmt.f32 (f32 v)))
/-- FDIV (R259). -/
def execFdiv (h : Hd) (d a b : VReg) (s : State) : Host.Outcome State Fault Refusal :=
  onDev s (fun x => x.alu (.fdiv h d a b) h (.v d) false (.v a false) (.v b false) .none
    (f32Fn (fun a b => fpDiv Fmt.f32 (f32 a) (f32 b))))
/-- FEXP2 (R260). -/
def execFexp2 (h : Hd) (d a : VReg) (s : State) : Host.Outcome State Fault Refusal :=
  onDev s (fun x => x.special (.fexp2 h d a) h d a fpExp2)
/-- FLOG2 (R260). -/
def execFlog2 (h : Hd) (d a : VReg) (s : State) : Host.Outcome State Fault Refusal :=
  onDev s (fun x => x.special (.flog2 h d a) h d a fpLog2)
/-- FSIN (R260). -/
def execFsin (h : Hd) (d a : VReg) (s : State) : Host.Outcome State Fault Refusal :=
  onDev s (fun x => x.special (.fsin h d a) h d a fpSin)
/-- FCOS (R260). -/
def execFcos (h : Hd) (d a : VReg) (s : State) : Host.Outcome State Fault Refusal :=
  onDev s (fun x => x.special (.fcos h d a) h d a fpCos)
/-- FTANH (R260). -/
def execFtanh (h : Hd) (d a : VReg) (s : State) : Host.Outcome State Fault Refusal :=
  onDev s (fun x => x.special (.ftanh h d a) h d a fpTanh)

/-! ### Packed instructions (R262, R263) -/

/-- A packed operation on two 16-bit elements. -/
def packedFn (bf : Bool) (f : FVal → FVal → FVal → Nat × FFlags) : AluFn :=
  { w := 16, n := 2
    elem := fun s k =>
      let g := fun x => FVal.ofBits (Fmt.packed bf) (elemOf 16 k x)
      let r := f (g s.a) (g s.b) (g s.c)
      { val := r.1, flags := r.2 } }

/-- HADD2. -/
def hadd2Fn (bf : Bool) : AluFn := packedFn bf (fun a b _ => fpAdd (Fmt.packed bf) a b)
/-- HMUL2. -/
def hmul2Fn (bf : Bool) : AluFn := packedFn bf (fun a b _ => fpMul (Fmt.packed bf) a b)
/-- HFMA2. -/
def hfma2Fn (bf : Bool) : AluFn := packedFn bf (fun a b c => fpFma (Fmt.packed bf) a b c)

/-- HADD2 (R262). -/
def execHadd2 (h : Hd) (bf : Bool) (d a : VReg) (b : SrcI) (s : State) : Host.Outcome State Fault Refusal :=
  onDev s (fun x => x.alu (.hadd2 h bf d a b) h (.v d) false (.v a false) (opdI false false b) .none (hadd2Fn bf))
/-- HMUL2 (R262). -/
def execHmul2 (h : Hd) (bf : Bool) (d a : VReg) (b : SrcI) (s : State) : Host.Outcome State Fault Refusal :=
  onDev s (fun x => x.alu (.hmul2 h bf d a b) h (.v d) false (.v a false) (opdI false false b) .none (hmul2Fn bf))
/-- HFMA2 (R262). -/
def execHfma2 (h : Hd) (bf : Bool) (d a b c : VReg) (s : State) : Host.Outcome State Fault Refusal :=
  onDev s (fun x => x.alu (.hfma2 h bf d a b c) h (.v d) false (.v a false) (.v b false) (.v c false) (hfma2Fn bf))
/-- HDOT2 (R262). -/
def execHdot2 (h : Hd) (bf : Bool) (d a b c : VReg) (s : State) : Host.Outcome State Fault Refusal :=
  onDev s (fun x => x.alu (.hdot2 h bf d a b c) h (.v d) false (.v a false) (.v b false) (.v c false)
    (AluFn.one 32 (fun s => fpDot2 (Fmt.packed bf) (BitVec.ofNat 32 s.a) (BitVec.ofNat 32 s.b) (BitVec.ofNat 32 s.c))))
/-- FSCALE (R263). -/
def execFscale (h : Hd) (d : VReg) (a : Src) (b : SrcI) (s : State) : Host.Outcome State Fault Refusal :=
  onDev s (fun x => x.alu (.fscale h d a b) h (.v d) false (opdOf false a) (opdI false false b) .none
    (AluFn.one 32 (fun s => fpScale s.a (elemInt true 32 s.b))))

/-! ### FLAGS and random draws (R231, R264, R265) -/

/-- FFLAG's test (R264): the cause of the lowest bit set in any lane; DETAIL.W2 the OR over the active lanes. -/
def fflagFail (act : List Thread) (mask : BitVec 5) : Option Fail :=
  let all := act.foldl (fun (x : BitVec 5) t => x ||| (t.flags &&& mask)) 0
  match lowestFlag all with
  | none => none
  | some k =>
    let bad := act.filter (fun t => (t.flags &&& mask).getLsbD k)
    some { cause := cause 2 k, detail := (detailOf 0 0 all.toNat).withMask (cause 2 k) (lanesOf bad),
           failed := bad.map Thread.uid }

/-- FFLAG.TRAP (R264). -/
def execFflagTrap (h : Hd) (mask : BitVec 5) (s : State) : Host.Outcome State Fault Refusal :=
  onDev s (fun d => d.lanes (.fflagTrap h mask) h [0] false (fun act d =>
    match fflagFail act mask with
    | some f => d.failGroup h act f
    | none => d.done h))

/-- FFLAG.CLR (R264). -/
def execFflagClr (h : Hd) (mask : BitVec 5) (s : State) : Host.Outcome State Fault Refusal :=
  onDev s (fun d => d.lanes (.fflagClr h mask) h [0] false (fun act d =>
    (d.mapUids (act.map Thread.uid) (fun t => { t with flags := t.flags &&& ~~~ mask })).done h))

/-- FFLAG.RD (R264). -/
def execFflagRd (h : Hd) (d : VReg) (s : State) : Host.Outcome State Fault Refusal :=
  onDev s (fun x => x.lanes (.fflagRd h d) h [0] false (fun act x =>
    (x.mapUids (act.map Thread.uid) (fun t => t.wr d (t.flags.zeroExtend 32) false)).done h))

/-- mix64 (R231). -/
def mix64 (c k : W64) : W64 :=
  let z := c ^^^ k
  let z := (z ^^^ (z >>> 31)) * 0x8E4F2D71A35BC6E9#64
  let z := (z ^^^ (z >>> 29)) * 0xB7D31A964E2CF58B#64
  z ^^^ (z >>> 32)

/-- The binary32 value of a draw: (z >> 40) × 2^−24, exact (R265). -/
def drawF32 (z : W64) : Nat := (roundFin Fmt.f32 .rn false (z.toNat / 2 ^ 40) (-24)).1

/-- What a draw writes (R265). -/
def drawWords (f : Bool) (z : W64) : List W32 := if f then [BitVec.ofNat 32 (drawF32 z)] else [lo32 z, hi32 z]

/-- SGEN of a thread's context (R20). -/
def Dev.sgen (d : Dev) (t : Thread) : W64 := ((d.ctx? t.ctx).map (fun c => c.regs.sgen)).getD 0

/-- RNGD (R231, R265): a side-unit operation; a draw whose counter is all ones raises RNG_EXHAUSTED. -/
def execRngd (h : Hd) (f : Bool) (r : VReg) (s : State) : Host.Outcome State Fault Refusal :=
  onDev s (fun d => d.lanesOut (.rngd h f r) h false (fun _ t => [t.rngcnt.toNat])
    (fun _ t => flt (t.rngcnt = BitVec.allOnes 32) 1 cRngExhausted Detail.zero)
    (fun act d => d.each h act (fun d t x =>
      { (x.wrRes h r (drawWords f (mix64 (t.tid ++ t.rngcnt) (d.sgen t))) false) with rngcnt := t.rngcnt + 1 })))

/-- RNGS (R265). -/
def execRngs (h : Hd) (f : Bool) (r a : VReg) (key : Src) (s : State) : Host.Outcome State Fault Refusal :=
  onDev s (fun d => d.lanes (.rngs h f r a key) h [0] false (fun act d =>
    (d.mapUids (act.map Thread.uid) (fun t =>
      let e := d.env t
      let c := e.read 0 (.v a true)
      let k := e.read 1 (opdOf true key)
      t.wrs r (drawWords f (mix64 (BitVec.ofNat 64 c.1) (BitVec.ofNat 64 k.1))) (c.2 || k.2))).done h))

end Sys2Proof.Machine
end

