-- ==== Sys2Proof/Machine/CrossLane.lean ====
section
/-! DEFINITION. Predicate and cross-lane instructions (spec/10 R266 to R272). -/

namespace Sys2Proof.Machine

/-! ### Predicates (R266, R267) -/

/-- The bitwise function of a truth table (R266). -/
def plopOp (table a b c : Byte) : Byte :=
  BitVec.ofNat 8 ((upTo 8).foldl (fun x k =>
    let i := 4 * b2n (a.getLsbD k) + 2 * b2n (b.getLsbD k) + b2n (c.getLsbD k)
    if table.getLsbD i then x + 2 ^ k else x) 0)

/-- PLOP (R266). -/
def execPlop (h : Hd) (p a b c : PReg) (table : Byte) (s : State) : Host.Outcome State Fault Refusal :=
  onDev s (fun d => d.lanes (.plop h p a b c table) h [0] false (fun act d =>
    (d.mapUids (act.map Thread.uid) (fun t =>
      t.setPred p (plopOp table (t.pred a) (t.pred b) (t.pred c)) (t.predP a || t.predP b || t.predP c))).done h))

/-- What PMOV does to a thread (R267). -/
def pmovLane (f : PmovForm) (c : Nat) (t : Thread) : Thread :=
  match f with
  | .toV r a => t.wr r ((t.pred a).zeroExtend 32) (t.predP a)
  | .fromV p a => t.setPred p ((t.rd (4 * c) a).extractLsb' 0 8) (t.rdP (4 * c) a)
  | .imm p x => t.setPred p x false

/-- PMOV (R267). -/
def execPmov (h : Hd) (f : PmovForm) (s : State) : Host.Outcome State Fault Refusal :=
  onDev s (fun d => d.lanes (.pmov h f) h [0] false (fun act d =>
    (d.mapUids (act.map Thread.uid) (pmovLane f d.ctr)).done h))

/-! ### Delivery (R268) -/

/-- A cross-lane instruction: at completion each participant whose guard is true is changed, by its rank. -/
def Dev.crossLane (d : Dev) (i : Instr) (h : Hd) (f : Meet → Dev → Nat → Thread → Thread) : Dev :=
  d.gangWide i h (fun m act d =>
    ((m.parts.filter (fun p => act.any (fun t => t.uid == p.2.uid))).foldl
      (fun d' p => d'.deliver p.2.uid (f m d p.1)) d).meetDone h m)

/-- The participating mask M (R268). -/
def Meet.mask (m : Meet) : Nat := maskOf (m.parts.map Prod.fst)

/-- The ballot, and whether a participant's predicate is poisoned (R269). -/
def Meet.ballot (m : Meet) (a : PReg) : Nat × Bool :=
  (maskOf ((m.parts.filter (fun p => (p.2.pred a).getLsbD 0)).map Prod.fst), m.parts.any (fun p => p.2.predP a))

/-- VOTE.MASK (R269). -/
def execVoteMask (h : Hd) (r : VReg) (a : PReg) (s : State) : Host.Outcome State Fault Refusal :=
  onDev s (fun d => d.crossLane (.voteMask h r a) h (fun m _ _ t =>
    let b := m.ballot a
    t.wr64 r (BitVec.ofNat 64 b.1) b.2))

/-- VOTE.COUNT (R269). -/
def execVoteCount (h : Hd) (r : VReg) (a : PReg) (s : State) : Host.Outcome State Fault Refusal :=
  onDev s (fun d => d.crossLane (.voteCount h r a) h (fun m _ _ t =>
    let b := m.ballot a
    t.wr r (BitVec.ofNat 32 ((upTo 64).filter (fun k => bitOf b.1 k)).length) b.2))

/-- A condition on the ballot (R269). -/
def voteHolds (c : VoteCond) (ballot mask : Nat) : Bool :=
  match c with
  | .none => ballot == 0
  | .some => ballot != 0
  | .every => ballot == mask
  | .agree => ballot == 0 || ballot == mask
  | .split => ballot != 0 && ballot != mask

/-- VOTE.TEST (R269). -/
def execVoteTest (h : Hd) (p a : PReg) (c : VoteCond) (s : State) : Host.Outcome State Fault Refusal :=
  onDev s (fun d => d.crossLane (.voteTest h p a c) h (fun m _ _ t =>
    let b := m.ballot a
    t.setPred p (if voteHolds c b.1 m.mask then 0xFF else 0x00) b.2))

/-- Writes a delivered value of one or two registers. -/
def Thread.wrVal (t : Thread) (wide : Bool) (r : VReg) (x : Nat × Bool) : Thread :=
  if wide then t.wr64 r (BitVec.ofNat 64 x.1) x.2 else t.wr r (BitVec.ofNat 32 x.1) x.2

/-- XBFLY (R270): rank r receives from rank r xor n; a rank beyond the gang supplies zero. -/
def execXbfly (h : Hd) (w : Bool) (r a : VReg) (n : BitVec 6) (s : State) : Host.Outcome State Fault Refusal :=
  onDev s (fun d => d.crossLane (.xbfly h w r a n) h (fun m d k t =>
    t.wrVal w r (m.supply d (.v a w) (k ^^^ n.toNat))))

/-- The rank XSHFL names, if it lies in the gang (R270). -/
def shflRank (m : ShflMode) (size r : Nat) (from_ : Nat) : Option Nat :=
  match m with
  | .from _ => if from_ < size then some from_ else none
  | .bwd n => if n.toNat ≤ r then some (r - n.toNat) else none
  | .fwd n => if r + n.toNat < size then some (r + n.toNat) else none
  | .rot n => some ((r + n.toNat) % size)

/-- The value of XSHFL's rank operand in the receiving thread, with its poison. -/
def shflFrom (m : ShflMode) (e : Env) : Nat × Bool :=
  match m with
  | .from b => e.read 1 (.v b false)
  | _ => (0, false)

/-- XSHFL (R270). -/
def execXshfl (h : Hd) (w : Bool) (r a : VReg) (md : ShflMode) (s : State) : Host.Outcome State Fault Refusal :=
  onDev s (fun d => d.crossLane (.xshfl h w r a md) h (fun m d k t =>
    let me := (m.at k).getD t
    let f := shflFrom md { c := d.ctr, t := me, g := some m.gang }
    let x := match shflRank md m.gang.size k f.1 with
      | some q => m.supply d (.v a w) q
      | none => (0, false)
    t.wrVal w r (x.1, x.2 || f.2)))

/-- XBCAST (R270). -/
def execXbcast (h : Hd) (w : Bool) (r a : VReg) (n : BitVec 6) (s : State) : Host.Outcome State Fault Refusal :=
  onDev s (fun d => d.crossLane (.xbcast h w r a n) h (fun m d _ t => t.wrVal w r (m.supply d (.v a w) n.toNat)))

/-- One register of the transpose step: its value and poison (R271). -/
def trReg (m : Meet) (d : Dev) (base : VReg) (s r k : Nat) : Nat × Bool :=
  let q := r ^^^ s
  let at_ := fun (rank j : Nat) => m.supply d (.v (base + BitVec.ofNat 9 j) false) rank
  let own := at_ r k
  if s ≥ 2 then
    if ((k &&& (s / 2)) != 0) != ((r &&& s) != 0) then at_ q (k ^^^ (s / 2)) else own
  else
    let other := at_ q k
    if r % 2 = 0 then (own.1 % 2 ^ 16 + other.1 % 2 ^ 16 * 2 ^ 16, own.2 || other.2)
    else (own.1 / 2 ^ 16 * 2 ^ 16 + other.1 / 2 ^ 16, own.2 || other.2)

/-- XBFLY.TR (R271): every value is read before any is written. -/
def execXbflyTr (h : Hd) (r : VReg) (x : BitVec 6) (s : State) : Host.Outcome State Fault Refusal :=
  onDev s (fun d => d.crossLane (.xbflyTr h r x) h (fun m d k t =>
    (upTo 16).foldl (fun t j => t.wrVal false (r + BitVec.ofNat 9 j) (trReg m d r x.toNat k j)) t))

/-! ### Reductions and scans (R272, R202) -/

/-- The combine of XRED and XSCAN (R272). -/
def redOp (op : RedOp) (a b : Nat) : Nat × FFlags :=
  let sg := elemInt true 32
  match op with
  | .addN32 => ((a + b) % 2 ^ 32, 0)
  | .addN64 => ((a + b) % 2 ^ 64, 0)
  | .minI32 => (if sg b < sg a then b else a, 0)
  | .maxI32 => (if sg a < sg b then b else a, 0)
  | .minN32 => (min a b, 0)
  | .maxN32 => (max a b, 0)
  | .and => (a &&& b, 0)
  | .or => (a ||| b, 0)
  | .xor => (a ^^^ b, 0)
  | .addF32 => faddOp a b
  | .minF32 => fpMinMax Fmt.f32 false a b
  | .maxF32 => fpMinMax Fmt.f32 true a b

/-- One level of the tree: neighbours are combined, a last one alone passes through (R202). -/
def treeLevel (f : Nat → Nat → Nat × FFlags) : List Nat → List Nat × FFlags
  | a :: b :: r =>
    let x := f a b
    let y := treeLevel f r
    (x.1 :: y.1, x.2 ||| y.2)
  | l => (l, 0)

/-- The fixed tree over a list: its levels until one value is left, within `fuel` levels (R202). DEDUCED: notes/assumptions/48. -/
def treeOf (f : Nat → Nat → Nat × FFlags) : Nat → List Nat → Nat × FFlags
  | 0, l => (l.headD 0, 0)
  | n + 1, l =>
    match l with
    | [] => (0, 0)
    | [a] => (a, 0)
    | _ =>
      let x := treeLevel f l
      let y := treeOf f n x.1
      (y.1, x.2 ||| y.2)

/-- The running combine in rank order: y_0 to y_(n−1), and the flags of every combine (R272). DEDUCED: notes/assumptions/48. -/
def scanOf (f : Nat → Nat → Nat × FFlags) : List Nat → List Nat × FFlags
  | [] => ([], 0)
  | x :: xs =>
    xs.foldl (fun (acc : List Nat × FFlags) y =>
      let z := f (acc.1.getLastD 0) y
      (acc.1 ++ [z.1], acc.2 ||| z.2)) ([x], 0)

/-- The sources of every rank of a gang. -/
def Meet.sources (m : Meet) (d : Dev) (o : Opd) : List (Nat × Bool) := (upTo m.gang.size).map (m.supply d o)

/-- The operation works on pairs. -/
def redWide (op : RedOp) : Bool := op == .addN64

/-- XRED (R272). -/
def execXred (h : Hd) (op : RedOp) (r a : VReg) (s : State) : Host.Outcome State Fault Refusal :=
  onDev s (fun d => d.crossLane (.xred h op r a) h (fun m d _ t =>
    let xs := m.sources d (.v a (redWide op))
    let y := treeOf (redOp op) 7 (xs.map Prod.fst)
    (t.wrVal (redWide op) r (y.1, xs.any Prod.snd)).orFlags y.2))

/-- XSCAN (R272). DEDUCED: notes/assumptions/48. -/
def execXscan (h : Hd) (op : RedOp) (ex : Bool) (r a : VReg) (s : State) : Host.Outcome State Fault Refusal :=
  onDev s (fun d => d.crossLane (.xscan h op ex r a) h (fun m d k t =>
    let xs := m.sources d (.v a (redWide op))
    let ys := scanOf (redOp op) (xs.map Prod.fst)
    let n := if ex then k else k + 1
    let y := if n = 0 then 0 else ys.1[n - 1]?.getD 0
    (t.wrVal (redWide op) r (y, (xs.take n).any Prod.snd)).orFlags ys.2))

end Sys2Proof.Machine
end

