-- ==== Sys2Proof/Machine/MemInstr.lean ====
section
/-! DEFINITION. Loads, stores, atomics, FENCE and the stash map (spec/06 R128 to R152). -/

namespace Sys2Proof.Machine

/-! ### The combines of the atomics (R137 to R139) -/

/-- The new value of an integer read-modify-write of `w` bits (R137). -/
def atomNew (op : AtomOp) (w old x : Nat) : Nat :=
  let i := elemInt true w
  match op with
  | .add => (old + x) % 2 ^ w
  | .min sgn => if (if sgn then decide (i x < i old) else decide (x < old)) then x else old
  | .max sgn => if (if sgn then decide (i old < i x) else decide (old < x)) then x else old
  | .and => old &&& x
  | .or => old ||| x
  | .xor => old ^^^ x
  | .exch => x

/-- FATOM's operation as ATOM's (R209). -/
def fatomOp : FatomOp → AtomOp
  | .add => .add
  | .min s => .min s
  | .max s => .max s
  | .and => .and
  | .or => .or
  | .xor => .xor

/-- Both halves of a packed addition (R139). -/
def packedAdd (bf : Bool) (a b : Nat) : Nat × FFlags :=
  let f := Fmt.packed bf
  let lo := fpAdd f (FVal.ofBits f (a % 2 ^ 16)) (FVal.ofBits f (b % 2 ^ 16))
  let hi := fpAdd f (FVal.ofBits f (a / 2 ^ 16)) (FVal.ofBits f (b / 2 ^ 16))
  (lo.1 + 2 ^ 16 * hi.1, lo.2 ||| hi.2)

/-- The new value of a floating-point read-modify-write and its flags (R139). -/
def atomfNew (op : AtomfOp) (old x : Nat) : Nat × FFlags :=
  match op with
  | .add => faddOp old x
  | .min => fpMinMax Fmt.f32 false old x
  | .max => fpMinMax Fmt.f32 true old x
  | .hadd2F16 => packedAdd false old x
  | .hadd2Bf16 => packedAdd true old x

/-- A read-modify-write: the new value, if it writes; the poison of what it writes; the flags (R136 to R139). -/
structure Rmw where
  new   : Option Nat
  psn   : Bool
  flags : FFlags
  deriving DecidableEq, Repr

/-- ATOM's read-modify-write: EXCH takes only the operand's poison. -/
def atomRmw (op : AtomOp) (w : Nat) (old : Nat × Bool) (x : Nat × Bool) : Rmw :=
  { new := some (atomNew op w old.1 x.1), psn := x.2 || (op != .exch && old.2), flags := 0 }

/-- CAS's read-modify-write: the comparison is made on the bits held. -/
def casRmw (cmp : Nat) (old : Nat × Bool) (x : Nat × Bool) : Rmw :=
  { new := if old.1 = cmp then some x.1 else none, psn := x.2, flags := 0 }

/-- ATOMF's read-modify-write. -/
def atomfRmw (op : AtomfOp) (old : Nat × Bool) (x : Nat × Bool) : Rmw :=
  { new := some (atomfNew op old.1 x.1).1, psn := x.2 || old.2, flags := (atomfNew op old.1 x.1).2 }

/-! ### The driver -/

/-- A memory instruction: the space, the operand, the checks' data, its order, the line of another module that its map entry needs
first, the access it makes at another module once that has accepted it, what is then pending, what it sends and does not wait for, and
what a lane does here. -/
structure MemOp where
  sp   : Nat
  mem  : MemRef
  want : Want
  rel  : Bool
  acq  : Bool
  data : Env → List Nat
  fill : Dev → Thread → Spot → Option Far
  far  : Dev → Thread → Spot → Option Far
  late : Dev → Thread → Spot → Nat → Late
  post : Dev → Thread → Spot → Option Far
  act  : Dev → Thread → Spot → Dev

/-- The spot of a lane. -/
def Dev.laneSpot (d : Dev) (t : Thread) (m : MemOp) : Spot := d.spot t m.sp ((d.env t).memAddr (m.sp = 0) m.mem).1

/-- Private memory must grow for some lane (R145): every active lane waits, each for its own mark. -/
def Dev.growWait (d : Dev) (act : List Thread) (spot : Thread → Spot) (n : Nat) (body : Dev → Dev) : Dev :=
  if act.any (fun t => t.hwm < (spot t).mark n) then
    act.foldl (fun d t => d.deliver t.uid (fun x => { x with wait := .grow ((spot t).mark n) })) d
  else body d

/-- The distinct 64-byte lines of some requests (R142). -/
def farLines (xs : List (Thread × Far)) : Nat := ((xs.map (fun x => x.2.line)).eraseDups).length

/-- The distinct 64-byte lines of this module's memory that an instruction's lanes access. -/
def hereLines (spots : List Spot) : List Nat := ((spots.filterMap Spot.pa?).map (fun pa => pa / 64)).eraseDups

/-- Those that a load sends beyond its core: the ones that miss in the L1 (R142). DESIGN CHOICE: notes/assumptions/133. -/
def Dev.missed64 (d : Dev) (ls : List Nat) : List Nat := ls.filter (fun l => !(Config.hits d.ctr l))

/-- What a lane asks of another module before the instruction is performed: a line of its map entry, or whether its access is accepted. -/
def Dev.askOf (d : Dev) (m : MemOp) (t : Thread) : Option (Thread × Far) :=
  match m.fill d t (d.laneSpot t m) with
  | some f => some (t, f)
  | none => (m.far d t (d.laneSpot t m)).map (fun f => (t, f.question))

/-- What a lane sends without waiting. -/
def Dev.postOf (d : Dev) (m : MemOp) (t : Thread) : Option (Thread × Far) := (m.post d t (d.laneSpot t m)).map (fun f => (t, f))

/-- The entries that an instruction takes apart from those of what it asks: for what it sends without waiting, and for lines of this
module, where every line counts for a write (R142). -/
def Dev.ottNeed (d : Dev) (core : Nat) (m : MemOp) (act : List Thread) : Nat :=
  let posts := farLines (act.filterMap (d.postOf m))
  let here := hereLines (act.map (fun t => d.laneSpot t m))
  if m.want.wr || posts + here.length ≤ d.ottFree core then posts + here.length else posts + (d.missed64 here).length

/-- An access lies in a ROW range of its launch, which is uncached (R91, R118). -/
def Dev.uncached (d : Dev) (t : Thread) (sp ea n : Nat) : Bool :=
  sp == 0 &&
    (match windowOf (BitVec.ofNat 64 ea) with
     | .local_ off => d.rowLeased t off n
     | _ => false)

/-- The lines of tier 1 that an instruction takes across the vertical bus before it is performed (R165): those of ROW ranges, which are
uncached (R118), and those that neither the L1 nor the home slice has. -/
def Dev.busLines (d : Dev) (m : MemOp) (act : List Thread) : List Nat :=
  (act.filterMap (fun t =>
    ((d.laneSpot t m).pa?).bind (fun pa =>
      if inTier1 pa && (d.uncached t m.sp ((d.env t).memAddr (m.sp = 0) m.mem).1 m.want.n ||
          ((!m.want.wr || m.want.atomic) && !(Config.hits d.ctr (pa / 64)) && Config.crosses d.ctr (pa / 64))) then some (pa / 64)
      else none))).eraseDups

/-- An instruction asks other modules, or waits for lines: it takes all its entries, sends the questions and the requests, and its
threads wait; once every answer and line has come they issue together again (R132, R143). DEDUCED: notes/assumptions/15. -/
def Dev.awaitFars (d : Dev) (core : Nat) (act : List Thread) (asks : List (Thread × Far)) (ls : List Nat) (wr : Bool) (more : Nat)
    (body : Dev → Dev) : Dev :=
  let us := act.map Thread.uid
  let ask := fun (xs : List (Thread × Far)) (ls : List Nat) =>
    d.withOtt core act (farLines xs + more) (fun d =>
      match act with
      | [] => d
      | t :: _ =>
        let (k, d1) := d.newId
        (((d1.sendFars (some k) xs).reserve core more t).requestLines t (some k) wr ls).waitFar us k)
  if act.all (fun t => t.asked.isNone) then
    if asks = [] && ls = [] then d.withOtt core act more body else ask asks ls
  else
    let open_ := asks.filter (fun x => ((d.replyOf x.1).map (fun a => a.reply == .none)).getD true)
    match open_.filter (fun x => (d.replyOf x.1).isNone), (open_.filterMap (fun x => d.replyOf x.1)).filterMap OttAcc.ask with
    | [], [] => body (d.claimGrants core us)
    | [], k :: _ => d.waitFar us k
    | new, _ => ask new []

/-- An access of a lane whose reply never came, or whose packet was lost, traps within the skid bound (R211, R212). DEDUCED: notes/assumptions/103. -/
def Dev.timeoutTrap (d : Dev) (a : OttAcc) : Dev :=
  match a.reply, d.thread? a.uid with
  | .lost c, some t => d.imprecise { d.whoOf t with pc := a.origin.pc } a.uid a.was c (farDetail a.seq a.vm a.off a.lane a.wr) [a.lane]
  | _, _ => d

/-- A lane acts at its spot: here; or at another module that has accepted its access, whose reply is then pending; where even the answer to the
question was lost, its result is poisoned. -/
def Dev.laneAct (d : Dev) (m : MemOp) (t : Thread) (s : Spot) : Dev :=
  match m.far d t s, d.replyOf t with
  | some f, some a =>
    match a.reply with
    | .lost _ =>
      let l := m.late d t s a.tag
      d.deliver t.uid (fun x => x.addLate (l.filled (l.regs.map (fun r => (lo32 (Config.random (64 * a.tag + r.k)), true)))))
    | _ =>
      let r := d.requestFar t f
      r.1.deliver t.uid (fun x => x.addLate (m.late d t s r.2))
  | _, _ => m.act d t s

/-- The walks of an instruction's virtual accesses read their entries, where no cluster TLB has them (R182, R337, R339). -/
def Dev.walks (d : Dev) (act : List Thread) (m : MemOp) : Dev :=
  if d.flips.isEmpty || m.sp ≠ 0 then d
  else act.foldl (fun d t =>
    match d.ctx? t.ctx with
    | none => d
    | some c =>
      match c.window (BitVec.ofNat 64 ((d.env t).memAddr true m.mem).1) with
      | .local_ off => if Config.hits (d.ctr + 1) (off / 65536) then d else d.eccWalk c off
      | _ => d) d

/-- The place of a lane's atomic on a word of this module (R443). -/
def Dev.atomPlace (d : Dev) (m : MemOp) (t : Thread) : Option Nat :=
  if m.want.atomic then
    match windowOf (BitVec.ofNat 64 ((d.env t).memAddr (m.sp = 0) m.mem).1) with
    | .local_ off => some (memPlace off)
    | _ => none
  else none

/-- The lanes act in ascending order; what is sent without waiting leaves, lines of this module stay outstanding for a while, and the
instruction retires. -/
def Dev.memAct (d : Dev) (h : Hd) (core : Nat) (act : List Thread) (m : MemOp) : Dev :=
  let us := act.map Thread.uid
  let posts := act.filterMap (d.postOf m)
  let here := hereLines (act.map (fun t => d.laneSpot t m))
  let gone := act.filterMap d.replyOf
  let d1 := (act.foldl (fun e t => e.laneAct m t (d.laneSpot t m)) (d.placed act (d.atomPlace m))).takeFars core us
  let d2 := (d1.sendFars none posts).takeHere core (if m.want.wr then here else d.missed64 here) (if m.want.wr then us else [])
  let d3 := match act with
    | t :: _ =>
      if m.want.wr then d2.requestLines t none true (here.filter (fun k => inTier1 (64 * k) && act.all (fun t => t.asked.isNone) && Config.crosses d.ctr k)) else d2
    | [] => d2
  gone.foldl Dev.timeoutTrap ((d3.walks act m).done h)

/-- A memory instruction. DEDUCED: notes/assumptions/15. -/
def Dev.memInstr (d : Dev) (i : Instr) (h : Hd) (m : MemOp) : Dev :=
  d.lanesOut i h false (fun d t => ((d.env t).memAddr (m.sp = 0) m.mem).1 :: m.data (d.env t))
    (fun d t => d.memFlt t m.sp m.mem m.want)
    (fun act d =>
      let core := ((act.head?).map Thread.core).getD 0
      d.unless act (fun t => (m.rel && d.owes t) || (m.acq && (d.core t.core).owesStores t.gangUid) ||
          d.matrixHolds t m.want.wr (d.laneSpot t m) m.want.n)
        .release (fun d =>
          d.growWait act (fun t => d.laneSpot t m) m.want.n (fun d =>
            d.unless act (fun t => m.want.wr && d.stalls t (d.laneSpot t m)) (.staging d.pcyc) (fun d =>
              d.inTurn act (d.atomPlace m) (fun d =>
                d.awaitFars core act (act.filterMap (d.askOf m)) (d.busLines m act) m.want.wr (d.ottNeed core m act)
                  (fun d => d.memAct h core act m))))))

/-! ### Loads (R134) -/

/-- The code of a size. -/
def szCode : Sz → Nat
  | .b8 => 0
  | .b16 => 1
  | .b32 => 2
  | .b64 => 3
  | .b128 => 4

/-- What an access of a size wants. -/
def wantOf (sz : Sz) (wr atomic : Bool) : Want := { n := szBytes sz, sz := szCode sz, wr := wr, atomic := atomic }

/-- The registers a load writes, each with the poison of the word it comes from. -/
def Dev.loadRegs (d : Dev) (fresh : Bool) (t : Thread) (s : Spot) (n : Nat) (sx : Bool) : List (W32 × Bool) :=
  (partsOf 0 n).flatMap (fun x =>
    let b := d.loadAt fresh t (s.plus x.1) x.2
    (loadWords x.2 sx (leOf b.1)).map (fun w => (w, b.2)))

/-- The line of another module that a map entry fills from. -/
def lineReq (vm roff : Nat) : Far :=
  { vm := vm, off := roff / 64 * 64, len := 64, posted := false, wr := false, ord := .rlx, body := fun tag => .loadReq (roff / 64 * 64) 64 tag }

/-- The virtual address an access of a thread has, if its space has one. -/
def Dev.vaAt (d : Dev) (t : Thread) (sp ea : Nat) : Option W64 :=
  match sp with
  | 0 => some (BitVec.ofNat 64 ea)
  | 2 => ((d.chunkOf? t).bind (fun c => c.entryAt ea)).map (fun e => e.2.va + BitVec.ofNat 64 (ea - e.2.off))
  | _ => none

/-- The number of registers that a loaded value writes. -/
def destWords (n : Nat) : Nat := if n ≤ 4 then 1 else n / 4

/-- The late read that a load of a spot may become. -/
def Spot.unread (s : Spot) (n : Nat) (sx : Bool) : Option Unread :=
  match s with
  | .phys pa => some (.mem pa n sx)
  | .mapped _ _ pa => some (.mem pa n sx)
  | .stash off => some (.stash off n sx)
  | _ => none

/-- The late read of a load that is not performed at once, by a free choice (R107, R108): under lookahead its result comes later,
else its thread goes on with a predicted value. DESIGN CHOICE: notes/assumptions/26. -/
def Dev.deferred (d : Dev) (t : Thread) (h : Hd) (fresh : Bool) (s : Spot) (n : Nat) (sx : Bool) (r : VReg) (va : Option W64) : Option Late :=
  if fresh || !(d.watched [.thread t.gangUid]) then none
  else
    match s.unread n sx, Config.defers d.ctr t.uid with
    | some u, k + 1 =>
      some (lateOf (if h.lah = 0 then k + 2 else h.lah.toNat + 1) r (List.replicate (destWords n) (0, false)) (some u) (h.lah == 0) false va)
    | _, _ => none

/-- A load of a lane here: performed at once, or late. -/
def Dev.loadLane (d : Dev) (h : Hd) (fresh : Bool) (t : Thread) (s : Spot) (n : Nat) (sx : Bool) (r : VReg) (va : Option W64) : Dev :=
  match d.deferred t h fresh s n sx r va with
  | some l => (d.deliver t.uid (fun x => x.addLate l)).afterRead t s n
  | none =>
    let ws := d.loadRegs fresh t s n sx
    ((d.deliver t.uid (fun x => (x.wrResP h r ws).sawPoison va ws)).sawAt fresh t s n).afterRead t s n

/-- A load. -/
def loadOp (h : Hd) (sp : Nat) (acq : Bool) (sz : Sz) (sx : Bool) (r : VReg) (m : MemRef) : MemOp :=
  let n := szBytes sz
  { sp := sp, mem := m, want := wantOf sz false false, rel := false, acq := acq, data := fun _ => []
    fill := fun _ _ s =>
      match s with
      | .mappedFar _ _ vm roff => some (lineReq vm roff)
      | _ => none
    far := fun _ _ s =>
      match s with
      | .remote vm off => some { vm := vm, off := off, len := n, posted := false, wr := false, ord := if acq then .acq else .rlx, body := fun tag => .loadReq off n tag }
      | _ => none
    late := fun d t s tag =>
      lateOf (h.lah.toNat + 1) r (List.replicate (destWords n) (0, false))
        (some (.far tag (match s with | .remote _ off => off | _ => 0) n sx none)) false acq (d.vaAt t sp ((d.env t).memAddr true m).1)
    post := fun _ _ _ => none
    act := fun d t s =>
      let ea := ((d.env t).memAddr (sp = 0) m).1
      let d1 := d.loadLane h (acq || d.uncached t sp ea n) t s n sx r (d.vaAt t sp ea)
      if acq then (match s.pa? with | some pa => d1.takesBytes [.thread t.gangUid] pa n | none => d1) else d1 }

/-- LD (R134). -/
def execLd (h : Hd) (priv : Bool) (sz : Sz) (sx : Bool) (r : VReg) (m : MemRef) (s : State) : Host.Outcome State Fault Refusal :=
  onDev s (fun d => d.memInstr (.ld h priv sz sx r m) h (loadOp h (b2n priv) false sz sx r m))

/-- LDA (R134). -/
def execLda (h : Hd) (sz : Sz) (sx : Bool) (r : VReg) (m : MemRef) (s : State) : Host.Outcome State Fault Refusal :=
  onDev s (fun d => d.memInstr (.lda h sz sx r m) h (loadOp h 0 true sz sx r m))

/-- SLD (R134, R146). -/
def execSld (h : Hd) (sz : Sz) (sx : Bool) (r : VReg) (m : MemRef) (s : State) : Host.Outcome State Fault Refusal :=
  onDev s (fun d => d.memInstr (.sld h sz sx r m) h (loadOp h 2 false sz sx r m))

/-! ### Stores (R135) -/

/-- The data of a store: the bytes of each 64-bit part, and its poison. -/
def Env.storeParts (e : Env) (sz : Sz) (b : VReg) : List (List Byte × Bool) :=
  let word := fun (k : Nat) => e.read 1 (.v (b + BitVec.ofNat 9 k) false)
  let two := fun (k : Nat) => (leBytes 4 (word k).1 ++ leBytes 4 (word (k + 1)).1, (word k).2 || (word (k + 1)).2)
  match sz with
  | .b128 => [two 0, two 2]
  | .b64 => [two 0]
  | sz => [(leBytes (szBytes sz) (word 0).1, (word 0).2)]

/-- The poisoned parts of a packet's payload, by 64-bit word. DEDUCED: notes/assumptions/23. -/
def partPsn (ps : List (List Byte × Bool)) : List Nat := (upTo ps.length).filter (fun k => (ps[k]?.map Prod.snd).getD false)

/-- The line of a map entry has been filled. DEDUCED: notes/assumptions/66. -/
def Dev.lineFilled (d : Dev) (t : Thread) (k off : Nat) : Bool :=
  match (d.chunkOf? t).bind (fun c => KV.get? c.map k) with
  | some e => e.filled.contains ((off - e.off) / 64)
  | none => false

/-- A store's packet. -/
def storeFar (vm off : Nat) (rel : Bool) (ps : List (List Byte × Bool)) : Far :=
  { vm := vm, off := off, len := (ps.map (fun p => p.1.length)).sum, posted := true, wr := true, ord := if rel then .rel else .rlx,
    body := fun _ => .store off (ps.map Prod.fst).flatten (partPsn ps) }

/-- A store of a lane's parts. -/
def Dev.storeAt (d : Dev) (rel : Bool) (t : Thread) (s : Spot) (ps : List (List Byte × Bool)) : Dev :=
  ((upTo ps.length).zip ps).foldl (fun d x => d.writeAt (t.writer rel false) t (s.plus (8 * x.1)) x.2.1 x.2.2) d

/-- A result that writes nothing. -/
def noLate : Late := { regs := [], cover := 1, unread := none, guess := false, acq := false, va := none }

/-- A store. -/
def storeOp (sp : Nat) (rel : Bool) (sz : Sz) (m : MemRef) (b : VReg) : MemOp :=
  { sp := sp, mem := m, want := wantOf sz true false, rel := rel, acq := false
    data := fun e => (e.storeParts sz b).map (fun p => leOf p.1)
    fill := fun d t s =>
      match s with
      | .mappedFar k off vm roff => if d.lineFilled t k off then none else some (lineReq vm roff)
      | _ => none
    far := fun _ _ _ => none
    late := fun _ _ _ _ => noLate
    post := fun d t s =>
      match s with
      | .remote vm off => some (storeFar vm off rel ((d.env t).storeParts sz b))
      | .mappedFar _ _ vm roff => some (storeFar vm roff rel ((d.env t).storeParts sz b))
      | _ => none
    act := fun d t s =>
      (match s with
       | .mappedFar .. => d.afterRead t s (szBytes sz)
       | _ => d).storeAt rel t s ((d.env t).storeParts sz b) }

/-- ST (R135). -/
def execSt (h : Hd) (priv : Bool) (sz : Sz) (m : MemRef) (b : VReg) (s : State) : Host.Outcome State Fault Refusal :=
  onDev s (fun d => d.memInstr (.st h priv sz m b) h (storeOp (b2n priv) false sz m b))

/-- STL (R135, R116). -/
def execStl (h : Hd) (sz : Sz) (m : MemRef) (b : VReg) (s : State) : Host.Outcome State Fault Refusal :=
  onDev s (fun d => d.memInstr (.stl h sz m b) h (storeOp 0 true sz m b))

/-- SST (R135, R146). -/
def execSst (h : Hd) (sz : Sz) (m : MemRef) (b : VReg) (s : State) : Host.Outcome State Fault Refusal :=
  onDev s (fun d => d.memInstr (.sst h sz m b) h (storeOp 2 false sz m b))

/-! ### Atomics (R136 to R139) -/

/-- The order modifier is a release. -/
def isRel (o : Ord) : Bool := o == .rel || o == .ar
/-- The order modifier is an acquire. -/
def isAcq (o : Ord) : Bool := o == .acq || o == .ar

/-- A read-modify-write of a lane here: the old value to D, the new one to the word, the flags to FLAGS. An acquire takes what the
word carries, a release leaves what happens before it there (R104, R110). -/
def Dev.rmwAt (d : Dev) (h : Hd) (o : Ord) (t : Thread) (s : Spot) (va : Nat) (wide : Bool) (r : VReg) (f : Nat × Bool → Rmw) : Dev :=
  let n := if wide then 8 else 4
  let b := d.readAt t s n
  let old := leOf b.1
  let res := f (old, b.2)
  let ws := (loadWords n false old).map (fun w => (w, b.2))
  let d1 := d.deliver t.uid (fun x => ((x.wrResP h r ws).sawPoison (some (BitVec.ofNat 64 va)) ws).orFlags res.flags)
  let d2 := (d1.sawAt true t s n).afterRead t s n
  let d3 := if isAcq o then (match s.pa? with | some pa => d2.takesBytes [.thread t.gangUid] pa n | none => d2) else d2
  match res.new with
  | some x => d3.writeAt (t.writer (isRel o) true) t s (leBytes n x) res.psn
  | none => d3

/-- An atomic instruction. `req` is the packet it sends to another module under a tag, `fl` says how FLAGS follow from the old value
that comes back. -/
def rmwOp (h : Hd) (o : Ord) (wide : Bool) (r : VReg) (m : MemRef) (b : VReg) (f : Env → Nat × Bool → Nat × Bool → Rmw)
    (data : Env → List Nat) (req : Env → Nat → Nat × Bool → Nat → PacketBody) (fl : Env → Option (AtomfOp × W32 × Bool)) : MemOp :=
  let x := fun (e : Env) => e.read 1 (.v b wide)
  let n := if wide then 8 else 4
  { sp := 0, mem := m, want := wantOf (if wide then .b64 else .b32) true true, rel := isRel o, acq := isAcq o
    data := fun e => (x e).1 :: data e
    fill := fun _ _ _ => none
    far := fun d t s =>
      match s with
      | .remote vm off =>
        some { vm := vm, off := off, len := n, posted := false, wr := true, ord := o, body := fun tag => req (d.env t) off (x (d.env t)) tag }
      | _ => none
    late := fun d t s tag =>
      lateOf (h.lah.toNat + 1) r (List.replicate (destWords n) (0, false))
        (some (.far tag (match s with | .remote _ off => off | _ => 0) n false (fl (d.env t)))) false (isAcq o)
        (some (BitVec.ofNat 64 ((d.env t).memAddr true m).1))
    post := fun _ _ _ => none
    act := fun d t s => d.rmwAt h o t s ((d.env t).memAddr true m).1 wide r (fun old => f (d.env t) old (x (d.env t))) }

/-- ATOM (R137). -/
def execAtom (h : Hd) (o : Ord) (op : AtomOp) (w : Bool) (r : VReg) (m : MemRef) (b : VReg) (s : State) :
    Host.Outcome State Fault Refusal :=
  onDev s (fun d => d.memInstr (.atom h o op w r m b) h
    (rmwOp h o w r m b (fun _ old x => atomRmw op (if w then 64 else 32) old x) (fun _ => [])
      (fun _ off x tag => .atomReq off w op (BitVec.ofNat 64 x.1) x.2 tag) (fun _ => none)))

/-- CAS (R138). -/
def execCas (h : Hd) (o : Ord) (w : Bool) (r : VReg) (m : MemRef) (b : VReg) (s : State) : Host.Outcome State Fault Refusal :=
  let cmp := fun (e : Env) => (e.read 2 (.v r w)).1
  onDev s (fun d => d.memInstr (.cas h o w r m b) h
    (rmwOp h o w r m b (fun e old x => casRmw (cmp e) old x) (fun e => [cmp e])
      (fun e off x tag => .casReq off w (BitVec.ofNat 64 (cmp e)) (BitVec.ofNat 64 x.1) x.2 tag) (fun _ => none)))

/-- ATOMF (R139). -/
def execAtomf (h : Hd) (o : Ord) (op : AtomfOp) (r : VReg) (m : MemRef) (b : VReg) (s : State) :
    Host.Outcome State Fault Refusal :=
  onDev s (fun d => d.memInstr (.atomf h o op r m b) h
    (rmwOp h o false r m b (fun _ old x => atomfRmw op old x) (fun _ => [])
      (fun _ off x tag => .atomfReq off op (BitVec.ofNat 32 x.1) x.2 tag)
      (fun e => let y := e.read 1 (.v b false); some (op, BitVec.ofNat 32 y.1, y.2))))

/-- FENCE (R141). DEDUCED: notes/assumptions/46. -/
def execFence (h : Hd) (s : State) : Host.Outcome State Fault Refusal :=
  onDev s (fun d => d.lanes (.fence h) h [0] false (fun act d =>
    d.unlessOwn (primaries act) d.owes .release (fun d => (d.fences (primaries act)).done h)))

/-! ### The stash map (R149 to R152) -/

/-- Two ranges overlap. -/
def overlaps (a n b m : Nat) : Bool := a < b + m && b < a + n

/-- The global range of a map entry as (module, offset); its own module's fabric addresses are local. -/
def Ctx.globalOf (c : Ctx) (va : W64) : Option (Nat × Nat) :=
  match c.window va with
  | .local_ off => some (c.vm, off)
  | .fabric vm off => some (vm, off)
  | .bad => none

/-- The checks of R131, steps 2 to 7, for every granule of a mapped range (R150). -/
def Dev.rangeFlt (d : Dev) (t : Thread) (va n : Nat) (wr : Bool) : Option Flt :=
  let ws := (upTo (n / 64)).map (fun k =>
    d.virtFlt t (va + 64 * k) { n := 64, sz := 0, wr := wr, atomic := false })
  let fs := ws.filterMap id
  minBy (fun (f : Flt) => f.ord) fs

/-- The checks of SMAP (R150): the address and the offset of a lane, in the state the lanes before it left. -/
def Dev.smapFlt (d : Dev) (t : Thread) (entry : Nat) (wr : Bool) (len va off : Nat) : Option Flt :=
  match d.ctx? t.ctx, d.chunkOf? t with
  | some c, some ch =>
    let others := ch.map.filter (fun e => e.1 ≠ entry)
    let g := c.globalOf (BitVec.ofNat 64 va)
    let clash := others.any (fun e =>
      overlaps off len e.2.off e.2.len ||
        match g, c.globalOf e.2.va with
        | some (vm, x), some (vm', y) => vm == vm' && overlaps x len y e.2.len
        | _, _ => false)
    let xa := addrDetail va t.lane 0 0 wr none
    let xs := addrDetail off t.lane 0 2 wr none
    let here := match g with
      | some (vm, x) => if vm = c.vm then some x else none
      | none => none
    let range := d.rangeFlt t va len wr
    firstFlt
      [flt (va % 64 ≠ 0) 1 cAlignment xa,
       flt (off % 64 ≠ 0) 1 cAlignment xs,
       flt (ch.stashLen < off + len || clash) 2 cStashRange xs,
       range.bind (fun f => if f.ord < 7 then some { f with ord := 2 * f.ord + 10 } else none),
       (match here with
        | some x => flt ((d.launchOf? t).any (fun l => l.ranges.any (fun r => r.row && overlaps x len r.base.toNat r.len))) 23 cProtection xa
        | none => none),
       range.map (fun f => { f with ord := 2 * f.ord + 10 })]
  | _, _ => none

/-- The operands of SMAP: address, offset, and whether a register of them is poisoned. -/
def Env.smapOps (e : Env) (f : SmapForm) : Nat × Nat × Bool :=
  match f with
  | .v a b =>
    let x := e.read 0 (.v a true)
    let y := e.read 1 (.v b false)
    (x.1, y.1, x.2 || y.2)
  | .s a b =>
    let x := e.read 0 (.s a true)
    let y := e.read 1 (.s b false)
    (x.1, y.1, x.2 || y.2)

/-- The registers of SMAP's operands. -/
def Env.smapRun (e : Env) (f : SmapForm) : List (Nat × Nat × Bool) :=
  match f with
  | .v a b => e.run 0 (.v a) 2 ++ e.run 1 (.v b) 1
  | .s a b => e.run 0 (.s a) 1 ++ e.run 1 (.s b) 1

/-- The value a line of a map entry holds last: its global value if it lies here and was touched, what was filled if it
lies on another module, else zero (R151). DEDUCED: notes/assumptions/66. -/
def Dev.lineValue (d : Dev) (c : Ctx) (ch : Chunk) (e : MapEntry) (k : Nat) : List (List Byte × Bool) :=
  (upTo 8).map (fun w =>
    if e.filled.contains k then
      match d.virtSpot c (e.va + BitVec.ofNat 64 (64 * k)) with
      | .phys pa => d.readPhys (pa + 8 * w) 8
      | _ => (ch.stash.getBytes (e.off + 64 * k + 8 * w) 8, psnAny ch.stashPsn (e.off + 64 * k + 8 * w) 8)
    else (List.replicate 8 0, false))

/-- Stores of the chunk's threads through a map entry are not acknowledged yet: at another module, or at the home slices here. -/
def Dev.owesEntry (d : Dev) (t : Thread) (entry : Nat) : Bool :=
  match d.ctx? t.ctx, (d.chunkOf? t).bind (fun c => KV.get? c.map entry) with
  | some c, some e =>
    match d.virtSpot c e.va with
    | .remote vm off => (d.core t.core).owesRange t.ctx vm off e.len
    | .phys _ => (d.core t.core).ott.any (fun o => (o.here.map (fun x => x.uids ≠ [] &&
        (upTo (e.len / 64)).any (fun k => d.virtSpot c (e.va + BitVec.ofNat 64 (64 * k)) == .phys (64 * x.line)))).getD false)
    | _ => false
  | _, _ => false

/-- Ends a map entry of a thread's chunk (R151). DEDUCED: notes/assumptions/66. -/
def Dev.unmap (d : Dev) (t : Thread) (entry : Nat) : Dev :=
  match d.ctx? t.ctx, d.chunkOf? t with
  | some c, some ch =>
    match KV.get? ch.map entry with
    | none => d
    | some e =>
      let d1 := (upTo (e.len / 64)).foldl (fun d k =>
        ((upTo 8).zip (d.lineValue c ch e k)).foldl (fun d x => d.putStash t (e.off + 64 * k + 8 * x.1) x.2.1 x.2.2) d) d
      d1.mapChunk t.ctx t.lid t.chunk (fun c => { c with map := KV.del c.map entry })
  | _, _ => d

/-- Maps a range for a lane. -/
def Dev.smapLane (d : Dev) (t : Thread) (entry : Nat) (wr : Bool) (len va off : Nat) : Dev :=
  (d.unmap t entry).mapChunk t.ctx t.lid t.chunk (fun c =>
    { c with map := KV.set c.map entry { off := off, va := BitVec.ofNat 64 va, len := len, write := wr, filled := [] } })

/-- SMAP (R150): the lanes are served in ascending order; a fault of any leaves the map as it was. DEDUCED: notes/assumptions/68. -/
def execSmap (h : Hd) (entry : BitVec 4) (w : Bool) (len : BitVec 10) (f : SmapForm) (s : State) : Host.Outcome State Fault Refusal :=
  let n := (len.toNat + 1) * 64
  onDev s (fun d => d.lanesOut (.smap h entry w len f) h false
    (fun d t => let o := (d.env t).smapOps f; [o.1, o.2.1])
    (fun d t => t.poisonRun ((d.env t).smapRun f))
    (fun act d =>
      d.unless act (fun t => d.owesEntry t entry.toNat || d.matrixHolds t true (.stash ((d.env t).smapOps f).2.1) n) .release (fun d =>
        let r := act.foldl (fun (x : Dev × List (Thread × Flt)) t =>
          let o := (d.env t).smapOps f
          match x.1.smapFlt t entry.toNat w n o.1 o.2.1 with
          | some g => (x.1, x.2 ++ [(t, g)])
          | none => (x.1.smapLane t entry.toNat w n o.1 o.2.1, x.2)) (d, [])
        match pickFail r.2 with
        | some g => d.failGroup h act g
        | none => r.1.done h)))

/-- SUNMAP (R151): the write-backs are acknowledged first. -/
def execSunmap (h : Hd) (entry : BitVec 4) (s : State) : Host.Outcome State Fault Refusal :=
  onDev s (fun d => d.lanes (.sunmap h entry) h [0] false (fun act d =>
    d.unless (primaries act) (fun t => d.owesEntry t entry.toNat) .release (fun d =>
      ((primaries act).foldl (fun d t => d.unmap t entry.toNat) d).done h)))

/-- SFLUSH (R152): the write-backs are acknowledged; ownership and the mapping are kept. -/
def execSflush (h : Hd) (entry : BitVec 4) (s : State) : Host.Outcome State Fault Refusal :=
  onDev s (fun d => d.lanes (.sflush h entry) h [0] false (fun act d =>
    d.unless (primaries act) (fun t => d.owesEntry t entry.toNat) .release (fun d => d.done h)))

end Sys2Proof.Machine
end

