-- ==== Sys2Proof/Machine/Engines.lean ====
section
/-! DEFINITION. Submitting jobs to a die's engine, waiting for them, and the fabric instructions (spec/08 R187 to R210,
spec/16 R349, R352 to R354, R360). -/

namespace Sys2Proof.Machine

/-! ### Cards (R188, R189, R199) -/

/-- The bits of a card, its first word lowest. -/
def cardBits (ws : List W64) : Nat := ws.foldr (fun w x => w.toNat + 2 ^ 64 * x) 0

/-- One side of a copy: memory or the stash of a chunk, the address of its first row, and the stride. -/
structure Side where
  stash  : Option (Nat × Nat)
  base   : Nat
  stride : W32
  deriving DecidableEq, Repr

/-- The size of the side's address space. -/
def Side.space (s : Side) : Nat := if s.stash.isSome then 2 ^ 32 else 2 ^ 64

/-- Where row i starts (R188). -/
def Side.row (s : Side) (i : Nat) : Nat := (s.base + i * (sext64 s.stride).toNat) % s.space

/-- What a job copies: rows of some bytes. -/
structure Geo where
  src  : Side
  dst  : Side
  rowb : Nat
  rows : Nat
  deriving DecidableEq, Repr

/-- A side of a card: stash bit, base, stride. -/
def sideOf (lid chunk : Nat) (st : Bool) (base : Nat) (stride : Nat) : Side :=
  { stash := if st then some (lid, chunk) else none, base := if st then base % 2 ^ 32 else base, stride := BitVec.ofNat 32 stride }

/-- CRYPT of an XCOPY card (R188). -/
def cardCrypt (x : Nat) : Nat := bitsOf x 274 2

/-- The bytes of a collective's element (R199, R201). -/
def elemSize (x : Nat) : Nat := if bitsOf x 160 4 = 1 || bitsOf x 160 4 = 2 then 2 else 4

/-- What one block of a collective holds: c × e bytes (R201). -/
def blockLen (x : Nat) : Nat := bitsOf x 128 32 * elemSize x

/-- The bytes a collective reads and writes, and those its result has, with m members (R201, R203). -/
def collLens (k : JobKind) (x m : Nat) : Nat × Nat :=
  let b := blockLen x
  match k with
  | .crs norm => (m * b, if norm then 4 * ((b + 3) / 4) + 4 else b)
  | .cag => (b, m * b)
  | _ => (b, b)

/-- The bytes that arrive at a collective's barrier (R201). -/
def collTotal (k : JobKind) (x m : Nat) : Nat :=
  match k with
  | .crs norm => blockLen x + (if norm then 4 else 0)
  | .cag => m * blockLen x
  | _ => blockLen x

/-- A job is a collective. -/
def JobKind.coll : JobKind → Bool
  | .copy | .put | .get => false
  | _ => true

/-- What a card copies, as seen from a chunk (R188, R208). A collective has one row per side. -/
def geoOf (k : JobKind) (ws : List W64) (lid chunk : Nat) : Geo :=
  let x := cardBits ws
  match k with
  | .copy =>
    { src := sideOf lid chunk (bitOf x 176) (bitsOf x 0 64) (bitsOf x 192 32)
      dst := sideOf lid chunk (bitOf x 177) (bitsOf x 64 64) (bitsOf x 224 32)
      rowb := bitsOf x 128 32, rows := bitsOf x 160 16 + 1 }
  | .put =>
    { src := sideOf lid chunk (bitOf x 162) (bitsOf x 0 64) 0, dst := sideOf lid chunk false (bitsOf x 64 64) 0,
      rowb := bitsOf x 128 32, rows := 1 }
  | .get =>
    { src := sideOf lid chunk false (bitsOf x 0 64) 0, dst := sideOf lid chunk (bitOf x 162) (bitsOf x 64 64) 0,
      rowb := bitsOf x 128 32, rows := 1 }
  | _ =>
    { src := sideOf lid chunk false (bitsOf x 0 64) 0, dst := sideOf lid chunk false (bitsOf x 64 64) 0,
      rowb := blockLen x, rows := 1 }

/-- A declared region of a card (R189): the field at a bit position, its side. -/
def regionOf (x pos : Nat) (s : Side) (wr : Bool) : Option Region :=
  if bitOf x (pos + 15) then
    let u := 4096 * 2 ^ bitsOf x 281 4
    let off := ((BitVec.ofNat 9 (bitsOf x pos 9)).signExtend 64).toNat
    some { stash := s.stash, base := (s.base / u + off) * u % s.space, len := (bitsOf x (pos + 9) 6 + 1) * u, wr := wr }
  else none

/-- The declared regions of a card. -/
def cardRegions (x : Nat) (g : Geo) : List Region :=
  (upTo 4).filterMap (fun k => regionOf x (384 + 16 * k) g.src false) ++
    (upTo 4).filterMap (fun k => regionOf x (448 + 16 * k) g.dst true)

/-- Every byte of [a, a + n) lies in some region: from `a` on, each region passed at most once. -/
def inRegions (rs : List Region) (space : Nat) : Nat → Nat → Nat → Bool
  | _, _, 0 => true
  | 0, _, _ => false
  | fuel + 1, a, n =>
    let reach := rs.foldl (fun m r => if r.into a < r.len then max m (r.len - r.into a) else m) 0
    if reach = 0 then false
    else if n ≤ reach then true
    else inRegions rs space fuel ((a + reach) % space) (n - reach)

/-- The ranges of bytes a submission reads and those it writes, with `m` members; `root` says that it is that of the root, which
alone reads the source of a CBC (R201). -/
def touchedOf (k : JobKind) (x : Nat) (g : Geo) (m : Nat) (root : Bool) : List (Nat × Nat) × List (Nat × Nat) :=
  let c := cardCrypt x
  if k.coll then
    let n := collLens k x m
    (if k = .cbc && !root then [] else [(g.src.base, n.1)], [(g.dst.base, n.2)])
  else
    ((upTo g.rows).map (fun i => (g.src.row i, g.rowb + if k = .copy && c = 1 then 16 else 0)),
      (upTo g.rows).map (fun i => (g.dst.row i, g.rowb + if k = .copy && c = 2 then 16 else 0)))

/-! ### The checks of a submission (R190, R208, R354) -/

/-- The entries of a die's queue that a context holds, and all of them. -/
def Dev.queueFull (d : Dev) (die ctx : Nat) : Bool :=
  let js := (d.die die).jobs
  1024 ≤ js.length || 256 ≤ (js.filter (fun j => j.ctx == ctx)).length

/-- A submission of a thread: the kind, the card, the thread whose chunk and lane it is, its context, chunk and launch,
the members of a collective. -/
structure Sub where
  kind    : JobKind
  card    : List W64
  t       : Thread
  c       : Ctx
  ch      : Chunk
  members : List Nat

/-- The card's bits. -/
def Sub.x (s : Sub) : Nat := cardBits s.card
/-- What it copies. -/
def Sub.geo (s : Sub) : Geo := geoOf s.kind s.card s.ch.lid s.ch.idx
/-- CRYPT of an XCOPY; no other job encrypts. -/
def Sub.crypt (s : Sub) : Nat := if s.kind = .copy then cardCrypt s.x else 0
/-- The local side of an FPUT or FGET, and whether the transfer writes it. -/
def Sub.near (s : Sub) : Side × Bool := if s.kind = .put then (s.geo.src, false) else (s.geo.dst, true)
/-- The remote side of an FPUT or FGET. -/
def Sub.far (s : Sub) : Side := if s.kind = .put then s.geo.dst else s.geo.src

/-- Its footprint (R189, R208). -/
def Sub.regions (s : Sub) : List Region :=
  match s.kind with
  | .put | .get => [{ stash := s.near.1.stash, base := s.near.1.base, len := s.geo.rowb, wr := s.near.2 }]
  | _ => cardRegions s.x s.geo

/-- The barrier object it names: BOFF and BV (R188, R208). -/
def Sub.barrier (s : Sub) : Option Nat :=
  match s.kind with
  | .put => none
  | .get => if bitOf s.x 206 then some (16 * bitsOf s.x 192 14) else none
  | _ => if bitOf s.x 270 then some (16 * bitsOf s.x 256 14) else none

/-- The member list of a collective's card: where it lies, its length (R199). -/
def listAt (x : Nat) : Nat × Nat := (16 * bitsOf x 192 14, bitsOf x 206 12 + 1)

/-- Reserved bits and values of an XCOPY card (R188, R190, R352). DEDUCED: notes/assumptions/52. -/
def copyBad (x : Nat) : Bool :=
  let c := cardCrypt x
  bitsOf x 178 14 ≠ 0 || bitOf x 271 || c = 3 || bitsOf x 285 3 ≠ 0 || bitsOf x 128 32 = 0 ||
    (c ≠ 0 && (bitsOf x 160 16 ≠ 0 || bitOf x 176 || bitOf x 177 || bitsOf x 276 5 = 0)) ||
    2 ^ 47 - 1 < bitsOf x 128 32 * (bitsOf x 160 16 + 1)

/-- Reserved bits and values of a collective's card (R199). DEDUCED: notes/assumptions/52. -/
def collBad (k : JobKind) (x : Nat) : Bool :=
  bitsOf x 178 14 ≠ 0 || bitsOf x 218 38 ≠ 0 || bitsOf x 320 64 ≠ 0 || bitOf x 271 || bitsOf x 274 7 ≠ 0 ||
    bitsOf x 288 32 ≠ 0 || bitsOf x 128 32 = 0 || 4 < bitsOf x 160 4 || bitsOf x 164 2 = 3 ||
    bitsOf x 166 12 > bitsOf x 206 12 ||
    (k = .crs true && (bitsOf x 164 2 ≠ 0 || 3 ≤ bitsOf x 160 4))

/-- The submitter is the root of its collective's list (R199). -/
def Sub.root (s : Sub) : Bool := s.members[bitsOf s.x 166 12]? == some s.c.vm

/-- The ranges of bytes it reads and those it writes. -/
def Sub.touched (s : Sub) : List (Nat × Nat) × List (Nat × Nat) := touchedOf s.kind s.x s.geo s.members.length s.root

/-- The member list lies in the unmapped stash (R199). -/
def Sub.listOk (s : Sub) : Bool :=
  !s.kind.coll ||
    (let (o, n) := listAt s.x
     o + 2 * n ≤ s.ch.stashLen && !(s.ch.mapped o (2 * n)))

/-- The member list is wrong: it repeats an id, omits the submitter, or names a module outside the context (R199). DEDUCED: notes/assumptions/52. -/
def Sub.listBad (s : Sub) : Bool :=
  s.kind.coll && s.listOk &&
    (s.members.eraseDups.length ≠ s.members.length || !(s.members.contains s.c.vm) ||
      s.members.any (fun v => !(s.c.members.contains v)))

/-- The first range of a job's touched bytes on a side that is not unmapped stash of the chunk (R190). DESIGN CHOICE: notes/assumptions/134. -/
def Sub.stashBad (s : Sub) (side : Side) (rs : List (Nat × Nat)) : Option Nat :=
  if side.stash.isSome then (rs.find? (fun r => s.ch.stashLen < r.1 + r.2 || s.ch.mapped r.1 r.2)).map Prod.fst else none

/-- Where a submission leaves the unmapped stash, and whether it would write there: its source, its destination, the barrier object of an
FGET, the member list of a collective (R190, R199, R208). -/
def Sub.stashFlt (s : Sub) : Option (Nat × Bool) :=
  match s.stashBad s.geo.src s.touched.1, s.stashBad s.geo.dst s.touched.2 with
  | some a, _ => some (a, false)
  | none, some a => some (a, true)
  | none, none =>
    match (if s.kind = .get then s.barrier else none) with
    | some o => if s.ch.stashLen < o + 16 then some (o, true) else if s.listOk then none else some ((listAt s.x).1, false)
    | none => if s.listOk then none else some ((listAt s.x).1, false)

/-- The window of a region of memory. -/
def Sub.window (s : Sub) (r : Region) : Window := s.c.window (BitVec.ofNat 64 r.base)

/-- The regions whose leases are checked here: the footprint, and the far side of an FPUT or FGET, which counts only where
it names this module (R26). -/
def Sub.leaseRegions (s : Sub) : List Region :=
  match s.kind with
  | .put | .get => s.regions ++ [{ stash := none, base := s.far.base, len := s.geo.rowb, wr := s.kind = .put }]
  | _ => s.regions

/-- A local region breaks the launch's lease (R190). -/
def Dev.regionLease (d : Dev) (s : Sub) (r : Region) : Bool :=
  r.stash.isNone &&
    match s.window r with
    | .local_ off => !(d.leased s.t s.c off r.len r.wr)
    | _ => false

/-- A local write touches a format range (R234). -/
def Dev.writesFmt (d : Dev) (s : Sub) (rs : List (Nat × Nat)) : Bool :=
  s.geo.dst.stash.isNone && !d.fmt.isEmpty &&
    rs.any (fun r => (upTo ((r.2 + 4095) / 4096 + 1)).any (fun k =>
      let a := r.1 / 4096 * 4096 + 4096 * k
      match s.c.window (BitVec.ofNat 64 (max a r.1)) with
      | .local_ off =>
        a < r.1 + r.2 && (match d.pa? s.c off with | some p => d.touchesFmt p (min (a + 4096) (r.1 + r.2) - max a r.1) | none => false)
      | _ => false))

/-- Every page of a range is a CONF page of the context (R354). -/
def Dev.allConf (d : Dev) (s : Sub) (rs : List (Nat × Nat)) : Bool :=
  rs.all (fun r => (upTo ((r.2 + 4095) / 4096 + 1)).all (fun k =>
    let a := r.1 / 4096 * 4096 + 4096 * k
    r.1 + r.2 ≤ a ||
      match s.c.window (BitVec.ofNat 64 (max a r.1)) with
      | .local_ off => (match d.leaf? s.c off with | some l => l.conf && l.owner == s.t.ctx | none => false)
      | _ => false))

/-- The entry of a context's stream table for a slot and a stream (R353). -/
def Ctx.streamCtr (c : Ctx) (slot stream : Nat) : Option Nat :=
  (c.streams.find? (fun e => e.1 == slot && e.2.1 == stream)).map (fun e => e.2.2)

/-- The detail of a group-9 cause of a card: STREAM and CTR (R379). -/
def gcmDetail (x : Nat) : Detail := detailOf (bitsOf x 288 32) (bitsOf x 320 32) (bitsOf x 352 32)

/-- The members a submission reaches: by the fabric window, at the endpoint of an FPUT, on the list of a collective. -/
def Sub.vms (s : Sub) : List (Nat × Nat × Bool) :=
  match s.kind with
  | .put | .get =>
    (match s.c.window (BitVec.ofNat 64 s.far.base) with
     | .fabric vm off => [(vm, off, s.kind = .put)]
     | _ => []) ++
      (match (if s.kind = .put then s.card[3]? else none) with
       | some e => if endpointNames e && endpointVm e ≠ s.c.vm then [(endpointVm e, 0, true)] else []
       | none => [])
  | _ =>
    (s.regions.filterMap (fun r =>
      if r.stash.isSome then none
      else
        match s.window r with
        | .fabric vm off => some (vm, off, r.wr)
        | _ => none)) ++
      (s.members.filter (fun v => v ≠ s.c.vm)).map (fun v => (v, 0, false))

/-- The checks from the stash-range step on (R190, R208, R349, R353, R354, R360). DEDUCED: notes/assumptions/52. -/
def Dev.submitTail (d : Dev) (s : Sub) (die : Nat) : Option Flt :=
  let g := s.geo
  let x := s.x
  let lane := s.t.lane
  let tr := s.touched
  let none' := Detail.zero
  let addr := fun (a : Nat) (sp : Nat) (wr : Bool) => addrDetail a lane 0 sp wr none
  let bad := s.leaseRegions.find? (fun r => d.regionLease s r)
  let ks := bitsOf x 276 5
  let gcm := s.crypt ≠ 0
  let out := s.vms.find? (fun v => !(s.c.members.contains v.1))
  let keyless := s.vms.find? (fun v => s.c.unsealed v.1)
  let rec' := s.c.streamCtr ks (bitsOf x 288 32)
  firstFlt
    [(match s.stashFlt with | some z => flt true 13 cStashRange (addr z.1 2 z.2) | none => none),
     (match bad with | some r => flt true 14 cLeaseViolation (addr r.base 0 r.wr) | none => none),
     flt (d.writesFmt s tr.2) 15 cFormatRangeStore (addr g.dst.base 0 true),
     (match out with | some v => flt true 16 cRemoteUnreachable (farDetail 0 v.1 v.2.1 lane v.2.2) | none => none),
     (match keyless with | some v => flt true 17 cSealedChannel (detailOf v.1 0 0) | none => none),
     flt (gcm && (!s.c.conf || (KV.get? s.c.keys ks).isNone)) 18 cKeySlotEmpty (detailOf ks 0 0),
     flt (d.unlocked s.c) 19 cTdispUnlocked (detailOf s.c.part 0 0),
     flt (gcm && (2 ^ 20 < bitsOf x 128 32 || 0xFFFF0000 ≤ bitsOf x 288 32)) 20 cJobCardInvalid none',
     flt (s.crypt = 1 && !(d.allConf s tr.2)) 21 cPlaintextRelease (gcmDetail x),
     flt (gcm && (match rec' with | some k => bitsOf x 320 64 ≤ k | none => false)) 22 cGcmCounterReuse (gcmDetail x),
     flt (gcm && rec'.isNone && 256 ≤ s.c.streams.length) 23 cJobCardInvalid none',
     flt (d.queueFull die s.t.ctx) 24 cEngineQueueFull none']

/-- The checks of an XCOPY or a collective after those of its card's place (R190). DEDUCED: notes/assumptions/52. -/
def Dev.submitFlt (d : Dev) (s : Sub) (die : Nat) : Option Flt :=
  let g := s.geo
  let x := s.x
  let rs := s.regions
  let tr := s.touched
  let outside :=
    tr.1.any (fun r => !(inRegions (rs.filter (fun q => !q.wr)) g.src.space 5 r.1 r.2)) ||
      tr.2.any (fun r => !(inRegions (rs.filter Region.wr) g.dst.space 5 r.1 r.2))
  firstFlt
    [(match s.barrier with
      | some o => flt (s.ch.stashLen < o + 16) 3 cStashRange (addrDetail o s.t.lane 4 2 true none)
      | none => none),
     flt (if s.kind.coll then collBad s.kind x || s.listBad else copyBad x) 10 cJobCardInvalid Detail.zero,
     flt outside 11 cJobCardInvalid Detail.zero,
     flt (rs.any (fun r => !r.wr && rs.any (fun q => q.wr && r.meets q))) 12 cFootprintSelfOverlap Detail.zero,
     d.submitTail s die]

/-! ### Queuing (R187, R195) -/

/-- The die of a core. -/
def dieOf (core : Nat) : Nat := core / 128

/-- The bytes that arrive at a submission's barrier. -/
def Sub.total (s : Sub) : Nat :=
  if s.kind.coll then collTotal s.kind s.x s.members.length else s.geo.rowb * s.geo.rows

/-- The place of the next collective of a context on a list (R200). -/
def Ctx.nextOn (c : Ctx) (ms : List Nat) : Nat := ((c.colls.find? (fun e => e.1 == ms)).map Prod.snd).getD 0

/-- Queues a submission, which releases what some threads did before it (R104, R110): the handle, the promise and the device (R195, R353, R200).
A collective that another member has already reported as failed fails (R204). DESIGN CHOICE: notes/assumptions/54. DEDUCED: notes/assumptions/55. -/
def Dev.enqueue (d0 : Dev) (s : Sub) (rel : List Thread) (die : Nat) (g : HandleReg) : W32 × W64 × Dev :=
  let h := BitVec.ofNat 32 (die * 2 ^ 30 + (d0.die die).next % 2 ^ 30)
  let (promise, d) := (d0.tick).cycInput s.t (d0.cyc s.t.ctx + Config.promise d0.ctr)
  let x := s.x
  let j : Job :=
    { handle := h, ctx := s.t.ctx, chunk := s.ch.idx, kind := s.kind, group := g, card := s.card
      prio := if s.kind = .put || s.kind = .get then bitsOf x 160 2 else bitsOf x 272 2
      origin := { s.t.origin with lid := s.ch.lid, core := s.ch.vc }, regions := s.regions, state := .queued, promise := promise,
      passed := 0, done := [], pend := [], stage := [], counted := 0, total := s.total
      barrier := s.barrier.map (fun o => (s.ch.lid, s.ch.idx, o))
      endpoint := if s.kind = .put then s.card[3]? else none
      failing := if s.kind.coll && s.c.lostColls.contains (s.members, s.c.nextOn s.members) then some (cCollectiveMemberLost, jobDetail h 0 3) else none
      bad := [], emitted := false, members := s.members, nth := s.c.nextOn s.members, retries := 0, matched := s.members = [s.c.vm],
      progress := 0, q := 0, qPsn := false, inbox := [], inq := [] }
  let d1 := (d.passTo rel (.job die h)).mapDie die (fun k => { k with jobs := k.jobs ++ [j], next := k.next + 1 })
  let d2 :=
    if s.kind.coll then
      d1.mapCtx s.t.ctx (fun c =>
        { c with colls := (s.members, c.nextOn s.members + 1) :: c.colls.filter (fun e => e.1 ≠ s.members)
                 lostColls := c.lostColls.filter (fun e => e ≠ (s.members, c.nextOn s.members)) })
    else d1
  let d3 :=
    if s.crypt ≠ 0 then
      d2.mapCtx s.t.ctx (fun c =>
        let ks := bitsOf x 276 5
        let st := bitsOf x 288 32
        { c with streams := (c.streams.filter (fun e => !(e.1 == ks && e.2.1 == st))) ++ [(ks, st, bitsOf x 320 64)] })
    else d2
  (h, promise, d3)

/-! ### XCOPY and the collectives (R194, R195) -/

/-- What a card in the stash needs from another module before it can be read. -/
def Dev.cardFar (d : Dev) (t : Thread) (off : Nat) : Option Far :=
  match d.spot t 2 off with
  | .mappedFar _ _ vm roff => some (lineReq vm roff)
  | _ => none

/-- The words of a lane's card, and whether any is poisoned. -/
def Dev.cardOf (d : Dev) (t : Thread) (c : CardSrc) : List W64 × Bool :=
  match c with
  | .group a => ((upTo 8).map (fun k => d.sreg t (a + BitVec.ofNat 6 k)), (upTo 8).any (fun k => d.spsn t (a + BitVec.ofNat 6 k)))
  | .stash base off =>
    let s := d.spot t 2 ((d.env t).rowAddr false base off).1
    let ws := (upTo 8).map (fun k => d.readAt t (s.plus (8 * k)) 8)
    (ws.map (fun w => BitVec.ofNat 64 (leOf w.1)), ws.any Prod.snd)

/-- The checks of a card (R376, R190): a poisoned register, a poisoned word of a card in the stash, then where it lies. A card in a
line of another module is looked at once the line has come. -/
def Dev.cardFlt (d : Dev) (t : Thread) (c : CardSrc) : Option Flt :=
  match c with
  | .group a => t.poisonRun ((d.env t).run 0 (.s a) 8)
  | .stash base off =>
    let e := (d.env t).rowAddr false base off
    let x := addrDetail e.1 t.lane 3 2 false none
    let lies := e.1 % 64 = 0 && e.1 + 64 ≤ d.stashLen t
    firstFlt
      [t.poisonRun ((d.env t).addrRun false base),
       (if lies && ((d.cardFar t e.1).isNone || (d.replyOf t).isSome) then t.stashPoison (d.cardOf t c).2 else none),
       flt (e.1 % 64 ≠ 0) 1 cAlignment x, flt (d.stashLen t < e.1 + 64) 2 cStashRange x]

/-- The submission a lane's card makes. -/
def Dev.subOf (d : Dev) (t : Thread) (k : JobKind) (ws : List W64) : Option Sub :=
  match d.ctx? t.ctx, d.chunkOf? t with
  | some c, some ch =>
    let (o, n) := listAt (cardBits ws)
    some { kind := k, card := ws, t := t, c := c, ch := ch,
           members := if k.coll then (upTo n).map (fun i => (ch.stash.getLE (o + 2 * i) 2) % 2 ^ 16) else [] }
  | _, _ => none

/-- One lane's submission: its fault, or its handle, its promise and the device. -/
def Dev.submitLane (d : Dev) (t : Thread) (k : JobKind) (r : VReg) (card : List W64 × Bool) : Except Flt (W32 × W64 × Dev) :=
  match t.stashPoison card.2 with
  | some f => .error f
  | none =>
    match d.subOf t k card.1 with
    | none => .error { ord := 99, cause := cJobCardInvalid, detail := Detail.zero }
    | some s =>
      match d.submitFlt s (dieOf t.core) with
      | some f => .error f
      | none => .ok (d.enqueue s [t] (dieOf t.core) (.v (r + 2)))

/-- XCOPY and the collectives: each active lane submits one job, in ascending lane order; a fault of any lane leaves every
queue as it was (R132, R190, R195). DEDUCED: notes/assumptions/68. -/
def Dev.submit (d : Dev) (i : Instr) (h : Hd) (r : VReg) (k : JobKind) (c : CardSrc) : Dev :=
  let off := fun (d : Dev) (t : Thread) =>
    match c with
    | .group _ => 0
    | .stash base o => ((d.env t).rowAddr false base o).1
  d.lanesOut i h false (fun d t => off d t :: (d.cardOf t c).1.map BitVec.toNat) (fun d t => d.cardFlt t c) (fun act d =>
    let core := ((act.head?).map Thread.core).getD 0
    let fars := match c with
      | .group _ => []
      | .stash .. => act.filterMap (fun t => (d.cardFar t (off d t)).map (fun f => (t, f)))
    d.awaitFars core act fars [] false 0 (fun d =>
      let res := act.foldl (fun (x : Dev × List (Thread × Flt)) t =>
        match x.1.submitLane t k r (d.cardOf t c) with
        | .error f => (x.1, x.2 ++ [(t, f)])
        | .ok (hd, p, d') => (d'.deliver t.uid (fun y => y.wrs r [lo32 p, hi32 p, hd, 0] false), x.2)) (d, [])
      match pickFail res.2 with
      | some f => d.failGroup h act f
      | none => d.afterRelease act (fun d => d.logRoom act (fun _ => (res.1.takeFars core (act.map Thread.uid)).done h))))

/-- XCOPY (R188, R195). -/
def execXcopy (h : Hd) (r : VReg) (c : CardSrc) (s : State) : Host.Outcome State Fault Refusal :=
  onDev s (fun d => d.submit (.xcopy h r c) h r .copy c)

/-- CRS (R199 to R201). -/
def execCrs (h : Hd) (r : VReg) (c : CardSrc) (s : State) : Host.Outcome State Fault Refusal :=
  onDev s (fun d => d.submit (.crs h r c) h r (.crs false) c)

/-- CRS.NORM (R199, R203). -/
def execCrsNorm (h : Hd) (r : VReg) (c : CardSrc) (s : State) : Host.Outcome State Fault Refusal :=
  onDev s (fun d => d.submit (.crsNorm h r c) h r (.crs true) c)

/-- CAG (R199, R201). -/
def execCag (h : Hd) (r : VReg) (c : CardSrc) (s : State) : Host.Outcome State Fault Refusal :=
  onDev s (fun d => d.submit (.cag h r c) h r .cag c)

/-- CAR (R199, R201). -/
def execCar (h : Hd) (r : VReg) (c : CardSrc) (s : State) : Host.Outcome State Fault Refusal :=
  onDev s (fun d => d.submit (.car h r c) h r .car c)

/-- CBC (R199, R201). -/
def execCbc (h : Hd) (r : VReg) (c : CardSrc) (s : State) : Host.Outcome State Fault Refusal :=
  onDev s (fun d => d.submit (.cbc h r c) h r .cbc c)

/-! ### Handles (R196 to R198) -/

/-- What a lane's handle operand holds: the promise, the handle, and whether they are poisoned (R194). -/
def Env.handle (e : Env) (a : Src) : W64 × W32 × Bool :=
  match a with
  | .v r =>
    let p := e.read 0 (.v r true)
    let h := e.read 0 (.v (r + 2) false)
    (BitVec.ofNat 64 p.1, BitVec.ofNat 32 h.1, p.2 || h.2)
  | .s r =>
    let p := e.read 0 (.s r true)
    let h := e.read 0 (.s (r + 1) false)
    (BitVec.ofNat 64 p.1, BitVec.ofNat 32 h.1, p.2 || h.2)

/-- The job of a handle in a die's queue, of a context. -/
def Dev.job? (d : Dev) (die : Nat) (h : W32) : Option Job := (d.die die).jobs.find? (fun j => j.handle == h)

/-- The state of a handle for a thread (R196, R197): none if it was not issued on the thread's die for its context; a job
that more than 4,096 others have followed out of the queue counts as completed. DEDUCED: notes/assumptions/55. -/
def Dev.jobState (d : Dev) (t : Thread) (h : W32) : Option JobState :=
  let k := dieOf t.core
  if h.toNat / 2 ^ 30 ≠ k then none
  else
    match (d.die k).jobs.find? (fun j => j.handle == h && j.ctx == t.ctx) with
    | some j => some j.state
    | none =>
      match (d.die k).retired.findIdx? (fun e => e.1 == h && e.2.1 == t.ctx) with
      | none => none
      | some i => if i < 4096 then ((d.die k).retired[i]?).map (fun e => e.2.2) else some .completed

/-- The job has not ended. -/
def JobState.live : JobState → Bool
  | .queued | .running => true
  | _ => false

/-- The register number of a handle operand and its form, as PROMISE_MISSED names them (R379). -/
def handleReg : Src → VReg × Bool
  | .v r => (r, false)
  | .s r => (BitVec.ofNat 9 r.toNat, true)

/-- The detail of PROMISE_MISSED (R379, group 6). -/
def promiseDetail (h : W32) (reg : VReg) (s : Bool) (st : JobState) : Detail :=
  detailOf h.toNat (reg.toNat + b2n s * 2 ^ 9) (st.num * 2 ^ 25)

/-- The checks of XWAIT (R196). -/
def Dev.xwaitFlt (d : Dev) (t : Thread) (a : Src) : Option Flt :=
  let (c, h, _) := (d.env t).handle a
  match d.jobState t h with
  | none => flt true 1 cJobCardInvalid (jobDetail h 0 0)
  | some st => flt (st.live && c ≤ d.cyc t.ctx) 2 cPromiseMissed (promiseDetail h (handleReg a).1 (handleReg a).2 st)

/-- XWAIT of a lane: it completes, or sleeps until the job ends or its promise passes. -/
def Dev.xwaitLane (d : Dev) (hd : Hd) (t : Thread) (p : PReg) (a : Src) : Dev :=
  let (c, h, q) := (d.env t).handle a
  match d.jobState t h with
  | some st =>
    if st.live then
      d.deliver t.uid (fun x => { x.hint hd.yh d.pcyc with
        wait := .job p h c (handleReg a).1 (handleReg a).2 q, since := d.pcyc })
    else
      (d.deliver t.uid (fun x => ((x.setPred p (if st = .completed then 0xFF else 0x0F) q).retire d.pcyc).hint hd.yh d.pcyc)).learns [t] (.job (dieOf t.core) h)
  | none => d

/-- XWAIT (R196). -/
def execXwait (h : Hd) (p : PReg) (a : Src) (s : State) : Host.Outcome State Fault Refusal :=
  onDev s (fun d => d.lanesOut (.xwait h p a) h false (fun d t => [((d.env t).handle a).2.1.toNat])
    (fun d t => d.xwaitFlt t a)
    (fun act d => (act.foldl (fun d t => d.xwaitLane h t p a) d).retireOff h act))

/-- What XQRY writes (R197), and the device after it: the new promise of an unfinished job is a free value. -/
def Dev.xqryWords (d : Dev) (t : Thread) (a : Src) : List W32 × Dev :=
  let (_, h, _) := (d.env t).handle a
  match d.jobState t h with
  | some st =>
    let (p, d1) := if st.live then d.cycInput t (d.cyc t.ctx + Config.promise d.ctr) else ((0 : W64), d)
    ([lo32 p, hi32 p, h, BitVec.ofNat 32 st.num], d1)
  | none => ([0, 0, h, 0], d)

/-- XQRY (R197). -/
def execXqry (h : Hd) (r : VReg) (a : Src) (s : State) : Host.Outcome State Fault Refusal :=
  onDev s (fun d => d.lanesOut (.xqry h r a) h false (fun d t => [((d.env t).handle a).2.1.toNat])
    (fun d t => flt (d.jobState t ((d.env t).handle a).2.1).isNone 1 cJobCardInvalid (jobDetail ((d.env t).handle a).2.1 0 0))
    (fun act d => d.logRoom act (fun d => (act.foldl (fun (d : Dev) t =>
      let y := d.xqryWords t a
      y.2.deliver t.uid (fun x => x.wrs r y.1 ((d.env t).handle a).2.2)) d).done h)))

/-- The job of a handle that XCANCEL can withdraw: of this die and context, no segment of it begun (R198). -/
def Dev.cancellable (d : Dev) (t : Thread) (h : W32) : Option Job :=
  (d.die (dieOf t.core)).jobs.find? (fun j => j.handle == h && j.ctx == t.ctx && j.state == .queued)

/-- XCANCEL of a lane. A handle of another context or die, or one that was never issued, is no job that it can withdraw. DESIGN CHOICE: notes/assumptions/135. -/
def Dev.xcancelLane (d : Dev) (t : Thread) (p : PReg) (a : Src) : Dev :=
  let (_, h, q) := (d.env t).handle a
  match d.cancellable t h with
  | some j =>
    (d.abandonJob (dieOf t.core) j .withdrawn cJobCancelled (jobDetail h 0 4)).deliver t.uid (fun x => x.setPred p 0xFF q)
  | none => d.deliver t.uid (fun x => x.setPred p 0x00 q)

/-- XCANCEL (R198). -/
def execXcancel (h : Hd) (p : PReg) (a : Src) (s : State) : Host.Outcome State Fault Refusal :=
  onDev s (fun d => d.lanesOut (.xcancel h p a) h false (fun d t => [((d.env t).handle a).2.1.toNat]) (fun _ _ => none)
    (fun act d => (act.foldl (fun d t => d.xcancelLane t p a) d).done h))

/-! ### FPUT and FGET (R208) -/

/-- The checks of FPUT and FGET (R208). A remote side in no window of another module, and a local side that is not local, are taken with
a remote address in the local window. DESIGN CHOICE: notes/assumptions/136. -/
def Dev.fxferFlt (d : Dev) (s : Sub) (die : Nat) : Option Flt :=
  let x := s.x
  let near := s.near.1
  let farBad := match windowOf (BitVec.ofNat 64 s.far.base) with | .fabric _ _ => false | _ => true
  let nearBad := near.stash.isNone && (match s.c.window (BitVec.ofNat 64 near.base) with | .local_ _ => false | _ => true)
  let rsv := bitsOf x 163 29 ≠ 0 ||
    (if s.kind = .put then bitsOf x 207 17 ≠ 0 || bitsOf x 248 8 ≠ 0 else bitsOf x 207 49 ≠ 0)
  let mis := [near.base, s.far.base, s.geo.rowb].find? (fun v => v % 4 ≠ 0)
  firstFlt
    [(match mis with | some v => flt true 1 cAlignment (addrDetail v s.t.lane 0 (if near.stash.isSome then 2 else 0) false none) | none => none),
     flt (s.geo.rowb = 0 || rsv || farBad || nearBad) 2 cJobCardInvalid Detail.zero,
     d.submitTail s die]

/-- FPUT and FGET execute at the completion of their rendezvous (R208). -/
def Dev.fxferRun (d : Dev) (h : Hd) (k : JobKind) (r a : SReg) (rank : Nat) (m : Meet) (act : List Thread) : Dev :=
  if act = [] then d.meetDone h m
  else
    let regs := (upTo 4).map (fun i => a + BitVec.ofNat 6 i)
    let ws := regs.map m.gang.sreg
    match regs.find? m.gang.spsn with
    | some q => d.meetFail m act (Meet.fail act cPoisonConsumed (Meet.poison act q.toNat 1))
    | none =>
      match (m.at rank).bind (fun t => d.subOf t k ws) with
      | none =>
        -- the issuing rank is empty: alignment is checked before it
        let mis := (geoOf k ws 0 0)
        if mis.src.base % 4 ≠ 0 || mis.dst.base % 4 ≠ 0 || mis.rowb % 4 ≠ 0 then
          d.meetFail m act (Meet.fail act cAlignment (addrDetail mis.src.base ((lanesOf act).headD 0) 0 0 false none))
        else d.meetFail m act (Meet.fail act cJobCardInvalid Detail.zero)
      | some s =>
        match d.fxferFlt s (dieOf m.core) with
        | some f =>
          if f.cause = cLeaseViolation then d.fail [s.t] { cause := f.cause, detail := f.detail, failed := [s.t.uid] }
          else d.meetFail m act (Meet.fail act f.cause f.detail)
        | none =>
          let (hd, p, d1) := d.enqueue s (m.parts.map Prod.snd) (dieOf m.core) (.s (r + 1))
          (d1.mapGang m.core m.idx (fun g => (g.setS r p false).setS (r + 1) (zext64 hd) false)).meetDone h m

/-- FPUT and FGET: a member that owes earlier accesses waits for them before it arrives (R105, R208). DEDUCED: notes/assumptions/56. DEDUCED: notes/assumptions/64. -/
def Dev.fxfer (d : Dev) (i : Instr) (h : Hd) (k : JobKind) (r a : SReg) (rank : BitVec 6) : Dev :=
  d.unless (primaries d.members) (fun t => (d.gangOf? t).isSome && d.owes t) .release (fun d =>
    d.gangWide i h (fun m act d => d.fxferRun h k r a rank.toNat m act))

/-- FPUT (R208). -/
def execFput (h : Hd) (r a : SReg) (rank : BitVec 6) (s : State) : Host.Outcome State Fault Refusal :=
  onDev s (fun d => d.fxfer (.fput h r a rank) h .put r a rank)

/-- FGET (R208). -/
def execFget (h : Hd) (r a : SReg) (rank : BitVec 6) (s : State) : Host.Outcome State Fault Refusal :=
  onDev s (fun d => d.fxfer (.fget h r a rank) h .get r a rank)

/-! ### FATOM and FSIG (R209, R210) -/

/-- FATOM (R209): performed here for an address of this module, else sent without waiting. DEDUCED: notes/assumptions/58. -/
def execFatom (h : Hd) (o : Ord) (op : FatomOp) (w : Bool) (m : MemRef) (b : VReg) (s : State) : Host.Outcome State Fault Refusal :=
  let x := fun (e : Env) => e.read 1 (.v b w)
  onDev s (fun d => d.memInstr (.fatom h o op w m b) h
    { sp := 0, mem := m, want := wantOf (if w then .b64 else .b32) true true, rel := isRel o, acq := isAcq o
      data := fun e => [(x e).1]
      fill := fun _ _ _ => none
      far := fun _ _ _ => none
      late := fun _ _ _ _ => noLate
      post := fun d t s =>
        match s with
        | .remote vm off =>
          some { vm := vm, off := off, len := if w then 8 else 4, posted := true, wr := true, ord := o
                 body := fun _ => .atom off w op (BitVec.ofNat 64 (x (d.env t)).1) (x (d.env t)).2 }
        | _ => none
      act := fun d t s =>
        match s with
        | .remote _ _ => d
        | s =>
          let n := if w then 8 else 4
          let old := d.readAt t s n
          let res := atomRmw (fatomOp op) (8 * n) (leOf old.1, old.2) (x (d.env t))
          let d1 := (d.sawAt true t s n).afterRead t s n
          let d2 := if isAcq o then (match s.pa? with | some pa => d1.takesBytes [.thread t.gangUid] pa n | none => d1) else d1
          match res.new with
          | some v => d2.writeAt (t.writer (isRel o) true) t s (leBytes n v) res.psn
          | none => d2 })

/-- The operands of FSIG: the endpoint, the count, and whether they are poisoned (R210). DEDUCED: notes/assumptions/59. -/
def Env.fsigOps (e : Env) (x : FsigSrc) : W64 × Nat × Bool :=
  match x with
  | .v a b =>
    let p := e.read 0 (.v a true)
    let n := e.read 1 (.v b false)
    (BitVec.ofNat 64 p.1, n.1, p.2)
  | .s a b =>
    let p := e.read 0 (.s a true)
    let n := e.read 1 (.s b true)
    (BitVec.ofNat 64 p.1, n.1, p.2)

/-- The register and kind of FSIG's endpoint. -/
def fsigReg : FsigSrc → Nat × Nat
  | .v a _ => (a.toNat, 0)
  | .s a _ => (a.toNat, 1)

/-- The checks of FSIG: a poisoned endpoint, then the member list and the channel's key (R26, R360, R376). -/
def Dev.fsigFlt (d : Dev) (t : Thread) (x : FsigSrc) : Option Flt :=
  let (e, _, p) := (d.env t).fsigOps x
  match d.ctx? t.ctx with
  | none => none
  | some c =>
    let vm := endpointVm e
    firstFlt
      [t.poisonFlt p (fsigReg x).1 (fsigReg x).2,
       flt (!(c.members.contains vm)) 3 cRemoteUnreachable (farDetail 0 vm 0 t.lane true),
       flt (c.unsealed vm) 3 cSealedChannel (detailOf vm 0 0)]

/-- FSIG of a lane whose endpoint lies on this module: its bytes arrive, or its thread takes ARRIVAL_COUNTER_BAD within
the skid bound (R207). -/
def Dev.fsigHere (d : Dev) (t : Thread) (e : W64) (n vm : Nat) : Dev :=
  let r := d.endpointArrive t.ctx e n false [.thread t.gangUid] vm 0 t.placeId
  if r.2 then r.1
  else r.1.imprecise (d.whoOf t) t.uid (t.retired + 1) cArrivalCounterBad (farDetail 0 vm 0 t.lane true) [t.lane]

/-- FSIG's packet. -/
def sigFar (e : W64) (n : Nat) : Far :=
  { vm := endpointVm e, off := 0, len := 0, posted := true, wr := true, ord := .rel, body := fun _ => .sig e n false }

/-- The place of a lane's FSIG at an object of this module (R443). -/
def Dev.fsigPlace (d : Dev) (t : Thread) (x : FsigSrc) : Option Nat :=
  let e := ((d.env t).fsigOps x).1
  if ((d.ctx? t.ctx).map Ctx.vm) = some (endpointVm e) && endpointNames e then (d.endpointObj? t.ctx e).map ObjLoc.place else none

/-- FSIG (R210). -/
def execFsig (h : Hd) (x : FsigSrc) (s : State) : Host.Outcome State Fault Refusal :=
  onDev s (fun d => d.lanesOut (.fsig h x) h false (fun d t => let o := (d.env t).fsigOps x; [o.1.toNat, o.2.1])
    (fun d t => d.fsigFlt t x)
    (fun act d =>
      let core := ((act.head?).map Thread.core).getD 0
      let ops := act.map (fun t => (t, (d.env t).fsigOps x, ((d.ctx? t.ctx).map Ctx.vm).getD 0))
      let here := ops.filter (fun o => endpointVm o.2.1.1 = o.2.2)
      let away := ops.filter (fun o => endpointVm o.2.1.1 ≠ o.2.2)
      d.afterRelease act (fun d =>
        d.inTurn act (fun t => d.fsigPlace t x) (fun d =>
          d.withOtt core act away.length (fun d =>
            -- each packet takes an entry of its own
            let d1 := away.foldl (fun (d : Dev) o => d.sendFars none [(o.1, sigFar o.2.1.1 o.2.1.2.1)]) d
            let d2 := d1.done h
            here.foldl (fun d o => d.fsigHere o.1 o.2.1.1 o.2.1.2.1 o.2.2) d2)))))

end Sys2Proof.Machine
end

