-- ==== Sys2Proof/Machine/Frames.lean ====
section
/-! DEFINITION. Frames: who owns them, where page tables lie, which are free, and writing page-table entries (spec/01 R28,
spec/15 R331 to R341, spec/16 R351, R357). -/

namespace Sys2Proof.Machine

/-! ### Owned frames (R335, R351) -/

/-- The 64 KiB frames of a physical range. DEDUCED: notes/assumptions/114. -/
def framesOf (pa n : Nat) : List Nat := (upTo ((n + 65535) / 65536)).map (· + pa / 65536)

/-- A frame is given to a context: it is zeroed, then tagged. DEDUCED: notes/assumptions/114. -/
def Dev.ownFrame (d : Dev) (slot f : Nat) : Dev :=
  if KV.get? d.owners f = some slot then d else { (d.zeroFrame f) with owners := KV.set d.owners f slot }

/-- A frame is taken back: it is zeroed, then its tag is cleared. DEDUCED: notes/assumptions/114. -/
def Dev.releaseFrame (d : Dev) (f : Nat) : Dev := { (d.zeroFrame f) with owners := KV.del d.owners f }

/-- Every frame that a context owns is taken back. DEDUCED: notes/assumptions/114. -/
def Dev.releaseFrames (d : Dev) (slot : Nat) : Dev :=
  ((d.owners.filter (fun e => e.2 == slot)).map Prod.fst).foldl (fun d f => d.releaseFrame f) d

/-- A frame of a range belongs to a context that the test accepts. -/
def Dev.ownedIn (d : Dev) (pa n : Nat) (p : Nat → Bool) : Bool := d.owners.any (fun o => meets pa n (o.1 * 65536) 65536 && p o.2)

/-! ### Page tables (R331 to R334) -/

/-- The tables below a table of a level, itself among them: address and size. -/
def tablesFrom (m : Memory) : Nat → Nat → List (Nat × Nat)
  | 0, _ => []
  | k + 1, table =>
    let (_, n) := levelShift k
    let cells := m.filter (fun c => table ≤ c.1 && c.1 < table + 8 * 2 ^ n)
    (table, 8 * 2 ^ n) :: ((cells.map (fun c => (c.1 - table) / 8)).eraseDups).flatMap (fun i =>
      let e := m.getLE (table + 8 * i) 8
      if !(bitOf e 0) || bitOf e 1 || nodeBad e k then [] else tablesFrom m k (bitsOf e 8 40 * 2 ^ 8))

/-- The page tables of a context. -/
def Dev.tablesOf (d : Dev) (c : Ctx) : List (Nat × Nat) := tablesFrom d.readMem 4 c.root

/-- The page tables of every context. -/
def Dev.tables (d : Dev) : List (Nat × Nat) := d.ctxs.flatMap (fun e => d.tablesOf e.2)

/-- The frames in which a table lies, as a physical range. -/
def frameSpan (t : Nat × Nat) : Nat × Nat := (t.1 / 65536 * 65536, (t.2 + 65535) / 65536 * 65536)

/-- A physical range touches a page-table frame. DEDUCED: notes/assumptions/115. -/
def Dev.touchesTable (d : Dev) (pa n : Nat) : Bool := d.tables.any (fun t => meets pa n (frameSpan t).1 (frameSpan t).2)

/-- The address of the entry for a virtual address at a level, where the tables above it exist. -/
def entryAt (m : Memory) (va level : Nat) : Nat → Nat → Option Nat
  | 0, _ => none
  | k + 1, table =>
    let (sh, n) := levelShift k
    let ea := table + 8 * bitsOf va sh n
    if k = level then some ea
    else
      let e := m.getLE ea 8
      if !(bitOf e 0) || bitOf e 1 || nodeBad e k then none else entryAt m va level k (bitsOf e 8 40 * 2 ^ 8)

/-- The bytes of a physical range include shadow storage (R28). DEDUCED: notes/assumptions/115. -/
def inShadow (pa n : Nat) : Bool :=
  inTier1 pa && (upTo ((n + 0x0FFFFFFF) / 0x10000000 + 1)).any (fun k => meets pa n ((pa / 0x10000000 + k) * 0x10000000 + 0xFC00000) 0x400000)

/-- Levante or the device writes a page-table entry: every copy of the old one is gone before (R338). -/
def Dev.setEntry (d : Dev) (ea e : Nat) : Dev :=
  { d with
    mem := d.mem.setLE ea 8 e
    caches := d.caches.drop ea 8
    psn := psnPut d.psn ea 8 false
    flips := d.flips.filter (fun f => f.1 ≠ ea / 16)
    lineFlips := d.lineFlips.filter (fun f => f.2.1 ≠ ea / 8) }

/-! ### Free frames -/

/-- Every physical range that holds data: pages and private memory of the contexts, image areas and images, owned frames, format
ranges. DESIGN CHOICE: notes/assumptions/150. -/
def Dev.dataSpans (d : Dev) : List (Nat × Nat) :=
  let m := d.readMem
  d.ctxs.flatMap (fun e =>
    (e.2.pages m).map (fun p => (p.pa, p.size)) ++
      e.2.privMap.map (fun x => (x.2 * 65536, 65536)) ++ (e.2.areas.filterMap id).map (fun pa => (pa, 256))) ++
    d.images.filterMap (fun x => x.at_.map (fun pa => (pa, x.len))) ++
    d.owners.map (fun o => (o.1 * 65536, 65536)) ++
    (upTo 64).flatMap (fun k =>
      match d.fmtRange k with
      | some r => [(r.vbase, r.vlen), (r.cbase, r.storeLen)]
      | none => [])

/-- Every physical range in use. DESIGN CHOICE: notes/assumptions/150. -/
def Dev.usedSpans (d : Dev) : List (Nat × Nat) := d.dataSpans ++ d.tables.map frameSpan

/-- Levante may put a page table at a range: it lies in tier 2, and its frame holds no data and no table of another context (R28,
R334). DEDUCED: notes/assumptions/115. -/
def Dev.tableFits (d : Dev) (slot : Option Nat) (pa n : Nat) : Bool :=
  let s := frameSpan (pa, n)
  pa % n = 0 && inTier2 pa && inTier2 (pa + n - 1) && d.dataSpans.all (fun u => !(meets s.1 s.2 u.1 u.2)) &&
    d.ctxs.all (fun e => some e.1 == slot || (d.tablesOf e.2).all (fun t => !(meets s.1 s.2 (frameSpan t).1 (frameSpan t).2)))

/-- A new page table holds no entry. -/
def Dev.zeroTable (d : Dev) (pa n : Nat) : Dev :=
  { d with
    mem := d.mem.zero pa n
    caches := d.caches.drop pa n
    psn := psnPut d.psn pa n false
    flips := d.flips.filter (fun f => !(meets (16 * f.1) 16 pa n))
    lineFlips := d.lineFlips.filter (fun f => !(meets (8 * f.2.1) 8 pa n)) }

/-- The least multiple of a size that is no less than an address. -/
def alignUp (a size : Nat) : Nat := (a + size - 1) / size * size

/-- A free, aligned range of a tier for Levante's use, of those that begin the tier or follow a range in use, outside some ranges
that it has chosen already. DESIGN CHOICE: notes/assumptions/150. -/
def Dev.freeSpan (d : Dev) (more : List (Nat × Nat)) (lo hi size : Nat) : Option Nat :=
  let used := more ++ d.usedSpans
  let ends := (lo :: used.map (fun u => u.1 + u.2)).map (fun a => alignUp a size)
  let free := (ends.filter (fun a => lo ≤ a && a + size ≤ hi && used.all (fun u => !(meets a size u.1 u.2)))).eraseDups
  free[Config.pick d.ctr % free.length]?

/-- A free 64 KiB frame of tier 2. DESIGN CHOICE: notes/assumptions/150. -/
def Dev.freeFrame (d : Dev) (more : List (Nat × Nat)) : Option Nat := (d.freeSpan more 0x10000000000 0x1C000000000 65536).map (· / 65536)

/-- A free, aligned range of the tier of an address; none in tier 1, where a page keeps its place (R341). -/
def Dev.freeLike (d : Dev) (more : List (Nat × Nat)) (pa size : Nat) : Option Nat :=
  if inTier2 pa then d.freeSpan more 0x10000000000 0x1C000000000 size
  else
    (d.cxl.filterMap (fun p =>
      if p = 0 then d.freeSpan more 0x100000000000 0x140000000000 size else d.freeSpan more 0x140000000000 0x180000000000 size)).head?

/-- The address of the entry for a virtual address at a level; tables that are missing on the way are made in free frames of
tier 2 (R334, R341). DESIGN CHOICE: notes/assumptions/150. -/
def Dev.reach (more : List (Nat × Nat)) (va level : Nat) : Nat → Nat → Dev → Option (Dev × Nat)
  | 0, _, _ => none
  | k + 1, table, d =>
    let (sh, n) := levelShift k
    let ea := table + 8 * bitsOf va sh n
    if k = level then some (d, ea)
    else
      let e := d.readMem.getLE ea 8
      if bitOf e 0 && !(bitOf e 1) && !(nodeBad e k) then Dev.reach more va level k (bitsOf e 8 40 * 2 ^ 8) d
      else
        match d.freeFrame more with
        | none => none
        | some f => Dev.reach more va level k (f * 65536) ((d.tick.zeroFrame f).setEntry ea (f * 65536 + 1))

/-! ### The private map (R340) -/

/-- A block of a thread's private memory gets a frame: zeroed, and in a confidential context tagged. None if no frame is free. DESIGN CHOICE: notes/assumptions/150. -/
def Dev.givePriv (d : Dev) (slot : Nat) (key : Nat × Nat × Nat) : Option Dev :=
  match d.ctx? slot, d.freeFrame [] with
  | some c, some f =>
    let d1 := if c.conf then d.ownFrame slot f else d.zeroFrame f
    some (d1.tick.mapCtx slot (fun c => { c with privMap := c.privMap ++ [(key, f)] }))
  | _, _ => none

/-- The 64 KiB blocks of a thread's private memory below a mark to which the private map gives no frame yet. -/
def Ctx.newBlocks (c : Ctx) (t : Thread) (mark : Nat) : List Nat :=
  (upTo ((mark + 65535) / 65536)).filter (fun k => !(c.privMap.any (fun e => e.1 == (t.lid, t.tid.toNat, k))))

/-- The private map holds a thread's memory up to a mark. -/
def Dev.growMap (d : Dev) (t : Thread) (mark : Nat) : Option Dev :=
  match d.ctx? t.ctx with
  | none => some d
  | some c => (c.newBlocks t mark).foldl (fun (s : Option Dev) k => s.bind (fun d => d.givePriv t.ctx (t.lid, t.tid.toNat, k))) (some d)

/-! ### The EPOCH of an entry (R336) -/

/-- Every granule of a page has the tag of the current epoch. DEDUCED: notes/assumptions/25. -/
def Ctx.pageCurrent (c : Ctx) (p : Page) : Bool :=
  (c.tags.filter (fun e => e.2 == c.regs.epoch && (match e.1 with | .granule g => p.pa ≤ 4096 * g && 4096 * g < p.pa + p.size | _ => false))).length =
    p.size / 4096

/-- The entries whose page is current and whose EPOCH is not: where they lie, and the epoch (R336). DEDUCED: notes/assumptions/25. -/
def Dev.epochOwed (d : Dev) : List (Nat × Nat) :=
  d.ctxs.flatMap (fun e =>
    if e.2.regs.epoch = 0 then []
    else
      ((e.2.pages d.readMem).filter (fun p => e.2.pageCurrent p)).filterMap (fun p =>
        (d.leaf? e.2 p.va).bind (fun l => if l.epoch = e.2.regs.epoch then none else some (l.at_, e.2.regs.epoch))))

/-- The device writes EPOCH into every entry whose page is current (R336). DEDUCED: notes/assumptions/25. -/
def Dev.syncEpochs (d : Dev) : Dev :=
  d.epochOwed.foldl (fun d x => d.setEntry x.1 (d.readMem.getLE x.1 8 % 2 ^ 48 + x.2 * 2 ^ 48)) d

end Sys2Proof.Machine
end

