-- ==== Sys2Proof/Machine/Lease.lean ====
section
/-! DEFINITION. Leases: the checks of a launch's ranges when its lease is acquired (spec/04 R88, R90, R91, spec/07 R180, spec/15
R333). -/

namespace Sys2Proof.Machine

/-- The detail of a rejection: the address for a cause of group 3, the partition for TDISP_UNLOCKED, the target for
MISALIGNED_PC (R379). -/
def rejectDetail (c : Cause) (addr : W64) (part : Nat) : Detail :=
  if c = cProtection then addrDetail addr.toNat 0 0 0 false none
  else if c = cTdispUnlocked then detailOf part 0 0
  else if c = cMisalignedPc then { Detail.zero with w0 := lo32 addr, w1 := hi32 addr }
  else Detail.zero

/-- A record is rejected: one error record with PC = ENTRY (R88). DEDUCED: notes/assumptions/106. -/
def Dev.reject (d : Dev) (slot : Nat) (entry : W64) (lid : Option Nat) (c : Cause) (addr : W64) (part : Nat) : Dev :=
  d.record { Rec.plain { Who.nobody (some slot) with pc := entry, lid := (lid.map (BitVec.ofNat 32)).getD (BitVec.allOnes 32) } c
    (rejectDetail c addr part) with sev := 3 }

/-- The leaves that a range reaches, in order of address; none at the first that is missing or malformed. -/
def Dev.leavesOf (d : Dev) (c : Ctx) : Nat → Nat → Nat → List (Option Leaf)
  | 0, _, _ => []
  | fuel + 1, a, e =>
    if e ≤ a then []
    else
      match d.leaf? c a with
      | none => [none]
      | some l =>
        let size := 2 ^ (levelShift l.level).1
        some l :: Dev.leavesOf d c fuel ((a / size + 1) * size) e

/-- The leaves of [a, a + n). -/
def Dev.leavesIn (d : Dev) (c : Ctx) (a n : Nat) : List (Option Leaf) := Dev.leavesOf d c (n / 65536 + 2) a (a + n)

/-- A leased range fails R333: a page is missing, W or X is missing, or another context owns it. -/
def Dev.rangeFails (d : Dev) (slot : Nat) (c : Ctx) (a n : Nat) (wr x : Bool) : Bool :=
  (d.leavesIn c a n).any (fun o =>
    match o with
    | none => true
    | some l => (wr && !l.w) || (x && !l.x) || (l.conf && l.owner ≠ slot))

/-- The column of a range that lies wholly in tier-1 pages of one logical core (R91). -/
def Dev.columnIn (d : Dev) (c : Ctx) (a n : Nat) : Option Nat :=
  let ls := d.leavesIn c a n
  let col := (d.pa? c a).map columnOf
  if ls.all (fun o =>
      match o with
      | some l => inTier1 l.pa && some (columnOf l.pa) = col && some (columnOf (l.pa + 2 ^ (levelShift l.level).1 - 1 - l.pa % 2 ^ (levelShift l.level).1)) = col
      | none => false) then col
  else none

/-- A ROW range fails R91: no single column, another column than an earlier one, an unbound one, or another partition's. -/
def Dev.rowFails (d : Dev) (c : Ctx) (first : Option Nat) (r : Range) : Bool :=
  match d.columnIn c r.base.toNat r.len with
  | none => true
  | some n => (match first with | some k => k ≠ n | none => false) || d.physOf n = 0x3FF || d.partOf n ≠ c.part

/-- The first range of a launch that fails, with its cause and base (R88, R333): its declared ranges in order, then the code
and the read-only data. DEDUCED: notes/assumptions/106. DESIGN CHOICE: notes/assumptions/148. -/
def Dev.leaseFlt (d : Dev) (slot : Nat) (c : Ctx) (l : Launch) : Option (Cause × W64) :=
  let first := (l.ranges.find? (fun r => r.row)).bind (fun r => d.columnIn c r.base.toNat r.len)
  match l.ranges.findSome? (fun r =>
      if d.rangeFails slot c r.base.toNat r.len r.wr false then some (cProtection, r.base)
      else if r.row && d.rowFails c first r then some (cRowNotLocal, r.base)
      else none) with
  | some x => some x
  | none =>
    if d.rangeFails slot c c.code.1 c.code.2 false true then some (cProtection, BitVec.ofNat 64 c.code.1)
    else if d.rangeFails slot c c.ro.1 c.ro.2 false false then some (cProtection, BitVec.ofNat 64 c.ro.1)
    else none

/-- Every page that a launch's lease reaches is resident. -/
def Dev.allResident (d : Dev) (c : Ctx) (l : Launch) : Bool :=
  (l.ranges.map (fun r => (r.base.toNat, r.len)) ++ [c.code, c.ro]).all (fun r =>
    (d.leavesIn c r.1 r.2).all (fun o => (o.map Leaf.p).getD false))

/-- A launch whose range fails while its lease is acquired is rejected (R88). -/
def Dev.leaseCheck (d : Dev) (slot : Nat) (c : Ctx) (l : Launch) : Dev × Bool :=
  match d.leaseFlt slot c l with
  | none => (d, true)
  | some (cause, a) =>
    ((d.reject slot l.entry (some l.lid) cause a c.part).mapLaunch slot l.lid (fun l => { l with state := .ended }), false)

/-- The columns in which the ROW ranges of a launch lie. -/
def Dev.rowColumns (d : Dev) (c : Ctx) (l : Launch) : List Nat := (l.ranges.filter (fun r => r.row)).filterMap (fun r => d.columnIn c r.base.toNat r.len)

/-- Another context holds a ROW lease on a column of a launch's ROW ranges: the launch waits in the leasing state (R180). -/
def Dev.rowBlocked (d : Dev) (slot : Nat) (c : Ctx) (l : Launch) : Bool :=
  (d.rowColumns c l).any (fun n =>
    d.launches.any (fun x => x.ctx ≠ slot && x.state.holds && ((d.ctx? x.ctx).map (fun y => (d.rowColumns y x).contains n)).getD false))

end Sys2Proof.Machine
end

