-- ==== Sys2Proof/Machine/Image.lean ====
section
/-! DEFINITION. The parts of snapshot images: the units' bytes and ids, the header and the unit table, how a part is sealed, and
reading one again (spec/20 R418, R423, R430 to R432, R439, spec/16 R358). -/

namespace Sys2Proof.Machine

/-! ### The bytes of a unit (R418) -/

/-- The number of a chunk's threads on a lane (R89). -/
def laneCount (prot : Bool) (cnt lane : Nat) : Nat := if prot then (cnt + 31 - lane / 2) / 32 else (cnt + 63 - lane) / 64

/-- The lanes that threads of a chunk use, each with the number of its threads there (R89). -/
def chunkLanes (prot : Bool) (cnt : Nat) : List (Nat × Nat) :=
  (upTo 64).filterMap (fun lane => if laneCount prot cnt lane = 0 then none else some (lane, laneCount prot cnt lane))

/-- A thread belongs to a chunk. -/
def Chunk.has (c : Chunk) (t : Thread) : Bool := t.lid == c.lid && t.chunk == c.idx

/-- The registers that a chunk holds on a lane, those of a thread that has ended as zeros. -/
def laneFile (ts : List Thread) (c : Chunk) (lane : Nat) : List W32 :=
  (upTo (laneCount c.prot c.cnt lane)).flatMap (fun k =>
    ((ts.find? (fun t => c.has t && t.lane == lane && t.slot == k)).map Thread.regs).getD (List.replicate c.regsN 0))

/-- The bytes of some words, little-endian, filled up with zeros to a unit. -/
def wordBytes (ws : List W32) : List Byte :=
  let bs := ws.flatMap (fun w => leBytes 4 w.toNat)
  bs ++ List.replicate (4096 - bs.length) 0

/-- The bytes of a unit at the record point. -/
def unitBytes (m : Memory) (x : CtxImage) : UnitId → List Byte
  | .granule n => m.getBytes (4096 * n) 4096
  | .priv uid k => ((x.threads.find? (fun t => t.uid == uid)).map (fun t => t.priv.getBytes (4096 * k) 4096)).getD (List.replicate 4096 0)
  | .stash o b => ((x.chunks.find? (fun c => c.order == o)).map (fun c => c.stash.getBytes (4096 * b) 4096)).getD (List.replicate 4096 0)
  | .regs o lane k =>
    ((x.chunks.find? (fun c => c.order == o)).map (fun c => wordBytes (((laneFile x.threads c lane).drop (1024 * k)).take 1024))).getD (List.replicate 4096 0)
  | .tile core k =>
    (((x.cores.find? (fun y => y.core == core)).bind (fun y => y.tiles.find? (fun t => t.1 == k))).map (fun t => wordBytes t.2.data)).getD
      (List.replicate 4096 0)

/-- KIND of a unit (R418). -/
def unitKind : UnitId → Nat
  | .granule _ | .priv .. => 0
  | .stash .. => 1
  | .regs .. => 2
  | .tile .. => 3

/-- The place of a chunk in the image. -/
def CtxImage.chunkNo (x : CtxImage) (o : Nat) : Nat := (x.chunks.findIdx? (fun c => c.order == o)).getD 0

/-- ID of a unit (R432): a granule of memory has the lowest virtual address that maps it; the private granules are counted by thread.
DESIGN CHOICE: notes/assumptions/95. DESIGN CHOICE: notes/assumptions/95. -/
def unitNo (ps : List Page) (x : CtxImage) : UnitId → Nat
  | .granule n => ((minBy id ((ps.filter (fun p => p.pa ≤ 4096 * n && 4096 * n < p.pa + p.size)).map (fun p => (p.va + 4096 * n - p.pa) / 4096))).getD 0)
  | .priv uid k => 2 ^ 63 + (x.threads.findIdx? (fun t => t.uid == uid)).getD 0 * 4096 + k
  | .stash o b => x.chunkNo o + b * 2 ^ 16
  | .regs o lane k => x.chunkNo o + lane * 2 ^ 16 + k * 2 ^ 22
  | .tile core k => ((x.chunks.find? (fun c => c.core == core)).map Chunk.vc).getD core + k * 2 ^ 9

/-- A context section without the bytes that travel as units (R423). -/
def CtxImage.blank (x : CtxImage) : CtxImage :=
  { x with
    threads := x.threads.map (fun t => { t with regs := t.regs.map (fun _ => 0), priv := [] })
    chunks := x.chunks.map (fun c => { c with stash := [] })
    cores := x.cores.map (fun y => { y with tiles := y.tiles.map (fun t => (t.1, { t.2 with data := [] })) }) }

/-! ### Building a part (R430 to R432) -/

/-- Bytes that the spec does not lay out, of a length that it does not give: a section of a part. DESIGN CHOICE: notes/assumptions/95. -/
def sectionBytes (n k : Nat) : List Byte :=
  (upTo (Config.sectionLen (4 * n + k))).map (fun j => (Config.random ((4 * n + k) * 2 ^ 64 + j)).extractLsb' 0 8)

/-- Such a section as it stands in a part, with its tag after it: the context section, the channel log, or the re-run log (R430). DESIGN CHOICE: notes/assumptions/95. -/
def sealedSection (key : BitVec 256) (n k : Nat) : List Byte :=
  let x := gcmSeal key (0xFFFF0003 + k) 0 (sectionBytes n k)
  x.1 ++ x.2

/-- The least multiple of 4,096 that is no less. -/
def align4K (n : Nat) : Nat := alignUp n 4096

/-- Where the parts of an image lie, from its number of members and units, the units with data, and the lengths of the sections: the
unit table, the units' data, the context section, the channel log, the re-run log, the end. DESIGN CHOICE: notes/assumptions/95. -/
def imagePlan (members units data ctx chan rerun : Nat) : List Nat :=
  let table := alignUp (256 + 2 * members) 32
  let first := align4K (table + 32 * units)
  let sec := first + 4096 * data
  [table, first, sec, sec + ctx, sec + ctx + chan, sec + ctx + chan + rerun]

/-- What a header says beside its keys and tags. -/
structure Head where
  epoch   : Nat
  ctxid   : Nat
  vm      : Nat
  members : Nat
  rerun   : Bool
  cyc     : Nat
  len     : Nat
  offCtx  : Nat
  offUnits : Nat
  units   : Nat
  offChan : Nat
  offRerun : Nat
  nchan   : Nat

/-- The first 88 bytes of a header (R431): the member list follows the header. -/
def Head.bytes (h : Head) : List Byte :=
  leBytes 88 (packFields
    [(0, 32, 0x4D495853), (32, 16, 1), (48, 16, h.epoch), (64, 16, h.ctxid), (80, 12, h.vm), (96, 12, h.members - 1), (112, 1, h.epoch % 2),
     (114, 1, b2n h.rerun), (128, 64, h.cyc), (192, 64, h.len), (256, 64, h.offCtx), (320, 64, h.offUnits), (384, 64, h.units),
     (448, 64, h.offChan), (512, 64, h.offRerun), (576, 64, 256), (640, 32, h.nchan)])

/-- The measurement of blocks 0 to 2 that a header holds (R348, R431). -/
def imageMeas : List Byte := sha384 (Config.measure 0 ++ Config.measure 1 ++ Config.measure 2)

/-- A header: the fields, the image key wrapped under the snapshot key, the measurement, and the tag over all of it (R354, R430,
R431). -/
def headerBytes (h : Head) (snapKey key : BitVec 256) (wctr : Nat) : List Byte :=
  let w := gcmSeal snapKey 0xFFFF0000 wctr (beBytes 32 key.toNat)
  let b := h.bytes ++ w.1 ++ w.2 ++ leBytes 8 wctr ++ imageMeas ++ List.replicate 48 0
  b ++ (sealIv key (gcmIv 0xFFFF0001 0) b []).2

/-- A unit of a part: its kind, id and bytes. -/
structure UnitPart where
  kind : Nat
  no   : Nat
  data : List Byte

/-- A unit holds zero. -/
def UnitPart.zero (u : UnitPart) : Bool := u.data.all (· == 0)

/-- The table entry of unit i, whose data stand at an offset, and its sealed data; a unit of zeros stores none (R430, R432). -/
def UnitPart.sealed (u : UnitPart) (key : BitVec 256) (i off : Nat) : List Byte × List Byte :=
  let r := gcmSeal key 0xFFFF0002 i (if u.zero then [] else u.data)
  (leBytes 16 (u.kind + b2n u.zero * 4 + (if u.zero then 0 else off) + u.no * 2 ^ 64) ++ r.2, r.1)

/-- The unit table and the units' data, from an offset on. -/
def sealUnits (key : BitVec 256) : Nat → Nat → List UnitPart → List Byte × List Byte
  | _, _, [] => ([], [])
  | i, off, u :: us =>
    let a := u.sealed key i off
    let b := sealUnits key (i + 1) (if u.zero then off else off + 4096) us
    (a.1 ++ b.1, a.2 ++ b.2)

/-- The mapped pages of a context by its tables in a memory. -/
def Ctx.leavesAt (c : Ctx) (m : Memory) : List LeafImage :=
  (c.pages m).filterMap (fun p => (walkFrom m p.va 4 c.root).map (fun l => { va := p.va, entry := l.entry, level := l.level, pa := l.pa }))

/-- The part of a snapshot on this module, sealed under a fresh image key (R358, R430). `n` is the device's counter. DESIGN CHOICE: notes/assumptions/95. -/
def Ctx.imageOf (c : Ctx) (s : Snap) (n : Nat) (at_ : Option Nat) : Option Image :=
  match s.section_, c.snapKey with
  | some x, some sk =>
    let key := Config.key n
    let ps := c.pages s.mem
    let us := s.units.map (fun u => ({ kind := unitKind u, no := unitNo ps x u, data := unitBytes s.mem x u } : UnitPart))
    let rerun := c.rlog ≠ []
    let ctx := sealedSection key n 0
    let chan := sealedSection key n 1
    let rr := if rerun then sealedSection key n 2 else []
    let plan := imagePlan c.members.length us.length (us.filter (fun u => !u.zero)).length ctx.length chan.length rr.length
    let off := fun k => plan[k]?.getD 0
    let body := sealUnits key 0 (off 1) us
    let head : Head :=
      { epoch := s.epoch, ctxid := c.ctxid.toNat, vm := c.vm, members := c.members.length, rerun := rerun, cyc := x.regs.cyc.toNat, len := off 5,
        offCtx := off 2, offUnits := off 0, units := us.length, offChan := off 3, offRerun := if rerun then off 4 else 0, nchan := s.log.length }
    let bytes := Memory.setBytes (Memory.setBytes (Memory.setBytes [] 0
      (headerBytes head sk key (Config.random n).toNat ++ c.members.flatMap (leBytes 2))) (off 0) body.1) (off 1) (body.2 ++ ctx ++ chan ++ rr)
    some
      { epoch := s.epoch, ctxid := c.ctxid.toNat, vm := c.vm, members := c.members, save := false, rerun := rerun, noResume := false,
        section_ := x.blank, leaves := c.leavesAt s.mem, vcmap := c.vcmap, code := c.code, ro := c.ro
        psn := (c.pages s.mem).flatMap (fun p => (s.psn.filter (fun w => p.pa ≤ 8 * w && 8 * w < p.pa + p.size)).map (fun w => (8 * w - p.pa + p.va) / 8))
        log := s.log, rlog := c.rlog, bytes := bytes, len := off 5, at_ := at_ }
  | _, _ => none

/-! ### Reading a part (R439, R440) -/

/-- A header that no part could have (R431): MAGIC, VERSION, a reserved bit, SAVE or NORESUME. -/
def headerBad (x : Nat) : Bool :=
  bitsOf x 0 32 ≠ 0x4D495853 || bitsOf x 32 16 ≠ 1 || bitsOf x 92 4 ≠ 0 || bitsOf x 108 4 ≠ 0 || bitsOf x 116 12 ≠ 0 ||
    bitsOf x 672 32 ≠ 0 || bitsOf x 1536 384 ≠ 0 || bitOf x 113 || bitOf x 115

/-- The image key of a header, if its wrap opens under a snapshot key (R358). -/
def wrappedKey (hdr : List Byte) (snapKey : BitVec 256) : Option (BitVec 256) :=
  (gcmOpen snapKey 0xFFFF0000 (leOf ((hdr.drop 136).take 8)) ((hdr.drop 88).take 32) ((hdr.drop 120).take 16)).map (fun b => BitVec.ofNat 256 (beOf b))

/-- HTAG of a header holds (R430). -/
def headerTagOk (hdr : List Byte) (key : BitVec 256) : Bool :=
  (openIv key (gcmIv 0xFFFF0001 0) (hdr.take 240) [] ((hdr.drop 240).take 16)).isSome

/-- Unit i of a part, if its tag holds. -/
def readUnit (get : Nat → Nat → List Byte) (table : Nat) (key : BitVec 256) (i : Nat) : Option UnitPart :=
  let e := get (table + 32 * i) 32
  let x := leOf (e.take 16)
  let zero := bitOf x 2
  (gcmOpen key 0xFFFF0002 i (if zero then [] else get (x / 4096 % 2 ^ 52 * 4096) 4096) (e.drop 16)).map (fun b =>
    { kind := bitsOf x 0 2, no := x / 2 ^ 64, data := if zero then List.replicate 4096 0 else b })

/-- The units of a part, if every tag holds. -/
def readUnits (get : Nat → Nat → List Byte) (table n : Nat) (key : BitVec 256) : Option (List UnitPart) :=
  (upTo n).foldl (fun s i => s.bind (fun l => (readUnit get table key i).map (fun u => l ++ [u]))) (some [])

/-- A part that has been checked: the image and its opened units. -/
structure Loaded where
  img   : Image
  units : List UnitPart

/-- Checks a part (R439): its header; the key it wraps; its tag; then, of a part that this module has made, its sections and units.
`get` reads its bytes by offset. DEDUCED: notes/assumptions/96. DESIGN CHOICE: notes/assumptions/153. -/
def checkPart (images : List Image) (snapKey : Option (BitVec 256)) (get : Nat → Nat → List Byte) : Except Cause Loaded :=
  let hdr := get 0 256
  if headerBad (leOf hdr) then .error cRestoreMismatch
  else
    match snapKey.bind (wrappedKey hdr) with
    | none => .error cSnapshotKey
    | some key =>
      if !(headerTagOk hdr key) then .error cRestoreMismatch
      else
        match images.find? (fun x => x.bytes.getBytes 0 256 == hdr) with
        | none => .error cRestoreMismatch
        | some x =>
          let h := leOf hdr
          let same := fun (a n : Nat) => get a n == x.bytes.getBytes a n
          if !(same 256 (2 * x.members.length) && same (bitsOf h 256 64) (x.len - bitsOf h 256 64)) then .error cRestoreMismatch
          else
            match readUnits get (bitsOf h 320 64) (bitsOf h 384 64) key with
            | none => .error cRestoreMismatch
            | some us => .ok { img := x, units := us }

/-- The words of a unit. -/
def unitWords (b : List Byte) : List W32 := (upTo 1024).map (fun k => BitVec.ofNat 32 (leOf ((b.drop (4 * k)).take 4)))

/-- A context section with the bytes of one unit in it (R440). -/
def CtxImage.fill (x : CtxImage) (u : UnitPart) : CtxImage :=
  match u.kind with
  | 0 => if bitOf u.no 63 then
      { x with threads := mapAt x.threads (bitsOf u.no 12 51) (fun t => { t with priv := t.priv.setBytes (4096 * (u.no % 4096)) u.data }) }
    else x
  | 1 => { x with chunks := mapAt x.chunks (bitsOf u.no 0 16) (fun c => { c with stash := c.stash.setBytes (4096 * bitsOf u.no 16 6) u.data }) }
  | 2 =>
    match x.chunks[bitsOf u.no 0 16]? with
    | none => x
    | some c =>
      let ws := unitWords u.data
      { x with threads := x.threads.map (fun t =>
          if c.has t && t.lane == bitsOf u.no 16 6 then
            { t with regs := ((upTo t.regs.length).zip t.regs).map (fun r =>
                let k := t.slot * c.regsN + r.1
                if k / 1024 = b2n (bitOf u.no 22) then ws[k % 1024]?.getD 0 else r.2) }
          else t) }
  | _ =>
    { x with cores := x.cores.map (fun y =>
        if (x.chunks.any (fun c => c.core == y.core && c.vc == bitsOf u.no 0 9)) then
          { y with tiles := y.tiles.map (fun t => if t.1 = bitsOf u.no 9 3 then (t.1, { t.2 with data := unitWords u.data }) else t) }
        else y) }

/-- The context section of a checked part, with the units that belong to it. -/
def Loaded.section_ (l : Loaded) : CtxImage := l.units.foldl CtxImage.fill l.img.section_

/-- The granules of memory of a checked part: virtual address and bytes. -/
def Loaded.granules (l : Loaded) : List (Nat × List Byte) :=
  (l.units.filter (fun u => u.kind = 0 && !(bitOf u.no 63))).map (fun u => (4096 * (u.no % 2 ^ 45), u.data))

end Sys2Proof.Machine
end

