-- ==== Sys2Proof/Machine/Jobs.lean ====
section
/-! DEFINITION. What the engines do with queued jobs: segments, GCM jobs, collectives, failures, missed promises (spec/08
R187 to R204, spec/16 R354, R355). -/

namespace Sys2Proof.Machine

/-! ### Bytes with their poison -/

/-- Bytes on their way, each with the poison of its word. -/
abbrev Buf := List (Byte × Bool)

/-- The bytes of a packet's payload, with the poison of its 64-bit words. -/
def bufOf (bs : List Byte) (psn : List Nat) : Buf := (upTo bs.length).zip bs |>.map (fun x => (x.2, psn.contains (x.1 / 8)))

/-- The poisoned 64-bit words of a payload. -/
def Buf.words (b : Buf) : List Nat := (upTo ((b.length + 7) / 8)).filter (fun w => ((b.drop (8 * w)).take 8).any Prod.snd)

/-- [off, n) cut where the destination meets a 256-byte boundary or the source a 4 KiB one: offsets and lengths (R205). -/
def piecesFrom (src dst : Nat) : Nat → Nat → Nat → List (Nat × Nat)
  | 0, _, _ => []
  | fuel + 1, off, n =>
    if n = 0 then []
    else
      let m := min n (min (256 - (dst + off) % 256) (4096 - (src + off) % 4096))
      (off, m) :: piecesFrom src dst fuel (off + m) (n - m)

/-- The pieces of a copy of n bytes. -/
def piecesOf (src dst n : Nat) : List (Nat × Nat) := piecesFrom src dst (n / 128 + 4) 0 n

/-- Where bytes of a side lie: in a chunk's stash, in this module's window, on another module, nowhere. -/
inductive Where where
  | stash (lid chunk off : Nat)
  | here (off : Nat)
  | away (vm off : Nat)
  | nowhere
  deriving DecidableEq, Repr

/-- Where an address of a side lies. -/
def Side.locate (s : Side) (c : Ctx) (a : Nat) : Where :=
  match s.stash with
  | some (lid, k) => .stash lid k (a % 2 ^ 32)
  | none =>
    match c.window (BitVec.ofNat 64 a) with
    | .local_ off => .here off
    | .fabric vm off => .away vm off
    | .bad => .nowhere

/-- A local page grants an engine's access (R192, R234, R335). DEDUCED: notes/assumptions/53. -/
def Dev.pageFor (d : Dev) (slot : Nat) (c : Ctx) (off n : Nat) (wr : Bool) : Option Nat :=
  match d.leaf? c off with
  | none => none
  | some l =>
    if !l.r || (wr && !l.w) || !(d.paOk l.pa) || !(d.ownerOk l slot) || (wr && d.touchesFmt l.pa n) then none else some l.pa

/-- Bytes of physical memory as some agents read them, each with the poison of its word. -/
def Dev.bufAs (d : Dev) (as : List Agent) (pa n : Nat) : Buf :=
  (maskedWords pa n).flatMap (fun x =>
    let b := d.readAs as (8 * x.1 + x.2.headD 0) x.2.length
    b.1.map (fun y => (y, b.2)))

/-- Reads a piece that lies here, for a job; none if it is refused. DEDUCED: notes/assumptions/53. -/
def Dev.pieceRead (d : Dev) (slot : Nat) (c : Ctx) (a : Agent) (w : Where) (n : Nat) : Option (Buf × Dev) :=
  match w with
  | .stash lid k off =>
    match d.chunk? slot lid k with
    | some ch =>
      if ch.stashLen < off + n || ch.mapped off n then none
      else some ((upTo n).map (fun i => (ch.stash.get (off + i), ch.stashPsn.contains ((off + i) / 8))), d)
    | none => none
  | .here off =>
    match d.pageFor slot c off n false with
    | some pa => some (d.bufAs [a] pa n, (d.sawAs [a] pa n).eccNote none true pa n)
    | none => none
  | _ => none

/-- The bytes of a buffer by aligned 64-bit word of their destination: offset, bytes, poison. -/
def wordParts (a : Nat) : Nat → Nat → Buf → List (Nat × List Byte × Bool)
  | 0, _, _ => []
  | fuel + 1, off, b =>
    if b = [] then []
    else
      let m := 8 - (a + off) % 8
      let x := b.take m
      (off, x.map Prod.fst, x.any Prod.snd) :: wordParts a fuel (off + m) (b.drop m)

/-- Writes bytes to memory word by word. -/
def Dev.writeBuf (d : Dev) (w : Writer) (pa : Nat) (b : Buf) : Dev :=
  ((wordParts pa (b.length + 1) 0 b).foldl (fun d x => d.writePhys w (pa + x.1) x.2.1 x.2.2) d).cacheOpens pa

/-- Writes a piece that lies here, for a job; none if it is refused. DEDUCED: notes/assumptions/53. -/
def Dev.pieceWrite (d : Dev) (slot : Nat) (c : Ctx) (a : Agent) (w : Where) (b : Buf) : Option Dev :=
  match w with
  | .stash lid k off =>
    match d.chunk? slot lid k with
    | some ch =>
      if ch.stashLen < off + b.length || ch.mapped off b.length then none
      else
        some (d.mapChunk slot lid k (fun ch =>
          (wordParts off (b.length + 1) 0 b).foldl (fun (ch : Chunk) x =>
            { ch with stash := ch.stash.setBytes (off + x.1) x.2.1, stashPsn := psnPut ch.stashPsn (off + x.1) x.2.1.length x.2.2 }) ch))
    | none => none
  | .here off =>
    match d.pageFor slot c off b.length true with
    | some pa => some (d.writeBuf (.plain [a]) pa b)
    | none => none
  | _ => none

/-! ### Segments (R191, R193) -/

/-- The geometry of a job's staging or copying: an open also stages its tag (R354). -/
def Job.geo (j : Job) : Geo :=
  let g := geoOf j.kind j.card j.origin.lid j.chunk
  if j.kind = .copy && cardCrypt (cardBits j.card) = 1 then { g with rowb := g.rowb + 16 } else g

/-- CRYPT of a job. -/
def Job.crypt (j : Job) : Nat := if j.kind = .copy then cardCrypt (cardBits j.card) else 0

/-- The segments of a row whose destination starts at `a`: offset and length (R191). -/
def rowSegs (a n : Nat) : List (Nat × Nat) :=
  (upTo ((a % 4096 + n + 4095) / 4096)).map (fun k =>
    let lo := 4096 * k - a % 4096
    (lo, min n (4096 * (k + 1) - a % 4096) - lo))

/-- The segments of a job: row, offset within it, length. -/
def Geo.segs (g : Geo) : List (Nat × Nat × Nat) :=
  ((upTo g.rows).map (fun i => (rowSegs (g.dst.row i) g.rowb).map (fun s => (i, s.1, s.2)))).flatten

/-- A segment has been begun. -/
def Job.begun (j : Job) (k : Nat) : Bool := j.done.contains k || j.pend.any (fun p => p.seg == k)

/-- The segments not begun yet. -/
def Job.todo (j : Job) : List Nat := (upTo j.geo.segs.length).filter (fun k => !(j.begun k))

/-- A seal whose plaintext is staged has its output to write (R354). -/
def Job.toEmit (j : Job) : Bool := j.crypt = 2 && !j.emitted && j.pend = [] && j.todo = []

/-- A job must wait for an earlier one (R193). -/
def Die.blocked (x : Die) (j : Job) : Bool :=
  (x.jobs.takeWhile (fun i => i.handle != j.handle)).any (fun i =>
    i.ctx == j.ctx && i.regions.any (fun r => j.regions.any (fun q => (r.wr || q.wr) && r.meets q)))

/-- What the next step of a collective writes: where in the result, how much, and the offset in each source; and whether
only one member supplies it, by position (R201, R204). -/
def Job.nextStep (j : Job) : Nat × Nat × Nat × Option Nat :=
  let x := cardBits j.card
  let b := blockLen x
  let p := j.progress
  match j.kind with
  | .cag => let i := p / b; (p, min 4096 (b * (i + 1) - p), p - b * i, some i)
  | .cbc => (p, min 4096 (b - p), p, some (bitsOf x 166 12))
  | _ => (p, min 4096 (b - p), p, none)

/-- The bytes of the result without the trailing sum. -/
def Job.resultLen (j : Job) : Nat :=
  let b := blockLen (cardBits j.card)
  if j.kind = .cag then j.members.length * b else b

/-- Another member's bytes of a step, if it has given them. DESIGN CHOICE: notes/assumptions/62. -/
def peerBytes (data : List (Nat × Buf)) (vm n : Nat) : Option Buf :=
  (data.find? (fun e => e.1 == vm && n ≤ e.2.length)).map (fun e => e.2.take n)

/-- The other members have given what the next step of a collective needs of them. -/
def Job.stepReady (j : Job) (vm : Nat) : Bool :=
  let (_, n, _, one) := j.nextStep
  let others := j.members.filter (fun v => v ≠ vm)
  if j.progress < j.resultLen then
    (others.filter (fun v => match one with | some i => j.members[i]? == some v | none => true)).all (fun v => (peerBytes j.inbox v n).isSome)
  else if j.kind = .crs true && j.progress = j.resultLen then others.all (fun v => j.inq.any (fun e => e.1 == v))
  else false

/-- The objects of this module where a job's bytes arrive. -/
def Dev.jobObjs (d : Dev) (j : Job) : List ObjLoc :=
  (j.loc?).toList ++ ((j.endpoint.bind (fun e =>
    if endpointNames e && ((d.ctx? j.ctx).map Ctx.vm) = some (endpointVm e) then d.endpointObj? j.ctx e else none)).toList)

/-- In a re-run a job waits for its CYC, and for the turn of its arrivals at its objects (R444). -/
def Dev.jobHeld (d : Dev) (j : Job) : Bool :=
  d.rerunHolds j || (d.jobObjs j).any (fun l => d.early j.ctx [(l.place, j.placeId)])

/-- A segment of a job, or a step of a collective, can be performed now. -/
def Dev.jobReady (d : Dev) (x : Die) (j : Job) : Bool :=
  d.ctxIssues j.ctx && j.failing.isNone && !(x.blocked j) && d.staging < stagingCap && !(d.jobHeld j) &&
    (if j.kind.coll then
      j.matched && !(j.pend.any Piece.get) && ((d.ctx? j.ctx).map (fun c => j.stepReady c.vm)).getD false
     else j.todo ≠ [] || j.toEmit)

/-- The job whose segment the die's engine grants next (R96). -/
def Dev.grantedJob (d : Dev) (k : Nat) : Option Job :=
  let x := d.die k
  grantOf Job.prio Job.passed (x.jobs.filter (d.jobReady x))

/-- Changes a job. -/
def Dev.mapJob (d : Dev) (k : Nat) (h : W32) (f : Job → Job) : Dev :=
  d.mapDie k (fun x => { x with jobs := x.jobs.map (fun j => if j.handle = h then f j else j) })

/-- A collective that fails for a cause of its own tells the other members of its list (R204). -/
def Dev.collNotice (d : Dev) (j : Job) (c : Cause) : Dev :=
  match d.ctx? j.ctx with
  | none => d
  | some x =>
    if j.kind.coll && c ≠ cCollectiveMemberLost && !(c = cJobCardInvalid) then
      (j.members.filter (fun v => v ≠ x.vm)).foldl (fun d v =>
        d.send j.ctx v .rlx (.collFailed j.members j.nth) (some j.origin) none j.origin.lane) d
    else d

/-- A job fails: nothing further of it starts (R192). -/
def Dev.failJob (d : Dev) (k : Nat) (h : W32) (c : Cause) (x : Detail) : Dev :=
  match d.job? k h with
  | none => d
  | some j =>
    if j.failing.isSome then d
    else (d.mapJob k h (fun j => { j with failing := some (c, x) })).collNotice j c

/-- A part of a segment is refused: the job fails, and the segment does not count. -/
def Dev.failSeg (d : Dev) (k : Nat) (h : W32) (seg : Nat) (c : Cause) (x : Detail) : Dev :=
  (d.failJob k h c x).mapJob k h (fun j => { j with bad := j.bad ++ [seg] })

/-- A local access of a job is refused (R192). -/
def Dev.refuseJob (d : Dev) (k : Nat) (h : W32) (seg a : Nat) : Dev :=
  d.failSeg k h seg cEngineFaultAddress (jobDetail h (BitVec.ofNat 64 a) 3)

/-- Bytes of a job are counted: at its local object, if it names one; an FPUT's arrive at its endpoint by themselves. DEDUCED: notes/assumptions/60. -/
def Dev.countBytes (d : Dev) (k : Nat) (h : W32) (n : Nat) : Dev :=
  match d.job? k h with
  | none => d
  | some j =>
    let d1 := d.mapJob k h (fun j => { j with counted := j.counted + n })
    match j.loc? with
    | some l =>
      if (d1.objChunk? l).isSome then
        (d1.places j.ctx [(l.place, j.placeId)]).byteArrive l n false [.job k h] (Who.ofOrigin j.ctx j.origin)
      else d1
    | none => d1

/-- A job that has nothing left to do ends (R191, R192). -/
def Dev.endJob (d : Dev) (k : Nat) (h : W32) : Dev :=
  match d.job? k h with
  | none => d
  | some j =>
    if j.pend ≠ [] then d
    else
      match j.failing with
      | some (c, x) => d.abandonJob k j .failed c x
      | none =>
        if j.kind.coll then (if j.counted = j.total then d.retireJob k j .completed else d)
        else if j.crypt ≠ 0 then
          if j.emitted then
            let d1 := d.countBytes k h (j.total - j.counted)
            match d1.job? k h with
            | some j => d1.retireJob k j .completed
            | none => d1
          else d
        else if j.todo = [] then d.retireJob k j .completed
        else d

/-- The parts of a segment that has none left at other modules: it is performed, and its bytes are counted (R191). -/
def Dev.segDone (d : Dev) (k : Nat) (h : W32) (seg : Nat) : Dev :=
  match d.job? k h with
  | none => d
  | some j =>
    if j.pend.any (fun p => p.seg == seg) || j.done.contains seg || j.kind.coll then d
    else
      let d1 := d.mapJob k h (fun j => { j with done := j.done ++ [seg] })
      if j.kind = .copy && j.crypt = 0 && !(j.bad.contains seg) then
        d1.countBytes k h (((j.geo.segs[seg]?).map (fun s => s.2.2)).getD 0)
      else d1

/-- Sends a piece to another module, as an FPUT with its endpoint or as a plain write. -/
def Dev.sendPiece (d : Dev) (k : Nat) (j : Job) (seg off vm roff : Nat) (b : Buf) : Dev :=
  let seq := ((d.ctx? j.ctx).map (fun c => (c.chan vm).sendSeq)).getD 0
  (d.send j.ctx vm .rlx (.put roff (b.map Prod.fst) (Buf.words b) (j.endpoint.getD 0)) (some j.origin) (some (k, j.handle)) j.origin.lane).mapJob k
    j.handle (fun j =>
      { j with pend := j.pend ++ [{ n := seq, get := false, vm := vm, seq := seq, roff := roff, seg := seg, off := off, len := b.length, data := none }] })

/-- A piece of output goes to the destination side at address `a`: written here, or sent. -/
def Dev.emit (d : Dev) (k : Nat) (h : W32) (seg off : Nat) (side : Side) (a : Nat) (b : Buf) : Dev :=
  match d.job? k h with
  | none => d
  | some j =>
    match d.ctx? j.ctx with
    | none => d
    | some c =>
      match side.locate c a with
      | .away vm roff =>
        if !(c.members.contains vm) then d.failSeg k h seg cRemoteUnreachable (farDetail 0 vm roff j.origin.lane true)
        else d.sendPiece k j seg off vm roff b
      | w =>
        match d.pieceWrite j.ctx c (.job k h) w b with
        | none => d.refuseJob k h seg a
        | some d1 =>
          -- an FPUT whose destination is this module makes its arrivals at the endpoint here (R208, R26)
          let d2 := if j.kind = .get || j.kind = .put || j.kind.coll then d1.countBytes k h b.length else d1
          match j.kind, j.endpoint with
          | .put, some e =>
            if endpointNames e then
              if endpointVm e = c.vm then
                let r := d2.endpointArrive j.ctx e b.length false [.job k h] c.vm 0 j.placeId
                if r.2 then r.1 else r.1.failSeg k h seg cArrivalCounterBad (farDetail 0 c.vm 0 j.origin.lane true)
              else d2.send j.ctx (endpointVm e) .rel (.sig e b.length false) (some j.origin) none j.origin.lane
            else d2
          | _, _ => d2

/-- A piece of a segment's source has been read: it is staged, or goes to the destination. -/
def Dev.landPiece (d : Dev) (k : Nat) (h : W32) (seg off : Nat) (b : Buf) : Dev :=
  match d.job? k h with
  | none => d
  | some j =>
    match j.geo.segs[seg]? with
    | none => d
    | some (i, o, _) =>
      if j.bad.contains seg then d
      else if j.crypt ≠ 0 then d.mapJob k h (fun j => { j with stage := j.stage ++ [(o + off, b)] })
      else d.emit k h seg off j.geo.dst ((j.geo.dst.row i + o + off) % j.geo.dst.space) b

/-- Requests a piece of source from another module. -/
def Dev.askPiece (d : Dev) (k : Nat) (j : Job) (seg off n vm roff : Nat) : Dev :=
  let (tag, d1) := d.newTag j.ctx
  let seq := ((d1.ctx? j.ctx).map (fun c => (c.chan vm).sendSeq)).getD 0
  (d1.send j.ctx vm .rlx (.getReq roff n tag) (some j.origin) (some (k, j.handle)) j.origin.lane).mapJob k j.handle (fun j =>
    { j with pend := j.pend ++ [{ n := tag, get := true, vm := vm, seq := seq, roff := roff, seg := seg, off := off, len := n, data := none }] })

/-- Reads a piece of source at address `a` of a side: its bytes if it lies here; else it is requested, or the job fails. -/
def Dev.fetchPiece (d : Dev) (k : Nat) (h : W32) (seg off n : Nat) (side : Side) (a : Nat) : Dev × Option Buf :=
  match d.job? k h with
  | none => (d, none)
  | some j =>
    match d.ctx? j.ctx with
    | none => (d, none)
    | some c =>
      match side.locate c a with
      | .away vm roff =>
        if !(c.members.contains vm) then (d.failSeg k h seg cRemoteUnreachable (farDetail 0 vm roff j.origin.lane false), none)
        else (d.askPiece k j seg off n vm roff, none)
      | w =>
        match d.pieceRead j.ctx c (.job k h) w n with
        | none => (d.refuseJob k h seg a, none)
        | some (b, d1) => (d1, some b)

/-- Performs one segment of a job: its source is read, then its destination written (R191). -/
def Dev.segment (d : Dev) (k : Nat) (j : Job) (seg : Nat) : Dev :=
  match j.geo.segs[seg]? with
  | none => d
  | some (i, o, n) =>
    let a := (j.geo.src.row i + o) % j.geo.src.space
    let ps := piecesOf a ((j.geo.dst.row i + o) % j.geo.dst.space) n
    let r := ps.foldl (fun (s : Dev × List (Nat × Buf)) p =>
      let x := s.1.fetchPiece k j.handle seg p.1 p.2 j.geo.src ((a + p.1) % j.geo.src.space)
      (x.1, match x.2 with | some b => s.2 ++ [(p.1, b)] | none => s.2))
      (d.mapJob k j.handle (fun j => { j with state := .running }), [])
    let asked := (((r.1.job? k j.handle).map Job.pend).getD []).any (fun p => p.seg == seg)
    if asked && j.kind ≠ .get then
      -- what was read here waits with what was asked for
      r.1.mapJob k j.handle (fun j =>
        { j with pend := j.pend ++ r.2.map (fun x => { n := 0, get := true, vm := 0x1000, seq := 0, roff := 0, seg := seg, off := x.1, len := x.2.length, data := some x.2 }) })
    else ((r.2.foldl (fun d x => d.landPiece k j.handle seg x.1 x.2) r.1).segDone k j.handle seg).endJob k j.handle

/-- The staged bytes of a job in order. -/
def Job.staged (j : Job) : Buf := ((sortBy (fun (x : Nat × Buf) => x.1) j.stage).map Prod.snd).flatten

/-- Writes a GCM job's output from its destination on, and takes note that it has (R354, R355). -/
def Dev.emitAll (d : Dev) (k : Nat) (j : Job) (b : Buf) : Dev :=
  let a := j.geo.dst.base
  let d1 := d.mapJob k j.handle (fun j => { j with emitted := true, stage := [] })
  (piecesOf 0 a b.length).foldl (fun d p =>
    if ((d.job? k j.handle).map (fun j => j.failing.isSome)).getD true then d
    else d.emit k j.handle j.geo.segs.length p.1 j.geo.dst ((a + p.1) % j.geo.dst.space) ((b.drop p.1).take p.2)) d1

/-- The key, STREAM and CTR of a GCM job (R354). -/
def Dev.gcmOf (d : Dev) (j : Job) : Option (BitVec 256 × Nat × Nat) :=
  let x := cardBits j.card
  match (d.ctx? j.ctx).bind (fun c => KV.get? c.keys (bitsOf x 276 5)) with
  | some key => some (key, bitsOf x 288 32, bitsOf x 320 64)
  | none => none

/-- The seal of a staged plaintext: ciphertext, then its tag; each byte keeps its poison (R354). -/
def Dev.sealOut (d : Dev) (j : Job) : Buf :=
  let b := j.staged
  match d.gcmOf j with
  | some (key, st, ctr) =>
    let r := gcmSeal key st ctr (b.map Prod.fst)
    r.1.zip (b.map Prod.snd) ++ r.2.map (fun x => (x, b.any Prod.snd))
  | none => []

/-- Takes the grant of a die: the classes passed over count it (R96). -/
def Dev.grantJob (d : Dev) (k : Nat) (j : Job) : Dev :=
  let x := d.die k
  let past := (passedBy Job.prio (x.jobs.filter (d.jobReady x)) j).map Job.handle
  d.mapDie k (fun x => { x with jobs := x.jobs.map (fun i => if past.contains i.handle then { i with passed := i.passed + 1 } else i) })

/-- JOB_FAIL: a job ends in failure, once its begun segments are done (R192). -/
def execJobFail (die handle : Nat) (c : Byte) (addr : W64) (s : State) : Host.Outcome State Fault Refusal :=
  let h := BitVec.ofNat 32 handle
  onDev s (fun d => (d.failJob die h c (jobDetail h addr 3)).endJob die h)

/-- GCM_OPEN_CHECK: the staged ciphertext is decrypted; its plaintext is written if the tag holds, else zeros (R355). -/
def Dev.openCheck (d : Dev) (k : Nat) (h : W32) : Dev :=
  match d.job? k h with
  | none => d
  | some j =>
    if j.crypt = 1 && j.todo = [] && j.pend = [] && !j.emitted && j.failing.isNone then
      let b := j.staged
      let n := b.length - 16
      let out := (d.gcmOf j).bind (fun g => gcmOpen g.1 g.2.1 g.2.2 ((b.take n).map Prod.fst) ((b.drop n).map Prod.fst))
      match out with
      | some plain => (d.emitAll k j (plain.zip (b.map Prod.snd))).endJob k h
      | none =>
        ((d.emitAll k j (List.replicate n (0, false))).failJob k h cGcmTagFail (gcmDetail (cardBits j.card))).endJob k h
    else d

/-- GCM_OPEN_CHECK (R355). -/
def execGcmOpenCheck (die handle : Nat) (s : State) : Host.Outcome State Fault Refusal :=
  onDev s (fun d => d.openCheck die (BitVec.ofNat 32 handle))

/-! ### Replies to a job's packets -/

/-- The die and the job that wait for a piece. -/
def Dev.pieceJob (d : Dev) (slot : Nat) (get : Bool) (vm n : Nat) : Option (Nat × Job × Piece) :=
  (upTo 4).findSome? (fun k => (d.die k).jobs.findSome? (fun j =>
    if j.ctx = slot then (j.pend.find? (fun p => p.get == get && p.vm == vm && p.n == n)).map (fun p => (k, j, p)) else none))

/-- A job's piece is no longer outstanding. -/
def Dev.dropPiece (d : Dev) (k : Nat) (h : W32) (p : Piece) : Dev :=
  d.mapJob k h (fun j => { j with pend := j.pend.filter (fun x => x ≠ p) })

/-- Data for a job has come: when the whole segment's has, or at once for an FGET, it goes on (R191, R208). -/
def Dev.jobData (d : Dev) (k : Nat) (j : Job) (p : Piece) (b : Buf) : Dev :=
  let h := j.handle
  if j.kind = .get then (((d.dropPiece k h p).landPiece k h p.seg p.off b).segDone k h p.seg).endJob k h
  else
    let d1 := d.mapJob k h (fun j => { j with pend := j.pend.map (fun x => if x = p then { x with data := some b } else x) })
    let ps := (((d1.job? k h).map Job.pend).getD []).filter (fun x => x.get && x.seg == p.seg)
    if ps.all (fun x => x.data.isSome) then
      let d2 := d1.mapJob k h (fun j => { j with pend := j.pend.filter (fun x => !(x.get && x.seg == p.seg)) })
      if j.kind.coll then
        let whole := ((sortBy Piece.off ps).map (fun x => x.data.getD [])).flatten
        (d2.mapJob k h (fun j => { j with stage := j.stage ++ [(p.seg, whole)] })).endJob k h
      else (((sortBy Piece.off ps).foldl (fun d x => d.landPiece k h x.seg x.off (x.data.getD [])) d2).segDone k h p.seg).endJob k h
    else d1

/-- A piece written at another module is performed there. -/
def Dev.jobAcked (d : Dev) (k : Nat) (j : Job) (p : Piece) : Dev :=
  let d1 := d.dropPiece k j.handle p
  let d2 := if j.kind = .put || j.kind = .get || j.kind.coll then d1.countBytes k j.handle p.len else d1
  (d2.segDone k j.handle p.seg).endJob k j.handle

/-- The detail of a piece that is refused or lost at another module (R379, groups 3 and 7). -/
def Piece.detail (p : Piece) (lane : Nat) (c : Cause) : Detail :=
  if causeGroup c = 3 then addrDetail (0xFF00000000000000 + p.vm * 2 ^ 44 + p.roff) lane 0 0 (!p.get) (some p.vm)
  else farDetail p.seq p.vm p.roff lane (!p.get)

/-- A piece is refused, or lost for good (R192, R211). -/
def Dev.jobRefused (d : Dev) (k : Nat) (j : Job) (p : Piece) (c : Cause) : Dev :=
  ((d.dropPiece k j.handle p).failSeg k j.handle p.seg c (p.detail j.origin.lane c)).endJob k j.handle

/-! ### Missed promises (R196) -/

/-- A sleeping XWAIT whose promise has passed with its job unfinished. DEDUCED: notes/assumptions/50. -/
def Dev.missed (d : Dev) (t : Thread) : Bool :=
  match t.wait with
  | .job _ h c _ _ _ => c ≤ d.cyc t.ctx && ((d.jobState t h).map JobState.live).getD false
  | _ => false

/-- PROMISE_MISSED: the threads of one XWAIT whose promise has passed take the trap (R196). DEDUCED: notes/assumptions/50. -/
def Dev.promiseMissed (d : Dev) (u : Nat) : Dev :=
  match d.thread? u with
  | none => d
  | some t =>
    if !(d.missed t) then d
    else
      match t.wait with
      | .job _ h _ reg s _ =>
        let st := (d.jobState t h).getD .queued
        let us := (d.threads.filter (fun x => x.ctx == t.ctx && x.core == t.core && x.pc == t.pc && d.missed x)).map Thread.uid
        let ts := d.threadsOf us
        d.trap ts { cause := cPromiseMissed, detail := promiseDetail h reg s st, failed := us }
      | _ => d

/-- PROMISE_MISSED (R196). -/
def execPromiseMissed (uid : Nat) (s : State) : Host.Outcome State Fault Refusal := onDev s (fun d => d.promiseMissed uid)

/-! ### Collectives (R199 to R204) -/

/-- What a card says to its matches (R200). -/
def Job.cardKey (j : Job) : CardKey :=
  let x := cardBits j.card
  { kind := (match j.kind with | .crs _ => 0 | .cag => 1 | .car => 2 | _ => 3), op := bitsOf x 164 2, ty := bitsOf x 160 4,
    cnt := bitsOf x 128 32, norm := j.kind == .crs true, root := bitsOf x 166 12 }

/-- The combine of a collective on binary32 or integer operands (R202). DEDUCED: notes/assumptions/63. -/
def collCombine (ty op : Nat) (a b : Nat) : Nat × FFlags :=
  let i := elemInt true 32
  if ty ≤ 2 then
    (match op with
     | 0 => faddOp a b
     | 1 => fpMinMax Fmt.f32 false a b
     | _ => fpMinMax Fmt.f32 true a b)
  else
    match op with
    | 0 => ((a + b) % 2 ^ 32, 0)
    | 1 => (if ty = 3 then (if i b < i a then b else a) else min a b, 0)
    | _ => (if ty = 3 then (if i a < i b then b else a) else max a b, 0)

/-- The format of a collective's 16-bit elements. -/
def collFmt (ty : Nat) : Fmt := if ty = 1 then Fmt.bf16 else Fmt.f16

/-- An element as its operand (R202): 16-bit elements are widened. -/
def collWide (ty x : Nat) : Nat := if ty = 1 || ty = 2 then (fpConv (collFmt ty) Fmt.f32 .rn x).1 else x

/-- The reduction of one element over the members in list order (R202). A NaN result is canonical. -/
def collReduce (ty op : Nat) (xs : List Nat) : Nat :=
  let y := (treeOf (collCombine ty op) 13 (xs.map (collWide ty))).1
  if ty = 1 || ty = 2 then (fpConv Fmt.f32 (collFmt ty) .rn y).1
  else if ty = 0 && (f32 y).isNan then Fmt.f32.canon
  else y

/-- The elements of some bytes. -/
def elemsOf (e : Nat) (b : Buf) : List (Nat × Bool) :=
  (upTo (b.length / e)).map (fun k => let x := (b.drop (e * k)).take e; (leOf (x.map Prod.fst), x.any Prod.snd))

/-- The bytes of an element. -/
def elemBuf (e : Nat) (x : Nat × Bool) : Buf := (leBytes e x.1).map (fun b => (b, x.2))

/-- The running sum of squares over some result elements (R203). -/
def sumSquares (ty : Nat) (q : Nat) (ys : List Nat) : Nat :=
  ys.foldl (fun q y => let w := f32 (collWide ty y); (fpFma Fmt.f32 w w (f32 q)).1) q

/-- A step's own source bytes: read here, or taken from staging; while they are asked of another module, none. -/
def Dev.ownBytes (d : Dev) (k : Nat) (j : Job) (off n : Nat) : Dev × Option Buf :=
  match j.stage.find? (fun s => s.1 == off) with
  | some s => (d, some s.2)
  | none =>
    if j.pend.any Piece.get then (d, none)
    else
      let a := j.geo.src.base + off
      let r := (piecesOf a a n).foldl (fun (s : Dev × List Buf) p =>
        let x := s.1.fetchPiece k j.handle off p.1 p.2 j.geo.src ((a + p.1) % 2 ^ 64)
        (x.1, match x.2 with | some b => s.2 ++ [b] | none => s.2)) (d, [])
      let b := r.2.flatten
      if b.length = n then (r.1, some b) else (r.1, none)

/-- Some result bytes of a collective are written and counted. -/
def Dev.writeResult (d : Dev) (k : Nat) (h : W32) (base off : Nat) (b : Buf) : Dev :=
  (piecesOf 0 (base + off) b.length).foldl (fun d p =>
    if ((d.job? k h).map (fun j => j.failing.isSome)).getD true then d
    else d.emit k h (off + p.1) p.1 { stash := none, base := base, stride := 0 } ((base + off + p.1) % 2 ^ 64) ((b.drop p.1).take p.2)) d

/-- The final step of CRS.NORM: the sums of all members reduce to the word behind the result, poisoned if one of them is (R203, R225). DEDUCED: notes/assumptions/63. -/
def Dev.normStep (d : Dev) (k : Nat) (j : Job) (vm : Nat) : Dev :=
  let xs := j.members.map (fun v => if v = vm then (j.q, j.qPsn) else ((j.inq.find? (fun e => e.1 == v)).map Prod.snd).getD (0, false))
  let q := (treeOf (collCombine 0 0) 13 (xs.map (fun x => x.1.toNat))).1
  let b := blockLen (cardBits j.card)
  ((d.mapJob k j.handle (fun j => { j with progress := b + 4, inq := [] })).writeResult k j.handle j.geo.dst.base (4 * ((b + 3) / 4))
    ((leBytes 4 q).map (fun x => (x, xs.any Prod.snd)))).endJob k j.handle

/-- One step that moves data. DEDUCED: notes/assumptions/61. -/
def Dev.dataStep (d : Dev) (k : Nat) (j : Job) (vm : Nat) : Dev :=
  let x := cardBits j.card
  let e := elemSize x
  let ty := bitsOf x 160 4
  let (p, n, off, one) := j.nextStep
  let pos := (j.members.findIdx? (fun v => v == vm)).getD 0
  let ownOff := match j.kind with | .crs _ => pos * blockLen x + off | _ => off
  let needOwn := match one with | some i => i == pos | none => true
  let r := if needOwn then d.ownBytes k j ownOff n else (d, some [])
  match r.2 with
  | none => r.1.endJob k j.handle
  | some own =>
    let of := fun (v : Nat) => if v = vm then own else (peerBytes j.inbox v n).getD []
    let out : Buf :=
      match one with
      | some i => of (j.members[i]?.getD vm)
      | none =>
        let cols := j.members.map (fun v => elemsOf e (of v))
        ((upTo (n / e)).map (fun i =>
          let xs := cols.map (fun col => col[i]?.getD (0, false))
          elemBuf e (collReduce ty (bitsOf x 164 2) (xs.map Prod.fst), xs.any Prod.snd))).flatten
    let norm := j.kind = .crs true
    let q := if norm then sumSquares ty j.q.toNat ((elemsOf e out).map Prod.fst) else j.q.toNat
    ((r.1.mapJob k j.handle (fun j =>
      { j with progress := p + n, q := BitVec.ofNat 32 q, qPsn := j.qPsn || (norm && out.any Prod.snd), stage := [], inbox := [] })).writeResult
        k j.handle j.geo.dst.base p out).endJob k j.handle

/-- A collective performs its next step, for which the other members have given what it needs. -/
def Dev.collGranted (d : Dev) (k : Nat) (j : Job) : Dev :=
  match d.ctx? j.ctx with
  | none => d
  | some c =>
    let d1 := d.mapJob k j.handle (fun j => { j with state := .running })
    if j.progress < j.resultLen then d1.dataStep k j c.vm else d1.normStep k j c.vm

/-- JOB_SEGMENT: the granted job performs a segment that the engine chooses, or writes the output of a seal. -/
def Dev.jobSegment (d0 : Dev) (k : Nat) (h : W32) : Dev :=
  match d0.grantedJob k with
  | none => d0
  | some j =>
    if j.handle ≠ h then d0
    else
      let d := (d0.grantJob k j).tick
      if j.kind.coll then d.collGranted k j
      else if j.toEmit then (d.emitAll k j (d.sealOut j)).endJob k h
      else
        match j.todo[Config.pick d.ctr % j.todo.length]? with
        | some seg => d.segment k j seg
        | none => d

/-- JOB_SEGMENT (R191). -/
def execJobSegment (die handle : Nat) (s : State) : Host.Outcome State Fault Refusal :=
  onDev s (fun d => d.jobSegment die (BitVec.ofNat 32 handle))

/-- A collective can be compared with its matches, and take what they give. -/
def Dev.collReady (d : Dev) (x : Die) (j : Job) : Bool :=
  j.kind.coll && d.ctxIssues j.ctx && j.failing.isNone && !(x.blocked j) && !(d.jobHeld j)

/-- What is given replaces what the same members gave before. -/
def newest {α : Type} (new old : List (Nat × α)) : List (Nat × α) := new ++ old.filter (fun e => !(new.any (fun f => f.1 == e.1)))

/-- COLLECTIVE_STEP: the first step compares the cards; for later ones the other members give up to 4 KiB each, or their sums, and the
step is performed when the engine grants it (R96, R200 to R204). DEDUCED: notes/assumptions/61. -/
def Dev.collStep (d : Dev) (k : Nat) (h : W32) (peers : List (Nat × CardKey)) (data : List (Nat × Buf)) (qs : List (Nat × W32 × Bool)) : Dev :=
  match d.job? k h with
  | none => d
  | some j =>
    match d.ctx? j.ctx with
    | none => d
    | some c =>
      if !(d.collReady (d.die k) j) then d
      else if !j.matched then
        let others := j.members.filter (fun v => v ≠ c.vm)
        if others.any (fun v => !(peers.any (fun e => e.1 == v))) then d
        else if others.any (fun v => peers.any (fun e => e.1 == v && e.2 != j.cardKey)) then
          (d.failJob k h cJobCardInvalid (jobDetail h 0 3)).endJob k h
        else d.mapJob k h (fun j => { j with matched := true, state := .running })
      else (d.mapJob k h (fun j => { j with inbox := newest data j.inbox, inq := newest qs j.inq })).jobSegment k h

/-- COLLECTIVE_STEP (R204). DESIGN CHOICE: notes/assumptions/62. -/
def execCollectiveStep (die handle : Nat) (peers : List (Nat × CardKey)) (data : List (Nat × Buf)) (qs : List (Nat × W32 × Bool))
    (s : State) : Host.Outcome State Fault Refusal :=
  onDev s (fun d => d.collStep die (BitVec.ofNat 32 handle) peers data qs)

/-- A step of a collective has failed: it may be repeated, or RETRY steps have been (R204). -/
def Dev.collAgain (d : Dev) (k : Nat) (j : Job) (again : Dev → Dev) : Dev :=
  if j.retries < bitsOf (cardBits j.card) 285 3 then again (d.mapJob k j.handle (fun j => { j with retries := j.retries + 1 }))
  else (d.failJob k j.handle cCollectiveRetryExhausted (jobDetail j.handle 0 3)).endJob k j.handle

/-- COLLECTIVE_STEP_RETRY: a failed step is repeated, up to RETRY times in all (R204). -/
def Dev.collRetry (d : Dev) (k : Nat) (h : W32) : Dev :=
  match d.job? k h with
  | none => d
  | some j => if j.kind.coll then d.collAgain k j (fun d => d) else d

/-- COLLECTIVE_STEP_RETRY (R204). -/
def execCollectiveStepRetry (die handle : Nat) (s : State) : Host.Outcome State Fault Refusal :=
  onDev s (fun d => d.collRetry die (BitVec.ofNat 32 handle))

/-- A packet of a job is lost for good: the job fails with the cause; a collective records it and repeats the step: what it read or
wrote at the other module, it reads or writes there again, in a new packet (R204, R211). -/
def Dev.pieceLost (d : Dev) (k : Nat) (j : Job) (p : Piece) (c : Cause) (body : PacketBody) : Dev :=
  if j.kind.coll then
    let d1 := (d.dropPiece k j.handle p).note (Who.ofOrigin j.ctx j.origin) c (p.detail j.origin.lane c)
    d1.collAgain k j (fun d =>
      let seq := ((d.ctx? j.ctx).map (fun c => (c.chan p.vm).sendSeq)).getD 0
      (d.send j.ctx p.vm .rlx body (some j.origin) (some (k, j.handle)) j.origin.lane).mapJob k j.handle (fun j =>
        { j with pend := j.pend ++ [{ p with seq := seq, n := if p.get then p.n else seq }] }))
  else d.jobRefused k j p c

/-- A collective fails because another member has failed or is lost (R204). -/
def Dev.memberLost (d : Dev) (k : Nat) (j : Job) : Dev :=
  (d.failJob k j.handle cCollectiveMemberLost (jobDetail j.handle 0 3)).endJob k j.handle

/-- COLLECTIVE_FAILURE_NOTICE: another member has failed or is lost (R204). -/
def execCollectiveFailureNotice (die handle : Nat) (s : State) : Host.Outcome State Fault Refusal :=
  onDev s (fun d =>
    match d.job? die (BitVec.ofNat 32 handle) with
    | none => d
    | some j => if j.kind.coll then d.memberLost die j else d)

/-- A member's notice that its collective has failed comes: the match fails here, also if it is only submitted later (R204). -/
def Dev.collFailedIn (d : Dev) (slot : Nat) (members : List Nat) (nth : Nat) : Dev :=
  match (upTo 4).findSome? (fun k => ((d.die k).jobs.find? (fun j => j.kind.coll && j.ctx == slot && j.members == members && j.nth == nth)).map (fun j => (k, j))) with
  | some (k, j) => d.memberLost k j
  | none =>
    d.mapCtx slot (fun c => if c.nextOn members ≤ nth then { c with lostColls := c.lostColls ++ [(members, nth)] } else c)

end Sys2Proof.Machine
end

