-- ==== Sys2Proof/Machine/Matrix.lean ====
section
/-! DEFINITION. Accepting matrix and sampled-product instructions: their descriptors, their checks, the queue (spec/11
R274 to R286, R290, R293, R298, spec/12 R305 to R313, R316). -/

namespace Sys2Proof

/-- The bytes of an element (R278). -/
def MTy.size : MTy → Nat
  | .i8 => 1
  | _ => 2
/-- The K positions of a sub-plane (R274). -/
def MTy.rowsOf : MTy → Nat
  | .i8 => 64
  | _ => 32
/-- The K positions of a plane. -/
def MTy.depth (t : MTy) : Nat := 8 * t.rowsOf
/-- The bytes of a converted element (R286). -/
def Cv.size : Cv → Nat
  | .f32 | .i32 => 4
  | _ => 2

end Sys2Proof

namespace Sys2Proof.Machine

/-! ### Resources (R274 to R276) -/

/-- A tile. -/
def Core.tile (c : Core) (t : Nat) : Tile := c.tiles[t]?.getD Tile.free
/-- Changes a tile. -/
def Core.mapTile (c : Core) (t : Nat) (f : Tile → Tile) : Core := { c with tiles := mapAt c.tiles t f }
/-- An element of a tile: its bits and its poison (R275). -/
def Tile.at (t : Tile) (i j : Nat) : Nat × Bool := ((t.data[32 * i + j]?.getD 0).toNat, t.psn.contains (32 * i + j))
/-- The elements for which `f` gives a value, by row and column, take it. -/
def Tile.put (t : Tile) (f : Nat → Nat → Option (Nat × Bool)) : Tile :=
  let new := (upTo 1024).map (fun k => f (k / 32) (k % 32))
  { t with
    data := (upTo 1024).map (fun k => match new[k]?.getD none with | some x => BitVec.ofNat 32 x.1 | none => t.data[k]?.getD 0)
    psn := (upTo 1024).filter (fun k => match new[k]?.getD none with | some x => x.2 | none => t.psn.contains k) }
/-- A plane store. -/
def Core.plane (c : Core) (k : Nat) : Plane := c.planes[k]?.getD Plane.zero

/-- The opcode of an instruction's word (R293, R379). -/
def opcOf (i : Instr) : Nat := ((encode i).getD 0).toNat / 2 ^ 88

/-- A number of an instruction's s operands, by place. -/
def opAt (ops : List W64) (k : Nat) : Nat := (ops[k]?.getD 0).toNat

/-- The lowest n whose product with b is at least a. -/
def ceilDiv (a b : Nat) : Nat := (a + b - 1) / b

/-- Some consecutive tiles. -/
def tilesFrom (d : TileNo) (n : Nat) : List Nat := (upTo (min n 16)).map (fun k => d.toNat + k)

/-- Rows of elements at a base with a stride: in memory or in the stash. -/
structure MSide where
  stash  : Bool
  base   : Nat
  stride : W32
  deriving DecidableEq, Repr

/-- Where row i starts (R284). -/
def MSide.row (s : MSide) (i : Nat) : Nat :=
  (s.base + i * (sext64 s.stride).toNat) % (if s.stash then 2 ^ 32 else 2 ^ 64)

/-- BASE, STRIDE and STASH of the descriptor whose base is operand `b` and whose stride is operand `t` (R284). -/
def msideAt (ops : List W64) (b t : Nat) : MSide :=
  { stash := bitOf (opAt ops t) 32, base := opAt ops b, stride := BitVec.ofNat 32 (opAt ops t) }

/-- A stash base has bits 63 to 32 zero. -/
def MSide.baseOk (s : MSide) : Bool := !s.stash || s.base < 2 ^ 32

/-! ### What an instruction needs (R283) -/

/-- What the checks of R283 ask of an instruction. -/
structure MPlan where
  tiles  : List Nat
  planes : Bool
  table  : Bool
  /-- the first descriptor register that breaks its ranges -/
  shape  : Option Nat
  /-- the sub-planes of wa it reads -/
  subs   : List Nat
  /-- numbers that must be multiples of the element size of a range -/
  align  : List (Nat × MSpan)
  spans  : List MSpan
  /-- ALIAS_SIZE, with its K (R310, R313) -/
  size   : Option Nat
  /-- the rows of MGRP when they exceed MB -/
  excess : Option Nat
  deriving DecidableEq, Repr

/-- An instruction that needs nothing. -/
def MPlan.none : MPlan :=
  { tiles := [], planes := false, table := false, shape := .none, subs := [], align := [], spans := [], size := .none, excess := .none }

/-- The first of some (register, bad) pairs that is bad. -/
def firstBad (l : List (Nat × Bool)) : Option Nat := (l.find? (fun e => e.2)).map Prod.fst

/-- The number lies in a range. -/
def inRange (x lo hi : Nat) : Bool := lo ≤ x && x ≤ hi

/-- Rows of a side, each of n elements of e bytes, as spans. -/
def MSide.spans (s : MSide) (e rows n : Nat) (wr : Bool) : List MSpan :=
  if n = 0 then [] else (upTo rows).map (fun i => { stash := s.stash, addr := s.row i, el := e, len := e * n, wr := wr })

/-- A side's base and stride must be multiples of the element size where the instruction accesses any byte of it (R283). DEDUCED: notes/assumptions/39. -/
def MSide.align (s : MSide) (x : List MSpan) : List (Nat × MSpan) :=
  match x with
  | [] => []
  | a :: _ => [(s.base, { a with addr := s.base }), (s.stride.toNat, { a with addr := s.base })]

/-- A tile beyond m7. -/
def beyond (ts : List Nat) : Bool := ts.any (fun t => 7 < t)

/-- MSTREAM's needs (R284, R289). -/
def mstreamPlan (ty : MTy) (d : TileNo) (ops : List W64) : MPlan :=
  let m := bitsOf (opAt ops 1) 0 16
  let n := bitsOf (opAt ops 1) 16 16
  let k := bitsOf (opAt ops 1) 32 16
  let s := msideAt ops 0 2
  let ts := tilesFrom d (max 1 (ceilDiv m 32))
  { MPlan.none with
    tiles := ts, planes := true
    shape := firstBad
      [(0, !s.baseOk), (1, !(inRange m 1 256) || !(inRange n 1 32) || !(inRange k 1 ty.depth) || bitsOf (opAt ops 1) 48 16 ≠ 0 || beyond ts),
       (2, bitsOf (opAt ops 2) 33 31 ≠ 0)]
    subs := upTo (ceilDiv k ty.rowsOf), align := s.align (s.spans ty.size m k false), spans := s.spans ty.size m k false }

/-- ROWS, KM1 and FS of an entry of MGRP's table (R290). -/
def groupOf (e : Nat) : Nat × Nat × Nat := (bitsOf e 0 16, bitsOf e 16 9, bitsOf e 25 3)

/-- The rows of all groups. -/
def tableRows (tb : List Nat) : Nat := (tb.map (fun e => (groupOf e).1)).sum

/-- For each result row, the entry it belongs to. -/
def rowGroups (tb : List Nat) : List Nat := (tb.map (fun e => List.replicate (groupOf e).1 e)).flatten

/-- Where the group table of MGRP lies, and its length in bytes. -/
def tableSpan (ops : List W64) : MSpan :=
  { stash := true, addr := bitsOf (opAt ops 3) 0 32, el := 4, len := 4 * (bitsOf (opAt ops 3) 32 6 + 1), wr := false }

/-- MGRP's needs before its table is read (R284). -/
def mgrpHead (d : TileNo) (ops : List W64) : MPlan :=
  let mb := bitsOf (opAt ops 1) 0 16
  let n := bitsOf (opAt ops 1) 16 16
  let s := msideAt ops 0 2
  let ts := tilesFrom d (max 1 (ceilDiv mb 32))
  { MPlan.none with
    tiles := ts, planes := true
    shape := firstBad
      [(0, !s.baseOk), (1, !(inRange mb 1 256) || !(inRange n 1 32) || bitsOf (opAt ops 1) 32 32 ≠ 0 || beyond ts),
       (2, bitsOf (opAt ops 2) 33 31 ≠ 0), (3, bitsOf (opAt ops 3) 38 26 ≠ 0)]
    align := [((tableSpan ops).addr, tableSpan ops)], spans := [tableSpan ops] }

/-- MGRP's needs once its table is read (R290). -/
def mgrpBody (ty : MTy) (d : TileNo) (ops : List W64) (tb : List Nat) : MPlan :=
  let s := msideAt ops 0 2
  let used := tb.filter (fun e => (groupOf e).1 ≠ 0)
  let gs := rowGroups tb
  { MPlan.none with
    tiles := (mgrpHead d ops).tiles, planes := true
    excess := if bitsOf (opAt ops 1) 0 16 < tableRows tb then some (tableRows tb) else .none
    shape := firstBad [(3, used.any (fun e =>
      let (_, km1, fs) := groupOf e
      ty.depth < ty.rowsOf * fs + km1 + 1 || bitsOf e 28 4 ≠ 0))]
    subs := ((used.map (fun e =>
      let (_, km1, fs) := groupOf e
      (upTo (ceilDiv (km1 + 1) ty.rowsOf)).map (fun k => fs + k))).flatten).eraseDups
    align := s.align (s.spans ty.size gs.length 1 false)
    spans := (upTo gs.length).map (fun i =>
      { stash := s.stash, addr := s.row i, el := ty.size, len := ty.size * ((groupOf (gs[i]?.getD 0)).2.1 + 1), wr := false }) }

/-- MLDW's needs (R285, R287). -/
def mldwPlan (ty : MTy) (tr : Bool) (ops : List W64) : MPlan :=
  let x := opAt ops 1
  let kc := bitsOf x 0 16
  let nc := bitsOf x 16 16
  let er := bitsOf x 32 16
  let ec := bitsOf x 48 16
  let fs := bitsOf (opAt ops 2) 33 3
  let s := msideAt ops 0 2
  let sp := if tr then s.spans ty.size (min nc er) (min kc ec) false else s.spans ty.size (min kc er) (min nc ec) false
  { MPlan.none with
    planes := true
    shape := firstBad
      [(0, !s.baseOk), (1, !(inRange kc 1 ty.depth) || !(inRange nc 1 32)),
       (2, bitsOf (opAt ops 2) 36 28 ≠ 0 || 7 < fs + ceilDiv kc ty.rowsOf - 1)]
    align := s.align sp
    spans := sp }

/-- The needs of MST and MLDA in memory form (R286). -/
def mstPlan (cv : Cv) (a : TileNo) (ops : List W64) (wr : Bool) : MPlan :=
  let rows := bitsOf (opAt ops 1) 0 16
  let cols := bitsOf (opAt ops 1) 16 16
  let s := msideAt ops 0 2
  let ts := tilesFrom a (max 1 (ceilDiv rows 32))
  { MPlan.none with
    tiles := ts
    shape := firstBad
      [(0, !s.baseOk), (1, !(inRange rows 1 256) || !(inRange cols 1 32) || bitsOf (opAt ops 1) 32 32 ≠ 0 || beyond ts),
       (2, bitsOf (opAt ops 2) 33 31 ≠ 0)]
    align := s.align (s.spans cv.size rows cols wr), spans := s.spans cv.size rows cols wr }

/-- NORMA's and NORMB's needs (R308). -/
def normPlan (byRow : Bool) (ops : List W64) : MPlan :=
  let rows := bitsOf (opAt ops 1) 0 16
  let cols := bitsOf (opAt ops 1) 16 16
  let s := msideAt ops 0 2
  let src := s.spans 2 rows cols false
  let out : MSpan := { stash := true, addr := bitsOf (opAt ops 3) 0 32, el := 4, len := 4 * (if byRow then rows else cols), wr := true }
  { MPlan.none with
    shape := firstBad
      [(0, !s.baseOk), (1, !(inRange rows 1 4096) || !(inRange cols 1 4096) || bitsOf (opAt ops 1) 32 32 ≠ 0),
       (2, bitsOf (opAt ops 2) 33 31 ≠ 0)]
    align := s.align src ++ [(out.addr, out)]
    spans := src ++ [out] }

/-- NPROD's needs (R309). -/
def nprodPlan (ops : List W64) : MPlan :=
  let k := bitsOf (opAt ops 1) 32 16
  let at_ := fun (a : Nat) (wr : Bool) => ({ stash := true, addr := a, el := 4, len := 4 * k, wr := wr } : MSpan)
  let xs := [at_ (bitsOf (opAt ops 0) 0 32) false, at_ (bitsOf (opAt ops 0) 32 32) false, at_ (bitsOf (opAt ops 1) 0 32) true]
  { MPlan.none with
    shape := firstBad [(1, !(inRange k 1 4096) || bitsOf (opAt ops 1) 48 16 ≠ 0)]
    align := xs.map (fun x => (x.addr, x))
    spans := xs }

/-- ALIAS's needs (R310). -/
def aliasPlan (ops : List W64) : MPlan :=
  let k := bitsOf (opAt ops 0) 32 16
  let q : MSpan := { stash := true, addr := bitsOf (opAt ops 0) 0 32, el := 4, len := 4 * k, wr := false }
  { MPlan.none with
    planes := true, table := true
    shape := firstBad [(0, bitsOf (opAt ops 0) 48 16 ≠ 0)]
    size := if inRange k 1 4096 then .none else some k
    align := [(q.addr, q)], spans := [q] }

/-- SAMPMM's sides A and B (R312). -/
def sampSides (ops : List W64) : MSide × MSide := (msideAt ops 0 1, msideAt ops 2 3)

/-- SAMPMM's M, N, K and S (R312). -/
def sampDims (ops : List W64) : Nat × Nat × Nat × Nat :=
  (bitsOf (opAt ops 4) 0 16, bitsOf (opAt ops 4) 16 16, bitsOf (opAt ops 4) 32 16, bitsOf (opAt ops 5) 0 16)

/-- SAMPMM's needs (R313), given the probe and the size of the alias table. A threshold of −0 is not negative. DESIGN CHOICE: notes/assumptions/140. -/
def sampPlan (d : TileNo) (ops : List W64) (prow pcol size : Nat) : MPlan :=
  let (m, n, k, s) := sampDims ops
  let (a, b) := sampSides ops
  let nmin := bitsOf (opAt ops 5) 16 16
  let vstop := bitOf (opAt ops 5) 32
  let th := FVal.ofBits Fmt.f32 (bitsOf (opAt ops 6) 0 32)
  let ts := tilesFrom d (max 1 (ceilDiv m 32))
  { MPlan.none with
    tiles := ts, planes := true, table := true
    shape := firstBad
      [(0, !a.baseOk), (1, bitsOf (opAt ops 1) 33 31 ≠ 0), (2, !b.baseOk), (3, bitsOf (opAt ops 3) 33 31 ≠ 0),
       (4, !(inRange m 1 256) || !(inRange n 1 32) || bitsOf (opAt ops 4) 48 16 ≠ 0 || beyond ts || m ≤ prow || n ≤ pcol),
       (5, s = 0 || nmin < 2 || bitsOf (opAt ops 5) 33 31 ≠ 0),
       (6, bitsOf (opAt ops 6) 32 32 ≠ 0 || (vstop && (th.isNan || (th.neg? && !th.isZero))))]
    size := if size = 0 || size ≠ k then some k else .none
    align := a.align (a.spans 2 m k false) ++ b.align (b.spans 2 k n false)
    spans := a.spans 2 m k false ++ b.spans 2 k n false }

/-! ### The state as earlier accepted instructions leave it (R281, R283, R313) -/

/-- What later checks see of a core's resources. -/
structure Ahead where
  tiles  : List (Option Nat)
  planes : Option Nat
  wa     : Byte
  ws     : Byte
  size   : Nat
  probe  : Nat × Nat
  deriving DecidableEq, Repr

/-- The core and a gang's probe as they stand. -/
def Core.now (c : Core) (g : Gang) : Ahead :=
  { tiles := c.tiles.map Tile.owner, planes := c.planeOwner, wa := (c.plane c.active).loaded,
    ws := (c.plane (1 - c.active)).loaded, size := c.alias_.length, probe := (g.svar.row.toNat, g.svar.col.toNat) }

/-- The resources a mask of MTAKE or MGIVE names. -/
def maskTiles (m : BitVec 9) : List Nat := (upTo 8).filter (fun t => m.getLsbD t)

/-- What an accepted instruction will have done. -/
def Ahead.after (a : Ahead) (j : MatrixJob) : Ahead :=
  match j.instr with
  | .mldw _ ty _ _ =>
    let fs := bitsOf (opAt j.ops 2) 33 3
    { a with ws := (upTo (ceilDiv (bitsOf (opAt j.ops 1) 0 16) ty.rowsOf)).foldl (fun b k => b ||| (1#8 <<< (fs + k))) a.ws }
  | .mswap _ => { a with wa := a.ws, ws := a.wa }
  | .mgive _ m =>
    { a with
      tiles := (upTo a.tiles.length).map (fun t => if m.getLsbD t then .none else a.tiles[t]?.getD .none)
      planes := if m.getLsbD 8 then .none else a.planes }
  | .aliasT .. => { a with size := bitsOf (opAt j.ops 0) 32 16 }
  | .svset _ r c => { a with probe := (r.toNat, c.toNat) }
  | _ => a

/-- The resources of a gang's core after its accepted instructions. DEDUCED: notes/assumptions/39. -/
def Dev.ahead (d : Dev) (core k : Nat) (g : Gang) : Ahead :=
  let c := d.core core
  ((c.mq ++ c.mwait.map MatrixWait.job).filter (fun j => j.gang == k)).foldl Ahead.after (c.now g)

/-! ### The checks (R283) -/

/-- The detail of a matrix fault (R379, group 8). -/
def matDetail (i : Instr) (step : Nat) (p : MPlan) (w2 : Nat) : Detail :=
  detailOf (opcOf i + step * 2 ^ 8) (maskOf (p.tiles.filter (fun t => t < 8)) + b2n p.planes * 2 ^ 8 + b2n p.table * 2 ^ 9) w2

/-- The detail of an access at an address of a range (R379, group 3). -/
def MSpan.detail (s : MSpan) (lane a : Nat) : Detail :=
  addrDetail a lane (if s.el = 1 then 0 else if s.el = 2 then 1 else 2) (if s.stash then 2 else 0) s.wr none

/-- A check of a range of bytes for one participant, granule by granule: its place in R131, its cause, the first element that fails. -/
def Dev.spanFlt (d : Dev) (g : Gang) (t : Thread) (s : MSpan) : Option Flt :=
  let x := s.detail t.lane
  if s.stash then
    match d.chunk? g.ctx g.lid g.home with
    | some ch =>
      let bad := fun (a n : Nat) => ch.stashLen < a + n || ch.mapped a n
      if bad s.addr s.len then
        let k := ((upTo (s.len / s.el)).find? (fun k => bad (s.addr + s.el * k) s.el)).getD 0
        flt true 2 cStashRange (x (s.addr + s.el * k))
      else none
    | none => flt true 2 cStashRange (x s.addr)
  else
    match d.ctx? t.ctx, windowOf (BitVec.ofNat 64 s.addr), windowOf (BitVec.ofNat 64 (s.addr + s.len - 1)) with
    | some c, .local_ off, .local_ _ =>
      minBy Flt.ord ((upTo ((off + s.len - 1) / 4096 + 1 - off / 4096)).filterMap (fun k =>
        let a := max off ((off / 4096 + k) * 4096)
        let n := min (off + s.len) ((a / 4096 + 1) * 4096) - a
        let x := x (s.addr + (a - off))
        firstFlt [flt (!(d.leased t c a n s.wr)) 4 cLeaseViolation x,
          d.pageFlt t c a { n := n, sz := 0, wr := s.wr, atomic := false } x]))
    | _, _, _ => flt true 2 cProtection (x s.addr)

/-- The first failing range of a plan for one participant (R131: the earliest step). DEDUCED: notes/assumptions/39. -/
def Dev.spansFlt (d : Dev) (g : Gang) (t : Thread) (p : MPlan) : Option Flt :=
  firstFlt
    [(match p.align.find? (fun a => a.1 % a.2.el ≠ 0) with
      | some a => flt true 1 cAlignment (a.2.detail t.lane a.2.addr)
      | none => none),
     minBy Flt.ord (p.spans.filterMap (d.spanFlt g t))]

/-- The checks of R283 for every participant alike, in order. DEDUCED: notes/assumptions/39. -/
def Dev.planFlt (d : Dev) (i : Instr) (m : Meet) (p : MPlan) : Option Flt :=
  let a := d.ahead m.core m.idx m.gang
  let lost := p.tiles.any (fun t => t < 8 && a.tiles[t]?.getD none ≠ some m.idx) || ((p.planes || p.table) && a.planes ≠ some m.idx)
  let unloaded := (sortBy id p.subs).find? (fun s => !(a.wa.getLsbD s))
  firstFlt
    [flt lost 1 cMatrixNotOwned (matDetail i 0 p 0),
     p.shape.map (fun r => { ord := 2, cause := cShapeRange, detail := matDetail i 0 p r }),
     unloaded.map (fun s => { ord := 3, cause := cPlaneNotLoaded, detail := matDetail i 0 p s }),
     p.excess.map (fun n => { ord := 4, cause := cGroupOverrun, detail := matDetail i 0 p n }),
     p.size.map (fun k => { ord := 4, cause := cAliasSize, detail := matDetail i 0 p k })]

/-- A matrix instruction's fault over its active participants: what holds for all of them, or what the ranges give each. DEDUCED: notes/assumptions/39. -/
def Dev.matFail (d : Dev) (i : Instr) (m : Meet) (act : List Thread) (p : MPlan) : Option Fail :=
  match d.planFlt i m p with
  | some f => some (Meet.fail act f.cause f.detail)
  | none => pickFail ((sortBy Thread.lane act).filterMap (fun t => (d.spansFlt m.gang t p).map (fun f => (t, f))))

/-- A fault at the completion of a rendezvous: a lease violation ends launches, anything else traps the active
participants (R283). -/
def Dev.matTrap (d : Dev) (m : Meet) (act : List Thread) (f : Fail) : Dev :=
  if f.cause = cLeaseViolation then d.fail (act.filter (fun t => f.failed.contains t.uid)) f else d.meetFail m act f

/-! ### The queue (R279, R282) -/

/-- The participants wait until the instruction completes (R279, R307). -/
def matrixBlocks : Instr → Bool
  | .mtake .. | .mstReg .. | .mldaReg .. | .nprod .. | .aliasT .. | .svrdW .. => true
  | _ => false

/-- The place in the queue for an instruction whose rendezvous completes. -/
def Dev.accept (d : Dev) (h : Hd) (m : Meet) (j : MatrixJob) : Dev :=
  let c := d.core m.core
  if c.mq.length < 16 && c.mwait = [] then
    let d1 := d.mapCore m.core (fun c => { c with mq := c.mq ++ [j] })
    if matrixBlocks j.instr then d1.meetWait m (.matrix j.ticket) else d1.meetDone h m
  else
    (d.mapCore m.core (fun c => { c with mwait := c.mwait ++ [{ ticket := j.ticket, job := j }] })).meetWait m
      (.matrixQueue j.ticket)

/-- An accepted instruction as it starts out. -/
def Dev.newMatrixJob (d : Dev) (i : Instr) (m : Meet) (act : List Thread) (ops : List W64) (table : List Nat) (spans : List MSpan)
    (given : List (List (W32 × Bool))) : Dev × MatrixJob :=
  let (n, d1) := d.newId
  (d1, { ticket := n, instr := i, gang := m.idx, ctx := m.gang.ctx, lid := m.gang.lid, home := m.gang.home
         pc := ((m.parts.head?).map (fun p => p.2.pc)).getD 0, ops := ops, table := table, spans := spans, given := given
         active := (m.parts.filter (fun p => act.any (fun t => t.uid == p.2.uid))).map (fun p => (p.2.uid, p.1))
         parts := m.parts.map (fun p => (p.2.uid, p.1)), step := 0, ovf := 0, inv := 0, nonfin := 0, fin := false, wrote := false, marks := [] })

/-- The values and the poison of some s operands (R279). -/
def Meet.opsOf (m : Meet) (rs : List SReg) : List W64 := rs.map m.gang.sreg

/-- A matrix instruction at the completion of its rendezvous (R279, R283): no active participant, no effect; a poisoned
operand of `strict`; its checks; then it is accepted. `plans` are checked one after another, each given the operands; the ranges of the
last one are those it accesses once it is accepted (R282). -/
def Dev.matrixRun (d : Dev) (i : Instr) (h : Hd) (rs strict : List SReg) (plans : Dev → Meet → List W64 → List MPlan)
    (table : Dev → Meet → List W64 → List Nat) (given : Dev → Meet → List (List (W32 × Bool))) (m : Meet) (act : List Thread) : Dev :=
  if act = [] then d.meetDone h m
  else
    let ops := m.opsOf rs
    match strict.find? m.gang.spsn with
    | some q => d.meetFail m act (Meet.fail act cPoisonConsumed (Meet.poison act q.toNat 1))
    | none =>
      match (plans d m ops).findSome? (d.matFail i m act) with
      | some f => d.matTrap m act f
      | none =>
        let (d1, j) := d.newMatrixJob i m act ops (table d m ops) (((plans d m ops).getLast?.map MPlan.spans).getD []) (given d m)
        d1.accept h m j

/-- A matrix instruction (R279). -/
def Dev.matrixOp (d : Dev) (i : Instr) (h : Hd) (rs : List SReg) (plans : Dev → Meet → List W64 → List MPlan) : Dev :=
  d.gangWide i h (fun m act d => d.matrixRun i h rs rs plans (fun _ _ _ => []) (fun _ _ => []) m act)

/-- Consecutive s registers. -/
def sRun (a : SReg) (n : Nat) : List SReg := (upTo n).map (fun k => a + BitVec.ofNat 6 k)

/-- MLDW (R285, R287). -/
def execMldw (h : Hd) (ty : MTy) (tr : Bool) (a : SReg) (s : State) : Host.Outcome State Fault Refusal :=
  onDev s (fun d => d.matrixOp (.mldw h ty tr a) h (sRun a 3) (fun _ _ ops => [mldwPlan ty tr ops]))

/-- MSWAP (R288). -/
def execMswap (h : Hd) (s : State) : Host.Outcome State Fault Refusal :=
  onDev s (fun d => d.matrixOp (.mswap h) h [] (fun _ _ _ => [{ MPlan.none with planes := true }]))

/-- MSTREAM (R284, R289). -/
def execMstream (h : Hd) (ty : MTy) (z : Bool) (t : TileNo) (a : SReg) (s : State) : Host.Outcome State Fault Refusal :=
  onDev s (fun d => d.matrixOp (.mstream h ty z t a) h (sRun a 3) (fun _ _ ops => [mstreamPlan ty t ops]))

/-- MCLR (R291). -/
def execMclr (h : Hd) (mask : Byte) (s : State) : Host.Outcome State Fault Refusal :=
  onDev s (fun d => d.matrixOp (.mclr h mask) h [] (fun _ _ _ =>
    [{ MPlan.none with tiles := (upTo 8).filter (fun t => mask.getLsbD t) }]))

/-- MST, memory form (R286, R292). -/
def execMst (h : Hd) (cv : Cv) (a : TileNo) (b : SReg) (s : State) : Host.Outcome State Fault Refusal :=
  onDev s (fun d => d.matrixOp (.mst h cv a b) h (sRun b 3) (fun _ _ ops => [mstPlan cv a ops true]))

/-- MST, register form (R292). -/
def execMstReg (h : Hd) (cv : Cv) (r : VReg) (a : TileNo) (s : State) : Host.Outcome State Fault Refusal :=
  onDev s (fun d => d.matrixOp (.mstReg h cv r a) h [] (fun _ _ _ => [{ MPlan.none with tiles := [a.toNat] }]))

/-- MLDA, memory form (R286, R292). -/
def execMlda (h : Hd) (cv : Cv) (t : TileNo) (a : SReg) (s : State) : Host.Outcome State Fault Refusal :=
  onDev s (fun d => d.matrixOp (.mlda h cv t a) h (sRun a 3) (fun _ _ ops => [mstPlan cv t ops false]))

/-- The registers of a group (R278). -/
def groupRegs (cv : Cv) : Nat := if cv.size = 4 then 32 else 16

/-- What each rank below 32 supplies to MLDA: its registers, zero where it has no participant (R69, R292). -/
def Meet.supplies (m : Meet) (d : Dev) (cv : Cv) (a : VReg) : List (List (W32 × Bool)) :=
  (upTo 32).map (fun r => (upTo (groupRegs cv)).map (fun k =>
    let x := m.supply d (.v (a + BitVec.ofNat 9 k) false) r
    (BitVec.ofNat 32 x.1, x.2)))

/-- The registers of a group as a thread holds them. -/
def Dev.groupOf (d : Dev) (t : Thread) (cv : Cv) (a : VReg) : List Nat :=
  (upTo (groupRegs cv)).map (fun k => ((d.env t).read 0 (.v (a + BitVec.ofNat 9 k) false)).1)

/-- MLDA, register form (R292, R298): the values of a pair are compared first. -/
def execMldaReg (h : Hd) (cv : Cv) (t : TileNo) (a : VReg) (s : State) : Host.Outcome State Fault Refusal :=
  let i : Instr := .mldaReg h cv t a
  onDev s (fun d => d.gangWide i h (fun m act d =>
    let all := m.parts.map Prod.snd ++ d.threads.filter (fun x => x.shadow && m.parts.any (fun p => x.partner == some p.2.uid))
    match (if act = [] then none else mismatchOf all all (fun x => 0 :: d.groupOf x cv a)) with
    | some f => d.meetFail m act { f with failed := f.failed.filter (fun u => act.any (fun x => x.uid == u)) }
    | none =>
      d.matrixRun i h [] [] (fun _ _ _ => [{ MPlan.none with tiles := [t.toNat] }]) (fun _ _ _ => []) (fun d m => m.supplies d cv a) m act))

/-- The entries of MGRP's table (R290), whatever the poison of their words. DESIGN CHOICE: notes/assumptions/141. -/
def Dev.groupTable (d : Dev) (g : Gang) (ops : List W64) : List Nat :=
  let s := tableSpan ops
  match d.chunk? g.ctx g.lid g.home with
  | some ch => (upTo (s.len / 4)).map (fun k => ch.stash.getLE (s.addr + 4 * k) 4)
  | none => []

/-- An accepted instruction of the gang has still to write bytes of the table that MGRP reads (R281, R290). -/
def Core.tableBusy (c : Core) (k : Nat) (g : Gang) (a : SReg) : Bool :=
  let s := tableSpan ((sRun a 4).map g.sreg)
  (c.mq ++ c.mwait.map MatrixWait.job).any (fun j => j.gang == k && j.lid == g.lid && j.home == g.home &&
    j.spans.any (fun x => x.stash && x.wr && decide (x.addr < s.addr + s.len) && decide (s.addr < x.addr + x.len)))

/-- MGRP (R290): the table is read at acceptance, once the gang's earlier instructions have written it (R281). -/
def execMgrp (h : Hd) (ty : MTy) (z : Bool) (t : TileNo) (a : SReg) (s : State) : Host.Outcome State Fault Refusal :=
  let i : Instr := .mgrp h ty z t a
  onDev s (fun d => d.gangWide i h (fun m act d =>
    if act ≠ [] && (d.core m.core).tableBusy m.idx m.gang a then d
    else d.matrixRun i h (sRun a 4) (sRun a 4) (fun d m ops => [mgrpHead t ops, mgrpBody ty t ops (d.groupTable m.gang ops)])
      (fun d m ops => d.groupTable m.gang ops) (fun _ _ => []) m act))

/-- MTAKE (R276). -/
def execMtake (h : Hd) (p : PReg) (mask : BitVec 9) (s : State) : Host.Outcome State Fault Refusal :=
  onDev s (fun d => d.matrixOp (.mtake h p mask) h [] (fun _ _ _ => []))

/-- MGIVE (R277). -/
def execMgive (h : Hd) (mask : BitVec 9) (s : State) : Host.Outcome State Fault Refusal :=
  onDev s (fun d => d.matrixOp (.mgive h mask) h [] (fun _ _ _ =>
    [{ MPlan.none with tiles := maskTiles mask, planes := mask.getLsbD 8 }]))

/-- MACC (R291). -/
def execMacc (h : Hd) (int : Bool) (t a : TileNo) (s : State) : Host.Outcome State Fault Refusal :=
  onDev s (fun d => d.matrixOp (.macc h int t a) h [] (fun _ _ _ => [{ MPlan.none with tiles := [t.toNat, a.toNat].eraseDups }]))

/-- MSCL (R291). -/
def execMscl (h : Hd) (t : TileNo) (a : SReg) (s : State) : Host.Outcome State Fault Refusal :=
  onDev s (fun d => d.matrixOp (.mscl h t a) h [a] (fun _ _ _ => [{ MPlan.none with tiles := [t.toNat] }]))

/-- NORMA (R308). -/
def execNorma (h : Hd) (f16 : Bool) (a b : SReg) (s : State) : Host.Outcome State Fault Refusal :=
  onDev s (fun d => d.matrixOp (.norma h f16 a b) h (sRun a 3 ++ [b]) (fun _ _ ops => [normPlan false ops]))

/-- NORMB (R308). -/
def execNormb (h : Hd) (f16 : Bool) (a b : SReg) (s : State) : Host.Outcome State Fault Refusal :=
  onDev s (fun d => d.matrixOp (.normb h f16 a b) h (sRun a 3 ++ [b]) (fun _ _ ops => [normPlan true ops]))

/-- NPROD (R309). -/
def execNprod (h : Hd) (r a : SReg) (s : State) : Host.Outcome State Fault Refusal :=
  onDev s (fun d => d.matrixOp (.nprod h r a) h (sRun a 2) (fun _ _ ops => [nprodPlan ops]))

/-- ALIAS (R310): a poisoned W raises nothing; its poison goes into the table. -/
def execAliasT (h : Hd) (a b : SReg) (s : State) : Host.Outcome State Fault Refusal :=
  let i : Instr := .aliasT h a b
  onDev s (fun d => d.gangWide i h (fun m act d =>
    d.matrixRun i h [a, b] [a] (fun _ _ ops => [aliasPlan ops]) (fun _ _ _ => []) (fun _ m => [[(0, m.gang.spsn b)]]) m act))

/-- SAMPMM (R312, R313). -/
def execSampmm (h : Hd) (f16 : Bool) (t : TileNo) (a b : SReg) (s : State) : Host.Outcome State Fault Refusal :=
  onDev s (fun d => d.matrixOp (.sampmm h f16 t a b) h (sRun a 7 ++ [b]) (fun d m ops =>
    let x := d.ahead m.core m.idx m.gang
    [sampPlan t ops x.probe.1 x.probe.2 x.size]))

/-- SVSET (R316). -/
def execSvset (h : Hd) (row : Byte) (col : BitVec 5) (s : State) : Host.Outcome State Fault Refusal :=
  onDev s (fun d => d.matrixOp (.svset h row col) h [] (fun _ _ _ => []))

/-- SVRD.W (R316): it takes its place behind every SAMPMM of the gang. -/
def execSvrdW (h : Hd) (r : SReg) (s : State) : Host.Outcome State Fault Refusal :=
  onDev s (fun d => d.matrixOp (.svrdW h r) h [] (fun _ _ _ => []))

/-- Fields of SVAR (R315). -/
def Svar.word (v : Svar) (k : Nat) : W32 :=
  let x := v.w[k]?.getD 0
  if k = 3 then (x &&& 0x70000) ||| v.row.zeroExtend 32 ||| (v.col.zeroExtend 32 <<< 8) else x

/-- What SVRD writes (R316). -/
def Svar.words (v : Svar) : W64 × W64 := (pairOf (v.word 0) (v.word 1), pairOf (v.word 2) (v.word 3))

/-- SVRD (R316): at once. -/
def execSvrd (h : Hd) (r : SReg) (s : State) : Host.Outcome State Fault Refusal :=
  onDev s (fun d => d.gangWide (.svrd h r) h (fun m act d =>
    if act = [] then d.meetDone h m
    else
      (d.mapGang m.core m.idx (fun g => (g.setS r g.svar.words.1 false).setS (r + 1) g.svar.words.2 false)).meetDone h m))

/-- The steps of an accepted instruction in all (R295, R308, R314). DEDUCED: notes/assumptions/42. -/
def MatrixJob.steps (j : MatrixJob) : Nat :=
  match j.instr with
  | .mstream .. => ceilDiv (bitsOf (opAt j.ops 1) 0 16) 32
  | .mgrp .. => max 1 (ceilDiv (tableRows j.table) 32)
  | .mldw _ ty _ _ => ceilDiv (bitsOf (opAt j.ops 1) 0 16) ty.rowsOf
  | .mst .. | .mlda .. => ceilDiv (bitsOf (opAt j.ops 1) 0 16) 32
  | .norma .. => ceilDiv (bitsOf (opAt j.ops 1) 16 16) 32
  | .normb .. => ceilDiv (bitsOf (opAt j.ops 1) 0 16) 32
  | .sampmm .. => bitsOf (opAt j.ops 5) 0 16 + 1
  | _ => 1

/-- What MQRY writes (R293). -/
def Dev.mqryWord (d : Dev) (m : Meet) : W64 :=
  let c := d.core m.core
  let js := c.mq.filter (fun j => j.gang == m.idx)
  let first := js.head?
  BitVec.ofNat 64 (packFields
    [(0, 1, b2n (!js.isEmpty)), (1, 5, js.length), (8, 8, (first.map (fun j => opcOf j.instr)).getD 0),
     (16, 16, (first.map MatrixJob.step).getD 0), (32, 16, (first.map MatrixJob.steps).getD 0),
     (48, 8, maskOf ((upTo 8).filter (fun t => (c.tile t).owner = some m.idx))), (56, 1, b2n (c.planeOwner = some m.idx)),
     (57, 1, c.active)])

/-- MQRY (R293): at once. -/
def execMqry (h : Hd) (r : SReg) (s : State) : Host.Outcome State Fault Refusal :=
  onDev s (fun d => d.gangWide (.mqry h r) h (fun m act d =>
    if act = [] then d.meetDone h m
    else (d.mapGang m.core m.idx (fun g => g.setS r (d.mqryWord m) false)).meetDone h m))

end Sys2Proof.Machine
end

