-- ==== Sys2Proof/Machine/Row.lean ====
section
/-! DEFINITION. Row slots, the row instructions, the vertical bus and the column's own events (spec/07 R164 to R186,
spec/04 R96). -/

namespace Sys2Proof.Machine

/-! ### Faults of a slot (R167, R170, R171, R379) -/

/-- The number of a slot state (R166). -/
def SlotState.num : SlotState → Nat
  | .empty => 0
  | .opening => 1
  | .ready => 2
  | .lost => 3

/-- The row number of a physical address within its bank (R164). -/
def rowOf (pa : Nat) : Nat := bitsOf pa 18 10
/-- The layer of a bank (R164). -/
def layerOf (pa : Nat) : Nat := bankOf pa / 16

/-- The detail of a row fault (R379, group 5). -/
def rowDetail (s : RowSlot) (st : SlotState) (k lane : Nat) : Detail :=
  let rdy := if st = .opening || st = .ready then s.ready.toNat else 0
  detailOf (rdy % 2 ^ 32) (rdy / 2 ^ 32)
    (k + st.num * 2 ^ 3 + rowOf s.pa * 2 ^ 5 + bankOf s.pa * 2 ^ 15 + lane * 2 ^ 22)

/-- The state of a slot at a CYC: a command at or after the close time finds it LOST, also while a transfer delays the close (R178). DEDUCED: notes/assumptions/70. -/
def RowSlot.at_ (s : RowSlot) (cyc : W64) : SlotState :=
  if (s.state = .opening || s.state = .ready) && s.close ≤ cyc then .lost else s.state

/-- A slot of a core. -/
def Dev.slot (d : Dev) (core k : Nat) : RowSlot := (d.core core).slots[k]?.getD RowSlot.empty

/-- The gang-table entry of a thread's gang. -/
def Dev.gangNo (d : Dev) (t : Thread) : Nat := ((d.gangOf? t).map Prod.fst).getD 64

/-- The slot is held by another gang (R179). -/
def Dev.slotTaken (d : Dev) (t : Thread) (k : Nat) : Bool :=
  let s := d.slot t.core k
  s.state != .empty && s.gang != d.gangNo t

/-- The state of a slot as a thread's command finds it. -/
def Dev.slotState (d : Dev) (t : Thread) (k : Nat) : SlotState := (d.slot t.core k).at_ (d.cyc t.ctx)

/-- A fault of the row group. -/
def Dev.rowFlt (d : Dev) (t : Thread) (k : Nat) (bad : Bool) (c : Cause) : Option Flt :=
  flt bad (t.lane + 1) c (rowDetail (d.slot t.core k) (d.slotState t k) k t.lane)

/-- The slot checks of ROWCON and ROWPUT (R171, steps 1 to 4). -/
def Dev.slotFlt (d : Dev) (t : Thread) (k : Nat) : Option Flt :=
  let st := d.slotState t k
  firstFlt
    [d.rowFlt t k (d.slotTaken t k) cSlotInUse, d.rowFlt t k (st = .empty) cSlotEmpty,
     d.rowFlt t k (st = .lost) cRowLost, d.rowFlt t k (st = .opening) cRowNotReady]

/-- A row instruction (R167): requests are served in ascending lane order, each checked in the state the requests before
it leave; if any would fault, none takes effect, and the lowest faulting lane decides the cause. If a lane's request must wait first
(`hold`), the instruction does; so it does where it logs what it reads and the log has no room (`logs`, R443). DEDUCED: notes/assumptions/68. -/
def Dev.rowInstr (d : Dev) (i : Instr) (h : Hd) (key : Dev → Thread → List Nat) (base : Dev → Thread → Option Flt)
    (chk : Dev → Thread → Option Flt) (logs : Bool) (hold : Dev → Thread → Bool) (act : Dev → Thread → Dev) (fin : Dev → List Thread → Dev) : Dev :=
  d.lanesOut i h true key base (fun ts d =>
    let r := ts.foldl (fun (x : Dev × List (Thread × Flt)) t =>
      match chk x.1 t with
      | some f => (x.1, x.2 ++ [(t, f)])
      | none => (act x.1 t, x.2)) (d, [])
    match pickFail r.2 with
    | some f => d.failGroup h ts f
    | none => d.unless ts (hold d) .release (fun d => d.unless ts (fun t => logs && d.logStalls t.ctx) (.staging d.pcyc) (fun _ => fin r.1 ts)))

/-- A row request does not wait. -/
def noHold : Dev → Thread → Bool := fun _ _ => false

/-- A poisoned base. -/
def Dev.rowBaseFlt (d : Dev) (t : Thread) (virt : Bool) (base : Src) : Option Flt :=
  t.poisonRun ((d.env t).addrRun virt base)

/-! ### ROWACT (R170) -/

/-- The bank cannot take an activation: open in another slot, precharging, or activated fewer than 56 cycles before. -/
def Dev.bankBusy (d : Dev) (core k pa : Nat) : Bool :=
  let c := d.core core
  let b := c.bank (bankOf pa)
  (upTo 8).any (fun j =>
    let s := d.slot core j
    j ≠ k && (s.state = .opening || s.state = .ready) && bankOf s.pa = bankOf pa) ||
    d.pcyc < b.preEnd || (match b.lastAct with | some t => d.pcyc < t + 56 | none => false)

/-- Four activations were counted in the layer within the last 40 cycles. -/
def Dev.actRate (d : Dev) (core pa : Nat) : Bool :=
  4 ≤ ((d.core core).acts.filter (fun a => d.pcyc < a.1 + 40 && a.2 == layerOf pa)).length

/-- The ROW range of a launch that holds a row: of several, the first in the order of the record. DESIGN CHOICE: notes/assumptions/137. -/
def rowRange (l : Launch) (off : Nat) : Option Range := l.ranges.find? (fun r => r.row && covers r.base.toNat r.len off 2048)

/-- The checks of ROWACT after the operand's poison (R170): an address in the fabric window, of this module too, is not local. DEDUCED: notes/assumptions/19. -/
def Dev.rowactFlt (d : Dev) (t : Thread) (k va : Nat) : Option Flt :=
  match d.ctx? t.ctx with
  | none => none
  | some c =>
    let x := addrDetail va t.lane 0 0 false none
    let o := t.lane + 1
    let l := flt (va % 2048 ≠ 0) o cAlignment x
    match windowOf (BitVec.ofNat 64 va) with
    | .bad => firstFlt [l, flt true o cProtection x]
    | .fabric _ _ => firstFlt [l, d.rowFlt t k true cRowNotLocal]
    | .local_ off =>
      let pa := (d.pa? c off).getD 0
      firstFlt
        [l, flt (!(d.leased t c off 2048 false)) o cLeaseViolation x,
         d.rowFlt t k ((d.launchOf? t).bind (fun l => rowRange l off)).isNone cRowNotLocal,
         d.rowFlt t k (!(inTier1 pa) || columnOf pa ≠ t.core) cRowNotLocal,
         d.rowFlt t k (d.touchesFmt pa 2048) cRowFormatRange,
         d.rowFlt t k ((d.slot t.core k).state != .empty) cSlotInUse,
         d.rowFlt t k (d.bankBusy t.core k pa) cBankBusy,
         d.rowFlt t k (d.actRate t.core pa) cRowActRate]

/-- The cycles until the layer of a row is outside a refresh window (R177). -/
def Dev.refreshLeft (d : Dev) (core pa : Nat) : Nat :=
  match KV.get? (d.core core).refresh (layerOf pa) with
  | some e => e - d.pcyc
  | none => 0

/-- The cache path still holds another row of the bank open: after an access, the spec does not say how long (R181). DESIGN CHOICE: notes/assumptions/26. -/
def Dev.cacheHolds (d : Dev) (core pa : Nat) : Bool :=
  match ((d.core core).bank (bankOf pa)).cache with
  | some r => r ≠ pa / 2048 && Config.pick d.ctr % 2 = 1
  | none => false

/-- The physical address of a row as a thread names it. -/
def Dev.rowPa (d : Dev) (t : Thread) (va : Nat) : Nat := ((d.ctx? t.ctx).bind (fun c => d.pa? c (va % 2 ^ 56))).getD 0

/-- ROWACT closes the row that the cache path holds open in the bank, and its corrected words are rewritten (R170, R181, R182). -/
def Dev.cacheCloses (d : Dev) (core pa : Nat) : Dev :=
  match ((d.core core).bank (bankOf pa)).cache with
  | some r => if r = pa / 2048 then d else d.rewriteRow (2048 * r)
  | none => d

/-- Opens a row in a slot (R170). -/
def Dev.openRow (d0 : Dev) (t : Thread) (k va : Nat) : Dev :=
  match d0.ctx? t.ctx with
  | none => d0
  | some _ =>
    let off := va % 2 ^ 56
    let pa := d0.rowPa t va
    let d := d0.cacheCloses t.core pa
    let r := (d.launchOf? t).bind (fun l => rowRange l off)
    let start := d.cyc t.ctx + BitVec.ofNat 64 (d.refreshLeft t.core pa + if d.cacheHolds t.core pa then 18 else 0)
    let (n, d1) := d.newId
    d1.mapCore t.core (fun c =>
      { c.mapBank (bankOf pa) (fun b => { b with lastAct := some d.pcyc, cache := none }) with
        slots := c.slots.set k
          { state := .opening, va := BitVec.ofNat 64 va, pa := pa, rd := (r.map Range.rd).getD false,
            wr := (r.map Range.wr).getD false, gang := d.gangNo t, ctx := t.ctx, ready := start + 24,
            close := start + 6000, start := start, copy := [], psn := [], act := n, kept := false,
            opener := some (d.whoOf t, t.lane) }
        acts := (c.acts.filter (fun a => d.pcyc < a.1 + 40)) ++ [(d.pcyc, layerOf pa)] })

/-- ROWACT (R170). -/
def execRowact (h : Hd) (k : SlotNo) (base : Src) (off : W32) (s : State) : Host.Outcome State Fault Refusal :=
  let va := fun (d : Dev) (t : Thread) => ((d.env t).rowAddr true base off).1
  onDev s (fun d => d.rowInstr (.rowact h k base off) h (fun d t => [va d t]) (fun d t => d.rowBaseFlt t true base)
    (fun d t => d.rowactFlt t k.toNat (va d t)) false (fun d t => d.matrixHolds t false (.phys (d.rowPa t (va d t))) 2048)
    (fun d t => d.openRow t k.toNat (va d t)) (fun d _ => d.done h))

/-! ### Requests for the bus (R96, R171, R172) -/

/-- Queues a transfer through a slot for some threads, which wait for it. -/
def Dev.request (d : Dev) (ts : List Thread) (k : Nat) (kind : TransferKind) : Dev :=
  match ts with
  | [] => d
  | t :: _ =>
    let (n, d1) := d.newId
    let d2 := d1.mapCore t.core (fun c =>
      { c with bus := c.bus ++
          [{ id := n, prio := d.prioOf t, slot := k, ctx := t.ctx, gang := d.gangNo t, kind := kind,
             uids := ts.map Thread.uid, passed := 0, att := 0, after := 0, beats := none, second := 0, swaps := [] }] })
    ts.foldl (fun d t => d.deliver t.uid (fun x => { x with wait := .transfer n })) d2

/-- The slot's range lacks an intent (R171, R172). -/
def Dev.intentFlt (d : Dev) (t : Thread) (k : Nat) (wr : Bool) : Option Flt :=
  let s := d.slot t.core k
  flt (if wr then !s.wr else !s.rd) (t.lane + 1) cLeaseViolation (addrDetail s.va.toNat t.lane 0 0 wr none)

/-- The stash checks of a row's 2,048 bytes (R171). -/
def Dev.rowStashFlt (d : Dev) (t : Thread) (off : Nat) (wr : Bool) : Option Flt :=
  let x := addrDetail off t.lane 0 2 wr none
  let mapped := ((d.chunkOf? t).map (fun c => c.mapped off 2048)).getD false
  firstFlt
    [flt (off % 512 ≠ 0) (t.lane + 1) cAlignment x,
     flt (d.stashLen t < off + 2048 || mapped) (t.lane + 1) cStashRange x]

/-- The gang that has the planes, as the accepted instructions of a thread's gang leave them (R19, R280, R281). DEDUCED: notes/assumptions/39. -/
def Dev.planesOf (d : Dev) (t : Thread) : Option Nat := (d.gangOf? t).bind (fun g => (d.ahead t.core g.1 g.2).planes)

/-- ROWCON into ws (R171). -/
def execRowconW (h : Hd) (a : SlotNo) (k : BitVec 3) (s : State) : Host.Outcome State Fault Refusal :=
  onDev s (fun d => d.rowInstr (.rowconW h a k) h (fun _ _ => []) (fun _ _ => none)
    (fun d t => firstFlt
      [d.slotFlt t a.toNat,
       flt (d.planesOf t ≠ some (d.gangNo t)) (t.lane + 1) cMatrixNotOwned (detailOf 0x91 0x100 0),
       d.intentFlt t a.toNat false]) false noHold
    (fun d t => d.request [t] a.toNat (.toPlane k.toNat)) (fun d ts => d.retireOff h ts))

/-- ROWCON into the stash (R171). -/
def execRowconS (h : Hd) (a : SlotNo) (base : Src) (off : W32) (s : State) : Host.Outcome State Fault Refusal :=
  let so := fun (d : Dev) (t : Thread) => ((d.env t).rowAddr false base off).1
  onDev s (fun d => d.rowInstr (.rowconS h a base off) h (fun d t => [so d t]) (fun d t => d.rowBaseFlt t false base)
    (fun d t => firstFlt [d.slotFlt t a.toNat, d.rowStashFlt t (so d t) true, d.intentFlt t a.toNat false])
    false (fun d t => d.matrixHolds t true (.stash (so d t)) 2048)
    (fun d t => d.request [t] a.toNat (.toStash t.lid t.chunk (so d t))) (fun d ts => d.retireOff h ts))

/-- ROWCON into registers (R171): the active lanes share one transfer. -/
def execRowconV (h : Hd) (r : VReg) (a : SlotNo) (s : State) : Host.Outcome State Fault Refusal :=
  onDev s (fun d => d.rowInstr (.rowconV h r a) h (fun _ _ => []) (fun _ _ => none)
    (fun d t => firstFlt [d.slotFlt t a.toNat, d.intentFlt t a.toNat false]) false noHold (fun d _ => d)
    (fun d ts =>
      (d.retireOff h ts).request ts a.toNat (.toRegs (ts.filterMap (fun t => (d.rank? t).map (fun q => (t.uid, q)))) r)))

/-- The 2,048 bytes a stash form of ROWPUT writes, by 64-bit word with its poison. -/
def Dev.rowData (d : Dev) (t : Thread) (off : Nat) : Memory × List Nat :=
  match d.chunkOf? t with
  | some c => (c.stash.slice off 2048, (upTo 256).filter (fun w => psnAny c.stashPsn (off + 8 * w) 8))
  | none => ([], [])

/-- ROWPUT from the stash (R172). -/
def execRowput (h : Hd) (a : SlotNo) (base : Src) (off : W32) (s : State) : Host.Outcome State Fault Refusal :=
  let so := fun (d : Dev) (t : Thread) => ((d.env t).rowAddr false base off).1
  onDev s (fun d => d.rowInstr (.rowput h a base off) h (fun d t => so d t :: [((d.rowData t (so d t)).1.getLE 0 2048)])
    (fun d t => d.rowBaseFlt t false base)
    (fun d t => firstFlt [d.slotFlt t a.toNat, d.rowStashFlt t (so d t) false, d.intentFlt t a.toNat true])
    false (fun d t => d.matrixHolds t false (.stash (so d t)) 2048 || d.matrixHolds t true (.phys (d.slot t.core a.toNat).pa) 2048)
    (fun d t =>
      let x := d.rowData t (so d t)
      d.request [t] a.toNat (.put x.1 [(0, 2048)] x.2)) (fun d ts => d.retireOff h ts))

/-- The 32 bytes of a lane of ROWPUT.V and its poisoned words, at its rank's place in the row. -/
def Dev.rowPart (d : Dev) (t : Thread) (b : VReg) : Nat × List Byte × List Nat :=
  let r := (d.rank? t).getD 0
  let ws := (upTo 8).map (fun m => (d.env t).read 1 (.v (b + BitVec.ofNat 9 m) false))
  (r, (ws.map (fun w => leBytes 4 w.1)).flatten,
    (upTo 4).filterMap (fun k => if (ws[2 * k]?.map Prod.snd).getD false || (ws[2 * k + 1]?.map Prod.snd).getD false then some (4 * r + k) else none))

/-- ROWPUT from registers (R172): the active lanes form one transfer. -/
def execRowputV (h : Hd) (a : SlotNo) (b : VReg) (s : State) : Host.Outcome State Fault Refusal :=
  onDev s (fun d => d.rowInstr (.rowputV h a b) h (fun d t => [leOf (d.rowPart t b).2.1]) (fun _ _ => none)
    (fun d t => firstFlt [d.slotFlt t a.toNat, d.intentFlt t a.toNat true])
    false (fun d t => d.matrixHolds t true (.phys ((d.slot t.core a.toNat).pa + 32 * (d.rank? t).getD 0)) 32) (fun d _ => d)
    (fun d ts =>
      let ps := ts.map (fun t => d.rowPart t b)
      let data := ps.foldl (fun (m : Memory) p => m.setBytes (32 * p.1) p.2.1) []
      (d.retireOff h ts).request ts a.toNat (.put data (ps.map (fun p => (32 * p.1, 32))) (ps.map (fun p => p.2.2)).flatten)))

/-! ### Closing, querying and waiting (R173 to R175) -/

/-- A transfer through a slot is queued. -/
def Dev.slotBusy (d : Dev) (core k : Nat) : Bool := (d.core core).slotBusy k

/-- ROWPRE (R173): the lanes are served in turn, each in the state that those before it leave; all wait for the transfers through the
slot. -/
def execRowpre (h : Hd) (a : SlotNo) (s : State) : Host.Outcome State Fault Refusal :=
  onDev s (fun d => d.rowInstr (.rowpre h a) h (fun _ _ => []) (fun _ _ => none)
    (fun d t => d.rowFlt t a.toNat (d.slotTaken t a.toNat) cSlotInUse)
    false (fun d t => d.slotBusy t.core a.toNat) (fun d t => d.closeSlot t.core a.toNat) (fun d _ => d.done h))

/-- What ROWQRY writes (R174). -/
def Dev.rowqryWords (d : Dev) (t : Thread) (k : Nat) : List W32 :=
  let s := d.slot t.core k
  let st := d.slotState t k
  let live := st = .opening || st = .ready
  let rdy : W64 := if live then s.ready else 0
  let word := if st = .empty then 0 else st.num + rowOf s.pa * 2 ^ 2 + bankOf s.pa * 2 ^ 12
  [lo32 rdy, hi32 rdy, BitVec.ofNat 32 word, if live then lo32 (s.close - d.cyc t.ctx) else 0]

/-- Two words of a list as one. -/
def d64 (ws : List W32) (k : Nat) : W64 := (ws[k + 1]?.getD 0) ++ (ws[k]?.getD 0)

/-- ROWQRY (R174): its words are inputs of a re-run (R443). -/
def execRowqry (h : Hd) (r : VReg) (a : SlotNo) (s : State) : Host.Outcome State Fault Refusal :=
  onDev s (fun d => d.rowInstr (.rowqry h r a) h (fun _ _ => []) (fun _ _ => none)
    (fun d t => d.rowFlt t a.toNat (d.slotTaken t a.toNat) cSlotInUse) true noHold
    (fun d t =>
      let ws := d.rowqryWords t a.toNat
      let y := d.cycInput t (d64 ws 0)
      let z := y.2.cycInput t (d64 ws 2)
      z.2.deliver t.uid (fun x => x.wrs r [lo32 y.1, hi32 y.1, lo32 z.1, hi32 z.1] false))
    (fun d _ => d.done h))

/-- ROWWT (R175). -/
def execRowwt (h : Hd) (p : PReg) (a : SlotNo) (s : State) : Host.Outcome State Fault Refusal :=
  onDev s (fun d => d.rowInstr (.rowwt h p a) h (fun _ _ => []) (fun _ _ => none)
    (fun d t => firstFlt
      [d.rowFlt t a.toNat (d.slotTaken t a.toNat) cSlotInUse,
       d.rowFlt t a.toNat ((d.slot t.core a.toNat).state = .empty) cSlotEmpty]) false noHold
    (fun d t =>
      let x := d.slot t.core a.toNat
      match d.slotState t a.toNat with
      | .opening => d.deliver t.uid (fun y => { y.hint h.yh d.pcyc with wait := .row p a x.act, since := d.pcyc })
      | st => d.deliver t.uid (fun y => ((y.setPred p (if st = .ready then 0xFF else 0x00) false).retire d.pcyc).hint h.yh d.pcyc))
    (fun d ts => d.retireOff h ts))

/-! ### The column's events (R170, R173, R177, R178) -/

/-- The copy of a row as its activation delivers it: its bytes by offset and its poisoned 64-bit words (R118, R182). -/
def Dev.rowCopy (d : Dev) (pa : Nat) : Memory × List Nat :=
  let bs := (upTo 256).map (fun w => (upTo 8).map (fun j => d.arrayByte (pa + 8 * w + j)))
  (((upTo 2048).zip (bs.flatten.map Prod.fst)).filter (fun c => c.2 ≠ 0),
   (upTo 256).filter (fun w => ((bs[w]?.getD []).any Prod.snd)))

/-- A slot with the copy of its row; a recorded copy stays (R186). -/
def Dev.withCopy (d : Dev) (s : RowSlot) : RowSlot :=
  if s.kept then s else { s with copy := (d.rowCopy s.pa).1, psn := (d.rowCopy s.pa).2 }

/-- The cycles for which a context's clock has stood at its halt (R98, R186). -/
def Dev.haltedFor (d : Dev) (slot : Nat) : Nat :=
  match (d.ctx? slot).map Ctx.phase with
  | some (.saving t) => d.pcyc - t
  | _ => 0

/-- The activation of a slot is complete: CYC, which stands while the context is halted, would have reached its ready time. -/
def Dev.activated (d : Dev) (s : RowSlot) : Bool :=
  s.state = .opening && s.ready.toNat ≤ (d.cyc s.ctx).toNat + d.haltedFor s.ctx && !(s.kept && 0 < d.haltedFor s.ctx)

/-- ACTIVATION_COMPLETE: at the ready time the slot takes its copy and becomes READY (R170); one that completes after its context halted is
recorded as OPENING with its copy (R186). DEDUCED: notes/assumptions/21. -/
def Dev.activation (d : Dev) (core k : Nat) : Dev :=
  let s := d.slot core k
  if d.activated s then
    let d1 := if s.kept then d else d.eccNote s.opener false s.pa 2048
    if s.ready ≤ d.cyc s.ctx then
      (d1.mapCore core (fun c =>
        { c with slots := c.slots.set k { d.withCopy s with state := .ready } })).wakeRow core k s.act true
    else d1.mapCore core (fun c => { c with slots := c.slots.set k { d.withCopy s with kept := true } })
  else d

/-- ACTIVATION_COMPLETE (R170). -/
def execActivationComplete (core slot : Nat) (s : State) : Host.Outcome State Fault Refusal :=
  onDev s (fun d => d.activation core slot)

/-- FORCED_CLOSE: at the close time the slot becomes LOST and its bank precharges; a transfer in progress completes first
(R178). DEDUCED: notes/assumptions/70. -/
def Dev.forceClose (d : Dev) (core k : Nat) : Dev :=
  let s := d.slot core k
  if (s.state = .opening || s.state = .ready) && s.close ≤ d.cyc s.ctx && !(d.slotBusy core k) then
    let d1 := (d.rewriteRow s.pa).mapCore core (fun c =>
      { c.mapBank (bankOf s.pa) (fun b => { b with preEnd := d.pcyc + 18 }) with
        slots := c.slots.set k { s with state := .lost, copy := [], psn := [] } })
    d1.wakeRow core k s.act false
  else d

/-- FORCED_CLOSE (R178). -/
def execForcedClose (core slot : Nat) (s : State) : Host.Outcome State Fault Refusal :=
  onDev s (fun d => d.forceClose core slot)

/-- PRECHARGE_DONE: the bank's precharge has ended (R173). -/
def Dev.preDone (d : Dev) (core bank : Nat) : Dev :=
  let b := (d.core core).bank bank
  if b.preEnd ≠ 0 && b.preEnd ≤ d.pcyc then d.mapCore core (fun c => c.mapBank bank (fun b => { b with preEnd := 0 }))
  else d

/-- PRECHARGE_DONE (R173). -/
def execPrechargeDone (core bank : Nat) (s : State) : Host.Outcome State Fault Refusal :=
  onDev s (fun d => d.preDone core bank)

/-- A refresh window of a layer may begin (R177): 3,900 cycles after its last one began; its first, where it leaves those of the other
layers apart. DESIGN CHOICE: notes/assumptions/71. -/
def Dev.refreshMay (d : Dev) (core layer : Nat) : Bool :=
  let c := d.core core
  layer < 8 &&
    (match KV.get? c.refresh layer with
     | some e => e + 3780 ≤ d.pcyc
     | none => c.refresh.all (fun r =>
         let x := (d.pcyc + 3900 - (r.2 - 120) % 3900) % 3900
         120 ≤ x && x ≤ 3780))

/-- A refresh window of a layer must begin: 3,900 cycles after its last one began, or within the first such period (R177). -/
def Dev.refreshDue (d : Dev) (core layer : Nat) : Bool :=
  d.refreshMay core layer && (3900 ≤ d.pcyc || (KV.get? (d.core core).refresh layer).isSome)

/-- REFRESH_WINDOW (R177). DESIGN CHOICE: notes/assumptions/71. -/
def execRefreshWindow (core layer : Nat) (s : State) : Host.Outcome State Fault Refusal :=
  onDev s (fun d =>
    if d.refreshMay core layer then d.mapCore core (fun c => { c with refresh := KV.set c.refresh layer (d.pcyc + 120) }) else d)

/-! ### The bus: parity, repetitions and lane swaps (R165, R183) -/

/-- The lane that carries a lane: itself, or the spare it was moved onto last. Lanes 0 to 2,047 carry data, 2,048 + g the parity of group
g, 2,080 + k is spare k. -/
def Phys.carrier (p : Phys) (lane : Nat) : Nat :=
  match ((upTo p.spares.length).filter (fun k => p.spares[k]? == some lane)).getLast? with
  | some k => 2080 + k
  | none => lane

/-- Whether the lane that carries a lane is stuck, and at what. DESIGN CHOICE: notes/assumptions/72. -/
def Phys.stuckAt (p : Phys) (lane : Nat) : Option Bool := (p.stuck.find? (fun s => s.lane == p.carrier lane)).map StuckLane.value

/-- The data lanes that arrive wrong in a beat of a row, sent inverted or not. -/
def Phys.wrongLanes (p : Phys) (data : Memory) (inv : Bool) (beat : Nat) : List Nat :=
  ((p.stuck.map StuckLane.lane ++ (upTo 16).filterMap (fun k => if p.stuck.any (fun s => s.lane == 2080 + k) then p.spares[k]? else none)).filter
    (fun l => l < 2048)).eraseDups.filter (fun l =>
      match p.stuckAt l with
      | some v => (v != inv) != (data.get (256 * beat + l / 8)).getLsbD (l % 8)
      | none => false)

/-- Even parity of one aligned 64-bit word of a beat. -/
def parityOf (data : Memory) (beat g : Nat) : Bool :=
  (upTo 8).foldl (fun x j => xor x ((upTo 8).foldl (fun y k => xor y ((data.get (256 * beat + 8 * g + j)).getLsbD k)) false)) false

/-- The parity lane of a group arrives wrong in a beat. -/
def Phys.parityWrong (p : Phys) (data : Memory) (beat g : Nat) : Bool :=
  match p.stuckAt (2048 + g) with
  | some v => v != parityOf data beat g
  | none => false

/-- The (group, beat) pairs that fail their parity. -/
def Phys.failing (p : Phys) (data : Memory) (inv : Bool) : List (Nat × Nat) :=
  if p.stuck = [] then []
  else
    ((upTo 32).map (fun g => (upTo 8).filterMap (fun b =>
      let n := ((p.wrongLanes data inv b).filter (fun l => l / 64 == g)).length + b2n (p.parityWrong data b g)
      if n % 2 = 1 then some (g, b) else none))).flatten

/-- The data as they arrive. -/
def Phys.received (p : Phys) (data : Memory) (inv : Bool) : Memory :=
  if p.stuck = [] then data
  else
    (upTo 8).foldl (fun m b =>
      (p.wrongLanes data inv b).foldl (fun (m : Memory) l =>
        m.set (256 * b + l / 8) (m.get (256 * b + l / 8) ^^^ (1#8 <<< (l % 8)))) m) data

/-- One transfer error log entry (R184). -/
def busEntry (put : Bool) (att group beat lane : Nat) (swapped : Bool) (spare pa now : Nat) : LogEntry :=
  BitVec.ofNat 128 (packFields
    [(0, 1, b2n put), (1, 2, att), (8, 5, group), (13, 3, beat), (16, 11, lane), (27, 1, b2n swapped), (28, 4, spare),
     (32, 10, rowOf pa), (42, 7, bankOf pa), (64, 64, now)])

/-- Adds an entry to the transfer error log of a physical core. -/
def Dev.logBus (d : Dev) (phys : Nat) (e : LogEntry) : Dev :=
  d.mapPhys phys (fun p => { p with busLog := ringAdd p.busLog e, busCnt := (p.busCnt + 1) % 2 ^ 32 })

/-- The detail of a bus record: the word of a group in a beat (R379, group 11; R446). -/
def busDetail (va : W64) (group beat lane spare att : Nat) : Detail :=
  let a := va + BitVec.ofNat 64 (256 * beat + 8 * group)
  detailOf (a.toNat % 2 ^ 32) (a.toNat / 2 ^ 32) (lane * 2 ^ 4 + spare * 2 ^ 15 + att * 2 ^ 19)

/-- What a transfer carries. -/
def Transfer.data (b : Transfer) (s : RowSlot) : Memory × List Nat :=
  match b.kind with
  | .put data _ psn => (data, psn)
  | _ => (s.copy, s.psn)

/-- The transfer goes into the column. -/
def Transfer.isPut (b : Transfer) : Bool :=
  match b.kind with
  | .put .. => true
  | _ => false

/-- Register words of a row for a rank (R171): 32 bytes, each word with the poison of its 64-bit word. -/
def rankWords (data : Memory) (psn : List Nat) (r : Nat) : List (W32 × Bool) :=
  (upTo 8).map (fun m => (BitVec.ofNat 32 (data.getLE (32 * r + 4 * m) 4), psn.contains (4 * r + m / 2)))

/-- The writes of a transfer that has crossed (R171, R172): those of a put belong to the threads that wait for it. -/
def Dev.landTransfer (d : Dev) (core : Nat) (b : Transfer) (pa : Nat) (data : Memory) (psn : List Nat) : Dev :=
  match b.kind with
  | .line .. => d
  | .toPlane k =>
    d.mapCore core (fun c =>
      if c.planeOwner ≠ some b.gang then c
      else { c with planes := mapAt c.planes (1 - c.active) (fun p =>
          { bytes := p.bytes.splice (2048 * k) 2048 data
            psn := (p.psn.filter (fun b => !(2048 * k ≤ b && b < 2048 * k + 2048))) ++
              (psn.map (fun w => (upTo 8).map (fun i => 2048 * k + 8 * w + i))).flatten
            loaded := p.loaded ||| (1#8 <<< k) }) })
  | .toStash lid chunk off =>
    d.mapChunk b.ctx lid chunk (fun c =>
      { c with
        stash := c.stash.splice off 2048 data
        stashPsn := psn.foldl (fun p w => NatSet.add p (off / 8 + w)) (psnPut c.stashPsn off 2048 false) })
  | .toRegs dests r =>
    dests.foldl (fun d x =>
      d.deliver x.1 (fun t => (regRun r (rankWords data psn x.2)).foldl (fun t y => t.wr y.1 y.2.1 y.2.2) t)) d
  | .put _ mask _ =>
    mask.foldl (fun d m =>
      (upTo (m.2 / 8)).foldl (fun (d : Dev) k =>
        let o := m.1 + 8 * k
        d.writePhys (.threads b.uids) (pa + o) (data.getBytes o 8) (psn.contains (o / 8))) d) d

/-- A transfer is done: its writes land, it leaves the bus, and its threads go on in the cycle after the last beat (R63, R447). DEDUCED: notes/assumptions/10. -/
def Dev.finishTransfer (d : Dev) (core : Nat) (b : Transfer) (pa : Nat) (data : Memory) (psn : List Nat) : Dev :=
  let d1 := (d.landTransfer core b pa data psn).mapCore core (fun c => { c with bus := c.bus.filter (fun x => x.id ≠ b.id) })
  ((d1.mapThreads (fun t => t.wait == .transfer b.id) (fun t => t.woken (d.pcyc - 1))).closeDropped core b.slot).wakeReleases core

/-- A line of the cache path has crossed (R165): its row may stay open in the bank, and its instruction goes on. DESIGN CHOICE: notes/assumptions/139. -/
def Dev.finishLine (d : Dev) (core : Nat) (b : Transfer) (pa : Nat) : Dev :=
  let d1 := (d.cacheOpens pa).mapCore core (fun c => { c with bus := c.bus.filter (fun x => x.id ≠ b.id) })
  match b.ticket with
  | some k => d1.wakeFar k
  | none => d1

/-- Changes a request on the bus. -/
def Dev.mapTransfer (d : Dev) (core id : Nat) (f : Transfer → Transfer) : Dev :=
  d.mapCore core (fun c => { c with bus := c.bus.map (fun x => if x.id = id then f x else x) })

/-- The lowest failing group and its first failing beat. -/
def firstFail (fs : List (Nat × Nat)) : Nat × Nat := fs.headD (0, 0)

/-- The words of failing groups are delivered poisoned (R183, step 5). -/
def poisonGroups (psn : List Nat) (fs : List (Nat × Nat)) : List Nat := fs.foldl (fun p f => NatSet.add p (32 * f.2 + f.1)) psn

/-- A record of the bus names the instruction whose threads wait for the transfer, and the cycle of the failing beat (R446, R448). DEDUCED: notes/assumptions/20. -/
def Dev.busNote (d : Dev) (b : Transfer) (c : Cause) (x : Detail) (at_ : Nat) : Dev :=
  let ts := d.threads.filter (fun t => b.uids.contains t.uid)
  let w := match ts with
    | t :: _ => { d.whoOf t with slot := some b.ctx }
    | [] => Who.nobody (some b.ctx)
  d.record { Rec.plain w c x with lanes := ts.map Thread.lane, ago := d.pcyc - at_ }

/-- The entries and records of the lanes a transfer swapped, which describe the failure of the second repetition
(R183, step 4; R184, R446). -/
def Dev.noteSwaps (d : Dev) (pn : Nat) (b : Transfer) (s : RowSlot) : Dev :=
  b.swaps.foldl (fun (d : Dev) x =>
    let (g, beat, lane, spare) := x
    (d.logBus pn (busEntry b.isPut 3 g beat lane true spare s.pa (b.second + beat))).busNote b cLaneSwapped
      (busDetail s.va g beat lane spare 3) (b.second + beat)) d

/-- Some groups stay wrong: their words are delivered poisoned, and the error recorded (R183, step 5). -/
def Dev.crossBad (d : Dev) (core : Nat) (b : Transfer) (s : RowSlot) (data : Memory) (psn : List Nat) (fs : List (Nat × Nat))
    (start : Nat) : Dev :=
  let f := firstFail fs
  (d.busNote b cEccUncorrected (busDetail s.va f.1 f.2 0 0 (min b.att 3)) (start + f.2)).finishTransfer core b s.pa data
    (poisonGroups psn fs)

/-- The last beat of a transfer has arrived and every beat is checked (R183). DEDUCED: notes/assumptions/20. -/
def Dev.cross (d : Dev) (core : Nat) (b : Transfer) (start : Nat) : Dev :=
  let s := d.slot core b.slot
  let pn := d.physOf core
  let p := d.phys? pn
  let (data, psn) := b.data s
  let inv := b.att = 2
  let fs := p.failing data inv
  let f := firstFail fs
  let got := p.received data inv
  if fs = [] then (if b.att = 4 then d.noteSwaps pn b s else d).finishTransfer core b s.pa got psn
  else
    match b.att with
    | 0 | 1 =>
      ((d.logBus pn (busEntry b.isPut (b.att + 1) f.1 f.2 0 false 0 s.pa (start + f.2))).busNote b cBusParityRetried
        (busDetail s.va f.1 f.2 0 0 (b.att + 1)) (start + f.2)).mapTransfer core b.id
        (fun x => { x with att := b.att + 1, beats := none, passed := 0 })
    | 2 =>
      -- the lanes of failing groups whose raw values in the two repetitions are not complementary (R183, step 2)
      let groups := ((p.failing data false ++ fs).map Prod.fst).eraseDups
      let bump := fun (x : Phys) =>
        ((groups.flatMap (fun g => (upTo 64).map (fun k => 64 * g + k))).filter (fun l => (x.stuckAt l).isSome)).foldl
          (fun (x : Phys) l => { x with lanes := KV.set x.lanes l (min 255 (KV.get x.lanes 0 l + 8)) }) x
      let d1 := d.mapPhys pn bump
      if p.spares.length < 16 then d1.mapTransfer core b.id (fun x => { x with att := 3, beats := none, second := start, passed := 0 })
      else d1.crossBad core b s got psn fs start
    | _ => (d.noteSwaps pn b s).crossBad core b s got psn fs start

/-- The matrix instruction names a plane (R280). -/
def namesPlane : Instr → Bool
  | .mldw .. | .mswap .. | .mstream .. | .mgrp .. => true
  | .mtake _ _ m | .mgive _ m => m.getLsbD 8
  | .sampmm .. => true
  | _ => false

/-- The address of the row or line of a request. -/
def Transfer.at_ (b : Transfer) (s : RowSlot) : Nat :=
  match b.kind with
  | .line pa _ _ => pa
  | _ => s.pa

/-- The request can cross now: its layer is not refreshed, the gang's earlier matrix instructions on the planes are done,
a put finds staging, no slot holds another row of a line's bank open (R181), and it does not wait for a swap. -/
def Dev.mayCross (d : Dev) (core : Nat) (b : Transfer) : Bool :=
  let s := d.slot core b.slot
  let c := d.core core
  b.att ≠ 3 && b.after ≤ d.pcyc && d.refreshLeft core (b.at_ s) = 0 &&
    (match b.kind with
     | .toPlane _ => !(c.mq.any (fun m => m.gang == b.gang && m.ticket < b.id && namesPlane m.instr)) &&
         !(c.mwait.any (fun m => m.job.gang == b.gang && m.ticket < b.id && namesPlane m.job.instr))
     | .put .. => !(d.stagingStall (s.pa / 4096))
     | .line pa _ _ => !(c.openIn pa false)
     | _ => true)

/-- The transfer that is crossing, with the PCYC of its first beat: one at a time (R165). -/
def Core.crossing (c : Core) : Option (Transfer × Nat) := c.bus.findSome? (fun b => b.beats.map (fun t => (b, t)))

/-- The last of the 8 beats has crossed (R165). -/
def Dev.crossed (d : Dev) (core : Nat) : Bool := ((d.core core).crossing.map (fun x => decide (x.2 + 8 ≤ d.pcyc))).getD false

/-- The bus is free and has a request that can cross. -/
def Dev.busReady (d : Dev) (core : Nat) : Bool := (d.core core).crossing.isNone && (d.core core).bus.any (d.mayCross core)

/-- ROW_TRANSFER: the bus grants one request, whose beats begin (R96, R165); or, 8 cycles later, its last beat has arrived. DEDUCED: notes/assumptions/70. DESIGN CHOICE: notes/assumptions/139. -/
def Dev.rowTransfer (d : Dev) (core : Nat) : Dev :=
  match (d.core core).crossing with
  | some (b, t) =>
    if t + 8 ≤ d.pcyc then
      match b.kind with
      | .line pa _ _ => d.finishLine core b pa
      | _ => d.cross core b t
    else d
  | none =>
    let ready := (d.core core).bus.filter (d.mayCross core)
    match grantOf Transfer.prio Transfer.passed ready with
    | none => d
    | some b =>
      let past := (passedBy Transfer.prio ready b).map Transfer.id
      (d.mapCore core (fun c =>
        { c with bus := c.bus.map (fun x => if past.contains x.id then { x with passed := x.passed + 1 } else x) })).mapTransfer
          core b.id (fun x => { x with beats := some d.pcyc })

/-- ROW_TRANSFER (R165, R171, R172). -/
def execRowTransfer (core : Nat) (s : State) : Host.Outcome State Fault Refusal := onDev s (fun d => d.rowTransfer core)

/-- The lane chosen in a failing group: the highest counter, the lowest lane of equal counts (R183, step 3). DEDUCED: notes/assumptions/20. -/
def chooseLane (p : Phys) (g : Nat) : Nat :=
  (minBy (fun l => (255 - KV.get p.lanes 0 l) * 4096 + l) ((upTo 64).map (fun k => 64 * g + k))).getD (64 * g)

/-- LANE_SWAP: the chosen lanes are moved to free spares while the bank is closed and reopened (R183, step 3). DEDUCED: notes/assumptions/20. -/
def Dev.laneSwap (d : Dev) (core : Nat) : Dev :=
  match (d.core core).bus.find? (fun b => b.att = 3) with
  | none => d
  | some b =>
    let s := d.slot core b.slot
    let pn := d.physOf core
    let p := d.phys? pn
    let groups := ((p.failing (b.data s).1 true).map Prod.fst).eraseDups
    let picks := (groups.map (fun g => (g, chooseLane p g))).take (16 - p.spares.length)
    let bad := p.failing (b.data s).1 true
    let beat := fun (g : Nat) => ((bad.find? (fun f => f.1 == g)).map Prod.snd).getD 0
    let swaps := (upTo picks.length).zip picks |>.map (fun x => (x.2.1, beat x.2.1, x.2.2, p.spares.length + x.1))
    let d1 := d.mapPhys pn (fun p =>
      { p with spares := p.spares ++ picks.map Prod.snd, lanes := [] })
    ((d1.rewriteRow s.pa).mapCore core (fun c =>
      { c with slots := c.slots.set b.slot { s with close := d.cyc s.ctx + 18 + 6000 } })).mapTransfer core b.id
        (fun x => { x with att := 4, after := d.pcyc + 42, swaps := swaps, passed := 0 })

/-- LANE_SWAP (R183). -/
def execLaneSwap (core : Nat) (s : State) : Host.Outcome State Fault Refusal := onDev s (fun d => d.laneSwap core)

end Sys2Proof.Machine
end

