-- ==== Sys2Proof/Machine/MatrixRun.lean ====
section
/-! DEFINITION. What accepted matrix and sampled-product instructions do, step by step (spec/11 R274 to R297, spec/12 R307
to R318, spec/09 R223, R227). -/

namespace Sys2Proof.Machine

/-! ### Memory and stash of an instruction (R282) -/

/-- The agents of an instruction's accesses: every participant (R105, R282). -/
def MatrixJob.agents (j : MatrixJob) : List Agent := j.parts.map (fun p => .thread p.1)

/-- Reads at most eight bytes for an instruction. -/
def Dev.matGet (d : Dev) (j : MatrixJob) (stash : Bool) (a n : Nat) : Nat × Bool :=
  if stash then
    match d.chunk? j.ctx j.lid j.home with
    | some ch => (ch.stash.getLE a n, psnAny ch.stashPsn a n)
    | none => (0, false)
  else
    match (d.ctx? j.ctx).bind (fun c => d.pa? c (a % 2 ^ 56)) with
    | some pa => let x := d.readAs j.agents pa n; (leOf x.1, x.2)
    | none => (0, false)

/-- Changes an accepted instruction. -/
def Dev.mapMatrix (d : Dev) (core ticket : Nat) (f : MatrixJob → MatrixJob) : Dev :=
  d.mapCore core (fun c => { c with mq := c.mq.map (fun j => if j.ticket = ticket then f j else j) })

/-- The instruction has written a poisoned element in a word. -/
def MatrixJob.marked (j : MatrixJob) (stash : Bool) (a : Nat) : Bool := j.marks.contains (stash, a / 8)

/-- Writes an element of at most eight bytes for an instruction. A poisoned element marks its word, and a clean one beside it by the same
instruction leaves it marked (R136, R225, R292). DEDUCED: notes/assumptions/23. -/
def Dev.matPut (d : Dev) (core : Nat) (j : MatrixJob) (stash : Bool) (a n : Nat) (x : Nat × Bool) : Dev :=
  let p := x.2 || (d.core core).mq.any (fun y => y.ticket == j.ticket && y.marked stash a)
  let d1 :=
    if stash then
      d.mapChunk j.ctx j.lid j.home (fun ch =>
        { ch with stash := ch.stash.setLE a n x.1, stashPsn := psnPut ch.stashPsn a n p })
    else
      match (d.ctx? j.ctx).bind (fun c => d.pa? c (a % 2 ^ 56)) with
      | some pa => d.writePhys (.plain j.agents) pa (leBytes n x.1) p
      | none => d
  if x.2 then d1.mapMatrix core j.ticket (fun y => { y with marks := (stash, a / 8) :: y.marks }) else d1

/-- What the reads of some source bytes leave behind: the participants have seen them (R114), and array errors are recorded (R182). -/
def Dev.matNote (d : Dev) (j : MatrixJob) (s : MSpan) : Dev :=
  if s.stash || s.len = 0 then d
  else
    match d.ctx? j.ctx with
    | none => d
    | some c => (d.pasOf c (s.addr % 2 ^ 56) s.len).foldl (fun d p => (d.sawAs j.agents p.1 p.2).eccNote none true p.1 p.2) d

/-- The same for some rows of a side, each of n elements of e bytes. -/
def Dev.matNotes (d : Dev) (j : MatrixJob) (s : MSide) (rows : List Nat) (e n : Nat) : Dev :=
  if s.stash || (d.flips.isEmpty && d.caches.olds.isEmpty) then d
  else rows.foldl (fun d i => d.matNote j { stash := s.stash, addr := s.row i, el := e, len := e * n, wr := false }) d

/-- `k` elements of `e` bytes of a row. -/
def Dev.elems (d : Dev) (j : MatrixJob) (s : MSide) (i e k : Nat) : List (Nat × Bool) :=
  (upTo k).map (fun x => d.matGet j s.stash (s.row i + e * x) e)

/-! ### Products (R227, R294) -/

/-- What becomes of one accumulator element: its bits, its poison, and which events it counts. -/
structure Cell where
  v      : Nat
  psn    : Bool
  ovf    : Bool
  inv    : Bool
  nonfin : Bool
  deriving DecidableEq, Repr

/-- The format of a floating-point element type. -/
def mFmt (ty : MTy) : Fmt := if ty = .f16 then Fmt.f16 else Fmt.bf16

/-- A value is infinite or a NaN. -/
def FVal.odd (x : FVal) : Bool := FVal.isNan x || FVal.isInf x

/-- Adds blocks of eight products, one rounding a block (R227). -/
def addBlocks : Nat → Cell → List (FVal × FVal) → Cell
  | 0, c, _ => c
  | fuel + 1, c, ps =>
    if ps.isEmpty then c
    else
      let b := ps.take 8
      let s := (blockSum b).1
      let r := fpAdd Fmt.f32 (f32 c.v) s
      let made := (f32 r.1).isNan && !(f32 c.v).isNan && !(b.any (fun p => p.1.isNan || p.2.isNan))
      addBlocks fuel { c with v := r.1, ovf := c.ovf || r.2 &&& fOF != 0, inv := c.inv || made } (ps.drop 8)

/-- One element of a product over some pairs of elements (R227, R294). -/
def dotCell (ty : MTy) (prior : Nat × Bool) (ps : List ((Nat × Bool) × (Nat × Bool))) : Cell :=
  let psn := prior.2 || ps.any (fun p => p.1.2 || p.2.2)
  match ty with
  | .i8 =>
    let s := ps.foldl (fun (x : Int) p => x + elemInt true 8 p.1.1 * elemInt true 8 p.2.1) 0
    { v := ((Int.ofNat prior.1 + s) % 2 ^ 32).toNat, psn := psn, ovf := false, inv := false, nonfin := false }
  | ty =>
    let fs := ps.map (fun p => (FVal.ofBits (mFmt ty) p.1.1, FVal.ofBits (mFmt ty) p.2.1))
    let bad := FVal.odd (f32 prior.1) || fs.any (fun p => FVal.odd p.1 || FVal.odd p.2)
    addBlocks (fs.length / 8 + 1) { v := prior.1, psn := psn, ovf := false, inv := false, nonfin := bad } fs

/-- An element of a plane, by type (R274). -/
def Plane.elem (p : Plane) (ty : MTy) (k c : Nat) : Nat × Bool :=
  let o := if ty = .i8 then 32 * k + c else 64 * k + 2 * c
  (p.bytes.getLE o ty.size, (upTo ty.size).any (fun b => p.psn.contains (o + b)))

/-- The cells of a table, by place. -/
def cellAt (cs : List (List Cell)) (i c : Nat) : Option Cell := (cs[i]?).bind (fun r => r[c]?)

/-- Counts the events of some cells (R294). -/
def MatrixJob.count (j : MatrixJob) (cs : List Cell) : MatrixJob :=
  { j with ovf := j.ovf + (cs.filter Cell.ovf).length, inv := j.inv + (cs.filter Cell.inv).length,
           nonfin := j.nonfin + (cs.filter Cell.nonfin).length }

/-- Elements of a tile take cells, and their events are counted. -/
def Dev.putCells (d : Dev) (core : Nat) (j : MatrixJob) (tile : Nat) (cs : List (List Cell)) : Dev :=
  (d.mapCore core (fun c => c.mapTile tile (fun t => t.put (fun i k => (cellAt cs i k).map (fun x => (x.v, x.psn)))))).mapMatrix
    core j.ticket (fun j => j.count cs.flatten)

/-- One step of MSTREAM or MGRP: 32 rows of the result, each with its K and its first position of wa (R289, R290). -/
def Dev.productStep (d : Dev) (core : Nat) (j : MatrixJob) (ty : MTy) (z : Bool) (dst : TileNo) (rows : List (Nat × Nat)) : Dev :=
  let c := d.core core
  let s := msideAt j.ops 0 2
  let n := bitsOf (opAt j.ops 1) 16 16
  let tile := dst.toNat + j.step
  let t := c.tile tile
  let wa := c.plane c.active
  let mine := (rows.drop (32 * j.step)).take 32
  let cs := (upTo mine.length).map (fun i =>
    let (k, from_) := mine[i]?.getD (0, 0)
    let xs := d.elems j s (32 * j.step + i) ty.size k
    (upTo n).map (fun col =>
      dotCell ty (if z then (0, false) else t.at i col) (xs.zip ((upTo k).map (fun q => wa.elem ty (from_ + q) col)))))
  let d1 := (if s.stash || (d.flips.isEmpty && d.caches.olds.isEmpty) then [] else upTo mine.length).foldl (fun (d : Dev) i =>
    d.matNote j { stash := s.stash, addr := s.row (32 * j.step + i), el := ty.size, len := ty.size * ((mine[i]?.map Prod.fst).getD 0), wr := false }) d
  d1.putCells core j tile cs

/-- One step of MLDW: a sub-plane of ws (R287). -/
def Dev.loadStep (d : Dev) (core : Nat) (j : MatrixJob) (ty : MTy) (tr : Bool) : Dev :=
  let x := opAt j.ops 1
  let kc := bitsOf x 0 16
  let nc := bitsOf x 16 16
  let er := bitsOf x 32 16
  let ec := bitsOf x 48 16
  let s := msideAt j.ops 0 2
  let e := ty.size
  let sub := bitsOf (opAt j.ops 2) 33 3 + j.step
  let at_ := fun (i c : Nat) =>
    let k := ty.rowsOf * j.step + i
    let inside := if tr then c < er && k < ec else k < er && c < ec
    if k < kc && c < nc && inside then
      (if tr then d.matGet j s.stash (s.row c + e * k) e else d.matGet j s.stash (s.row k + e * c) e)
    else (0, false)
  let xs := ((upTo ty.rowsOf).map (fun i => (upTo 32).map (fun c => at_ i c))).flatten
  let bytes := (xs.map (fun y => (leBytes e y.1).map (fun b => (b, y.2)))).flatten
  let data := ((upTo 2048).zip (bytes.map Prod.fst)).filter (fun b => b.2 ≠ 0)
  let step := (upTo ty.rowsOf).map (fun i => ty.rowsOf * j.step + i)
  let d := if tr then d.matNotes j s (upTo (min nc er)) e (min kc ec) else d.matNotes j s (step.filter (fun k => k < min kc er)) e (min nc ec)
  let psn := ((upTo 2048).zip bytes).filterMap (fun b => if b.2.2 then some (2048 * sub + b.1) else none)
  d.mapCore core (fun c =>
    { c with planes := mapAt c.planes (1 - c.active) (fun p =>
        { bytes := p.bytes.splice (2048 * sub) 2048 data
          psn := p.psn.filter (fun b => !(2048 * sub ≤ b && b < 2048 * sub + 2048)) ++ psn
          loaded := p.loaded ||| (1#8 <<< sub) }) })

/-- A tile element as MST writes it (R292). -/
def storeConv (cv : Cv) (x : Nat) : Nat :=
  match cv with
  | .bf16 => (fpConv Fmt.f32 Fmt.bf16 .rn x).1
  | .f16 => (fpConv Fmt.f32 Fmt.f16 .rn x).1
  | _ => x

/-- A memory or register element as MLDA fills a tile with it (R292). -/
def loadConv (cv : Cv) (x : Nat) : Nat :=
  match cv with
  | .bf16 => (fpConv Fmt.bf16 Fmt.f32 .rn x).1
  | .f16 => (fpConv Fmt.f16 Fmt.f32 .rn x).1
  | _ => x

/-- The rows and columns of a memory form of MST or MLDA in its present step. -/
def MatrixJob.block (j : MatrixJob) : Nat × Nat :=
  (min 32 (bitsOf (opAt j.ops 1) 0 16 - 32 * j.step), bitsOf (opAt j.ops 1) 16 16)

/-- One step of MST to memory (R292). -/
def Dev.mstStep (d : Dev) (core : Nat) (j : MatrixJob) (cv : Cv) (a : TileNo) : Dev :=
  let s := msideAt j.ops 0 2
  let (rows, cols) := j.block
  let t := (d.core core).tile (a.toNat + j.step)
  (upTo rows).foldl (fun (d : Dev) i => (upTo cols).foldl (fun (d : Dev) c =>
    let x := t.at i c
    d.matPut core j s.stash ((s.row (32 * j.step + i) + cv.size * c) % (if s.stash then 2 ^ 32 else 2 ^ 64)) cv.size (storeConv cv x.1, x.2)) d) d

/-- One step of MLDA from memory (R292). -/
def Dev.mldaStep (d : Dev) (core : Nat) (j : MatrixJob) (cv : Cv) (t : TileNo) : Dev :=
  let s := msideAt j.ops 0 2
  let (rows, cols) := j.block
  let xs := (upTo rows).map (fun i => d.elems j s (32 * j.step + i) cv.size cols)
  let d1 := d.matNotes j s ((upTo rows).map (fun i => 32 * j.step + i)) cv.size cols
  d1.mapCore core (fun c => c.mapTile (t.toNat + j.step) (fun t => t.put (fun i k =>
    ((xs[i]?).bind (fun r => r[k]?)).map (fun x => (loadConv cv x.1, x.2)))))

/-- The registers MST gives the rank of a row (R292). -/
def Tile.rowRegs (t : Tile) (cv : Cv) (r : Nat) : List (W32 × Bool) :=
  if cv.size = 4 then (upTo 32).map (fun c => let x := t.at r c; (BitVec.ofNat 32 x.1, x.2))
  else
    (upTo 16).map (fun k =>
      let x := t.at r (2 * k)
      let y := t.at r (2 * k + 1)
      (halves (storeConv cv x.1) (storeConv cv y.1), x.2 || y.2))

/-- MST to registers (R292). -/
def Dev.mstRegStep (d : Dev) (core : Nat) (j : MatrixJob) (cv : Cv) (r : VReg) (a : TileNo) : Dev :=
  let t := (d.core core).tile a.toNat
  (j.active.filter (fun p => p.2 < 32)).foldl (fun d p =>
    d.deliver p.1 (fun x => (regRun r (t.rowRegs cv p.2)).foldl (fun x w => x.wr w.1 w.2.1 w.2.2) x)) d

/-- An element of a row of registers (R292). -/
def regElem (cv : Cv) (ws : List (W32 × Bool)) (c : Nat) : Nat × Bool :=
  if cv.size = 4 then (ws[c]?.map (fun w => (w.1.toNat, w.2))).getD (0, false)
  else (ws[c / 2]?.map (fun w => (half w.1 (c % 2), w.2))).getD (0, false)

/-- MLDA from registers (R292). -/
def Dev.mldaRegStep (d : Dev) (core : Nat) (j : MatrixJob) (cv : Cv) (t : TileNo) : Dev :=
  d.mapCore core (fun c => c.mapTile t.toNat (fun t => t.put (fun i k =>
    let x := regElem cv (j.given[i]?.getD []) k
    some (loadConv cv x.1, x.2))))

/-- MCLR (R291). -/
def Dev.mclrStep (d : Dev) (core : Nat) (mask : Byte) : Dev :=
  d.mapCore core (fun c =>
    { c with tiles := (upTo c.tiles.length).map (fun k =>
        let t := c.tile k
        if mask.getLsbD k then t.put (fun _ _ => some (0, false)) else t) })

/-- A cell of an operation with one rounding on tile elements: its result, flags, and operands (R294). -/
def flatCell (r : Nat × FFlags) (xs : List Nat) (psn : Bool) : Cell :=
  let vs := xs.map f32
  { v := r.1, psn := psn, ovf := r.2 &&& fOF != 0, inv := (f32 r.1).isNan && !(vs.any FVal.isNan), nonfin := vs.any FVal.odd }

/-- MACC (R291). -/
def Dev.maccStep (d : Dev) (core : Nat) (j : MatrixJob) (int : Bool) (t a : TileNo) : Dev :=
  let x := (d.core core).tile t.toNat
  let y := (d.core core).tile a.toNat
  d.putCells core j t.toNat ((upTo 32).map (fun i => (upTo 32).map (fun k =>
    let p := x.at i k
    let q := y.at i k
    if int then { v := (p.1 + q.1) % 2 ^ 32, psn := p.2 || q.2, ovf := false, inv := false, nonfin := false }
    else flatCell (faddOp p.1 q.1) [p.1, q.1] (p.2 || q.2))))

/-- MSCL (R291). -/
def Dev.msclStep (d : Dev) (core : Nat) (j : MatrixJob) (t : TileNo) : Dev :=
  let x := (d.core core).tile t.toNat
  let f := bitsOf (opAt j.ops 0) 0 32
  d.putCells core j t.toNat ((upTo 32).map (fun i => (upTo 32).map (fun k =>
    let p := x.at i k
    flatCell (fmulOp p.1 f) [p.1, f] p.2)))

/-! ### Taking and giving (R276, R277) -/

/-- The tiles charged to a chunk of a context. -/
def Core.charged (c : Core) (ctx lid chunk : Nat) : Nat :=
  (c.tiles.filter (fun t =>
    match t.owner with
    | some k => t.lid == lid && t.chunk == chunk && ((KV.get? c.gangs k).map (fun g => g.ctx == ctx)).getD false
    | none => false)).length

/-- MTAKE's decision and its effect (R276). -/
def Dev.takeFor (d : Dev) (core k : Nat) (g : Gang) (mask : BitVec 9) : Dev × Bool :=
  let c := d.core core
  let ts := maskTiles mask
  let new := ts.filter (fun t => (c.tile t).owner ≠ some k)
  let held := ts.any (fun t => match (c.tile t).owner with | some o => o ≠ k | none => false)
  let planes := mask.getLsbD 8
  let other := planes && (match c.planeOwner with | some o => o ≠ k | none => false)
  let acc := ((d.chunk? g.ctx g.lid g.home).map Chunk.acc).getD 0
  if held || other || acc < c.charged g.ctx g.lid g.home + new.length then (d, false)
  else
    (d.mapCore core (fun c =>
      let c1 := { c with tiles := (upTo c.tiles.length).map (fun t =>
          if new.contains t then { owner := some k, lid := g.lid, chunk := g.home, data := List.replicate 1024 0, psn := [], flips := [] } else c.tile t) }
      if planes && c.planeOwner ≠ some k then
        { c1 with planeOwner := some k, planes := [Plane.zero, Plane.zero], active := 0, alias_ := [] }
      else c1), true)

/-- MTAKE (R276). -/
def Dev.mtakeStep (d : Dev) (core : Nat) (j : MatrixJob) (p : PReg) (mask : BitVec 9) : Dev :=
  match d.gang? core j.gang with
  | none => d
  | some g =>
    let (d1, ok) := d.takeFor core j.gang g mask
    j.active.foldl (fun d x => d.deliver x.1 (fun t => t.setPred p (if ok then 0xFF else 0x00) false)) d1

/-- MGIVE (R277). -/
def Dev.mgiveStep (d : Dev) (core : Nat) (mask : BitVec 9) : Dev :=
  d.mapCore core (fun c =>
    { c with
      tiles := (upTo c.tiles.length).map (fun t => if mask.getLsbD t then { c.tile t with owner := none } else c.tile t)
      planeOwner := if mask.getLsbD 8 then none else c.planeOwner })

/-! ### The sampled product (R308 to R316) -/

/-- The format of a sampled-product type. -/
def sFmt (f16 : Bool) : Fmt := if f16 then Fmt.f16 else Fmt.bf16

/-- The norm of some elements, and its poison (R308). -/
def normOf (f16 : Bool) (xs : List (Nat × Bool)) : Nat × Bool :=
  let s := xs.foldl (fun s x => let v := FVal.ofBits (sFmt f16) x.1; (fpFma Fmt.f32 v v (f32 s)).1) 0
  ((fpSqrt Fmt.f32 (f32 s)).1, xs.any Prod.snd)

/-- One step of NORMA or NORMB: 32 norms (R308). -/
def Dev.normsStep (d0 : Dev) (core : Nat) (j : MatrixJob) (f16 byRow : Bool) : Dev :=
  let rows := bitsOf (opAt j.ops 1) 0 16
  let cols := bitsOf (opAt j.ops 1) 16 16
  let s := msideAt j.ops 0 2
  let out := bitsOf (opAt j.ops 3) 0 32
  let total := if byRow then rows else cols
  let d := d0.matNotes j s (if byRow then (upTo (min 32 (rows - 32 * j.step))).map (fun q => 32 * j.step + q) else upTo rows) 2 cols
  (upTo (min 32 (total - 32 * j.step))).foldl (fun (d : Dev) q =>
    let n := 32 * j.step + q
    let xs := if byRow then d0.elems j s n 2 cols else (upTo rows).map (fun i => d0.matGet j s.stash (s.row i + 2 * n) 2)
    d.matPut core j true (out + 4 * n) 4 (normOf f16 xs)) d

/-- The gang writes an s register as a result of an instruction. -/
def Dev.putS (d : Dev) (core : Nat) (j : MatrixJob) (r : SReg) (v : W64) (p : Bool) : Dev :=
  d.mapGang core j.gang (fun g => g.setS r v p)

/-- NPROD (R309). -/
def Dev.nprodStep (d : Dev) (core : Nat) (j : MatrixJob) (r : SReg) : Dev :=
  let na := bitsOf (opAt j.ops 0) 0 32
  let nb := bitsOf (opAt j.ops 0) 32 32
  let q := bitsOf (opAt j.ops 1) 0 32
  let k := bitsOf (opAt j.ops 1) 32 16
  let x := (upTo k).foldl (fun (x : Dev × Nat × Bool) i =>
    let a := x.1.matGet j true (na + 4 * i) 4
    let b := x.1.matGet j true (nb + 4 * i) 4
    let p := (fmulOp a.1 b.1).1
    let psn := a.2 || b.2
    (x.1.matPut core j true (q + 4 * i) 4 (p, psn), (faddOp x.2.1 p).1, x.2.2 || psn)) (d, 0, false)
  x.1.putS core j r (BitVec.ofNat 64 x.2.1) x.2.2

/-- A mass or probability the alias table cannot be built from: infinite, a NaN, or negative and not zero (R310). -/
def badMass (x : Nat) : Bool := let v := f32 x; FVal.odd v || (v.neg? && !v.isZero)

/-- floor(K × q × 2^24 / W), exact (R310). -/
def aliasShare (k q w : Nat) : Nat :=
  match f32 q, f32 w with
  | .fin _ m e, .fin _ n f =>
    let x := k * m * 2 ^ 24
    if f ≤ e then x * 2 ^ (e - f).toNat / n else x / (n * 2 ^ (f - e).toNat)
  | _, _ => 0

/-- The pairing of small and large shares: index, threshold, alias, poison (R310). -/
def aliasPair : Nat → List (Nat × Nat × Bool) → List (Nat × Nat × Bool) → List (Nat × Nat × Nat × Bool)
  | 0, _, _ => []
  | fuel + 1, sm, lg =>
    match sm, lg with
    | (l, sl, pl) :: sm', (g, sg, pg) :: lg' =>
      let s := sg + sl - 2 ^ 24
      (l, sl, g, pl || pg) ::
        (if s < 2 ^ 24 then aliasPair fuel (sm' ++ [(g, s, pg || pl)]) lg' else aliasPair fuel sm' ((g, s, pg || pl) :: lg'))
    | sm, lg => (sm ++ lg).map (fun e => (e.1, 0xFFFFFF, e.1, e.2.2))

/-- The alias table of some probabilities and their mass, each with its poison (R310). DEDUCED: notes/assumptions/41. -/
def aliasTable (qs : List (Nat × Bool)) (w : Nat) (wp : Bool) : List AliasEntry :=
  let k := qs.length
  let idx := (upTo k).zip qs
  let z := (idx.foldl (fun (b : Nat × Nat) e => if (fpCmp .gt (f32 e.2.1) (f32 b.2)).1 then (e.1, e.2.1) else b) (0, (qs.headD (0, false)).1)).1
  let live := (idx.filter (fun e => !(f32 e.2.1).isZero)).map (fun e => (e.1, aliasShare k e.2.1 w, e.2.2))
  let out := aliasPair (2 * k + 1) (live.filter (fun e => e.2.1 < 2 ^ 24)) (live.filter (fun e => !(e.2.1 < 2 ^ 24)))
  let wt := fun (i : Nat) => BitVec.ofNat 32 (fpDiv Fmt.f32 (f32 w) (FVal.withSign false (f32 ((qs[i]?.map Prod.fst).getD 0)))).1
  let psn := fun (i : Nat) => (qs[i]?.map Prod.snd).getD false
  (upTo k).map (fun i =>
    let e := match out.find? (fun e => e.1 == i) with
      | some e => (e.2.1, e.2.2.1, e.2.2.2)
      | none => (0, z, psn i)
    { thr := e.1, other := e.2.1, wt := wt i, awt := wt e.2.1, psn := wp || e.2.2 || psn i || psn e.2.1 })

/-- The thread an instruction's records name: the active participant at the lowest rank. -/
def Dev.whoOfMatrix (d : Dev) (core : Nat) (j : MatrixJob) : Who :=
  match j.active.findSome? (fun p => d.thread? p.1) with
  | some t => { d.whoOf t with pc := j.pc }
  | none => { Who.nobody (some j.ctx) with pc := j.pc, vcore := core }

/-- The lanes of an instruction's active participants. -/
def Dev.lanesOfMatrix (d : Dev) (j : MatrixJob) : List Nat := (j.active.filterMap (fun p => d.thread? p.1)).map Thread.lane

/-- The tiles, planes and alias table named by an instruction that can leave a record late (R294, R310, R314). -/
def MatrixJob.named (j : MatrixJob) : MPlan :=
  match j.instr with
  | .mstream _ ty _ t _ => mstreamPlan ty t j.ops
  | .mgrp _ _ _ t _ => mgrpHead t j.ops
  | .macc _ _ t a => { MPlan.none with tiles := [t.toNat, a.toNat].eraseDups }
  | .mscl _ t _ => { MPlan.none with tiles := [t.toNat] }
  | .aliasT .. => aliasPlan j.ops
  | .sampmm _ _ t _ _ => sampPlan t j.ops 0 0 0
  | _ => MPlan.none

/-- The detail of a record of an instruction in progress (R379, group 8). -/
def MatrixJob.detail (j : MatrixJob) (w2 : Nat) : Detail := matDetail j.instr j.step j.named w2

/-- The instruction leaves the queue. -/
def Dev.dropMatrix (d : Dev) (core : Nat) (j : MatrixJob) : Dev :=
  d.mapCore core (fun c => { c with mq := c.mq.filter (fun x => x.ticket ≠ j.ticket) })

/-- Resources of a gang that was freed go once its last instruction is done (R277). -/
def Dev.sweepGang (d : Dev) (core k : Nat) : Dev :=
  match d.gang? core k with
  | some g => if g.freed && !((d.core core).busyGang k) then d.releaseGang core k else d
  | none => d

/-- ALIAS faults as it starts (R307, R310): its active participants trap; the others stay arrived at its rendezvous. DEDUCED: notes/assumptions/41. -/
def Dev.aliasTrap (d : Dev) (core : Nat) (j : MatrixJob) (c : Cause) (w2 : Nat) : Dev :=
  let act := j.active.map Prod.fst
  let rest := (j.parts.map Prod.fst).filter (fun u => !(act.contains u))
  let both := fun (us : List Nat) (t : Thread) => us.contains t.uid || (t.shadow && us.any (fun u => t.partner == some u))
  let d1 := (d.dropMatrix core j).mapGang core j.gang (fun g =>
    { g with rdv := some { pc := j.pc, instr := j.instr, parts := j.parts, arrived := rest, opened := d.cyc j.ctx } })
  let d2 := d1.mapThreads (both rest) (fun t => { t with wait := .rendezvous })
  let ts := d2.threadsOf ((d2.threads.filter (both act)).map Thread.uid)
  (d2.trap ts { cause := c, detail := j.detail w2, failed := act }).sweepGang core j.gang

/-- The q(j) of ALIAS (R310). DEDUCED: notes/assumptions/41. -/
def Dev.aliasInput (d : Dev) (j : MatrixJob) : List (Nat × Bool) :=
  let q := bitsOf (opAt j.ops 0) 0 32
  (upTo (bitsOf (opAt j.ops 0) 32 16)).map (fun i => d.matGet j true (q + 4 * i) 4)

/-- Sets STOP (R315). -/
def Svar.setStop (v : Svar) (s : Nat) : Svar := { v with w := v.w.set 3 ((v.word 3 &&& 0x4FFFF) ||| BitVec.ofNat 32 (s * 2 ^ 16)) }
/-- PSN of SVAR. -/
def Svar.psn (v : Svar) : Bool := (v.word 3).getLsbD 18
/-- STOP of SVAR. -/
def Svar.stop (v : Svar) : Nat := bitsOf (v.word 3).toNat 16 2

/-- Changes the SVAR of an instruction's gang. -/
def Dev.mapSvar (d : Dev) (core : Nat) (j : MatrixJob) (f : Svar → Svar) : Dev := d.mapGang core j.gang (fun g => { g with svar := f g.svar })

/-- The tiles of SAMPMM's result with what `f` gives for each written element, by row and column of the result. -/
def Dev.putResult (d : Dev) (core : Nat) (dst : TileNo) (m n : Nat) (f : Nat → Nat → Nat × Bool) : Dev :=
  (upTo (ceilDiv m 32)).foldl (fun (d : Dev) q =>
    d.mapCore core (fun c => c.mapTile (dst.toNat + q) (fun t => t.put (fun i k =>
      if 32 * q + i < m && k < n then some (f (32 * q + i) k) else none)))) d

/-- An element of SAMPMM's result. -/
def Core.resultAt (c : Core) (dst : TileNo) (i k : Nat) : Nat × Bool := (c.tile (dst.toNat + i / 32)).at (i % 32) k

/-- SAMPMM starts (R314). DEDUCED: notes/assumptions/42. -/
def Dev.sampStart (d : Dev) (core : Nat) (j : MatrixJob) (dst : TileNo) : Dev :=
  let (m, n, _, _) := sampDims j.ops
  (d.putResult core dst m n (fun _ _ => (0, false))).mapSvar core j (fun v => { v with w := [0, 0, 0, 0] })

/-- The exact product of a weight and two elements. -/
def sampProd (f16 : Bool) (w a b : Nat) : FVal :=
  (((f32 w).mul (FVal.ofBits (sFmt f16) a)).1.mul (FVal.ofBits (sFmt f16) b)).1

/-- What a sample draws: the table index, the position, its weight, and the poison of the entry (R314). -/
def sampDraw (tb : List AliasEntry) (k n : Nat) (seed : W64) : Nat × Nat × Bool :=
  let u := (mix64 (BitVec.ofNat 64 n) seed).toNat
  let j0 := u / 2 ^ 32 * k / 2 ^ 32
  let e := tb[j0]?.getD { thr := 0, other := 0, wt := 0, awt := 0, psn := false }
  if u % 2 ^ 24 < e.thr || e.other = j0 then (j0, e.wt.toNat, e.psn) else (e.other, e.awt.toNat, e.psn)

/-- The statistics after a sample x (R314): N, MEAN and M2. -/
def sampStats (n : Nat) (mean m2 x : Nat) : Nat × Nat :=
  let fl := fun (k : Nat) => (fpOfInt .rn (k : Int)).1
  let dl := (fsubOp x mean).1
  let mean' := (faddOp mean (fpDiv Fmt.f32 (f32 dl) (f32 (fl n))).1).1
  let d2 := (fsubOp x mean').1
  (mean', (faddOp m2 (fmulOp dl d2).1).1)

/-- One sample of SAMPMM (R314). DEDUCED: notes/assumptions/42. -/
def Dev.sampleStep (d0 : Dev) (core : Nat) (j : MatrixJob) (f16 : Bool) (dst : TileNo) : Dev :=
  let d := if j.step = 0 then d0.sampStart core j dst else d0
  match d.gang? core j.gang with
  | none => d
  | some g =>
    let (m, cols, k, total) := sampDims j.ops
    let (sa, sb) := sampSides j.ops
    let n := (g.svar.word 0).toNat
    let c := d.core core
    let (pos, w, ep) := sampDraw c.alias_ k n (BitVec.ofNat 64 (opAt j.ops 7))
    let as := (upTo m).map (fun i => d.matGet j sa.stash (sa.row i + 2 * pos) 2)
    let bs := (upTo cols).map (fun q => d.matGet j sb.stash (sb.row pos + 2 * q) 2)
    let d := (d.matNotes j { sa with base := sa.base + 2 * pos } (upTo m) 2 1).matNotes j sb [pos] 2 cols
    let at_ := fun (l : List (Nat × Bool)) (i : Nat) => l[i]?.getD (0, false)
    let e := fun (i q : Nat) =>
      (finish Fmt.f32 0 ((f32 (c.resultAt dst i q).1).add (sampProd f16 w (at_ as i).1 (at_ bs q).1)).1).1
    let pr := g.svar.row.toNat
    let pc := g.svar.col.toNat
    let x := (finish Fmt.f32 0 (sampProd f16 w (at_ as pr).1 (at_ bs pc).1)).1
    let es := (upTo m).map (fun i => (upTo cols).map (fun q => e i q))
    if FVal.odd (f32 x) || es.any (fun r => r.any (fun v => FVal.odd (f32 v))) then
      ((d.mapSvar core j (fun v => v.setStop 3)).note (d.whoOfMatrix core j) cSampleNonfinite
        (j.detail (n % 2 ^ 16 + pos * 2 ^ 16))).mapMatrix core j.ticket (fun j => { j with fin := true })
    else
      let psn := fun (i q : Nat) => (c.resultAt dst i q).2 || (at_ as i).2 || (at_ bs q).2 || ep
      let st := sampStats (n + 1) (g.svar.word 1).toNat (g.svar.word 2).toNat x
      let xp := g.svar.psn || (at_ as pr).2 || (at_ bs pc).2 || ep
      let vstop := bitOf (opAt j.ops 5) 32
      let nmin := bitsOf (opAt j.ops 5) 16 16
      let lim := ((f32 (bitsOf (opAt j.ops 6) 0 32)).mul (FVal.ofInt ((n + 1) * n : Nat) 0 false)).1
      let stop := if vstop && !xp && nmin ≤ n + 1 && (fpCmp .le (f32 st.2) lim).1 then 2 else if n + 1 = total then 1 else 0
      let d1 := d.putResult core dst m cols (fun i q => (((es[i]?).bind (fun r => r[q]?)).getD 0, psn i q))
      let d2 := d1.mapSvar core j (fun v =>
        ({ v with w := [BitVec.ofNat 32 (n + 1), BitVec.ofNat 32 st.1, BitVec.ofNat 32 st.2,
                        if xp then 0x40000 else 0] } : Svar).setStop stop)
      d2.mapMatrix core j.ticket (fun x =>
        { x with fin := stop ≠ 0, wrote := x.wrote || (upTo m).any (fun i => (upTo cols).any (fun q => psn i q)) })

/-- The finishing division of SAMPMM, and its record of consumed poison (R314). DEDUCED: notes/assumptions/42. -/
def Dev.sampleEnd (d : Dev) (core : Nat) (j : MatrixJob) (dst : TileNo) : Dev :=
  match d.gang? core j.gang with
  | none => d
  | some g =>
    let (m, cols, _, _) := sampDims j.ops
    let n := (g.svar.word 0).toNat
    let c := d.core core
    let nf := f32 (fpOfInt .rn (n : Int)).1
    let d1 :=
      if n = 0 then d
      else d.putResult core dst m cols (fun i q =>
        let x := c.resultAt dst i q
        ((fpDiv Fmt.f32 (f32 x.1) nf).1, x.2))
    if j.wrote then
      let t := j.active.findSome? (fun p => d.thread? p.1)
      d1.record { Rec.plain (d.whoOfMatrix core j) cPoisonConsumed ((t.map (fun t => detailOf (lo32 t.psnFrom).toNat (hi32 t.psnFrom).toNat 7)).getD Detail.zero) with
        lanes := d.lanesOfMatrix j }
    else d1

/-! ### Completing (R224, R277, R279, R294) -/

/-- Adds to a counter of MXCNT, which saturates (R223). -/
def satAdd (a n : Nat) : Nat := min 0xFFFF (a + n)

/-- MXCNT takes an instruction's counts; a counter that reaches its end is recorded (R294). -/
def Dev.countMx (d : Dev) (core : Nat) (j : MatrixJob) : Dev :=
  match d.gang? core j.gang with
  | none => d
  | some g =>
    let old := [bitsOf g.mxcnt.toNat 0 16, bitsOf g.mxcnt.toNat 16 16, bitsOf g.mxcnt.toNat 32 16]
    let new := List.zipWith satAdd old [j.ovf, j.inv, j.nonfin]
    let d1 := d.mapGang core j.gang (fun g =>
      { g with mxcnt := BitVec.ofNat 48 (packFields [(0, 16, new[0]?.getD 0), (16, 16, new[1]?.getD 0), (32, 16, new[2]?.getD 0)]) })
    (upTo 3).foldl (fun d k =>
      if old[k]?.getD 0 < 0xFFFF && new[k]?.getD 0 = 0xFFFF then d.note (d.whoOfMatrix core j) cAccumCounterSaturated (j.detail k) else d) d1

/-- An instruction is complete: it leaves the queue, its participants that waited go on, and so do those that wait to
release. -/
def Dev.matDone (d : Dev) (core : Nat) (j : MatrixJob) : Dev :=
  let y := match j.instr.hd? with | some h => h.yh | none => .none
  let d1 := ((d.countMx core j).dropMatrix core j).mapThreads (fun t => t.core == core && t.wait == .matrix j.ticket)
    (fun t => (t.woken d.pcyc).hint y d.pcyc)
  (d1.wakeReleases core).sweepGang core j.gang

/-- The result rows of MSTREAM: K and the first position of wa for each. -/
def MatrixJob.streamRows (j : MatrixJob) : List (Nat × Nat) :=
  List.replicate (bitsOf (opAt j.ops 1) 0 16) (bitsOf (opAt j.ops 1) 32 16, 0)

/-- The result rows of MGRP (R290). -/
def MatrixJob.groupRows (j : MatrixJob) (ty : MTy) : List (Nat × Nat) :=
  (rowGroups j.table).map (fun e => ((groupOf e).2.1 + 1, ty.rowsOf * (groupOf e).2.2))

/-- The effect of an instruction's next step. -/
def Dev.stepEffect (d : Dev) (core : Nat) (j : MatrixJob) : Dev :=
  match j.instr with
  | .mldw _ ty tr _ => d.loadStep core j ty tr
  | .mswap _ => d.mapCore core (fun c => { c with active := 1 - c.active })
  | .mstream _ ty z t _ => d.productStep core j ty z t j.streamRows
  | .mgrp _ ty z t _ => d.productStep core j ty z t (j.groupRows ty)
  | .mclr _ m => d.mclrStep core m
  | .mst _ cv a _ => d.mstStep core j cv a
  | .mstReg _ cv r a => d.mstRegStep core j cv r a
  | .mlda _ cv t _ => d.mldaStep core j cv t
  | .mldaReg _ cv t _ => d.mldaRegStep core j cv t
  | .mtake _ p m => d.mtakeStep core j p m
  | .mgive _ m => d.mgiveStep core m
  | .macc _ int t a => d.maccStep core j int t a
  | .mscl _ t _ => d.msclStep core j t
  | .norma _ f _ _ => d.normsStep core j f false
  | .normb _ f _ _ => d.normsStep core j f true
  | .nprod _ r _ => d.nprodStep core j r
  | .svset _ r c => d.mapSvar core j (fun _ => { w := [0, 0, 0, 0], row := r, col := c })
  | .svrdW _ r =>
    d.mapGang core j.gang (fun g => (g.setS r g.svar.words.1 false).setS (r + 1) g.svar.words.2 false)
  | _ => d

/-- One step of an accepted instruction. -/
def Dev.matStep (d : Dev) (core : Nat) (j : MatrixJob) : Dev :=
  match j.instr with
  | .sampmm _ f t _ _ =>
    if j.fin then (d.sampleEnd core j t).matDone core j
    else (d.sampleStep core j f t).mapMatrix core j.ticket (fun j => { j with step := j.step + 1 })
  | .aliasT .. =>
    let qs := d.aliasInput j
    let w := bitsOf (opAt j.ops 1) 0 32
    if badMass w || qs.any (fun q => badMass q.1) then
      d.aliasTrap core j cSampleNonfinite (((if badMass w then 0 else (qs.findIdx? (fun q => badMass q.1)).getD 0) % 2 ^ 12) * 2 ^ 16)
    else if (f32 w).isZero then d.aliasTrap core j cAliasZeroMass 0
    else (d.mapCore core (fun c => { c with alias_ := aliasTable qs w (((j.given.headD []).headD (0, false)).2) })).matDone core j
  | _ =>
    let d1 := (d.stepEffect core j).mapMatrix core j.ticket (fun j => { j with step := j.step + 1 })
    match (d1.core core).mq.find? (fun x => x.ticket == j.ticket) with
    | some j' => if j'.steps ≤ j'.step then d1.matDone core j' else d1
    | none => d1

/-! ### Which instruction steps next (R280) -/

/-- The unit of an instruction: 0 load, 1 compute, 2 transfer, 3 whichever is free. -/
def matUnit : Instr → Nat
  | .mldw .. => 0
  | .mst .. | .mstReg .. | .mlda .. | .mldaReg .. => 2
  | .mswap .. | .mtake .. | .mgive .. => 3
  | _ => 1

/-- The resources an instruction names (R280, R305): the tiles, 8 the planes, 9 the alias table. -/
def MatrixJob.names (j : MatrixJob) : List Nat :=
  match j.instr with
  | .mldw .. | .mswap .. => [8]
  | .mstream _ ty _ t _ => 8 :: (mstreamPlan ty t j.ops).tiles
  | .mgrp _ _ _ t _ => 8 :: (mgrpHead t j.ops).tiles
  | .mclr _ m => (upTo 8).filter (fun t => m.getLsbD t)
  | .mst _ cv t _ | .mlda _ cv t _ => (mstPlan cv t j.ops false).tiles
  | .mstReg _ _ _ t | .mldaReg _ _ t _ | .mscl _ t _ => [t.toNat]
  | .macc _ _ t a => [t.toNat, a.toNat]
  | .mtake _ _ m | .mgive _ m => maskTiles m ++ (if m.getLsbD 8 then [8, 9] else [])
  | .aliasT .. => [9]
  | .sampmm _ _ t _ _ => 9 :: (sampPlan t j.ops 0 0 0).tiles
  | _ => []

/-- A step waits for staging, while a snapshot of its context is live (R421). DEDUCED: notes/assumptions/99. -/
def Dev.matStalls (d : Dev) (j : MatrixJob) : Bool :=
  stagingCap ≤ d.staging && ((d.ctx? j.ctx).map (fun c => c.snaps.any (fun s => s.live))).getD false

/-- The instruction can take a step: no earlier one of its gang, of its unit, or that names one of its resources is left, no earlier row
transfer into the shadow plane is on its way, and its context runs. DESIGN CHOICE: notes/assumptions/40. -/
def Dev.matReady (d : Dev) (core : Nat) (j : MatrixJob) : Bool :=
  let c := d.core core
  let before := c.mq.takeWhile (fun x => x.ticket != j.ticket)
  d.ctxIssues j.ctx &&
    !(before.any (fun x => x.gang == j.gang || (matUnit j.instr < 3 && matUnit x.instr == matUnit j.instr) || x.names.any j.names.contains)) &&
    !(namesPlane j.instr && c.bus.any (fun b => b.gang == j.gang && b.id < j.ticket && (match b.kind with | .toPlane _ => true | _ => false))) &&
    !(d.matStalls j)

/-- The instructions of a core that can take a step. DESIGN CHOICE: notes/assumptions/40. -/
def Dev.matChoices (d : Dev) (core : Nat) : List MatrixJob := (d.core core).mq.filter (d.matReady core)

/-- MATRIX_STEP: one of the units takes its next step (R280, R295). DESIGN CHOICE: notes/assumptions/40. -/
def execMatrixStep (core : Nat) (s : State) : Host.Outcome State Fault Refusal :=
  onDev s (fun d0 =>
    let d := d0.tick
    let js := d.matChoices core
    match js[Config.pick d.ctr % js.length]? with
    | some j => d.matStep core j
    | none => d)

/-- An instruction can leave the waiting line. -/
def Dev.canAccept (d : Dev) (core : Nat) : Bool := let c := d.core core; c.mq.length < 16 && !c.mwait.isEmpty

/-- MATRIX_ACCEPT: a freed entry goes to the instruction that began to wait first (R279). -/
def Dev.matrixAccept (d : Dev) (core : Nat) : Dev :=
  let c := d.core core
  match c.mwait with
  | [] => d
  | w :: rest =>
    if c.mq.length < 16 then
      let d1 := d.mapCore core (fun c => { c with mq := c.mq ++ [w.job], mwait := rest })
      let waits := fun (t : Thread) => t.core == core && t.wait == .matrixQueue w.ticket
      if matrixBlocks w.job.instr then d1.mapThreads waits (fun t => { t with wait := .matrix w.ticket })
      else
        let y := match w.job.instr.hd? with | some h => h.yh | none => .none
        d1.mapThreads waits (fun t => (t.woken d.pcyc).hint y d.pcyc)
    else d

/-- MATRIX_ACCEPT (R279). -/
def execMatrixAccept (core : Nat) (s : State) : Host.Outcome State Fault Refusal := onDev s (fun d => d.matrixAccept core)

end Sys2Proof.Machine
end

