-- ==== Sys2Proof/Machine/Save.lean ====
section
/-! DEFINITION. What a context section holds, taking a context off its cores, and placing it on cores again (spec/03 R86,
spec/04 R93, R98, R468, spec/07 R186, spec/08 R187, R214, spec/11 R297, spec/20 R423, R440). -/

namespace Sys2Proof.Machine

/-! ### Room on a core (R12, R13, R93, R94) -/

/-- The registers that threads of one lane of a core hold. -/
def Dev.laneRegs (d : Dev) (core lane : Nat) : Nat :=
  ((d.threads.filter (fun t => t.core == core && t.lane == lane)).map (fun t => t.regs.length)).sum

/-- The threads of one lane of a core. -/
def Dev.laneThreads (d : Dev) (core lane : Nat) : Nat := (d.threads.filter (fun t => t.core == core && t.lane == lane)).length

/-- A lowest free bind slot of a core. -/
def Core.freeBind (c : Core) : Option Nat := (upTo 4).find? (fun k => (c.binds[k]?.getD none).isNone)

/-- A core has room for a chunk beside a bind slot: registers and slots on each lane, stash and tiles; it is bound to a physical
core that takes chunks, and nothing fills it. -/
def Dev.room (d : Dev) (core : Nat) (prot : Bool) (cnt regsN stash acc : Nat) : Bool :=
  let cs := d.chunks.filter (fun c => c.core == core)
  core < 512 && d.physOf core < 544 && (d.phys? (d.physOf core)).state = 0 && !(d.phys? (d.physOf core)).doomed &&
    !(d.fills.any (fun f => f.logical == core)) &&
    (cs.map (fun c => c.stashLen)).sum + stash ≤ 262144 && (cs.map (fun c => c.acc)).sum + acc ≤ 8 &&
    (chunkLanes prot cnt).all (fun l => d.laneRegs core l.1 + l.2 * regsN ≤ 2048 && d.laneThreads core l.1 + l.2 ≤ 32)

/-- A core has room for a chunk, and a bind slot for its record. -/
def Dev.fits (d : Dev) (core : Nat) (prot : Bool) (cnt regsN stash acc : Nat) : Bool :=
  (d.core core).freeBind.isSome && d.room core prot cnt regsN stash acc

/-- The column's core to which R91 confines a launch with ROW ranges. -/
def Dev.rowCore? (d : Dev) (c : Ctx) (l : Launch) : Option Nat :=
  (l.ranges.find? (fun r => r.row)).bind (fun r => (d.pa? c r.base.toNat).map columnOf)

/-! ### The context section (R423) -/

/-- A thread whose pending results are all written (R422 step 2), but for those of requests at another module. DEDUCED: notes/assumptions/92. -/
def Thread.settled (t : Thread) : Thread :=
  let t1 := (t.late.filter (fun l => l.unread.isNone)).foldl (fun t l => l.regs.foldl (fun t x => t.wr x.reg x.val x.psn) t) t
  { t1 with late := t1.late.filter (fun l => l.unread.isSome), latches := [] }

/-- The threads of a halted context perform their late reads of this module, and their pending results are written. -/
def Dev.settleCtx (d : Dev) (slot : Nat) : Dev :=
  let d1 := (d.threads.filter (fun t => t.ctx == slot && !t.shadow)).foldl (fun (d : Dev) t =>
    t.unreads.foldl (fun d l => (l.unread.map (d.perform t)).getD d) d) d
  d1.mapThreads (fun t => t.ctx == slot) Thread.settled

/-- What the image of a core holds of a context. -/
def Dev.coreImage (d : Dev) (slot core : Nat) : CoreImage :=
  let c := d.core core
  let gs := c.gangs.filter (fun g => g.2.ctx == slot)
  let mine := fun (k : Nat) => gs.any (fun g => g.1 == k)
  let planes := match c.planeOwner with
    | some k => if mine k then some (c.planes, k, c.active) else none
    | none => none
  { core := core
    gangs := gs
    slots := ((upTo 8).zip c.slots).filter (fun s => s.2.state ≠ .empty && s.2.ctx = slot)
    tiles := ((upTo 8).zip c.tiles).filter (fun t => (t.2.owner.map mine).getD false)
    planes := planes
    alias_ := if planes.isSome then c.alias_ else []
    mq := c.mq.filter (fun m => m.ctx == slot)
    mwait := c.mwait.filter (fun m => m.job.ctx == slot)
    ott := (c.ott.map (fun e => { e with granted := none, here := none, accs := e.accs.filter (fun a => a.ctx == slot) })).filter (fun e => e.accs ≠ []) }

/-- The logical cores on which a context has chunks. -/
def Dev.coresOf (d : Dev) (slot : Nat) : List Nat := ((d.chunks.filter (fun c => c.ctx == slot)).map Chunk.core).eraseDups

/-- What one list of each die holds of a context, by die. -/
def Dev.ofDies {α : Type} (d : Dev) (f : Die → List α) : List (Nat × α) := (upTo 4).flatMap (fun k => (f (d.die k)).map (fun x => (k, x)))

/-- The context section: the threads with what is left of their spins, the chunks in the order of their binding, the map entries
unfilled (R163, R207). DEDUCED: notes/assumptions/82. -/
def Dev.capture (d : Dev) (slot : Nat) (c : Ctx) : CtxImage :=
  { regs := c.regs
    threads := (d.threads.filter (fun t => t.ctx == slot)).map (fun t => { t with spin := t.spin - d.pcyc })
    chunks := (sortBy Chunk.rank (d.chunks.filter (fun c => c.ctx == slot))).map (fun c => { c with map := c.map.map (fun e => (e.1, { e.2 with filled := [] })) })
    cores := (d.coresOf slot).map (d.coreImage slot)
    launches := d.launches.filter (fun l => l.ctx == slot)
    jobs := d.ofDies (fun x => x.jobs.filter (fun j => j.ctx == slot))
    tasks := d.ofDies (fun x => x.tasks.filter (fun t => t.ctx == slot))
    chans := c.chans
    retired := (d.ofDies (fun x => x.retired.filter (fun r => r.2.1 == slot))).map (fun e => (e.1, e.2.1, e.2.2.2))
    privMap := c.privMap }

/-! ### Taking a context off its cores -/

/-- A core without anything of a context. -/
def Dev.clearCore (d : Dev) (slot core : Nat) : Dev :=
  let d1 := (upTo 8).foldl (fun (d : Dev) i =>
    let s := d.slot core i
    if s.state ≠ .empty && s.ctx = slot then d.dropSlot core i else d) d
  let c := d1.core core
  let mine := fun (k : Nat) => c.gangs.any (fun g => g.1 == k && g.2.ctx == slot)
  let us := (d1.threads.filter (fun t => t.ctx == slot)).map Thread.uid
  d1.mapCore core (fun c =>
    { c with
      gangs := c.gangs.filter (fun g => g.2.ctx ≠ slot)
      tiles := c.tiles.map (fun t => if (t.owner.map mine).getD false then Tile.free else t)
      planes := if (c.planeOwner.map mine).getD false then [Plane.zero, Plane.zero] else c.planes
      planeOwner := if (c.planeOwner.map mine).getD false then none else c.planeOwner
      alias_ := if (c.planeOwner.map mine).getD false then [] else c.alias_
      mq := c.mq.filter (fun m => m.ctx ≠ slot)
      mwait := c.mwait.filter (fun m => m.job.ctx ≠ slot)
      -- a transfer completes, but nothing of the context is left to take what it reads
      bus := c.bus.map (fun b => if b.ctx = slot then { b with uids := [], kind := match b.kind with | .put m k p => .put m k p | .line a w _ => .line a w none | _ => .toRegs [] 0 } else b)
      ott := (c.ott.map (fun e => { e with accs := e.accs.filter (fun a => a.ctx ≠ slot) })).filter
        (fun e => e.accs ≠ [] || (e.granted.map (fun g => !(us.contains g.1))).getD false)
      binds := c.binds.map (fun b => match b with | some r => if r.ctx = slot then none else b | none => none)
      avoid := c.avoid.filter (fun u => !(us.contains u))
      table := c.table.filter (fun e => e.ctx ≠ slot) })

/-- Takes everything of a context off the cores and engines: its cores hold nothing of it, its chunks and threads are gone
(R24, R98). Its launches and task records stay. DEDUCED: notes/assumptions/82. -/
def Dev.evict (d : Dev) (slot : Nat) : Dev :=
  let cores := (d.coresOf slot ++ (d.cores.filter (fun e => e.2.binds.any (fun b => (b.map (fun r => r.ctx == slot)).getD false))).map Prod.fst).eraseDups
  let d1 := cores.foldl (fun d n => d.clearCore slot n) d
  let d2 : Dev :=
    { d1 with
      threads := d1.threads.filter (fun t => t.ctx ≠ slot)
      chunks := d1.chunks.filter (fun c => c.ctx ≠ slot)
      dies := d1.dies.map (fun x => { x with jobs := x.jobs.filter (fun j => j.ctx ≠ slot) }) }
  cores.foldl (fun d n => (d.grantAll n).haltCheck n) d2

/-! ### Placing a context on cores (R440, R468) -/

/-- Where a chunk goes by the remap (virtual core, logical core). -/
def placeOf (place : List (Nat × Nat)) (c : Chunk) : Nat := KV.get place c.core c.vc

/-- The number a gang takes on a core: its own, if it is free there. -/
def Core.gangNoFor (c : Core) (k : Nat) : Nat := if k < 64 && (KV.get? c.gangs k).isSome then c.freeGangIdx else k

/-- The tiles, planes, row slots, gang entries and queue entries of a core's image are free on a core. -/
def Core.takes (c : Core) (x : CoreImage) : Bool :=
  x.tiles.all (fun t => ((c.tiles[t.1]?).map (fun y => y.owner.isNone)).getD false) &&
    x.slots.all (fun s => ((c.slots[s.1]?).map (fun y => y.state == .empty)).getD false) &&
    (x.planes.isNone || c.planeOwner.isNone) &&
    c.gangCount + (x.gangs.filter (fun g => g.1 < 64)).length ≤ 64 &&
    c.mq.length + x.mq.length ≤ 16 && c.ott.length + x.ott.length ≤ ottSize

/-- A row slot as it is reopened (R186). -/
def RowSlot.reopened (s : RowSlot) (cyc : W64) : RowSlot :=
  if s.state = .lost then s
  else { s with state := .opening, start := cyc, ready := cyc + 24, close := cyc + 6000, kept := true }

/-- One gang of an image is installed on a core under a number of its own; the objects bound to it name that number. -/
def Dev.putGang (d : Dev) (slot core : Nat) (g : Nat × Gang) : Dev × Nat :=
  let k := (d.core core).gangNoFor g.1
  let d1 := d.mapCore core (fun c => { c with gangs := KV.set c.gangs k { g.2 with ctx := slot } })
  (g.2.bindings.foldl (fun (d : Dev) b =>
    let l : ObjLoc := { ctx := slot, lid := b.lid, chunk := b.chunk, off := b.off }
    if k = g.1 then d else d.setObj l { d.obj l with gang := k }) d1, k)

/-- A core's image is installed on a core; its activation windows and bank intervals start empty (R186). -/
def Dev.putCore (d : Dev) (slot core : Nat) (x : CoreImage) : Dev :=
  let r := x.gangs.foldl (fun (s : Dev × List (Nat × Nat)) g =>
    let y := s.1.putGang slot core g
    (y.1, (g.1, y.2) :: s.2)) (d, [])
  let f := fun (k : Nat) => KV.get r.2 k k
  let cyc := r.1.cyc slot
  r.1.mapCore core (fun c =>
    { c with
      acts := [], banks := c.banks.map (fun b => (b.1, { b.2 with preEnd := 0, lastAct := none }))
      slots := x.slots.foldl (fun l s => l.set s.1 { s.2.reopened cyc with gang := f s.2.gang, ctx := slot }) c.slots
      tiles := x.tiles.foldl (fun l t => l.set t.1 { t.2 with owner := t.2.owner.map f }) c.tiles
      planes := match x.planes with | some p => p.1 | none => c.planes
      planeOwner := match x.planes with | some p => some (f p.2.1) | none => c.planeOwner
      active := match x.planes with | some p => p.2.2 | none => c.active
      alias_ := if x.planes.isSome then x.alias_ else c.alias_
      mq := c.mq ++ x.mq.map (fun m => { m with gang := f m.gang, ctx := slot })
      mwait := c.mwait ++ x.mwait.map (fun m => { m with job := { m.job with gang := f m.job.gang, ctx := slot } })
      ott := x.ott.foldl (fun (l : List OttEntry) e => l ++ [{ e with idx := ({ c with ott := l } : Core).ottIdx, accs := e.accs.map (fun a => { a with ctx := slot }) }]) c.ott })

/-- A thread goes on where it stood, its age zero (R86). A wait for something outside the image is tried again. -/
def Thread.resumed (t : Thread) (slot core now : Nat) : Thread :=
  { t with
    ctx := slot
    core := core
    since := now
    spin := if t.spin = 0 then 0 else now + t.spin
    wait := match t.wait with
      | .ott _ _ | .release | .settle _ | .staging _ => .none
      | w => w }

/-- One chunk of an image, the i-th in the order of binding, is bound to a core, if it fits. -/
def Dev.putChunk (d : Dev) (slot : Nat) (ts : List Thread) (i : Nat) (c : Chunk) (core : Nat) : Option Dev :=
  let cs := ts.filter c.has
  let part := ((d.ctx? slot).map Ctx.part).getD 0
  if d.fits core c.prot c.cnt c.regsN c.stashLen c.acc && d.partOf core = part then
    match (d.core core).freeBind with
    | none => none
    | some k =>
      let c' := { c with ctx := slot, core := core, bindSlot := k, bound := d.pcyc * 65536 + i }
      let rec' : BindRec :=
        { ctx := slot, lid := c.lid, chunk := c.idx, prot := c.prot, prio := c.prio, ctxl := c.ctxl, tbase := c.tbase,
          cnt := c.cnt - 1, regsN := c.regsN, stash := c.stashLen / 8, acc := c.acc, bound := true }
      some ({ d with
        threads := d.threads ++ cs.map (fun (t : Thread) => t.resumed slot core d.pcyc)
        chunks := d.chunks ++ [c'] }.mapCore core (fun x => { x with binds := x.binds.set k (some rec') }))
  else none

/-- The die to whose cores the chunks of an image on a die have come; the die itself if there were none. -/
def CtxImage.dieFor (x : CtxImage) (place : List (Nat × Nat)) (k : Nat) : Nat :=
  ((x.chunks.find? (fun c => dieOf c.core == k)).map (fun c => dieOf (placeOf place c))).getD k

/-- A thread with a handle reissued: in the result group of its submission, and where it waits for the job (R214). -/
def Thread.rehandle (t : Thread) (j : Job) (h : W32) : Thread :=
  let t1 := { t with wait := match t.wait with | .job p x y r s q => .job p (if x = j.handle then h else x) y r s q | w => w }
  match j.group with
  | .v r => if t.uid = j.origin.uid && t.regs[r.toNat]? = some j.handle then { t1 with regs := t1.regs.set r.toNat h } else t1
  | .s _ => t1

/-- A gang scalar with a handle reissued (R214). -/
def Gang.rehandle (g : Gang) (j : Job) (h : W32) : Gang :=
  match j.group with
  | .s r => if g.remap.contains (some j.origin.uid) && lo32 (g.sreg r) = j.handle then g.setS r (pairOf h (hi32 (g.sreg r))) (g.spsn r) else g
  | .v _ => g

/-- One job of an image joins the queue of the die of its chunk, under a handle of that die, and the result group of its submission is
rewritten (R214); the queue takes it whether or not an entry is free. DESIGN CHOICE: notes/assumptions/145. -/
def Dev.putJob (d : Dev) (slot : Nat) (x : CtxImage) (place : List (Nat × Nat)) (e : Nat × Job) : Dev :=
  let j := e.2
  let k := match x.chunks.find? (fun c => c.lid == j.origin.lid && c.idx == j.chunk) with
    | some c => dieOf (placeOf place c)
    | none => x.dieFor place e.1
  let h := BitVec.ofNat 32 (k * 2 ^ 30 + (d.die k).next % 2 ^ 30)
  let d1 := d.mapDie k (fun y => { y with jobs := y.jobs ++ [{ j with handle := h, ctx := slot, pend := [] }], next := y.next + 1 })
  { (d1.mapThreads (fun t => t.ctx == slot) (fun t => t.rehandle j h)) with
    cores := d1.cores.map (fun c => (c.1, { c.2 with gangs := c.2.gangs.map (fun g => (g.1, if g.2.ctx = slot then g.2.rehandle j h else g.2)) })) }

/-- The outcomes of an image's retired jobs stand on the dies of its chunks. -/
def Dev.putRetired (d : Dev) (slot : Nat) (x : CtxImage) (place : List (Nat × Nat)) : Dev :=
  x.retired.foldl (fun (d : Dev) r =>
    let e := (r.2.1, slot, r.2.2)
    d.mapDie (x.dieFor place r.1) (fun y => if y.retired.contains e then y else { y with retired := y.retired ++ [e] })) d

/-- The virtual cores of a placement name its logical cores (R207, R440). -/
def Ctx.remapped (c : Ctx) (place : List (Nat × Nat)) : Ctx := { c with vcmap := place.foldl (fun m e => KV.set m e.1 e.2) c.vcmap }

/-- Every chunk, core and job of an image is placed, or nothing is (R468). DEDUCED: notes/assumptions/87. -/
def Dev.placeAll (d : Dev) (slot : Nat) (x : CtxImage) (place : List (Nat × Nat)) : Option Dev :=
  let d1 := ((upTo x.chunks.length).zip x.chunks).foldl (fun (s : Option Dev) ch =>
    s.bind (fun d => d.putChunk slot x.threads ch.1 ch.2 (placeOf place ch.2))) (some d)
  let d2 := x.cores.foldl (fun (s : Option Dev) y =>
    s.bind (fun d =>
      let core := match x.chunks.find? (fun c => c.core == y.core) with
        | some c => placeOf place c
        | none => y.core
      if (d.core core).takes y then some (d.putCore slot core y) else none)) d1
  d2.map (fun d => ((x.jobs.foldl (fun d j => d.putJob slot x place j) d).putRetired slot x place).mapCtx slot (fun c => c.remapped place))

/-- A chunk may go to a core: one of a launch with ROW ranges to its column's core only (R91), one of a continuation to a core of its
die (R85), one from a core that Foehn quarantined back onto that core (R402). DEDUCED: notes/assumptions/87. -/
def Dev.tiedTo (d : Dev) (slot : Nat) (c : Ctx) (ch : Chunk) (core : Nat) : Bool :=
  (core == ch.core || !(c.onto.contains ch.core) || d.physOf ch.core = 0x3FF) &&
  match d.launch? slot ch.lid with
  | none => true
  | some l => (match d.rowCore? c l with | some n => core == n | none => true) && (match l.die with | some k => dieOf core == k | none => true)

/-- An image is placed where its chunks may go. -/
def Dev.placeImage (d : Dev) (slot : Nat) (x : CtxImage) (place : List (Nat × Nat)) : Option Dev :=
  match d.ctx? slot with
  | none => none
  | some c => if x.chunks.all (fun ch => d.tiedTo slot c ch (placeOf place ch)) then d.placeAll slot x place else none

/-- Levante's own placement: every virtual core where it was. DEDUCED: notes/assumptions/87. -/
def CtxImage.stay (x : CtxImage) : List (Nat × Nat) := x.chunks.foldl (fun m c => KV.set m c.vc c.core) []

/-- The part of an image that concerns the chunks of one virtual core. DESIGN CHOICE: notes/assumptions/128. -/
def CtxImage.onlyVc (x : CtxImage) (vc : Nat) : CtxImage :=
  let cs := x.chunks.filter (fun c => c.vc == vc)
  { x with chunks := cs, cores := x.cores.filter (fun y => cs.any (fun c => c.core == y.core)), jobs := [], retired := [] }

/-- Levante's placement of an image (R440, R468): every virtual core where it was, if that can be bound; else, one virtual
core after another, on a core it chooses among those with room. `put` places a part of it. DESIGN CHOICE: notes/assumptions/128. -/
def Dev.choosePlace (d : Dev) (put : Dev → CtxImage → List (Nat × Nat) → Option Dev) (x : CtxImage) : Option (List (Nat × Nat)) :=
  if (put d x x.stay).isSome then some x.stay
  else
    let vcs := (x.chunks.map Chunk.vc).eraseDups
    let r := vcs.foldl (fun (s : Option (Dev × List (Nat × Nat))) vc =>
      s.bind (fun y =>
        let fit := (upTo 512).filter (fun k => (put y.1 (x.onlyVc vc) [(vc, k)]).isSome)
        (fit[Config.pick (d.ctr + vc) % fit.length]?).bind (fun k => (put y.1 (x.onlyVc vc) [(vc, k)]).map (fun d' => (d', y.2 ++ [(vc, k)]))))) (some (d, []))
    r.bind (fun y => if (put d x y.2).isSome then some y.2 else none)

/-- Levante's placement of a saved context. -/
def Dev.findPlace (d : Dev) (slot : Nat) (x : CtxImage) : Option (List (Nat × Nat)) := d.choosePlace (fun d x p => d.placeImage slot x p) x

/-! ### Numbers of the model's own (R439) -/

/-- A wait with every number of the model's own moved up. -/
def Wait.shift (n : Nat) : Wait → Wait
  | .row p s a => .row p s (a + n)
  | .ott k t => .ott k (t + n)
  | .remote t => .remote (t + n)
  | .transfer i => .transfer (i + n)
  | .matrix t => .matrix (t + n)
  | .matrixQueue t => .matrixQueue (t + n)
  | w => w

/-- A thread with every number of the model's own moved up. -/
def Thread.shift (n : Nat) (t : Thread) : Thread := { t with uid := t.uid + n, partner := t.partner.map (· + n), wait := t.wait.shift n }

/-- A gang with the numbers of its threads moved up. -/
def Gang.shift (n : Nat) (g : Gang) : Gang :=
  { g with
    remap := g.remap.map (fun o => o.map (· + n))
    rdv := g.rdv.map (fun v => { v with parts := v.parts.map (fun e => (e.1 + n, e.2)), arrived := v.arrived.map (· + n) }) }

/-- An origin with its thread's number moved up. -/
def Origin.shift (n : Nat) (o : Origin) : Origin := { o with uid := o.uid + n }

/-- An accepted matrix instruction with its numbers moved up. -/
def MatrixJob.shift (n : Nat) (m : MatrixJob) : MatrixJob :=
  { m with ticket := m.ticket + n, active := m.active.map (fun e => (e.1 + n, e.2)), parts := m.parts.map (fun e => (e.1 + n, e.2)) }

/-- An image of a core with its numbers moved up. -/
def CoreImage.shift (n : Nat) (x : CoreImage) : CoreImage :=
  { x with
    gangs := x.gangs.map (fun g => (g.1, g.2.shift n))
    slots := x.slots.map (fun s => (s.1, { s.2 with act := s.2.act + n }))
    mq := x.mq.map (MatrixJob.shift n)
    mwait := x.mwait.map (fun m => { ticket := m.ticket + n, job := m.job.shift n })
    ott := x.ott.map (fun e => { e with accs := e.accs.map (fun a => { a with uid := a.uid + n, ask := a.ask.map (· + n), origin := a.origin.shift n }) }) }

/-- A context section under numbers that nothing on the module has: an image may be loaded where its context still runs, or twice. DESIGN CHOICE: notes/assumptions/151. -/
def CtxImage.shift (n : Nat) (x : CtxImage) : CtxImage :=
  { x with
    regs := { x.regs with armer := x.regs.armer.map (· + n) }
    threads := x.threads.map (Thread.shift n)
    chunks := x.chunks.map (fun c => { c with order := c.order + n })
    cores := x.cores.map (CoreImage.shift n)
    jobs := x.jobs.map (fun j => (j.1, { j.2 with origin := j.2.origin.shift n })) }

/-! ### Ends that waited (R92) -/

/-- Launches whose end waited for the resumption end now, before any of their threads issues. -/
def Dev.endPendings (d : Dev) (slot : Nat) : Dev :=
  (d.launches.filter (fun l => l.ctx == slot && l.endPending.isSome)).foldl (fun d l =>
    match l.endPending with
    | some (c, x, pc) =>
      d.endLaunch slot l.lid (some
        { cause := c, sev := 4, prec := false, trap := false,
          who := { Who.nobody (some slot) with pc := pc, lid := BitVec.ofNat 32 l.lid }, skid := 0, lanes := [], detail := x }) .ended
    | none => d) d

/-- The saved parts of an image that belong to launches which still exist. -/
def CtxImage.without (x : CtxImage) (lids : List Nat) : CtxImage :=
  let gone := fun (lid : Nat) => lids.contains lid
  { x with
    threads := x.threads.filter (fun t => !(gone t.lid))
    chunks := x.chunks.filter (fun c => !(gone c.lid))
    jobs := x.jobs.filter (fun j => !(gone j.2.origin.lid))
    privMap := x.privMap.filter (fun e => !(gone e.1.1))
    cores := x.cores.map (fun y =>
      let gs := y.gangs.filter (fun g => gone g.2.lid)
      let out := fun (k : Nat) => gs.any (fun g => g.1 == k)
      { y with
        gangs := y.gangs.filter (fun g => !(gone g.2.lid))
        slots := y.slots.filter (fun s => !(out s.2.gang))
        tiles := y.tiles.filter (fun t => !((t.2.owner.map out).getD false))
        planes := match y.planes with | some p => if out p.2.1 then none else y.planes | none => none
        mq := y.mq.filter (fun m => !(out m.gang))
        mwait := y.mwait.filter (fun m => !(out m.job.gang)) }) }

end Sys2Proof.Machine
end

