-- ==== Sys2Proof/Machine/Load.lean ====
section
/-! DEFINITION. Notices between members, aborting a snapshot, loading a part, the forced reset and the context save (spec/04 R92,
R98 to R101, spec/15 R341, spec/16 R351, R357, spec/20 R428, R429, R436 to R442). -/

namespace Sys2Proof.Machine

/-! ### Notices (R428, R429, R440, R442) -/

/-- Hands a notice to the fabric: it takes no sequence number, is not retransmitted, and is Levante's own traffic (R96). DEDUCED: notes/assumptions/86. -/
def Dev.notice (d : Dev) (slot vm : Nat) (body : PacketBody) : Dev :=
  match d.ctx? slot with
  | none => d
  | some c => d.queueOut 0 { (c.packet slot vm .rlx body) with seq := 0 }

/-- The other members of a context. -/
def Ctx.others (c : Ctx) : List Nat := c.members.filter (fun v => v ≠ c.vm)

/-- A notice to every other member. -/
def Dev.notices (d : Dev) (slot : Nat) (body : PacketBody) : Dev :=
  match d.ctx? slot with
  | none => d
  | some c => c.others.foldl (fun d v => d.notice slot v body) d

/-! ### Aborting a snapshot (R429) -/

/-- The detail of a snapshot's record (R379, group 12). -/
def snapDetail (epoch vm stall : Nat) : Detail := detailOf (epoch % 65536 + epoch % 2 * 65536) vm stall

/-- The snapshot of an epoch that is live, by colour. -/
def Ctx.liveSnap (c : Ctx) (epoch : Nat) : Option Nat :=
  (c.snaps.findIdx? (fun s => s.live && s.epoch == epoch))

/-- Changes a colour's snapshot. -/
def Ctx.mapSnap (c : Ctx) (k : Nat) (f : Snap → Snap) : Ctx := { c with snaps := mapAt c.snaps k f }

/-- Threads that wait in SNAPQ.W for a colour read it and go on once it is idle, complete or aborted (R436). -/
def Snap.ended (s : Snap) : Bool :=
  match s.state with
  | .idle | .complete | .aborted => true
  | _ => false

/-- The code of a snapshot's state (R437). DEDUCED: notes/assumptions/91. -/
def SnapState.num : SnapState → Nat
  | .idle => 0
  | .recording => 1
  | .streaming => 2
  | .complete => 3
  | .aborted => 4

/-- What SNAPQ writes (R436). -/
def Ctx.snapWords (c : Ctx) (k : Nat) : List W32 :=
  match c.snaps[k]? with
  | none => [0, 0, 0, 0]
  | some s =>
    let others := c.others
    let left := if s.state = .recording || s.state = .streaming then s.todo.length + s.staged.length else 0
    let noMark := if s.state = .recording || s.state = .streaming then (others.filter (fun v => !(s.markers.contains v))).length else 0
    let noNote := if s.state = .recording || s.state = .streaming then (others.filter (fun v => !(s.notices.contains v))).length else 0
    [BitVec.ofNat 32 s.epoch, BitVec.ofNat 32 s.state.num, BitVec.ofNat 32 (min left 0xFFFFFFFF),
     BitVec.ofNat 32 (noMark + noNote * 2 ^ 12)]

/-- Wakes the SNAPQ.W sleepers of a context whose colour has ended. -/
def Dev.wakeSnap (d : Dev) (slot : Nat) : Dev :=
  match d.ctx? slot with
  | none => d
  | some c =>
    d.mapThreads (fun t => t.ctx == slot) (fun t =>
      match t.wait with
      | .snapshot r k =>
        if ((c.snaps[k.toNat]?).map Snap.ended).getD true then (t.wrs r (c.snapWords k.toNat) false).woken d.pcyc else t
      | _ => t)

/-- A snapshot is aborted here: its staged copies and log are freed, one record is written, the other members are told
(R429). DEDUCED: notes/assumptions/100. -/
def Dev.abortSnap (d : Dev) (slot epoch : Nat) : Dev :=
  match d.ctx? slot with
  | none => d
  | some c =>
    match c.liveSnap epoch with
    | none => d
    | some k =>
      let d1 := d.mapCtx slot (fun c => c.mapSnap k (fun s =>
        { s with state := .aborted, live := false, section_ := none, mem := [], psn := [], todo := [], staged := [], log := [], part := none, units := [] }))
      ((d1.note (Who.nobody (some slot)) cSnapshotAborted (snapDetail epoch 0 0)).notices slot (.aborted epoch)).wakeSnap slot

/-- Every live snapshot of a context is aborted. -/
def Dev.abortSnaps (d : Dev) (slot : Nat) : Dev :=
  match d.ctx? slot with
  | none => d
  | some c => ((c.snaps.filter (fun s => s.live)).map Snap.epoch).foldl (fun d e => d.abortSnap slot e) d

/-! ### Loading an image (R341, R439, R440) -/

/-- A leaf as it is placed: a page of tier 1 that spans columns is placed by its 2 MiB pages. DESIGN CHOICE: notes/assumptions/150. -/
def LeafImage.parts (l : LeafImage) : List LeafImage :=
  if inTier1 l.pa && l.level = 2 then
    (upTo 512).map (fun k => { va := l.va + k * 2 ^ 21, entry := l.entry + BitVec.ofNat 64 (k * 2 ^ 21), level := 1, pa := l.pa + k * 2 ^ 21 })
  else [l]

/-- The size of a leaf's page. -/
def LeafImage.size (l : LeafImage) : Nat := 2 ^ (levelShift l.level).1

/-- The leaves of an image in the order in which Levante places them: the larger pages first. -/
def Image.parts (x : Image) : List LeafImage := sortBy (fun l => 3 - l.level) (x.leaves.flatMap LeafImage.parts)

/-- The virtual core that named a logical core where an image was made (R207). -/
def Image.vcOf (x : Image) (core : Nat) : Nat :=
  match x.vcmap.find? (fun e => e.2 == core) with
  | some e => e.1
  | none => chainEnd x.vcmap x.vcmap.length core

/-- The remap of a restore (R341, R440): the virtual cores with chunks go where Levante binds them; those of which only the column
holds pages stay, or go to a core of the partition that no other names. DESIGN CHOICE: notes/assumptions/150. -/
def Dev.remapFor (d : Dev) (slot part : Nat) (x : Image) (sec : CtxImage) : List (Nat × Nat) :=
  let place := (d.choosePlace (fun d x p => d.placeAll slot x p) sec).getD sec.stay
  let vcs := ((x.parts.filter (fun l => inTier1 l.pa)).map (fun l => x.vcOf (columnOf l.pa))).eraseDups
  vcs.foldl (fun m v =>
    let free := fun (k : Nat) => d.partOf k = part && !(m.any (fun e => e.2 == k))
    if (KV.get? m v).isSome then m
    else if free v then KV.set m v v
    else KV.set m v (((upTo 512).find? free).getD v)) place

/-- The frame of each leaf of an image (R341): in tier 1 the same place in the column of the core that the remap names; in another
tier the frame that the slot's table had there, if it is one of that tier, else a free one. Two names of one frame keep one. DESIGN CHOICE: notes/assumptions/150. -/
def Dev.framesFor (d : Dev) (old : List LeafImage) (x : Image) (remap : List (Nat × Nat)) : List (LeafImage × Nat) :=
  x.parts.foldl (fun (got : List (LeafImage × Nat)) l =>
    let taken := got.map (fun g => (g.2, g.1.size))
    let had := (old.find? (fun o => o.va == l.va && o.level == l.level && inTier2 o.pa == inTier2 l.pa && !(inTier1 o.pa) && d.paOk o.pa &&
      !(taken.any (fun s => meets o.pa l.size s.1 s.2)))).map LeafImage.pa
    let pa := match got.find? (fun g => g.1.pa ≤ l.pa && l.pa + l.size ≤ g.1.pa + g.1.size) with
      | some g => some (g.2 + (l.pa - g.1.pa))
      | none =>
        if inTier1 l.pa then some (KV.get remap (columnOf l.pa) (x.vcOf (columnOf l.pa)) * 0x10000000 + l.pa % 0x10000000)
        else match had with
          | some p => some p
          | none => d.freeLike taken l.pa l.size
    match pa with
    | some p => got ++ [(l, p)]
    | none => got) []

/-- The entry of a leaf in its new frame: FRAME, and the owner's slot here. -/
def LeafImage.moved (l : LeafImage) (slot pa : Nat) : Nat :=
  let e := l.entry.toNat
  e % 2 ^ 10 + (if bitOf e 6 then slot * 2 ^ 10 else 0) + pa / 2 ^ 16 * 2 ^ 16 + e / 2 ^ 48 * 2 ^ 48

/-- A leaf is mapped; frames that a confidential context owns are zeroed and tagged first (R351). -/
def Dev.putLeaf (d : Dev) (slot : Nat) (c : Ctx) (more : List (Nat × Nat)) (g : LeafImage × Nat) : Dev :=
  let d1 := if c.conf && g.1.entry.getLsbD 6 then (framesOf g.2 g.1.size).foldl (fun d f => d.ownFrame slot f) d else d
  match Dev.reach more g.1.va g.1.level 4 c.root d1 with
  | some (d2, ea) => d2.setEntry ea (g.1.moved slot g.2)
  | none => d1

/-- The tables of a context are built anew with the frames of an image (R341). -/
def Dev.rebuild (d : Dev) (slot : Nat) (x : Image) (remap : List (Nat × Nat)) : Dev :=
  match d.ctx? slot with
  | none => d
  | some c =>
    let got := d.framesFor (c.leavesAt d.readMem) x remap
    let more := got.map (fun g => (g.2, g.1.size))
    let d1 := (d.releaseFrames slot).zeroFrame (c.root / 65536)
    got.foldl (fun d g => d.putLeaf slot c more g) d1

/-- The private map of an image gets frames here (R340, R341). DESIGN CHOICE: notes/assumptions/150. -/
def Dev.putPrivMap (d : Dev) (slot : Nat) (m : List ((Nat × Nat × Nat) × Nat)) : Dev :=
  m.foldl (fun (d : Dev) e => (d.givePriv slot e.1).getD d) d

/-- Writes a granule of an image to the frame its address has now, its array words and the tags of its sealed lines with it (R357). DEDUCED: notes/assumptions/88. -/
def Dev.putGranule (d : Dev) (slot : Nat) (g : Nat × List Byte) : Dev :=
  match (d.ctx? slot).bind (fun c => d.pa? c g.1) with
  | none => d
  | some pa =>
    { d with
      mem := Memory.splice d.mem pa 4096 (Memory.setBytes [] 0 g.2)
      psn := psnPut d.psn pa 4096 false
      flips := d.flips.filter (fun f => !(meets (16 * f.1) 16 pa 4096))
      lineFlips := d.lineFlips.filter (fun f => !(meets (8 * f.2.1) 8 pa 4096))
      badTags := d.badTags.filter (fun l => l / 64 ≠ pa / 4096)
      vers := d.versAfter pa 4096
      caches := d.caches.drop pa 4096 }

/-- A poisoned word of an image's memory is poisoned here. -/
def Dev.putPoison (d : Dev) (slot : Nat) (w : Nat) : Dev :=
  match (d.ctx? slot).bind (fun c => d.pa? c (8 * w)) with
  | none => d
  | some pa => { d with psn := NatSet.add d.psn (pa / 8) }

/-- A launch as a restore has it: one that was running, draining, saving or saved resumes as running (R440, R468); a continuation's die is
the one that now homes its ADDR (R85). DESIGN CHOICE: notes/assumptions/150. -/
def Launch.restored (l : Launch) (d : Dev) (c : Ctx) (slot : Nat) : Launch :=
  { l with
    ctx := slot
    state := if l.state = .saving || l.state = .draining || l.state = .running then .saved else l.state
    die := match l.addr, l.die with
      | some a, some k => some (((d.pa? c a.toNat).map homeDie).getD k)
      | _, k => k }

/-- The task records of an image join the queues of the dies that now home their ADDR, behind what is there (R85). DESIGN CHOICE: notes/assumptions/146. -/
def Dev.putTasks (d : Dev) (slot : Nat) (c : Ctx) (ts : List (Nat × Task)) : Dev :=
  ts.foldl (fun (d : Dev) t =>
    d.mapDie (((d.pa? c t.2.addr.toNat).map homeDie).getD t.1) (fun y => { y with tasks := y.tasks ++ [{ t.2 with ctx := slot }] })) d

/-- The leases of an image are acquired anew (R341): a launch whose range fails is rejected as when it was leased first (R88), and what the
image holds of it goes. -/
def Dev.releases (d : Dev) (slot : Nat) (x : CtxImage) : Dev × CtxImage :=
  match d.ctx? slot with
  | none => (d, x)
  | some c =>
    let ls := d.launches.filter (fun l => l.ctx == slot && l.state.holds)
    let r := ls.foldl (fun (s : Dev × List Nat) l => let y := s.1.leaseCheck slot c l; (y.1, if y.2 then s.2 else l.lid :: s.2)) (d, [])
    (r.1, x.without r.2)

/-- The channels as a restore has them: their numbers are those of the image, nothing is on its way. -/
def Ctx.restoredChans (c : Ctx) (x : CtxImage) : List (Nat × Chan) :=
  x.chans.map (fun e => (e.1, { e.2 with sent := [], window := [], gaps := [], key := (c.chan e.1).key, keyEpoch := (c.chan e.1).keyEpoch }))

/-- A checked part is loaded into a slot: the remap is chosen, the tables are built with frames of this module, the units are written,
the leases are acquired anew, the registers are those of the image, its section waits to be placed, and the other members are told
(R341, R440 steps 1 to 3). A new memory key is drawn (R357). DEDUCED: notes/assumptions/88. DESIGN CHOICE: notes/assumptions/127. DESIGN CHOICE: notes/assumptions/146. DESIGN CHOICE: notes/assumptions/150. -/
def Dev.loadImage (d : Dev) (slot : Nat) (y : Loaded) (members : List Nat) : Dev :=
  match d.ctx? slot with
  | none => d
  | some c0 =>
    let x := y.img
    let sec := y.section_.shift d.fresh
    let remap := d.remapFor slot c0.part x sec
    let d0 := ({ d with fresh := 2 * d.fresh }.mapCtx slot (fun c =>
      { c with members := members, vm := x.vm, ctxid := BitVec.ofNat 16 x.ctxid, memKey := Config.key d.ctr, vcmap := remap, privMap := [],
               code := x.code, ro := x.ro })).tick
    let d1 := y.granules.foldl (fun d g => d.putGranule slot g) ((d0.rebuild slot x remap).putPrivMap slot sec.privMap)
    let d2 := x.psn.foldl (fun d w => d.putPoison slot w) d1
    let c := (d2.ctx? slot).getD c0
    let d3 : Dev :=
      { d2 with
        launches := d2.launches.filter (fun l => l.ctx ≠ slot) ++ sec.launches.map (fun l => l.restored d2 c slot)
        dies := d2.dies.map (fun k => { k with tasks := k.tasks.filter (fun t => t.ctx ≠ slot) }) }
    let (d4, sec1) := (d3.putTasks slot c sec.tasks).releases slot sec
    ((d4.mapCtx slot (fun c =>
      { c with
        regs := sec.regs
        phase := .restoring c.readySeen
        readySeen := []
        saved := some sec1
        chans := c.restoredChans sec
        nextTag := (sec.cores.flatMap (fun y => y.ott.flatMap (fun e => e.accs.map OttAcc.tag))).foldl (fun m k => max m (k + 1)) c.nextTag
        nextLid := sec.launches.foldl (fun m l => max m (l.lid + 1)) 0
        reload := some x
        rlog := if c.rerun then x.rlog else []
        rerun := c.rerun && x.rerun
        lastOk := if x.save then c.lastOk else x.epoch
        tags := []
        snaps := (upTo 2).map (fun k =>
          if !x.save && x.epoch % 2 = k then { Snap.idle with epoch := x.epoch, state := .complete } else Snap.idle) })).fetchCode slot).notices slot .ready

/-- The bytes of the part whose header lies at a physical address, as its reads deliver them. -/
def Dev.partAt (d : Dev) (pa a n : Nat) : List Byte := (d.readPhys (pa + a) n).1

/-! ### Forced reset (R99) -/

/-- The detail of a pre-emption record: a CYC and the level reached (R379, group 13). -/
def Ctx.haltTime (c : Ctx) : W64 :=
  match c.phase with
  | .saving _ | .saved => c.haltAt
  | _ => c.regs.cyc

/-- The jobs of a context that is reset fail (R192): the queued ones went with their launches (R92). DESIGN CHOICE: notes/assumptions/152. -/
def Dev.resetJobs (d : Dev) (slot : Nat) : Dev :=
  (upTo 4).foldl (fun (d : Dev) k =>
    ((d.die k).jobs.filter (fun j => j.ctx == slot)).foldl (fun d j =>
      let c := if j.kind.coll then cCollectiveMemberLost else cPacketStomped
      (d.collNotice j cPacketStomped).abandonJob k j .failed c (jobDetail j.handle 0 3)) d) d

/-- What the last completed snapshot gives a context that is reset: its part, if it passes the checks (R99, R439). -/
def Dev.lastPart (d : Dev) (c : Ctx) : Option Loaded :=
  c.lastImage.bind (fun x =>
    match checkPart [x] c.snapKey (match x.at_ with | some pa => fun a n => d.partAt pa a n | none => fun a n => x.bytes.getBytes a n) with
    | .ok y => some y
    | .error _ => none)

/-- Level 3: the context is discarded, its frames are taken back, and it is returned to its last completed snapshot, or left empty (R98,
R99, R351). DEDUCED: notes/assumptions/84. DEDUCED: notes/assumptions/85. -/
def Dev.forceReset (d : Dev) (slot : Nat) : Dev :=
  match d.ctx? slot with
  | none => d
  | some c =>
    let live := (c.snaps.filter (fun s => s.live)).map Snap.epoch
    let last := d.lastPart c
    let d1 := (d.launches.filter (fun l => l.ctx == slot)).foldl (fun d l => d.endLaunch slot l.lid none .reset) d
    let d2 := ((d1.resetJobs slot).evict slot).releaseFrames slot
    let d3 : Dev :=
      { d2 with
        launches := d2.launches.filter (fun l => l.ctx ≠ slot)
        dies := d2.dies.map (fun x => { x with tasks := x.tasks.filter (fun t => t.ctx ≠ slot) }) }
    let d4 := d3.mapCtx slot (fun c =>
      { c with
        phase := .empty, ring := [], head := 0, saved := none, held := [], haltSeen := [], noResume := false, reload := none, privMap := [], onto := []
        chans := c.chans.map (fun e => (e.1, { e.2 with sent := [], window := [] }))
        snaps := c.snaps.map (fun s =>
          if s.live then { s with state := .aborted, live := false, section_ := none, mem := [], psn := [], todo := [], staged := [], log := [], part := none, units := [] }
          else s) })
    let d5 := match last with
      | some y => d4.loadImage slot y c.members
      | none => d4
    let d6 := live.foldl (fun (d : Dev) e =>
      (d.note (Who.nobody (some slot)) cSnapshotAborted (snapDetail e 0 0)).notices slot (.aborted e)) d5
    d6.record { Rec.plain (Who.nobody (some slot)) cContextReset (cycDetail c.haltTime 3) with sev := 4 }

/-! ### Level 2 (R98) -/

/-- A context's chunks halt, and its save begins (R98, R101, R442). -/
def Dev.startSave (d : Dev) (slot : Nat) : Dev :=
  match d.ctx? slot with
  | none => d
  | some c =>
    if c.phase.issues then
      let d1 := d.mapCtx slot (fun c => { c with phase := .saving d.pcyc, haltAt := c.regs.cyc })
      let d2 : Dev :=
        { d1 with launches := d1.launches.map (fun l =>
            if l.ctx = slot && (l.state = .running || l.state = .draining) then { l with state := .saving } else l) }
      d2.notices slot .halted
    else
      match c.phase with
      -- a record step is finished first (R422)
      | .recording .. => { d with agenda := insertEvent (d.pcyc + 1) (.contextSave slot) d.agenda }
      | _ => d

/-- Every access, transfer, activation and piece of a context has come to rest, and every halt marker has arrived (R142, R163,
R186, R442). A request to a member that has halted rests where it is (R423). DEDUCED: notes/assumptions/82. -/
def Dev.quiet (d : Dev) (slot : Nat) (c : Ctx) : Bool :=
  d.cores.all (fun e =>
    e.2.ott.all (fun x =>
      x.accs.all (fun a => a.ctx ≠ slot || a.reply ≠ .none || c.haltSeen.contains a.vm) &&
        (match x.here with
         | some l => !(l.uids.any (fun u => ((d.thread? u).map (fun t => t.ctx == slot)).getD false))
         | none => true)) &&
      e.2.bus.all (fun b => b.ctx ≠ slot) && e.2.slots.all (fun s => s.state ≠ .opening || s.ctx ≠ slot || s.kept)) &&
    d.dies.all (fun x => x.jobs.all (fun j => j.ctx ≠ slot || j.pend = [])) &&
    c.others.all (fun v => c.haltSeen.contains v)

/-- The address lies in the rows of shadow storage that hold context-save images (R419). -/
def inSaveRows (pa : Nat) : Bool :=
  inTier1 pa && (let o := pa % 0x10000000; (0xFC00000 ≤ o && o < 0xFCC0000) || (0xFCC0000 ≤ o && o < 0xFD00000 && bankOf pa < 123))

/-- The words of shadow storage that cannot be corrected under a save of a context, in the columns of its cores (R98). -/
def Dev.saveBad (d : Dev) (slot : Nat) : List Nat :=
  if d.flips.isEmpty then []
  else
    (((d.flips.map Prod.fst).eraseDups).filter (fun w => inSaveRows (16 * w) && (d.coresOf slot).contains (columnOf (16 * w)) &&
      (match d.ecc w with | .bad => true | _ => false)))

/-- The save completes, or fails where shadow storage reports an uncorrectable error (R98). DEDUCED: notes/assumptions/82. DEDUCED: notes/assumptions/84. -/
def Dev.finishSave (d : Dev) (slot : Nat) : Dev :=
  match d.ctx? slot with
  | none => d
  | some c =>
    match c.phase with
    | .saving _ =>
      if d.quiet slot c then
        if d.saveBad slot ≠ [] then ((d.saveBad slot).foldl (fun d w => d.eccNote none true (16 * w) 16) d).forceReset slot
        else
          let d0 := d.settleCtx slot
          let x := d0.capture slot ((d0.ctx? slot).getD c)
          let d1 := (d0.evict slot).mapCtx slot (fun c => { c with phase := .saved, saved := some x })
          let d2 : Dev :=
            { d1 with launches := d1.launches.map (fun l => if l.ctx = slot && l.state = .saving then { l with state := .saved } else l) }
          d2.note (Who.nobody (some slot)) cContextSaved (cycDetail c.haltAt 2)
      else d
    | _ => d

/-- The members of a context have all halted, or it has no other. -/
def Ctx.allHalted (c : Ctx) : Bool := c.others.all (fun v => c.haltSeen.contains v)

end Sys2Proof.Machine
end

