-- ==== Sys2Proof/Machine/Preempt.lean ====
section
/-! DEFINITION. Pre-emption: the drain, the context save, the forced reset, and the watchdog (spec/04 R98 to R101). -/

namespace Sys2Proof.Machine

/-- The drain deadline of a partition in cycles: 50 µs unless the driver has set another (R98). -/
def Dev.drainTime (d : Dev) (part : Nat) : Nat := KV.get d.drain 60000 part

/-- The launch goes straight to level 2: it is persistent, or a gang of its chunks has an open rendezvous (R98). -/
def Dev.skipsDrain (d : Dev) (l : Launch) : Bool :=
  let bound := d.chunks.any (fun c => c.ctx == l.ctx && c.lid == l.lid)
  bound && (l.pers || d.cores.any (fun e => e.2.gangs.any (fun g =>
    g.2.ctx == l.ctx && g.2.rdv.isSome &&
      g.2.members.any (fun u => ((d.thread? u).map (fun t => t.lid == l.lid)).getD false))))

/-- Level 1: no chunk of the context binds any more, and its running launches drain (R98, R101). DEDUCED: notes/assumptions/90. -/
def Dev.startDrain (d : Dev) (slot : Nat) : Dev :=
  match d.ctx? slot with
  | none => d
  | some c =>
    let mark := fun (d : Dev) =>
      { d with launches := d.launches.map (fun l => if l.ctx = slot && l.state = .running then { l with state := .draining } else l) }
    let dl := c.regs.cyc.toNat + d.drainTime c.part
    match c.phase with
    | .recording s e none =>
      if d.launches.any (fun l => l.ctx == slot && d.skipsDrain l) then d.startSave slot
      else mark (d.mapCtx slot (fun c => { c with phase := .recording s e (some dl), haltAt := c.regs.cyc }))
    | .running =>
      if d.launches.any (fun l => l.ctx == slot && d.skipsDrain l) then d.startSave slot
      else mark (d.mapCtx slot (fun c => { c with phase := .draining dl, haltAt := c.regs.cyc }))
    | _ => d

/-- PREEMPT_DRAIN (R98). -/
def execPreemptDrain (slot : Nat) (s : State) : Host.Outcome State Fault Refusal := onDev s (fun d => d.startDrain slot)

/-- The context has chunks on a core. -/
def Dev.hasChunks (d : Dev) (slot : Nat) : Bool := d.chunks.any (fun c => c.ctx == slot)

/-- The deadline of a drain has passed with chunks left. DEDUCED: notes/assumptions/90. -/
def Dev.drainOver (d : Dev) (slot : Nat) (c : Ctx) : Bool :=
  match c.phase with
  | .draining dl => dl ≤ c.regs.cyc.toNat && d.hasChunks slot
  | _ => false

/-- The deadline of a drain passes: a record, and level 2 follows (R98). -/
def Dev.drainEnd (d : Dev) (slot : Nat) : Dev :=
  match d.ctx? slot with
  | none => d
  | some c =>
    if d.drainOver slot c then (d.note (Who.nobody (some slot)) cDrainDeadline (cycDetail c.haltAt 1)).startSave slot else d

/-- DRAIN_DEADLINE (R98). DEDUCED: notes/assumptions/84. -/
def execDrainDeadline (slot : Nat) (s : State) : Host.Outcome State Fault Refusal := onDev s (fun d => d.drainEnd slot)

/-- CONTEXT_SAVE: level 2 begins (R98). -/
def execContextSave (slot : Nat) (s : State) : Host.Outcome State Fault Refusal := onDev s (fun d => d.startSave slot)

/-- The image is written; one that may not be resumed is discarded, and the context reset (R98, R395). -/
def Dev.saved (d : Dev) (slot : Nat) : Dev :=
  let d1 := d.finishSave slot
  match d1.ctx? slot with
  | some c => if c.phase = .saved && c.noResume then d1.forceReset slot else d1
  | none => d1

/-- CONTEXT_SAVED (R98). -/
def execContextSaved (slot : Nat) (s : State) : Host.Outcome State Fault Refusal := onDev s (fun d => d.saved slot)

/-- The 60 µs of a save have passed; for a context of several modules they run until the last halt marker has arrived (R98,
R442). -/
def Dev.saveLate (d : Dev) (c : Ctx) : Bool :=
  match c.phase with
  | .saving t => t + 72000 ≤ d.pcyc && (c.others = [] || !c.allHalted)
  | _ => false

/-- The bound of a save passes: level 3 follows. -/
def Dev.saveFails (d : Dev) (slot : Nat) : Dev :=
  match d.ctx? slot with
  | none => d
  | some c => if d.saveLate c then d.forceReset slot else d

/-- CONTEXT_SAVE_TIMEOUT (R98). -/
def execContextSaveTimeout (slot : Nat) (s : State) : Host.Outcome State Fault Refusal := onDev s (fun d => d.saveFails slot)

/-- CONTEXT_RESET (R99). -/
def execContextReset (slot : Nat) (s : State) : Host.Outcome State Fault Refusal := onDev s (fun d => d.forceReset slot)

/-- A rendezvous has been open for 16,777,216 cycles (R100). DEDUCED: notes/assumptions/37. -/
def Dev.watchdogDue (d : Dev) (g : Gang) : Bool :=
  match g.rdv with
  | some v => v.opened.toNat + 2 ^ 24 ≤ (d.cyc g.ctx).toNat
  | none => false

/-- The launch of a gang whose rendezvous stayed open ends (R100). DEDUCED: notes/assumptions/37. -/
def Dev.watchdog (d : Dev) (core gang : Nat) : Dev :=
  match d.gang? core gang with
  | none => d
  | some g =>
    match g.rdv with
    | none => d
    | some v =>
      if d.watchdogDue g then
        let who : Who :=
          match (v.arrived.filterMap d.thread?).head? with
          | some t => { d.whoOf t with pc := v.pc }
          | none => { Who.nobody (some g.ctx) with pc := v.pc, lid := BitVec.ofNat 32 g.lid }
        d.endLaunchBy g.ctx g.lid who cWatchdog (cycDetail v.opened 0)
      else d

/-- WATCHDOG (R100). -/
def execWatchdog (core gang : Nat) (s : State) : Host.Outcome State Fault Refusal := onDev s (fun d => d.watchdog core gang)

end Sys2Proof.Machine
end

