-- ==== Sys2Proof/Machine/Quar.lean ====
section
/-! DEFINITION. Physical cores: the margin word, scans, quarantine and fills (spec/01 R11, spec/19 R397 to R415). -/

namespace Sys2Proof.Machine

/-! ### The agenda -/

/-- Puts an event on the agenda, a free number of cycles below `bound` from now. -/
def Dev.within (d : Dev) (bound : Nat) (i : Instr) : Dev :=
  { d with agenda := insertEvent (d.pcyc + Config.delay d.ctr % (bound + 1)) i d.agenda, ctr := d.ctr + 1 }

/-! ### Numbers of cores (R11) -/

/-- The die of a physical core. -/
def dieOfPhys (p : Nat) : Nat := p / 136
/-- The cluster of a physical core, among all of the module. -/
def clusterOf (p : Nat) : Nat := p / 17
/-- The logical core a physical core is bound to. -/
def Dev.logicalOf? (d : Dev) (p : Nat) : Option Nat := (upTo 512).find? (fun n => d.physOf n == p)
/-- The partition of a physical core; a spare, or a core that is quarantined, is in none. -/
def Dev.partOfPhys? (d : Dev) (p : Nat) : Option Nat :=
  if (d.phys? p).state = 4 || (d.phys? p).state = 5 then none else (d.logicalOf? p).map d.partOf

/-! ### MARGIN.n (R397) -/

/-- WCNT: the replays in the last 100,000 cycles since the last raise (R400). -/
def Dev.wcnt (d : Dev) (p : Nat) : Nat := min 0xFFFF ((d.phys? p).reps.filter (fun t => d.pcyc < t + 100000)).length

/-- MARGIN.n as it reads. -/
def Dev.marginWord (d : Dev) (p : Nat) : W64 :=
  let x := d.phys? p
  BitVec.ofNat 64 (packFields
    [(0, 5, x.cur), (8, 5, x.tgt), (16, 5, x.ceil), (24, 16, d.wcnt p), (40, 3, x.state), (43, 2, x.sres), (45, 9, x.for_)])

/-- The partition of a core leaves its target to Foehn (R397, R410). -/
def Dev.foehnSets (d : Dev) (p : Nat) : Bool :=
  match d.partOfPhys? p with
  | some q => !((d.mode q).getLsbD 6)
  | none => false

/-- Sets TGT, and the time of its last change; from where CUR and TGT begin to differ the steps count (R398). DEDUCED: notes/assumptions/75. DEDUCED: notes/assumptions/80. -/
def Dev.setTgt (d : Dev) (p v : Nat) : Dev :=
  d.mapPhys p (fun x =>
    { x with
      tgt := v
      lastTgt := if x.tgt = v then x.lastTgt else d.pcyc
      lastStep := if x.cur = x.tgt && x.tgt ≠ v then d.pcyc else x.lastStep })

/-! ### Records of group 10 (R379, R403) -/

/-- The detail of a record about a physical core. -/
def Dev.physDetail (d : Dev) (p sig : Nat) : Detail :=
  let x := d.phys? p
  let n := (d.logicalOf? p).getD (if x.state = 5 then x.for_ else 0)
  detailOf (p + n * 2 ^ 10) (x.cur + d.wcnt p * 2 ^ 5) sig

/-- A record of group 10 goes to the system queue. -/
def Dev.physNote (d : Dev) (p : Nat) (c : Cause) (sig : Nat) : Dev :=
  d.note (Who.nobody none) c (d.physDetail p sig)

/-! ### Spares and fills (R11, R413 to R415) -/

/-- The spare that replaces a core: a free one of its cluster, else any free one of its die. DEDUCED: notes/assumptions/79. -/
def Dev.chooseSpare (d : Dev) (p : Nat) : Option Nat :=
  let free := (upTo 136).filterMap (fun k =>
    let q := 136 * dieOfPhys p + k
    if (d.phys? q).state = 4 then some q else none)
  match free.find? (fun q => clusterOf q == clusterOf p) with
  | some q => some q
  | none => free[Config.pick d.ctr % free.length]?

/-- The launch of a context ends with a ROW_NOT_LOCAL record. DEDUCED: notes/assumptions/81. -/
def Dev.endRowLaunch (d : Dev) (slot : Nat) (l : Launch) : Dev :=
  ((d.note { Who.nobody (some slot) with lid := BitVec.ofNat 32 l.lid } cRowNotLocal Detail.zero).endLaunch slot l.lid none .ended)

/-- The launches of a context whose ROW ranges lie in columns of cores the test accepts end (R415). -/
def Dev.endRowLaunches (d : Dev) (slot : Nat) (p : Nat → Bool) : Dev :=
  match d.ctx? slot with
  | none => d
  | some c =>
    (d.launches.filter (fun l => l.ctx == slot && l.state.holds)).foldl (fun d l =>
      if ((d.rowCore? c l).map p).getD false then d.endRowLaunch slot l else d) d

/-- A logical core becomes unbound (R415). DEDUCED: notes/assumptions/81. -/
def Dev.coreLost (d : Dev) (n : Nat) : Dev :=
  let d1 := { d with lcmap := KV.set d.lcmap n 0x3FF, colPhys := KV.set d.colPhys n (d.columnPhys n) }
  (d1.ctxs.map Prod.fst).foldl (fun d slot => d.endRowLaunches slot (fun k => k == n)) d1

/-- Logical core n is bound to a spare, which waits for its fill; with no spare free it is lost. DEDUCED: notes/assumptions/79. -/
def Dev.fillInto (d : Dev) (n : Nat) (s : Option Nat) (foehn : Bool) : Dev :=
  match s with
  | none => d.coreLost n
  | some q =>
    { (d.mapPhys q (fun x => { x with state := 5, for_ := n })) with
      lcmap := KV.set d.lcmap n q
      colPhys := KV.set d.colPhys n (d.columnPhys n)
      fills := d.fills ++ [{ spare := q, logical := n, started := none, foehn := foehn }] }

/-- QUAR on a physical core (R413); the answer is whether it is accepted. -/
def Dev.quarantine (d : Dev) (p : Nat) (foehn : Bool) : Dev × Bool :=
  let x := d.phys? p
  let six := fun (d : Dev) => d.mapPhys p (fun x => { x with state := 6 })
  let out := d.physNote p cQuarantine 0
  match x.state with
  | 2 =>
    match d.logicalOf? p with
    | some n => ((six out).fillInto n (d.chooseSpare p) foehn, true)
    | none => (d, false)
  | 4 => (six out, true)
  | 5 =>
    match d.fills.find? (fun f => f.spare == p) with
    | some f =>
      let d1 := { six out with fills := out.fills.filter (fun g => g.spare ≠ p) }
      (d1.fillInto f.logical (d.chooseSpare p) f.foehn, true)
    | none => (six out, true)
  | _ => (d, false)

/-! ### Scans (R412) -/

/-- A run of the pattern set begins on a core, and ends within 240,000 cycles. -/
def Dev.scanBegin (d : Dev) (p : Nat) : Dev :=
  let d1 := d.tick
  let n := Config.delay d.ctr % 240000
  { (d1.mapPhys p (fun x => { x with scanEnd := d.pcyc + n + 1 })) with
    agenda := insertEvent (d.pcyc + n + 1) (.scanRunEnd p (Config.signature d.ctr)) d1.agenda }

/-- A run leaves what the core itself holds zero and invalid, and never touches its row column (R412). -/
def Dev.wipeCore (d : Dev) (p : Nat) : Dev :=
  match d.logicalOf? p with
  | some n => d.mapCore n (fun c => { Core.reset with banks := c.banks, acts := c.acts, refresh := c.refresh, bus := c.bus, ott := c.ott, binds := c.binds })
  | none => d

/-- SCAN on a core from an executing physical core (R412). -/
def Dev.scan (d : Dev) (p exec : Nat) : Dev × Bool :=
  let x := d.phys? p
  if clusterOf p ≠ clusterOf exec || p = exec || !(x.state = 2 || x.state = 4) then (d, false)
  else ((d.mapPhys p (fun x => { x with prior := x.state, state := 3, sres := 0 })).scanBegin p, true)

/-- SCAN.ABORT (R412): the run stops within 2,400 cycles. -/
def Dev.scanStop (d : Dev) (p : Nat) : Dev × Bool :=
  if (d.phys? p).state = 3 then ((d.mapPhys p (fun x => { x with scanEnd := 0 })).within 2400 (.scanAborted p), true)
  else (d, false)

/-! ### HALTC (R411) -/

/-- When a core's STATE becomes 1, the contexts of its persistent launches are pre-empted at level 2. -/
def Dev.haltPers (d : Dev) (n : Nat) : Dev :=
  let slots := ((d.chunks.filter (fun c => c.core == n && ((d.launch? c.ctx c.lid).map Launch.pers).getD false)).map Chunk.ctx).eraseDups
  slots.foldl (fun d k => d.startSave k) d

/-- HALTC on logical core n from logical core `exec`. DEDUCED: notes/assumptions/80. -/
def Dev.halt (d : Dev) (n exec : Nat) : Dev × Bool :=
  let p := d.physOf n
  if n / 128 ≠ exec / 128 || p = 0x3FF || p = d.physOf exec then (d, false)
  else
    match (d.phys? p).state with
    | 0 => (((d.mapPhys p (fun x => { x with state := 1 })).haltPers n).haltCheck n, true)
    | 1 => (d, true)
    | 2 => (d, true)
    | _ => (d, false)

/-- HALTC.REL on logical core n. DEDUCED: notes/assumptions/80. -/
def Dev.haltRel (d : Dev) (n exec : Nat) : Dev × Bool :=
  let p := d.physOf n
  if n / 128 ≠ exec / 128 || p = 0x3FF || p = d.physOf exec then (d, false)
  else if (d.phys? p).state = 1 || (d.phys? p).state = 2 then (d.mapPhys p (fun x => { x with state := 0 }), true)
  else (d, false)

/-- PENDHI.n (R411): a chunk of a priority-0 launch is assigned to n and not bound: by a record of Levante's that waits, by a bind intent, or
by R91. -/
def Dev.pendHi (d : Dev) (n : Nat) : Bool :=
  d.launches.any (fun l =>
    l.prio = 0 && l.state.holds && l.started.length < l.numChunks &&
      (l.intents.any (fun i => i.1 == n && !(l.started.contains (BindRec.ofBits i.2 l.chunkSize).chunk)) ||
        (d.core n).binds.any (fun b => (b.map (fun r => r.ctx == l.ctx && r.lid == l.lid && !r.bound)).getD false) ||
        (match (d.ctx? l.ctx).bind (fun c => d.rowCore? c l) with
         | some k => k == n
         | none => false)))

/-- A SYSW of LCMAP.n (R408). -/
def Dev.writeLcmap (d : Dev) (n : Nat) (v : W64) : Dev :=
  let p := d.physOf n
  let q := bitsOf v.toNat 0 10
  if p < 544 && (d.phys? p).state = 2 && q < 544 && dieOfPhys q = dieOfPhys p && (d.phys? q).state = 4 &&
      !(d.fills.any (fun f => f.logical == n)) then
    (d.mapPhys p (fun x => { x with state := 4 })).fillInto n (some q) false
  else d

/-- A SYSW of MARGIN.n (R397): TGT and CEIL. DEDUCED: notes/assumptions/80. -/
def Dev.writeMargin (d : Dev) (p : Nat) (v : W64) : Dev :=
  let ceil := min 24 (bitsOf v.toNat 16 5)
  let d1 := d.mapPhys p (fun x => { x with ceil := ceil })
  if d.foehnSets p then d1 else d1.setTgt p (min ceil (bitsOf v.toNat 8 5))

end Sys2Proof.Machine
end

