-- ==== Sys2Proof/Machine/System.lean ====
section
/-! DEFINITION. System registers, traps by instruction, the return from a trap, translation queries, and the maintenance
instructions (spec/01 R20 to R31, spec/09 R232 to R234, spec/12 R316, spec/15 R342 to R344, spec/18 R372, R382 to R390,
spec/19 R397, R408 to R413). -/

namespace Sys2Proof.Machine

/-! ### Reading (R20, R21, R387) -/

/-- SNAPSTAT (R437). -/
def Dev.snapStat (d : Dev) (slot : Nat) (c : Ctx) : W64 :=
  let st := fun (k : Nat) => ((c.snaps[k]?).map (fun s => s.state.num)).getD 0
  let held := c.staging
  BitVec.ofNat 64 (packFields
    [(0, 3, st 0), (3, 3, st 1), (6, 1, b2n (d.recording slot)), (16, 16, c.lastOk), (32, 16, min 0xFFFF (held / 4096))])

/-- The register belongs to the thread alone. -/
def ownScope (n : Nat) : Bool := [0x008, 0x009, 0x010, 0x012, 0x020, 0x021, 0x022, 0x023, 0x024].contains n
/-- The register belongs to a gang (R21). -/
def gangScope (n : Nat) : Bool := n = 0x011 || (0x014 ≤ n && n ≤ 0x017)

/-- A system register as a thread reads it, zero-extended (R20, R21). -/
def Dev.sysRead (d : Dev) (t : Thread) (n : Nat) : W64 :=
  let regs := (d.ctx? t.ctx).map Ctx.regs
  let of := fun (f : CtxRegs → W64) => (regs.map f).getD 0
  let gang := (d.gangOf? t).map Prod.snd
  match n with
  | 0x000 => of CtxRegs.cyc
  | 0x001 => of CtxRegs.cyccmp
  | 0x002 => BitVec.ofNat 64 d.pcyc
  | 0x008 => zext64 t.tid
  | 0x009 => BitVec.ofNat 64 t.lid
  | 0x00A => ((d.ctx? t.ctx).map (fun c => c.ctxid.zeroExtend 64)).getD 0
  | 0x010 => t.flags.zeroExtend 64
  | 0x011 => (gang.map (fun g => g.mxcnt.zeroExtend 64)).getD 0
  | 0x012 => zext64 t.rngcnt
  | 0x013 => of CtxRegs.sgen
  | 0x014 => (gang.map (fun g => zext64 (g.svar.word 0))).getD 0
  | 0x015 => (gang.map (fun g => zext64 (g.svar.word 1))).getD 0
  | 0x016 => (gang.map (fun g => zext64 (g.svar.word 2))).getD 0
  | 0x017 => (gang.map (fun g => zext64 (g.svar.word 3))).getD 0
  | 0x020 => t.cause.zeroExtend 64
  | 0x021 => t.epc
  | 0x022 => zext64 t.detail.w0
  | 0x023 => zext64 t.detail.w1
  | 0x024 => zext64 t.detail.w2
  | 0x025 => of CtxRegs.tvec
  | 0x028 => of CtxRegs.eqbase
  | 0x029 => of (fun r => zext64 r.eqsize)
  | 0x02A => of (fun r => zext64 r.eqhead)
  | 0x02B => of (fun r => zext64 r.eqtail)
  | 0x030 => ((d.ctx? t.ctx).map (d.snapStat t.ctx)).getD 0
  | 0x031 => of (fun r => BitVec.ofNat 64 r.epoch)
  | _ =>
    if 0x100 ≤ n && n < 0x180 then d.fmtWord (n - 0x100)
    else if 0x200 ≤ n && n < 0x400 then BitVec.ofNat 64 (b2n (d.pendHi (n - 0x200)))
    else if 0x400 ≤ n && n < 0x620 then d.marginWord (n - 0x400)
    else if 0x800 ≤ n && n < 0xA00 then BitVec.ofNat 64 (d.physOf (n - 0x800))
    else if 0xA00 ≤ n && n < 0xC20 then KV.get d.scansig 0 (n - 0xA00)
    else if 0xD00 ≤ n && n < 0xD08 then d.mode (n - 0xD00)
    else 0

/-- The register words of a SYSR of one register or a pair. -/
def sysWords (f : SysForm) (v : W64) : List W32 :=
  match f with
  | .pair _ => [lo32 v, hi32 v]
  | _ => [lo32 v]

/-- The destination register of a SYSR into vector registers. -/
def sysDest : SysForm → VReg
  | .one r => r
  | .pair r => r
  | .s _ => 0

/-- What one thread obtains, and the device after it: CYC may come from a re-run's log. -/
def Dev.sysGet (d : Dev) (t : Thread) (n : Nat) : W64 × Dev :=
  if n = 0 then d.cycInput t (d.sysRead t n) else (d.sysRead t n, d)

/-- SYSR (R387): into vector registers per lane, or gang-wide into a gang scalar. A register outside the thread's own scope
is obtained once for a protected pair. `order` is what the read is in the order of memory: nothing, but an acquire of EQTAIL. A gang
scalar is written when the rendezvous completes, also with LAH above 0. DESIGN CHOICE: notes/assumptions/14. -/
def Dev.sysrIn (order : Dev → List Thread → Dev) (d : Dev) (i : Instr) (h : Hd) (f : SysForm) (n : Nat) : Dev :=
  match f with
  | .s r =>
    d.gangWide i h (fun m act d =>
      match act with
      | [] => d.meetDone h m
      | t :: _ =>
        let x := d.sysGet t n
        ((order x.2 act).mapGang m.core m.idx (fun g => g.setS r x.1 false)).meetDone h m)
  | f =>
    if ownScope n then
      d.lanes i h [0] (gangScope n) (fun act d =>
        (d.mapUids (act.map Thread.uid) (fun t => t.wrRes h (sysDest f) (sysWords f (d.sysRead t n)) false)).done h)
    else
      d.lanesOut i h (gangScope n) (fun _ _ => []) (fun _ _ => none) (fun act d =>
        d.unless act (fun t => n == 0 && d.logStalls t.ctx) (.staging d.pcyc) (fun d =>
          (act.foldl (fun (d : Dev) t =>
            let x := d.sysGet t n
            x.2.deliver t.uid (fun y => y.wrRes h (sysDest f) (sysWords f x.1) false)) (order d act)).done h))

/-- SYSR of a register whose read orders nothing. -/
def Dev.sysr (d : Dev) (i : Instr) (h : Hd) (f : SysForm) (n : Nat) : Dev := d.sysrIn (fun d _ => d) i h f n

/-- SYSR (R387). -/
def execSysr (h : Hd) (f : SysForm) (srn : Srn) (s : State) : Host.Outcome State Fault Refusal :=
  onDev s (fun d => d.sysr (.sysr h f srn) h f srn.toNat)

/-- SYSR of EQTAIL (R384): an acquire of the records that the device has written. -/
def execEqtailRead (h : Hd) (f : SysForm) (s : State) : Host.Outcome State Fault Refusal :=
  onDev s (fun d => d.sysrIn (fun d ts => d.learns ts .device) (.eqtailRead h f) h f 0x02B)

/-! ### Writing (R388) -/

/-- The value a SYSW writes, with its poison. -/
def Env.sysVal (e : Env) (f : SysForm) : W64 × Bool :=
  match f with
  | .one r => let x := e.read 0 (.v r false); (BitVec.ofNat 64 x.1, x.2)
  | .pair r => let x := e.read 0 (.v r true); (BitVec.ofNat 64 x.1, x.2)
  | .s r => let x := e.read 0 (.s r true); (BitVec.ofNat 64 x.1, x.2)

/-- The registers a SYSW reads. -/
def Env.sysRun (e : Env) (f : SysForm) : List (Nat × Nat × Bool) :=
  match f with
  | .one r => e.run 0 (.v r) 1
  | .pair r => e.run 0 (.v r) 2
  | .s r => e.run 0 (.s r) 1

/-- A SYSW per lane, in ascending lane order: `eff` writes one thread's value. -/
def Dev.sysw (d : Dev) (i : Instr) (h : Hd) (f : SysForm) (eff : Dev → Thread → W64 → Dev) : Dev :=
  d.lanesOut i h false (fun d t => [((d.env t).sysVal f).1.toNat])
    (fun d t => t.poisonRun ((d.env t).sysRun f))
    (fun act d => (act.foldl (fun (x : Dev) t => eff x t ((d.env t).sysVal f).1) d).done h)

/-- A SYSW of a gang's register: once, the value of the participant of lowest rank whose guard is true. -/
def Dev.syswGang (d : Dev) (i : Instr) (h : Hd) (f : SysForm) (may : Dev → Meet → Bool) (eff : Gang → W64 → Gang) : Dev :=
  d.gangWide i h (fun m act d =>
    if !(may d m) then d
    else
      match act with
      | [] => d.meetDone h m
      | t :: _ =>
        let x := Env.sysVal { c := d.ctr, t := t, g := some m.gang } f
        let odd := d.threads.any (fun y => y.shadow && y.partner == some t.uid &&
          (Env.sysVal { c := d.ctr, t := y, g := some m.gang } f).1 != x.1)
        match t.poisonRun (Env.sysRun { c := d.ctr, t := t, g := some m.gang } f) with
        | some p => d.meetFail m act (Meet.fail act cPoisonConsumed p.detail)
        | none =>
          if odd then d.meetFail m act (Meet.fail act cProtectedMismatch (mismatchDetail 0 t.lane))
          else (d.mapGang m.core m.idx (fun g => eff g x.1)).meetDone h m)

/-- Changes the registers of a thread's context. -/
def Dev.mapRegs (d : Dev) (t : Thread) (f : CtxRegs → CtxRegs) : Dev := d.mapCtx t.ctx (fun c => { c with regs := f c.regs })

/-- The registers without a rule of their own. -/
def Dev.sysPut (d : Dev) (t : Thread) (n : Nat) (v : W64) : Dev :=
  match n with
  | 0x010 => d.deliver t.uid (fun x => { x with flags := v.extractLsb' 0 5 })
  | 0x012 => d.deliver t.uid (fun x => { x with rngcnt := lo32 v })
  | 0x013 => d.mapRegs t (fun r => { r with sgen := v })
  | 0x020 => d.deliver t.uid (fun x => { x with cause := v.extractLsb' 0 8 })
  | 0x021 => d.deliver t.uid (fun x => { x with epc := v })
  | 0x025 => d.mapRegs t (fun r => { r with tvec := v })
  | _ => if 0xA00 ≤ n && n < 0xC20 then { d with scansig := KV.set d.scansig (n - 0xA00) v } else d

/-- SYSW (R388). -/
def execSysw (h : Hd) (f : SysForm) (srn : Srn) (s : State) : Host.Outcome State Fault Refusal :=
  onDev s (fun d =>
    if srn.toNat = 0x011 then
      d.syswGang (.sysw h f srn) h f (fun _ _ => true) (fun g v => { g with mxcnt := v.extractLsb' 0 48 })
    else d.sysw (.sysw h f srn) h f (fun d t v => d.sysPut t srn.toNat v))

/-- A SAMPMM or SVSET of a gang is accepted and unfinished (R316). -/
def Core.svarBusy (c : Core) (k : Nat) : Bool :=
  let p := fun (m : MatrixJob) => m.gang == k && (match m.instr with | .sampmm .. => true | .svset .. => true | _ => false)
  c.mq.any p || c.mwait.any (fun w => p w.job)

/-- A word of SVAR is written by software: STOP and PSN, which only SAMPMM writes, keep their values, reserved bits stay zero (R315,
R316). -/
def Svar.put (v : Svar) (k : Nat) (x : W32) : Svar :=
  if k = 3 then { v with row := x.extractLsb' 0 8, col := x.extractLsb' 8 5 }
  else { v with w := v.w.set k x }

/-- SYSW of SVAR (R316): it waits until no SAMPMM or SVSET of the gang is accepted and unfinished. -/
def execSvarWrite (h : Hd) (f : SysForm) (n : BitVec 2) (s : State) : Host.Outcome State Fault Refusal :=
  onDev s (fun d => d.syswGang (.svarWrite h f n) h f (fun d m => !((d.core m.core).svarBusy m.idx))
    (fun g v => { g with svar := g.svar.put n.toNat (lo32 v) }))

/-- SYSW of CYCCMP (R372): it arms the timer for the writing thread; 0 disarms it. -/
def execCyccmpWrite (h : Hd) (f : SysForm) (s : State) : Host.Outcome State Fault Refusal :=
  onDev s (fun d => d.sysw (.cyccmpWrite h f) h f (fun d t v =>
    d.mapRegs t (fun r => { r with cyccmp := v, armer := if v = 0 then none else some t.uid })))

/-- EQHEAD moves to h if it stays within the records written; room that returns lets the dropped count be written (R382,
R383). -/
def Dev.setEqhead (d : Dev) (slot : Nat) (x : W32) : Dev :=
  match d.ctx? slot with
  | none => d
  | some c =>
    if (x - c.regs.eqhead).toNat ≤ (c.regs.eqtail - c.regs.eqhead).toNat then
      (d.mapCtx slot (fun c => { c with regs := { c.regs with eqhead := x } })).flushDropped slot
    else d

/-- SYSW of EQHEAD (R382, R384): a release, which waits for the threads' earlier accesses, towards the device. -/
def execEqheadWrite (h : Hd) (f : SysForm) (s : State) : Host.Outcome State Fault Refusal :=
  onDev s (fun d => d.lanesOut (.eqheadWrite h f) h false (fun d t => [((d.env t).sysVal f).1.toNat])
    (fun d t => t.poisonRun ((d.env t).sysRun f))
    (fun act d => d.afterRelease act (fun d =>
      (act.foldl (fun (x : Dev) t => x.setEqhead t.ctx (lo32 ((d.env t).sysVal f).1)) (d.passTo act .device)).done h)))

/-- A range of the local window is mapped writable and resident (R382). -/
def Dev.ringMapped (d : Dev) (c : Ctx) (base : W64) (n : Nat) : Bool :=
  n = 0 || (match windowOf base with
    | .local_ off =>
      off + n ≤ 2 ^ 56 && (upTo ((off + n - 1) / 65536 + 1 - off / 65536)).all (fun k =>
        match d.leaf? c ((off / 65536 + k) * 65536) with
        | some l => l.w && l.p
        | none => false)
    | _ => false)

/-- EQSIZE is a power of two from 16 to 1,048,576, or 0 (R382). -/
def eqSizeOk (n : Nat) : Bool := n = 0 || (upTo 17).any (fun k => n == 16 * 2 ^ k)

/-- EQBASE or EQSIZE is written if the queue is empty and the new ring is good (R382). -/
def Dev.setRing (d : Dev) (slot : Nat) (size : Bool) (v : W64) : Dev :=
  match d.ctx? slot with
  | none => d
  | some c =>
    let base := if size then c.regs.eqbase else v
    let n := if size then lo32 v else c.regs.eqsize
    if c.regs.eqhead = c.regs.eqtail && base.toNat % 64 = 0 && eqSizeOk n.toNat && d.ringMapped c base (64 * n.toNat) then
      d.mapCtx slot (fun c => { c with regs := { c.regs with eqbase := base, eqsize := n } })
    else d

/-- SYSW of EQBASE or EQSIZE (R382). -/
def execEqRingWrite (h : Hd) (f : SysForm) (size : Bool) (s : State) : Host.Outcome State Fault Refusal :=
  onDev s (fun d => d.sysw (.eqRingWrite h f size) h f (fun d t v => d.setRing t.ctx size v))

/-- The partition is idle: no chunk bound, no lease held, no snapshot in progress (R30). DEDUCED: notes/assumptions/118. -/
def Dev.partIdle (d : Dev) (p : Nat) : Bool :=
  d.ctxs.all (fun e =>
    e.2.part ≠ p ||
      (!(d.chunks.any (fun c => c.ctx == e.1)) && !(d.launches.any (fun l => l.ctx == e.1 && l.state.holds)) &&
        !(e.2.snaps.any (fun s => s.live)) && (match e.2.phase with | .recording .. => false | _ => true)))

/-- PARTMODE is written at an idle point of an unlocked partition (R30). -/
def Dev.setMode (d : Dev) (p : Nat) (v : W64) : Dev :=
  if d.partIdle p && !((d.mode p).getLsbD 8) then { d with partmode := KV.set d.partmode p (v &&& 0xFF) } else d

/-- SYSW of PARTMODE (R30). -/
def execPartmodeWrite (h : Hd) (f : SysForm) (n : BitVec 3) (s : State) : Host.Outcome State Fault Refusal :=
  onDev s (fun d => d.sysw (.partmodeWrite h f n) h f (fun d _ v => d.setMode n.toNat v))

/-- SYSW of LCMAP (R408). -/
def execLcmapWrite (h : Hd) (f : SysForm) (n : BitVec 9) (s : State) : Host.Outcome State Fault Refusal :=
  onDev s (fun d => d.sysw (.lcmapWrite h f n) h f (fun d _ v => d.writeLcmap n.toNat v))

/-- SYSW of MARGIN (R397). -/
def execMarginRegWrite (h : Hd) (f : SysForm) (n : BitVec 10) (s : State) : Host.Outcome State Fault Refusal :=
  onDev s (fun d => d.sysw (.marginRegWrite h f n) h f (fun d _ v => d.writeMargin n.toNat v))

/-! ### Format ranges (R232, R234) -/

/-- A held lease covers a byte of a range of physical addresses. -/
def Dev.leasedPhys (d : Dev) (pa n : Nat) : Bool :=
  d.launches.any (fun l => l.state.holds &&
    match d.ctx? l.ctx with
    | none => false
    | some c =>
      (l.ranges.map (fun r => (r.base.toNat, r.len)) ++ [c.code, c.ro]).any (fun r =>
        r.2 ≠ 0 && (upTo ((r.1 + r.2 - 1) / 65536 + 1 - r.1 / 65536)).any (fun k =>
          let g := (r.1 / 65536 + k) * 65536
          let a := max g r.1
          let b := min (g + 65536) (r.1 + r.2)
          match d.pa? c a with
          | some x => x < pa + n && pa < x + (b - a)
          | none => false)))

/-- A held lease covers the view or the store of a range. -/
def Dev.fmtLeased (d : Dev) (r : Option FmtRange) : Bool :=
  match r with
  | none => false
  | some r => d.leasedPhys r.vbase r.vlen || d.leasedPhys r.cbase r.storeLen

/-- A range overlaps another enabled one of its die. -/
def Dev.fmtClash (d : Dev) (n : Nat) (r : FmtRange) : Bool :=
  (upTo 16).any (fun k =>
    let j := 16 * (n / 16) + k
    j ≠ n && match d.fmtRange j with
      | none => false
      | some q =>
        meets r.vbase r.vlen q.vbase q.vlen || meets r.vbase r.vlen q.cbase q.storeLen ||
          meets r.cbase r.storeLen q.vbase q.vlen || meets r.cbase r.storeLen q.cbase q.storeLen)

/-- The bits of a word of FMTRANGE.n that are not reserved (R232). -/
def fmtMask (hi : Bool) : W64 := if hi then 0x0000FFFFFFFFF000 else 0xFFFFFFFFFFFFF003

/-- A SYSW of FMTRANGE.n (R232, R234): reserved bits read as zero. A held lease discards it where it covers the view or the store of an
enabled range, before or after the write. DESIGN CHOICE: notes/assumptions/149. -/
def Dev.setFmt (d : Dev) (n : Nat) (hi : Bool) (v : W64) : Dev :=
  let k := 2 * n + b2n hi
  let w0 := if hi then d.fmtWord (2 * n) else v
  let w1 := if hi then v else d.fmtWord (2 * n + 1)
  let put := { d with fmt := KV.set d.fmt k (v &&& fmtMask hi) }
  if !hi && !(v.getLsbD 0) then put
  else
    let new := fmtOf w0 w1
    let rsv := bitsOf w0.toNat 2 10 ≠ 0 || bitsOf w1.toNat 0 12 ≠ 0 || bitsOf w1.toNat 48 16 ≠ 0
    let bad := match new with
      | some r => rsv || d.fmtClash n r
      | none => false
    if bad || d.fmtLeased (d.fmtRange n) || d.fmtLeased new then d else put

/-- SYSW of FMTRANGE (R234). -/
def execFmtrangeWrite (h : Hd) (f : SysForm) (n : BitVec 6) (hi : Bool) (s : State) : Host.Outcome State Fault Refusal :=
  onDev s (fun d => d.sysw (.fmtrangeWrite h f n hi) h f (fun d _ v => d.setFmt n.toNat hi v))

/-! ### TRAP and ERET (R389, R390) -/

/-- The active threads of an instruction that raises a cause of its own accord. -/
def Dev.trapOwn (d : Dev) (i : Instr) (h : Hd) (c : Cause) (imm : W32) : Dev :=
  d.lanes i h [0] false (fun act d =>
    d.failGroup h act { cause := c, detail := { Detail.zero with w0 := imm }, failed := act.map Thread.uid })

/-- TRAP (R389). -/
def execTrap (h : Hd) (imm : W32) (s : State) : Host.Outcome State Fault Refusal :=
  onDev s (fun d => d.trapOwn (.trap h imm) h cTrapInsn imm)

/-- TRAP.BRK (R389). -/
def execTrapBrk (h : Hd) (imm : W32) (s : State) : Host.Outcome State Fault Refusal :=
  onDev s (fun d => d.trapOwn (.trapBrk h imm) h cBreakpoint imm)

/-- The return from a trap (R390). -/
def Dev.eret (d : Dev) (i : Instr) (h : Hd) (next : Bool) : Dev :=
  d.lanesChk i h false
    (fun _ t => firstFlt [flt (!t.inTrap) 1 cPrivilege (insnDetail i), targetFlt 2 t.lane (t.eretTarget next)])
    (fun act d =>
      let off := d.group.filter (fun u => !(act.any (fun t => t.uid == u)))
      (d.retire off h.yh).mapUids (act.map Thread.uid) (fun t => (t.eretTo (t.eretTarget next) d.pcyc).hint h.yh d.pcyc))

/-- ERET (R390). -/
def execEret (h : Hd) (s : State) : Host.Outcome State Fault Refusal := onDev s (fun d => d.eret (.eret h) h false)
/-- ERET.NEXT (R390). -/
def execEretNext (h : Hd) (s : State) : Host.Outcome State Fault Refusal := onDev s (fun d => d.eret (.eretNext h) h true)

/-! ### XLATE and LEASEQ (R343, R344) -/

/-- What XLATE writes for an address in a context (R343). DEDUCED: notes/assumptions/108. -/
def Dev.xlateWords (d : Dev) (c : Option Ctx) (va : W64) (system : Bool) : List W32 :=
  match windowOf va with
  | .bad => [0, 0, 0, 0]
  | .fabric _ _ => [0, 0, 0x40000, 0]
  | .local_ off =>
    match c.bind (fun c => d.leaf? c off) with
    | none => [0, 0, 0, 0]
    | some l =>
      let pa := BitVec.ofNat 64 (if system then l.pa else 0)
      let own := match d.ownerOf l.pa with
        | some o => o * 2 ^ 16 + 2 ^ 22
        | none => 0
      [lo32 pa, hi32 pa, BitVec.ofNat 32 (bitsOf l.entry.toNat 0 16 + l.level * 2 ^ 16), BitVec.ofNat 32 (l.epoch + own)]

/-- XLATE (R343). -/
def execXlate (h : Hd) (r a : VReg) (s : State) : Host.Outcome State Fault Refusal :=
  onDev s (fun d => d.lanes (.xlate h r a) h [0] false (fun act d =>
    (d.mapUids (act.map Thread.uid) (fun t =>
      let x := (d.env t).read 0 (.v a true)
      t.wrs r (d.xlateWords (d.ctx? t.ctx) (BitVec.ofNat 64 x.1) (t.level = .system)) x.2)).done h))

/-- XLATE of another context (R343). -/
def execXlateCtx (h : Hd) (r a b : VReg) (s : State) : Host.Outcome State Fault Refusal :=
  onDev s (fun d => d.lanesChk (.xlateCtx h r a b) h false
    (fun d t => flt (64 ≤ ((d.env t).read 1 (.v b false)).1) 1 cReservedBits (insnDetail (.xlateCtx h r a b)))
    (fun act d => (d.mapUids (act.map Thread.uid) (fun t =>
      let x := (d.env t).read 0 (.v a true)
      let k := (d.env t).read 1 (.v b false)
      t.wrs r (d.xlateWords (d.ctx? k.1) (BitVec.ofNat 64 x.1) (t.level = .system)) (x.2 || k.2))).done h))

/-- A range a lease holds, as LEASEQ reports it: base, length, RD, WR, ROW, image, inherited. -/
structure Held where
  base : Nat
  len  : Nat
  bits : Nat
  wide : Nat

/-- The ranges of a launch's lease, the declared ones first (R90, R344). DEDUCED: notes/assumptions/51. -/
def heldRanges (c : Ctx) (l : Launch) : List Held :=
  l.ranges.map (fun r =>
    { base := r.base.toNat, len := r.len, wide := b2n r.rd + b2n r.wr,
      bits := 1 + 2 * b2n r.rd + 4 * b2n r.wr + 8 * b2n r.row + 32 * b2n r.inherited }) ++
    [c.code, c.ro].map (fun r => { base := r.1, len := r.2, wide := 1, bits := 1 + 2 + 16 })

/-- What LEASEQ writes for an address (R344). DEDUCED: notes/assumptions/108. -/
def Dev.leaseqWords (d : Dev) (t : Thread) (va : W64) : List W32 :=
  match windowOf va, d.ctx? t.ctx, d.launch? t.ctx t.lid with
  | .fabric _ _, _, _ => [0, 0, 0, 0x40]
  | .local_ off, some c, some l =>
    match minBy (fun (x : Held) => 4 - x.wide) ((heldRanges c l).filter (fun x => covers x.base x.len off 1)) with
    | some x =>
      [BitVec.ofNat 32 x.base, BitVec.ofNat 32 (x.base / 2 ^ 32), BitVec.ofNat 32 ((x.len + 4095) / 4096), BitVec.ofNat 32 x.bits]
    | none => [0, 0, 0, 0]
  | _, _, _ => [0, 0, 0, 0]

/-- LEASEQ (R344). -/
def execLeaseq (h : Hd) (r a : VReg) (s : State) : Host.Outcome State Fault Refusal :=
  onDev s (fun d => d.lanes (.leaseq h r a) h [0] false (fun act d =>
    (d.mapUids (act.map Thread.uid) (fun t =>
      let x := (d.env t).read 0 (.v a true)
      t.wrs r (d.leaseqWords t (BitVec.ofNat 64 x.1)) x.2)).done h))

/-! ### Maintenance (R409 to R413) -/

/-- A maintenance request per lane, in ascending lane order: `f` gets the values of the named registers, and gives the
device and whether the request was accepted. -/
def Dev.maintain (d : Dev) (i : Instr) (h : Hd) (p : PReg) (rs : List VReg) (f : Dev → Thread → Nat → Nat → Dev × Bool) : Dev :=
  let vals := fun (e : Env) => rs.map (fun r => e.read 0 (.v r false))
  d.lanesOut i h false (fun d t => (vals (d.env t)).map Prod.fst) (fun _ _ => none) (fun act d =>
    (act.foldl (fun (x : Dev) t =>
      let vs := vals (d.env t)
      let y := f x t ((vs[0]?.map Prod.fst).getD 0) ((vs[1]?.map Prod.fst).getD 0)
      y.1.deliver t.uid (fun t' => t'.setPred p (if y.2 then 0xFF else 0x00) (vs.any Prod.snd))) d).done h)

/-- MARGIN (R410). -/
def execMargin (h : Hd) (p : PReg) (a b : VReg) (s : State) : Host.Outcome State Fault Refusal :=
  onDev s (fun d => d.maintain (.margin h p a b) h p [a, b] (fun d _ n x =>
    if 543 < n || d.foehnSets n || 24 < x % 32 then (d, false) else (d.setTgt n (min (x % 32) (d.phys? n).ceil), true)))

/-- MARGIN.RD (R410). -/
def execMarginRd (h : Hd) (r a : VReg) (s : State) : Host.Outcome State Fault Refusal :=
  onDev s (fun d => d.lanesOut (.marginRd h r a) h false (fun d t => [((d.env t).read 0 (.v a false)).1]) (fun _ _ => none) (fun act d =>
    d.each h act (fun d t x =>
      let e := (d.env t).read 0 (.v a false)
      let w : W64 := if 543 < e.1 then BitVec.allOnes 64 else d.marginWord e.1
      x.wrs r [lo32 w, hi32 w] e.2)))

/-- SCAN (R412). -/
def execScan (h : Hd) (p : PReg) (a : VReg) (s : State) : Host.Outcome State Fault Refusal :=
  onDev s (fun d => d.maintain (.scan h p a) h p [a] (fun d t n _ => if 543 < n then (d, false) else d.scan n (d.physOf t.core)))

/-- SCAN.ABORT (R412). -/
def execScanAbort (h : Hd) (p : PReg) (a : VReg) (s : State) : Host.Outcome State Fault Refusal :=
  onDev s (fun d => d.maintain (.scanAbort h p a) h p [a] (fun d _ n _ => if 543 < n then (d, false) else d.scanStop n))

/-- QUAR (R413). -/
def execQuar (h : Hd) (p : PReg) (a : VReg) (s : State) : Host.Outcome State Fault Refusal :=
  onDev s (fun d => d.maintain (.quar h p a) h p [a] (fun d _ n _ => if 543 < n then (d, false) else d.quarantine n false))

/-- HALTC (R411). -/
def execHaltc (h : Hd) (p : PReg) (a : VReg) (s : State) : Host.Outcome State Fault Refusal :=
  onDev s (fun d => d.maintain (.haltc h p a) h p [a] (fun d t n _ => if 511 < n then (d, false) else d.halt n t.core))

/-- HALTC.REL (R411). -/
def execHaltcRel (h : Hd) (p : PReg) (a : VReg) (s : State) : Host.Outcome State Fault Refusal :=
  onDev s (fun d => d.maintain (.haltcRel h p a) h p [a] (fun d t n _ => if 511 < n then (d, false) else d.haltRel n t.core))

end Sys2Proof.Machine
end

