-- ==== Sys2Proof/Machine/Record.lean ====
section
/-! DEFINITION. The record step, the images that a snapshot leaves, and how a snapshot completes (spec/20 R417 to R432,
R436). -/

namespace Sys2Proof.Machine

/-! ### The units of a context (R418) -/

/-- The 4 KiB granules of a page, by virtual and physical granule number. -/
def Page.granules (p : Page) : List (Nat × Nat) := (upTo (p.size / 4096)).map (fun k => (p.va / 4096 + k, p.pa / 4096 + k))

/-- The units of a context: granules outside C4 views, private memory, stash banks, register units, tiles (R418). -/
def Dev.unitsOf (d : Dev) (slot : Nat) (c : Ctx) : List UnitId :=
  let ts := d.threads.filter (fun t => t.ctx == slot)
  let cs := d.chunks.filter (fun x => x.ctx == slot)
  let frames := ((c.pages d.readMem).map (fun p => { p with va := 0 })).eraseDups
  (frames.flatMap (fun p => (p.granules.map Prod.snd).filter (fun g => !(d.touchesView (4096 * g) 4096)))).map UnitId.granule ++
    ts.flatMap (fun t => (upTo (t.hwm / 4096)).map (fun k => UnitId.priv t.uid k)) ++
    cs.flatMap (fun x =>
      (upTo ((x.stashLen + 4095) / 4096)).map (fun k => UnitId.stash x.order k) ++
        (chunkLanes x.prot x.cnt).flatMap (fun l => (upTo ((l.2 * x.regsN + 1023) / 1024)).map (fun k => UnitId.regs x.order l.1 k))) ++
    (d.coresOf slot).flatMap (fun n =>
      (upTo 8).filterMap (fun k =>
        match ((d.core n).tiles[k]?).bind Tile.owner with
        | some g => if ((d.gang? n g).map (fun x => x.ctx == slot)).getD false then some (UnitId.tile n k) else none
        | none => none))

/-! ### Epochs (R417, R425) -/

/-- An epoch lies ahead of another, modulo 2^16. -/
def newer (p e : Nat) : Bool := 0 < behind p e && behind p e < 32768

/-- The module has recorded an epoch, or has been told that it is aborted. -/
def Ctx.knows (c : Ctx) (e : Nat) : Bool :=
  match c.snaps[e % 2]? with
  | some s => s.state ≠ .idle && s.epoch == e
  | none => false

/-- An epoch that this module never recorded is aborted: one record, a notice to every member, and its colour shows it, if
no snapshot of that colour is live (R425, R429). DEDUCED: notes/assumptions/93. -/
def Dev.skipEpoch (d : Dev) (slot e : Nat) : Dev :=
  match d.ctx? slot with
  | none => d
  | some c =>
    if c.knows e then d
    else
      let d1 := d.mapCtx slot (fun c => c.mapSnap (e % 2) (fun s => if s.live then s else { Snap.idle with epoch := e, state := .aborted }))
      ((d1.note (Who.nobody (some slot)) cSnapshotAborted (snapDetail e 0 0)).notices slot (.aborted e)).wakeSnap slot

/-- Every epoch strictly between two is skipped. -/
def Dev.skipEpochs (d : Dev) (slot e p : Nat) : Dev :=
  (upTo (behind p e - 1)).foldl (fun d k => d.skipEpoch slot ((e + 1 + k) % 65536)) d

/-! ### The record step (R422) -/

/-- Issue stops: the record step of an epoch begins (R422 step 1). DEDUCED: notes/assumptions/91. -/
def Dev.recordBegin (d : Dev) (slot e : Nat) : Dev :=
  d.mapCtx slot (fun c =>
    match c.phase with
    | .running => { c with phase := .recording d.pcyc e none }
    | .draining dl => { c with phase := .recording d.pcyc e (some dl) }
    | _ => c)

/-- What was issued has completed: row transfers and activations (R422 step 2, R424). -/
def Dev.recordReady (d : Dev) (slot : Nat) : Bool :=
  d.cores.all (fun e => e.2.bus.all (fun b => b.ctx ≠ slot) && e.2.slots.all (fun s => s.state ≠ .opening || s.ctx ≠ slot))

/-- The record point: SNAPEPOCH advances and the state is captured (R422 steps 2 and 4). DEDUCED: notes/assumptions/91. DEDUCED: notes/assumptions/92. -/
def Dev.recordPoint (d : Dev) (slot e : Nat) : Dev :=
  match d.ctx? slot with
  | none => d
  | some c =>
    let d1 := (d.skipEpochs slot c.regs.epoch e).mapCtx slot (fun c => { c with regs := { c.regs with epoch := e } })
    let d2 := d1.settleCtx slot
    match d2.ctx? slot with
    | none => d2
    | some c =>
      -- an epoch that was aborted before this module recorded it does not become live
      if c.knows e then d2
      else
        let us := d2.unitsOf slot c
        let s : Snap :=
          { epoch := e, state := .recording, live := true, section_ := some (d2.capture slot c), mem := d2.readMem, psn := d2.psn,
            todo := us, staged := [], markers := [], notices := [], log := [], sentNotice := false, part := none, born := d2.pcyc, units := us }
        d2.mapCtx slot (fun c => { (c.mapSnap (e % 2) (fun _ => s)) with rlog := if c.rerun then c.rlog else [] })

/-- Markers leave on every outgoing channel, and the snapshot streams (R425). -/
def Dev.sendMarkers (d : Dev) (slot e : Nat) : Dev :=
  match d.ctx? slot with
  | none => d
  | some c =>
    let d1 := d.mapCtx slot (fun c => c.mapSnap (e % 2) (fun s => if s.live && s.epoch = e then { s with state := .streaming } else s))
    c.others.foldl (fun d v => d.send slot v .rlx .marker none none 0) d1

/-- A context whose threads are halted records at once (R425, R429). -/
def Dev.recordHalted (d : Dev) (slot e : Nat) : Dev := (d.recordPoint slot e).sendMarkers slot e

/-! ### The channel log (R426) -/

/-- The capacity of a channel log (R426). DEDUCED: notes/assumptions/94. -/
def logCap : Nat := 67108864

/-- A packet that is applied is logged by every snapshot that has not its channel's marker (R426). DEDUCED: notes/assumptions/94. -/
def Dev.logPacket (d : Dev) (slot : Nat) (p : Packet) : Dev :=
  match d.ctx? slot with
  | none => d
  | some c =>
    (upTo 2).foldl (fun (d : Dev) k =>
      match c.snaps[k]? with
      | none => d
      | some s =>
        if !s.live || s.markers.contains p.src || (p.body = .marker && p.epoch = s.epoch) then d
        else if logCap < ((s.log ++ [p]).map packetSize).sum then
          (d.note (Who.nobody (some slot)) cChannelLogFull (snapDetail s.epoch p.src 0)).abortSnap slot s.epoch
        else d.mapCtx slot (fun c => c.mapSnap k (fun s => { s with log := s.log ++ [p] }))) d

/-- A marker closes its channel's state; one of an epoch this module never recorded aborts that epoch (R425, R426). DEDUCED: notes/assumptions/93. -/
def Dev.markerIn (d : Dev) (slot src e : Nat) : Dev :=
  match d.ctx? slot with
  | none => d
  | some c =>
    match c.liveSnap e with
    | some k => d.mapCtx slot (fun c => c.mapSnap k (fun s => { s with markers := if s.markers.contains src then s.markers else s.markers ++ [src] }))
    | none => d.skipEpoch slot e

/-- SNAP_STREAM of a context's partition (R29). -/
def Dev.hostStream (d : Dev) (c : Ctx) : Bool := (d.mode c.part).getLsbD 4

/-! ### Completion (R428) -/

/-- The predecessor of a snapshot is still live. -/
def Ctx.predLive (c : Ctx) (e : Nat) : Bool := (c.liveSnap ((e + 65535) % 65536)).isSome

/-- A module's part is complete: every marker has arrived and every unit has been streamed. -/
def Ctx.partDone (c : Ctx) (s : Snap) : Bool :=
  s.live && s.section_.isSome && s.state = .streaming && c.others.all (fun v => s.markers.contains v) && s.todo = [] && s.staged = [] &&
    !(c.predLive s.epoch)

/-- A snapshot is complete once its part is and every member's notice has arrived. -/
def Dev.finishSnap (d : Dev) (slot e : Nat) : Dev :=
  match d.ctx? slot with
  | none => d
  | some c =>
    match c.liveSnap e with
    | none => d
    | some k =>
      match c.snaps[k]? with
      | none => d
      | some s =>
        if s.sentNotice && c.others.all (fun v => s.notices.contains v) then
          (d.mapCtx slot (fun c =>
            { (c.mapSnap k (fun s => { s with state := .complete, live := false, section_ := none, mem := [], psn := [], log := [], part := none, units := [] })) with
              lastOk := e
              lastImage := s.part })).wakeSnap slot
        else d

/-- Bora has written a part to an image area; a part that lay there is no more (R430). -/
def Dev.putImage (d : Dev) (x : Image) : Dev :=
  match x.at_ with
  | some pa =>
    let d1 := d.writePhys (Writer.plain [.device]) pa (x.bytes.getBytes 0 x.len) false
    { d1 with images := x :: d1.images.filter (fun y => match y.at_ with | some b => !(meets pa x.len b y.len) | none => true) }
  | none => { d with images := x :: d.images }

/-- Bora can write a part: its area can be accessed, and no page table or owned frame lies there (R334, R429). -/
def Dev.canWrite (d : Dev) (x : Image) : Bool :=
  match x.at_ with
  | some pa => d.paOk pa && d.paOk (pa + x.len - 1) && !(d.touchesTable pa x.len) && !(d.ownedIn pa x.len (fun _ => true))
  | none => true

/-- The part is complete: the image lies in the area of its colour, or has been streamed to the host, and the completion notices leave; if
Bora cannot write it, the snapshot is aborted (R428 to R430). DESIGN CHOICE: notes/assumptions/95. -/
def Dev.partComplete (d : Dev) (slot e : Nat) : Dev :=
  match d.ctx? slot with
  | none => d
  | some c =>
    match (c.liveSnap e).bind (fun k => c.snaps[k]?) with
    | none => d
    | some s =>
      if c.partDone s && !s.sentNotice then
        match c.imageOf s d.ctr (if d.hostStream c then none else c.areas[e % 2]?.getD none) with
        | none => d.abortSnap slot e
        | some x =>
          if !(d.canWrite x) then d.abortSnap slot e
          else
            (((d.tick.putImage x).mapCtx slot (fun c => c.mapSnap (e % 2) (fun s => { s with sentNotice := true, part := some x }))).notices slot
              (.completed e)).finishSnap slot e
      else d

/-- A member's completion notice. -/
def Dev.completedIn (d : Dev) (slot src e : Nat) : Dev :=
  match d.ctx? slot with
  | none => d
  | some c =>
    match c.liveSnap e with
    | some k =>
      (d.mapCtx slot (fun c => c.mapSnap k (fun s =>
        { s with notices := if s.notices.contains src then s.notices else s.notices ++ [src] }))).finishSnap slot e
    | none => d

/-- A member's abort notice: the snapshot is aborted here too, also where it has not been recorded yet (R429). DEDUCED: notes/assumptions/93. -/
def Dev.abortedIn (d : Dev) (slot e : Nat) : Dev :=
  match d.ctx? slot with
  | none => d
  | some c => if (c.liveSnap e).isSome then d.abortSnap slot e else if newer e c.regs.epoch then d.skipEpoch slot e else d

end Sys2Proof.Machine
end

