-- ==== Sys2Proof/Machine/Packets.lean ====
section
/-! DEFINITION. Packets: serving the requests of other modules, replies, the order of a channel, retransmission, timeouts
and notices (spec/06 R133, R143, spec/08 R205 to R212, spec/16 R359, spec/20 R425 to R429, R440 to R443, spec/23 R463). -/

namespace Sys2Proof.Machine

/-! ### Serving a request (R133, R92) -/

/-- What an access from another module fails with here: the lease, the page, the owner, the format, the space. DEDUCED: notes/assumptions/102. -/
def Dev.servFlt (d : Dev) (slot : Nat) (c : Ctx) (off n : Nat) (wr atomic : Bool) : Option Cause :=
  if !(d.anyLease slot c off n wr) then some cRemoteLease
  else
    match d.leaf? c off with
    | none => some cRemoteProtection
    | some l =>
      if !l.r || (wr && !l.w) || !(d.paOk l.pa) then some cRemoteProtection
      else if !(d.ownerOk l slot) then some cOwnerMismatch
      else if wr && d.touchesFmt l.pa n then some cFormatRangeStore
      else if atomic && d.launches.any (fun x => x.ctx == slot && x.state.holds && inRowRange x off n) then some cAtomicSpace
      else none

/-- Sends a reply to a member. -/
def Dev.answer (d : Dev) (slot vm : Nat) (b : PacketBody) : Dev := d.send slot vm .rlx b none none 0

/-- Who performs what a packet asks: the module that sent it. DESIGN CHOICE: notes/assumptions/26. -/
def packetAgent (p : Packet) (slot : Nat) : Agent := .peer slot p.src

/-- The write that a packet makes (R104). -/
def packetWriter (p : Packet) (slot : Nat) (rmw : Bool) : Writer := { by_ := [packetAgent p slot], rel := isRel p.ord, rmw := rmw }

/-- Serves a request at an offset of this module: refused, or `f` acts at its physical address. DEDUCED: notes/assumptions/16. DEDUCED: notes/assumptions/102. -/
def Dev.serve (d : Dev) (slot : Nat) (p : Packet) (off n : Nat) (wr atomic posted : Bool) (tag : Nat) (f : Dev → Nat → Dev) : Dev :=
  match d.ctx? slot with
  | none => d
  | some c =>
    match d.servFlt slot c off n wr atomic with
    | some x => d.answer slot p.src (.refuse posted (if posted then p.seq else tag) x)
    | none => f d ((d.pa? c off).getD 0)

/-- What fences here have left is before what a packet's module reads; an acquire takes what the bytes carry (R104, R110). DESIGN CHOICE: notes/assumptions/26. -/
def Dev.servTakes (d : Dev) (slot : Nat) (p : Packet) (pa n : Nat) : Dev :=
  let d1 : Dev := { d with caches := d.caches.take [packetAgent p slot] .fence }
  if isAcq p.ord then d1.takesBytes [packetAgent p slot] pa n else d1

/-- Reads bytes for another module: the latest for an acquire, else any that its module may still read (R114). DEDUCED: notes/assumptions/102. -/
def Dev.servRead (d0 : Dev) (slot : Nat) (p : Packet) (pa n tag : Nat) : Dev :=
  let d := d0.servTakes slot p pa n
  let as := [packetAgent p slot]
  let b : Buf := if isAcq p.ord then (upTo n).map (fun k => d.readByte (pa + k)) else d.bufAs as pa n
  let d1 := if isAcq p.ord then d.sawLast as pa n else d.sawAs as pa n
  ((d1.eccNote none true pa n).cacheOpens pa).answer slot p.src (.reply tag (b.map Prod.fst) (Buf.words b))

/-- A read-modify-write for another module: the old value returns under its tag, if it has one. DEDUCED: notes/assumptions/16. DEDUCED: notes/assumptions/58. -/
def Dev.servRmw (d : Dev) (slot : Nat) (p : Packet) (pa : Nat) (wide : Bool) (tag : Option Nat) (f : Nat × Bool → Rmw) : Dev :=
  let n := if wide then 8 else 4
  let b := d.readPhys pa n
  let r := f (leOf b.1, b.2)
  let d1 := ((((d.servTakes slot p pa n).sawLast [packetAgent p slot] pa n)).eccNote none true pa n).cacheOpens pa
  let d2 := match r.new with
    | some x => d1.writePhys (packetWriter p slot true) pa (leBytes n x) r.psn
    | none => d1
  match tag with
  | some k => d2.answer slot p.src (.reply k b.1 (if b.2 then [0] else []))
  | none => d2.answer slot p.src (.ackStore p.seq)

/-- Bytes arrive at the endpoint a packet names, here or on the module it names; the packet is confirmed, or refused
(R207, R208, R210). DEDUCED: notes/assumptions/101. -/
def Dev.servArrive (d : Dev) (slot : Nat) (p : Packet) (e : W64) (n : Nat) (fail : Bool) : Dev :=
  let ok := fun (d : Dev) => d.answer slot p.src (.ackStore p.seq)
  if !(endpointNames e) then ok d
  else if endpointVm e ≠ p.dst then ok (d.send slot (endpointVm e) .rel (.sig e n fail) none none 0)
  else
    let r := d.endpointArrive slot e n fail [packetAgent p slot] p.src p.seq (packetOp p)
    if r.2 then ok r.1 else r.1.answer slot p.src (.refuse true p.seq cArrivalCounterBad)

/-! ### Replies -/

/-- Changes the accesses of a context that a reply concerns. -/
def Dev.mapAccs (d : Dev) (slot : Nat) (p : OttAcc → Bool) (f : OttAcc → OttAcc) : Dev :=
  { d with cores := d.cores.map (fun e =>
      (e.1, { e.2 with ott := e.2.ott.map (fun x =>
          { x with accs := x.accs.map (fun a => if a.ctx == slot && p a then f a else a) }) })) }

/-- The access of a context that the test finds. -/
def Dev.findAcc (d : Dev) (slot : Nat) (p : OttAcc → Bool) : Option OttAcc :=
  d.cores.findSome? (fun e => e.2.ott.findSome? (fun x => x.accs.find? (fun a => a.ctx == slot && p a)))

/-- The access of a request that waits for data, by its tag. -/
def OttAcc.byTag (vm tag : Nat) (a : OttAcc) : Bool := !a.posted && a.vm == vm && a.tag == tag && a.reply == .none
/-- The access of a request that waits for no data, by its packet's number. -/
def OttAcc.bySeq (vm seq : Nat) (a : OttAcc) : Bool := a.posted && a.vm == vm && a.seq == seq && a.reply == .none

/-- A load or atomic that another module had accepted ends without its data: its result is poisoned, and its thread traps within the skid
bound (R212). DEDUCED: notes/assumptions/103. -/
def Dev.dataLost (d : Dev) (a : OttAcc) (r : Reply) : Dev :=
  match (match r with | .lost c => some c | .refused c => some c | _ => none), d.thread? a.uid with
  | some c, some t =>
    let x := if causeGroup c = 3 then addrDetail (0xFF00000000000000 + a.vm * 2 ^ 44 + a.off) a.lane 0 0 a.wr (some a.vm)
      else farDetail a.seq a.vm a.off a.lane a.wr
    d.imprecise { d.whoOf t with pc := a.origin.pc } a.uid a.was c x [a.lane]
  | _, _ => d

/-- A read's or read-modify-write's answer comes. DEDUCED: notes/assumptions/103. -/
def Dev.replied (d : Dev) (slot vm tag : Nat) (r : Reply) : Dev :=
  match d.findAcc slot (OttAcc.byTag vm tag) with
  | some a =>
    let d1 := d.mapAccs slot (OttAcc.byTag vm tag) (fun x => { x with reply := r })
    match a.ask with
    | some k => d1.wakeFar k
    | none => d1.dataLost a r
  | none => d

/-- The detail of a store refused or lost at another module (R379, groups 3 and 7). -/
def OttAcc.detail (a : OttAcc) (c : Cause) : Detail :=
  let sz := if a.len = 1 then 0 else if a.len = 2 then 1 else if a.len = 4 then 2 else if a.len = 8 then 3 else 4
  if causeGroup c = 3 then addrDetail (0xFF00000000000000 + a.vm * 2 ^ 44 + a.off) a.lane sz 0 true (some a.vm)
  else farDetail a.seq a.vm a.off a.lane true

/-- A store, FATOM or FSIG ends: performed, or with an imprecise error (R133, R209, R210). -/
def Dev.postedEnds (d : Dev) (slot vm seq : Nat) (bad : Option Cause) : Dev :=
  match d.findAcc slot (OttAcc.bySeq vm seq) with
  | none => d
  | some a =>
    match bad with
    | none => d.mapAccs slot (OttAcc.bySeq vm seq) (fun x => { x with reply := .data [] [] })
    | some c =>
      let d1 := d.mapAccs slot (OttAcc.bySeq vm seq) (fun x => { x with reply := .refused c })
      let who := match d1.thread? a.uid with
        | some t => { d1.whoOf t with pc := a.origin.pc }
        | none => Who.ofOrigin slot a.origin
      d1.imprecise who a.uid a.was c (a.detail c) [a.lane]

/-- A reply that carries data: for a lane, or for a job. -/
def Dev.dataIn (d : Dev) (slot vm tag : Nat) (bs : List Byte) (psn : List Nat) : Dev :=
  match d.pieceJob slot true vm tag with
  | some (k, j, p) => d.jobData k j p (bufOf bs psn)
  | none => d.replied slot vm tag (.data bs psn)

/-- A confirmation: for a lane's store, or for a job's piece. -/
def Dev.doneIn (d : Dev) (slot vm seq : Nat) : Dev :=
  match d.pieceJob slot false vm seq with
  | some (k, j, p) => d.jobAcked k j p
  | none => d.postedEnds slot vm seq none

/-- A refusal: of a job's piece, of a store, or of a request that waits for data. DEDUCED: notes/assumptions/16. -/
def Dev.refusedIn (d : Dev) (slot vm : Nat) (posted : Bool) (n : Nat) (c : Cause) : Dev :=
  match d.pieceJob slot (!posted) vm n with
  | some (k, j, p) => d.jobRefused k j p c
  | none => if posted then d.postedEnds slot vm n (some c) else d.replied slot vm n (.refused c)

/-! ### Applying a packet (R205) -/

/-- What a packet does. DEDUCED: notes/assumptions/83. -/
def Dev.applyPacket (d : Dev) (slot : Nat) (p : Packet) : Dev :=
  match p.body with
  | .store off bs psn =>
    d.serve slot p off bs.length true false true 0 (fun d pa => (d.writeBuf (packetWriter p slot false) pa (bufOf bs psn)).answer slot p.src (.ackStore p.seq))
  | .atom off wide op x psn =>
    let n := if wide then 8 else 4
    d.serve slot p off n true true true 0 (fun d pa =>
      d.servRmw slot p pa wide none (fun old => atomRmw (fatomOp op) (8 * n) old (x.toNat % 256 ^ n, psn)))
  | .put off bs psn e =>
    d.serve slot p off bs.length true false true 0 (fun d pa => (d.writeBuf (packetWriter p slot false) pa (bufOf bs psn)).servArrive slot p e bs.length false)
  | .sig e n fail => d.servArrive slot p e n fail
  | .loadReq off n tag => d.serve slot p off n false false false tag (fun d pa => d.servRead slot p pa n tag)
  | .getReq off n tag => d.serve slot p off n false false false tag (fun d pa => d.servRead slot p pa n tag)
  | .atomReq off wide op x psn tag =>
    let n := if wide then 8 else 4
    d.serve slot p off n true true false tag (fun d pa =>
      d.servRmw slot p pa wide (some tag) (fun old => atomRmw op (8 * n) old (x.toNat % 256 ^ n, psn)))
  | .casReq off wide cmp x psn tag =>
    let n := if wide then 8 else 4
    d.serve slot p off n true true false tag (fun d pa =>
      d.servRmw slot p pa wide (some tag) (fun old => casRmw (cmp.toNat % 256 ^ n) old (x.toNat % 256 ^ n, psn)))
  | .atomfReq off op x psn tag =>
    d.serve slot p off 4 true true false tag (fun d pa =>
      d.servRmw slot p pa false (some tag) (fun old => atomfRmw op old (x.toNat, psn)))
  | .check off n wr tag => d.serve slot p off n wr wr false tag (fun d _ => d.answer slot p.src (.reply tag [] []))
  | .reply tag bs psn => d.dataIn slot p.src tag bs psn
  | .ackStore seq => d.doneIn slot p.src seq
  | .refuse posted n c => d.refusedIn slot p.src posted n c
  | .collFailed ms n => d.collFailedIn slot ms n
  | .marker => d.markerIn slot p.src p.epoch
  | .halted | .completed _ | .aborted _ | .ready | .gap _ => d

/-- The packet answers something this module asked. -/
def isReply : PacketBody → Bool
  | .reply .. | .ackStore .. | .refuse .. => true
  | _ => false

/-- A packet writes memory, staging has to take an old value first, and is full (R421). -/
def Dev.packetStalls (d : Dev) (slot : Nat) (b : PacketBody) : Bool :=
  let range? := match b with
    | .store off bs _ => some (off, bs.length)
    | .atom off .. => some (off, 8)
    | .put off bs .. => some (off, bs.length)
    | .atomReq off .. => some (off, 8)
    | .casReq off .. => some (off, 8)
    | .atomfReq off .. => some (off, 4)
    | _ => none
  match range?, d.ctx? slot with
  | some (off, n), some c => ((d.pa? c off).map (fun pa => (granulesOf pa n).any d.stagingStall)).getD false
  | _, _ => false

/-- The word that a packet's atomic has its place in (R443). -/
def packetAtoms (p : Packet) : List (Nat × Nat) :=
  match p.body with
  | .atom off .. | .atomReq off .. | .casReq off .. | .atomfReq off .. => [(memPlace off, packetOp p)]
  | _ => []

/-- The operations that a packet makes: on its word, and on the object of its endpoint here. -/
def Dev.packetPlaces (d : Dev) (slot : Nat) (p : Packet) : List (Nat × Nat) :=
  packetAtoms p ++
    (match p.body with
     | .put _ _ _ e | .sig e _ _ =>
       if endpointNames e && endpointVm e = p.dst then ((d.endpointObj? slot e).map (fun l => (l.place, packetOp p))).toList else []
     | _ => [])

/-- In a re-run an arrival waits for its place and its CYC (R444). DESIGN CHOICE: notes/assumptions/98. -/
def Ctx.rerunHolds (c : Ctx) (p : Packet) : Bool :=
  c.rerun &&
    match c.rlog.find? (fun e => e.1 % 8 = 0) with
    | some e => !(e.1 = logKey 0 (p.src + 4096 * p.seq) && e.2.toNat ≤ c.regs.cyc.toNat)
    | none => false

/-- A packet at the head of a channel waits: for staging, for room in the log of a re-run, for its turn in one (R421, R443, R444). -/
def Dev.packetWaits (d : Dev) (slot : Nat) (c : Ctx) (p : Packet) : Bool :=
  d.packetStalls slot p.body || d.logStalls slot || c.rerunHolds p || d.early slot (d.packetPlaces slot p)

/-- A packet at the head of its channel is applied: it is logged for snapshots and for a re-run first (R426, R443). -/
def Dev.takePacket (d : Dev) (slot : Nat) (p : Packet) : Dev :=
  let d1 := (d.logInput slot (logKey 0 (p.src + 4096 * p.seq)) (d.cyc slot)).places slot (packetAtoms p)
  (d1.logPacket slot p).applyPacket slot p

/-- A held packet is applied before any thread issues; a higher epoch is recorded first (R425, R442). DEDUCED: notes/assumptions/83. -/
def Dev.takeHeld (d : Dev) (slot : Nat) (p : Packet) : Dev :=
  match d.ctx? slot with
  | none => d
  | some c =>
    let d1 := if newer p.epoch c.regs.epoch then d.recordHalted slot p.epoch else d
    d1.takePacket slot p

/-- The channel expects the next number. DEDUCED: notes/assumptions/104. -/
def Dev.advance (d : Dev) (slot vm : Nat) : Dev :=
  d.mapChan slot vm (fun x =>
    { x with
      recvSeq := (x.recvSeq + 1) % 2 ^ 32
      window := x.window.filter (fun q => q.seq ≠ x.recvSeq)
      gaps := x.gaps.filter (fun q => q ≠ x.recvSeq) })

/-- Applies what the channel from a member holds in its turn (R205). A packet of a higher epoch makes the module record
first; a halted context's packets are held, but for answers to what it has asked (R425, R442). -/
def Dev.drainChan (slot vm : Nat) : Nat → Dev → Dev
  | 0, d => d
  | fuel + 1, d =>
    match d.ctx? slot with
    | none => d
    | some c =>
      let ch := c.chan vm
      if ch.gaps.contains ch.recvSeq then Dev.drainChan slot vm fuel (d.advance slot vm)
      else
        match ch.window.find? (fun p => p.seq == ch.recvSeq) with
        | none => d
        | some p =>
          match c.phase with
          | .running | .draining _ =>
            if newer p.epoch c.regs.epoch then d.recordBegin slot p.epoch
            else if d.packetWaits slot c p then d
            else Dev.drainChan slot vm fuel ((d.advance slot vm).takePacket slot p)
          | .saving _ =>
            if isReply p.body then Dev.drainChan slot vm fuel ((d.advance slot vm).takeHeld slot p)
            else Dev.drainChan slot vm fuel ((d.advance slot vm).mapCtx slot (fun c => { c with held := c.held ++ [p] }))
          | .saved | .exhausted =>
            Dev.drainChan slot vm fuel ((d.advance slot vm).mapCtx slot (fun c => { c with held := c.held ++ [p] }))
          | _ => d

/-- The reorder window (R205). -/
def window : Nat := 1024

/-- Every channel of a context goes on. -/
def Dev.drainChans (d : Dev) (slot : Nat) : Dev :=
  match d.ctx? slot with
  | none => d
  | some c => (c.chans.map Prod.fst).foldl (fun d vm => Dev.drainChan slot vm (window + 1) d) d

/-! ### Notices -/

/-- A member's halt marker (R442). -/
def Dev.haltIn (d : Dev) (slot src : Nat) : Dev :=
  d.mapCtx slot (fun c => { c with haltSeen := if c.haltSeen.contains src then c.haltSeen else c.haltSeen ++ [src] })

/-- A member's ready notice (R440); one that comes before this member has loaded its own part counts too. -/
def Dev.readyIn (d : Dev) (slot src : Nat) : Dev :=
  d.mapCtx slot (fun c =>
    match c.phase with
    | .restoring r => { c with phase := .restoring (if r.contains src then r else r ++ [src]) }
    | _ => { c with readySeen := if c.readySeen.contains src then c.readySeen else c.readySeen ++ [src] })

/-- A gap notice: its number is skipped (R211). -/
def Dev.gapIn (d : Dev) (slot src seq : Nat) : Dev :=
  match d.ctx? slot with
  | none => d
  | some c =>
    let ch := c.chan src
    if window ≤ (seq + 2 ^ 32 - ch.recvSeq) % 2 ^ 32 || ch.gaps.contains seq then d
    else
      Dev.drainChan slot src (window + 1)
        ((d.mapChan slot src (fun x => { x with gaps := x.gaps ++ [seq] })).note (Who.nobody (some slot)) cSequenceGap (farDetail seq src 0 0 false))

/-! ### Arrival (R205) -/

/-- A packet arrives that needs no opening, or has been opened: a duplicate or one beyond the window is dropped; the others are applied
in order of sequence. DEDUCED: notes/assumptions/83. -/
def Dev.receiveOpen (d : Dev) (p : Packet) : Dev :=
  match d.ctx? p.slot with
  | none => d
  | some c =>
    if p.dst ≠ c.vm || !(c.others.contains p.src) then d
    else
      match p.body with
      | .halted => d.haltIn p.slot p.src
      | .completed e => d.completedIn p.slot p.src e
      | .aborted e => d.abortedIn p.slot e
      | .ready => d.readyIn p.slot p.src
      | .gap seq => d.gapIn p.slot p.src seq
      | _ =>
        let ch := c.chan p.src
        if c.phase = .empty || window ≤ (p.seq + 2 ^ 32 - ch.recvSeq) % 2 ^ 32 then d
        else
          Dev.drainChan p.slot p.src (window + 1) (d.mapChan p.slot p.src (fun x =>
            { x with window := if x.window.any (fun q => q.seq == p.seq) then x.window else x.window ++ [p] }))

/-- The packet is a notice, which takes no number of its channel and carries no payload. -/
def isNotice : PacketBody → Bool
  | .halted | .completed _ | .aborted _ | .ready | .gap _ => true
  | _ => false

/-- A packet arrives. In sealed-fabric mode one whose tag fails is dropped without acknowledgement, and the sender's retransmission
resolves it (R359). DESIGN CHOICE: notes/assumptions/142. -/
def Dev.receive (d : Dev) (p : Packet) : Dev :=
  match (d.ctx? p.slot).bind (fun c => if isNotice p.body then some p else c.opened p) with
  | some q => d.receiveOpen q
  | none => d

/-- PACKET_ARRIVAL (R205). -/
def execPacketArrival (p : Packet) (s : State) : Host.Outcome State Fault Refusal := onDev s (fun d => d.receive p)

/-- MARKER_ARRIVAL: the packet without payload that carries an epoch, its tag good (R425, R426). -/
def execMarkerArrival (slot src epoch seq : Nat) (s : State) : Host.Outcome State Fault Refusal :=
  onDev s (fun d =>
    d.receiveOpen { slot := slot, src := src, dst := ((d.ctx? slot).map Ctx.vm).getD 0, seq := seq, epoch := epoch, keyEpoch := 0, mac := none, ord := .rlx, body := .marker })

/-- PACKET_ACK: the source frees the packet, and its request's time runs from now (R205, R212). DEDUCED: notes/assumptions/104. -/
def Dev.acked (d : Dev) (slot dst seq : Nat) : Dev :=
  (d.mapChan slot dst (fun x => { x with sent := x.sent.filter (fun q => q.pkt.seq ≠ seq) })).mapAccs slot
    (fun a => a.vm == dst && a.seq == seq && a.acked.isNone) (fun a => { a with acked := some d.pcyc })

/-- PACKET_ACK (R205). -/
def execPacketAck (slot dst seq : Nat) (s : State) : Host.Outcome State Fault Refusal := onDev s (fun d => d.acked slot dst seq)

/-! ### Loss (R211, R359) -/

/-- What a packet whose retries are exhausted fails with. DEDUCED: notes/assumptions/103. -/
def Ctx.lossCause (c : Ctx) : Cause := if c.conf && 1 < c.members.length then cSealedMismatch else cPacketStomped

/-- The access or job that a lost packet belongs to fails. DEDUCED: notes/assumptions/103. -/
def Dev.lost (d : Dev) (slot : Nat) (q : Sent) (c : Cause) : Dev :=
  let vm := q.pkt.dst
  let get? := match q.pkt.body with
    | .getReq _ _ tag => d.pieceJob slot true vm tag
    | _ => d.pieceJob slot false vm q.pkt.seq
  match get? with
  | some (k, j, p) => d.pieceLost k j p c q.pkt.body
  | none =>
    match d.findAcc slot (fun a => a.vm == vm && a.seq == q.pkt.seq && a.reply == .none) with
    | some a => if a.posted then d.postedEnds slot vm q.pkt.seq (some c) else d.replied slot vm a.tag (.lost c)
    | none => d.note (match q.origin with | some o => Who.ofOrigin slot o | none => Who.nobody (some slot)) c (farDetail q.pkt.seq vm 0 q.lane true)

/-- A packet is due for retransmission. -/
def Dev.resendDue (d : Dev) (q : Sent) : Bool := q.last + 6000 ≤ d.pcyc

/-- PACKET_RETRANSMIT: the packet is sent again, up to seven times; then it is lost (R211). -/
def Dev.retransmit (d : Dev) (slot dst seq : Nat) : Dev :=
  match d.ctx? slot with
  | none => d
  | some c =>
    match (c.chan dst).sent.find? (fun q => q.pkt.seq == seq) with
    | none => d
    | some q =>
      if !(d.resendDue q) then d
      else if q.tries < 7 then
        (d.mapChan slot dst (fun x =>
            { x with sent := x.sent.map (fun y => if y.pkt.seq = seq then { y with tries := y.tries + 1, last := d.pcyc } else y) })).queueOut
          (d.classOf q.origin q.job) q.pkt
      else
        ((d.mapChan slot dst (fun x => { x with sent := x.sent.filter (fun y => y.pkt.seq ≠ seq) })).lost slot q c.lossCause).notice slot dst
          (.gap seq)

/-- PACKET_RETRANSMIT (R211). -/
def execPacketRetransmit (slot dst seq : Nat) (s : State) : Host.Outcome State Fault Refusal := onDev s (fun d => d.retransmit slot dst seq)

/-- GAP_NOTICE (R211). -/
def execGapNotice (slot src seq : Nat) (s : State) : Host.Outcome State Fault Refusal := onDev s (fun d => d.gapIn slot src seq)

/-- LINK_REPLAY: invisible above the link, whose beats are not state of a context (R463). DEDUCED: notes/assumptions/105. -/
def execLinkReplay (_port _seq : Nat) (s : State) : Host.Outcome State Fault Refusal := onDev s (fun d => d)

/-! ### Timeouts (R212) and freed entries (R143) -/

/-- An access whose reply has not come within 65,536 cycles of its acknowledgement. DESIGN CHOICE: notes/assumptions/57. -/
def OttAcc.overdue (a : OttAcc) (now : Nat) : Bool :=
  match a.acked with
  | some t => t + 65536 ≤ now && a.reply == .none
  | none => false

/-- FABRIC_TIMEOUT: a read ends poisoned, a store with an imprecise error. DESIGN CHOICE: notes/assumptions/57. -/
def Dev.fabricTimeout (d : Dev) (core entry : Nat) : Dev :=
  match (d.core core).ott.find? (fun e => e.idx == entry) with
  | none => d
  | some e =>
    (e.accs.filter (fun a => a.overdue d.pcyc)).foldl (fun (d : Dev) a =>
      if a.posted then d.postedEnds a.ctx a.vm a.seq (some cFabricTimeout) else d.replied a.ctx a.vm a.tag (.lost cFabricTimeout)) d

/-- FABRIC_TIMEOUT (R212). -/
def execFabricTimeout (core entry : Nat) (s : State) : Host.Outcome State Fault Refusal := onDev s (fun d => d.fabricTimeout core entry)

/-- OTT_ENTRY_FREE: a complete entry is freed, goes to the oldest waiter, and releases that waited for it are tried again
(R143, R120). -/
def Dev.ottEntryFree (d : Dev) (core entry : Nat) : Dev :=
  match (d.core core).ott.find? (fun e => e.idx == entry) with
  | none => d
  | some e =>
    if e.complete d.pcyc then
      ((d.mapCore core (fun c => { c with ott := c.ott.filter (fun x => x.idx ≠ entry) })).grantAll core).wakeReleases core
    else d

/-- OTT_ENTRY_FREE (R143). -/
def execOttEntryFree (core entry : Nat) (s : State) : Host.Outcome State Fault Refusal := onDev s (fun d => d.ottEntryFree core entry)

/-- HALT_MARKER (R442). -/
def execHaltMarker (slot src : Nat) (s : State) : Host.Outcome State Fault Refusal := onDev s (fun d => d.haltIn slot src)

/-- RESTORE_READY_NOTICE (R440). -/
def execRestoreReadyNotice (slot src : Nat) (s : State) : Host.Outcome State Fault Refusal := onDev s (fun d => d.readyIn slot src)

/-- COMPLETION_NOTICE (R428). -/
def execCompletionNotice (slot src epoch : Nat) (s : State) : Host.Outcome State Fault Refusal := onDev s (fun d => d.completedIn slot src epoch)

/-- ABORT_NOTICE (R429). -/
def execAbortNotice (slot _src epoch : Nat) (s : State) : Host.Outcome State Fault Refusal := onDev s (fun d => d.abortedIn slot epoch)

end Sys2Proof.Machine
end

