-- ==== Sys2Proof/Machine/Snapshot.lean ====
section
/-! DEFINITION. The snapshot instructions and events, and the instructions that save and load contexts (spec/20 R417 to
R439). -/

namespace Sys2Proof.Machine

/-! ### SNAP and SNAPQ (R434, R436) -/

/-- The least epoch above e of a colour. -/
def nextEpoch (e : Nat) (k : Bool) : Nat := if (e + 1) % 2 = b2n k then (e + 1) % 65536 else (e + 2) % 65536

/-- Some threads write a predicate, and the instruction retires. -/
def Dev.answerP (d : Dev) (h : Hd) (act : List Thread) (p : PReg) (v : Byte) (psn : Bool) : Dev :=
  (d.mapUids (act.map Thread.uid) (fun t => t.setPred p v psn)).done h

/-- A cause that every active thread raises. -/
def Dev.raiseAll (d : Dev) (h : Hd) (act : List Thread) (c : Cause) (x : Detail) : Dev :=
  d.failGroup h act { cause := c, detail := x, failed := act.map Thread.uid }

/-- SNAP, once for the instruction (R434). -/
def Dev.snap (d : Dev) (h : Hd) (p : PReg) (k : Bool) (act : List Thread) : Dev :=
  match act with
  | [] => d.done h
  | t :: _ =>
    match d.ctx? t.ctx with
    | none => d.done h
    | some c =>
      let e := c.regs.epoch
      let live := (c.snaps[b2n k]?).bind (fun s => if s.live then some s.epoch else none)
      if c.snapKey.isNone then d.raiseAll h act cSnapshotKey Detail.zero
      else if live = some e then d.answerP h act p 0x0F false
      else if live.isSome || (c.areas[b2n k]?.getD none).isNone then
        d.raiseAll h act cSnapshotBusy (detailOf (e + b2n k * 65536) 0 0)
      else
        let s := nextEpoch e k
        let d1 := if (e + 1) % 65536 ≠ s && (c.liveSnap ((e + 1) % 65536)).isSome then d.abortSnap t.ctx ((e + 1) % 65536) else d
        (d1.answerP h act p 0xFF false).recordBegin t.ctx s

/-- SNAP (R434). -/
def execSnap (h : Hd) (p : PReg) (k : Bool) (s : State) : Host.Outcome State Fault Refusal :=
  onDev s (fun d => d.lanes (.snap h p k) h [0] false (fun act d => d.snap h p k act))

/-- The words SNAPQ writes for a thread. -/
def Dev.snapqWords (d : Dev) (t : Thread) (k : Bool) : List W32 := ((d.ctx? t.ctx).map (fun c => c.snapWords (b2n k))).getD []

/-- SNAPQ (R436). -/
def execSnapq (h : Hd) (r : VReg) (k : Bool) (s : State) : Host.Outcome State Fault Refusal :=
  onDev s (fun d => d.lanes (.snapq h r k) h [0] false (fun act d =>
    (d.mapUids (act.map Thread.uid) (fun t => t.wrs r (d.snapqWords t k) false)).done h))

/-- SNAPQ.W (R436): the threads sleep until the colour is idle, complete or aborted. -/
def execSnapqW (h : Hd) (r : VReg) (k : Bool) (s : State) : Host.Outcome State Fault Refusal :=
  onDev s (fun d => d.lanes (.snapqW h r k) h [0] false (fun act d =>
    match act with
    | [] => d.done h
    | t :: _ =>
      ((d.retireOff h act).mapUids (act.map Thread.uid) (fun t => { t with wait := .snapshot r k })).wakeSnap t.ctx))

/-! ### CTXSV and CTXLD (R438, R439) -/

/-- The slot a register value names. -/
def slotOf (v : Nat) : Option Nat := if v < 64 then some v else none

/-- CTXSV: level 2 begins (R438). -/
def Dev.ctxsv (d : Dev) (v : Nat) : Dev × Bool :=
  match (slotOf v).bind (fun k => (d.ctx? k).map (fun c => (k, c))) with
  | none => (d, false)
  | some (k, c) =>
    match c.phase with
    | .running | .draining _ | .recording .. => (d.startSave k, true)
    | _ => (d, false)

/-- CTXLD: a saved context is to resume (R439). -/
def Dev.ctxld (d : Dev) (v : Nat) : Dev × Bool :=
  match (slotOf v).bind (fun k => (d.ctx? k).map (fun c => (k, c))) with
  | none => (d, false)
  | some (k, c) =>
    match c.phase, c.saved with
    | .saved, some x => if c.noResume then (d, false) else (d.within 72000 (.contextResume k x.stay), true)
    | .exhausted, _ => (d.within 72000 (.contextResume k []), true)
    | _, _ => (d, false)

/-- A request about a slot, once for the instruction: the lowest active lane supplies its operand, every active lane gets
the answer. -/
def Dev.ctxOp (d : Dev) (i : Instr) (h : Hd) (p : PReg) (a : VReg) (f : Dev → Nat → Dev × Bool) : Dev :=
  d.lanes i h [0] false (fun act d =>
    match act with
    | [] => d.done h
    | t :: _ =>
      let x := (d.env t).read 0 (.v a false)
      let y := f d x.1
      y.1.answerP h act p (if y.2 then 0xFF else 0x00) x.2)

/-- CTXSV (R438). -/
def execCtxsv (h : Hd) (p : PReg) (a : VReg) (s : State) : Host.Outcome State Fault Refusal :=
  onDev s (fun d => d.ctxOp (.ctxsv h p a) h p a Dev.ctxsv)

/-- CTXLD (R439). -/
def execCtxld (h : Hd) (p : PReg) (a : VReg) (s : State) : Host.Outcome State Fault Refusal :=
  onDev s (fun d => d.ctxOp (.ctxld h p a) h p a Dev.ctxld)

/-- A slot holds no work: it was reset and left empty, or nothing was ever launched in it. DEDUCED: notes/assumptions/96. -/
def Dev.slotEmpty (d : Dev) (k : Nat) (c : Ctx) : Bool :=
  c.phase = .empty || (c.phase = .running && c.nextLid = 0 && c.ring = [] && !(d.chunks.any (fun x => x.ctx == k)))

/-- The part differs from one already loaded in its group (R439): the contexts of this module that are being restored under
the same id. DEDUCED: notes/assumptions/96. -/
def Dev.partClash (d : Dev) (slot : Nat) (c : Ctx) (x : Image) : Bool :=
  d.ctxs.any (fun e =>
    e.1 ≠ slot && e.2.ctxid == c.ctxid &&
      match e.2.phase, e.2.reload with
      | .restoring _, some y => y.vm == x.vm || y.epoch ≠ x.epoch || y.ctxid ≠ x.ctxid || y.members.length ≠ x.members.length
      | _, _ => false)

/-- CTXLD.IMG loads the part whose header lies at a physical address into a slot: the cause it fails with, or the device
with the part loaded (R439). DEDUCED: notes/assumptions/96. -/
def Dev.loadPart (d : Dev) (slot : Nat) (c : Ctx) (pa : Nat) : Except Cause Dev :=
  match checkPart d.images c.snapKey (fun a n => d.partAt pa a n) with
  | .error x => .error x
  | .ok y => if d.partClash slot c y.img then .error cRestoreMismatch else .ok (d.loadImage slot y y.img.members)

/-- CTXLD.IMG, once for the instruction. DEDUCED: notes/assumptions/96. -/
def Dev.ctxldImg (d : Dev) (h : Hd) (p : PReg) (a b : VReg) (act : List Thread) : Dev :=
  match act with
  | [] => d.done h
  | t :: _ =>
    let v := (d.env t).read 0 (.v a false)
    let y := (d.env t).read 1 (.v b true)
    let psn := v.2 || y.2
    match (slotOf v.1).bind (fun k => (d.ctx? k).map (fun c => (k, c))) with
    | none => d.answerP h act p 0x00 psn
    | some (k, c) =>
      if !(d.slotEmpty k c) then d.answerP h act p 0x00 psn
      else
        match d.loadPart k c y.1 with
        | .ok d1 => d1.answerP h act p 0xFF psn
        | .error x =>
          let e := bitsOf (leOf (d.readPhys y.1 256).1) 48 16
          d.raiseAll h act x (if x = cSnapshotKey then detailOf 1 0 0 else detailOf (e + e % 2 * 65536) 0 0)

/-- CTXLD.IMG (R439). -/
def execCtxldImg (h : Hd) (p : PReg) (a b : VReg) (s : State) : Host.Outcome State Fault Refusal :=
  onDev s (fun d => d.lanes (.ctxldImg h p a b) h [0] false (fun act d => d.ctxldImg h p a b act))

/-! ### The record step (R422) -/

/-- RECORD_STEP: the record point, once what was issued has completed. -/
def Dev.recordStep (d : Dev) (slot epoch : Nat) : Dev :=
  match d.ctx? slot with
  | none => d
  | some c =>
    match c.phase with
    | .recording _ e _ => if e = epoch && c.regs.epoch ≠ e && d.recordReady slot then d.recordPoint slot e else d
    | _ => d

/-- RECORD_STEP (R422). -/
def execRecordStep (slot epoch : Nat) (s : State) : Host.Outcome State Fault Refusal := onDev s (fun d => d.recordStep slot epoch)

/-- RECORD_STEP_END: issue resumes, markers leave, and packets that waited are applied (R422, R425). -/
def Dev.recordEnd (d : Dev) (slot : Nat) : Dev :=
  match d.ctx? slot with
  | none => d
  | some c =>
    match c.phase with
    | .recording _ e dl =>
      if c.regs.epoch = e then
        ((d.mapCtx slot (fun c => { c with phase := match dl with | some x => .draining x | none => .running })).sendMarkers slot e).drainChans slot
      else d
    | _ => d

/-- RECORD_STEP_END (R422). DEDUCED: notes/assumptions/91. -/
def execRecordStepEnd (slot : Nat) (s : State) : Host.Outcome State Fault Refusal := onDev s (fun d => d.recordEnd slot)

/-! ### Copies, the sweep and the stream (R420, R421, R430) -/

/-- A unit's old value is copied, if a live snapshot needs it and staging has room. -/
def Dev.copyUnit (d : Dev) (slot : Nat) (u : UnitId) (prio : Nat) : Dev :=
  match d.ctx? slot with
  | none => d
  | some c => if c.needsCopy u && d.staging < stagingCap then d.cowIn slot u prio else d

/-- COW_COPY (R420): the copy for a write of the class P2. DESIGN CHOICE: notes/assumptions/143. -/
def execCowCopy (slot : Nat) (u : UnitId) (s : State) : Host.Outcome State Fault Refusal := onDev s (fun d => d.copyUnit slot u 2)

/-- SNAPSHOT_SWEEP: the sweep, at class P3, copies a unit, or skips one that no live snapshot needs. DEDUCED: notes/assumptions/25. -/
def Dev.sweep (d : Dev) (slot : Nat) (u : UnitId) : Dev :=
  match d.ctx? slot with
  | none => d
  | some c =>
    if c.needsCopy u then d.copyUnit slot u 3
    else d.mapCtx slot (fun c => { c with snaps := c.snaps.map (fun s => { s with todo := s.todo.filter (fun x => x ≠ u) }) })

/-- SNAPSHOT_SWEEP (R420). -/
def execSnapshotSweep (slot : Nat) (u : UnitId) (s : State) : Host.Outcome State Fault Refusal := onDev s (fun d => d.sweep slot u)

/-- Writes of other modules that waited for staging go on. -/
def Dev.unstall (d : Dev) : Dev :=
  if d.staging < stagingCap then
    let d1 := { d with stalled := none }
    if d.stalled.isSome then (d1.ctxs.map Prod.fst).foldl Dev.drainChans d1 else d1
  else d

/-- A staged copy of a context is streamed or acknowledged, and its granule is free. -/
def Dev.freeGranule (d : Dev) (slot n : Nat) : Dev :=
  (d.mapCtx slot (fun c => { c with snaps := c.snaps.map (fun s => { s with staged := s.staged.filter (fun x => x.num ≠ n) }) })).unstall

/-- The staged copies that wait for Bora, oldest first, with the slots of their contexts (R96, R430). -/
def Dev.boraQueue (d : Dev) : List (Nat × Staged) :=
  sortBy (fun (e : Nat × Staged) => e.2.num) (d.ctxs.flatMap (fun e =>
    if d.hostStream e.2 then [] else ((e.2.snaps.flatMap Snap.staged).foldl (fun (l : List Staged) x => if l.any (fun y => y.num == x.num) then l else l ++ [x]) []).map (fun x => (e.1, x))))

/-- The copy that Bora grants next (R96). -/
def Dev.boraNext (d : Dev) : Option (Nat × Staged) := grantOf (fun (e : Nat × Staged) => e.2.prio) (fun e => e.2.passed) d.boraQueue

/-- BORA_STREAM: Bora grants a staged granule by class, seals it and writes it to the image area (R96, R430). -/
def Dev.bora (d : Dev) (slot : Nat) : Dev :=
  match d.boraNext with
  | some (k, x) =>
    if k = slot then
      let past := (passedBy (fun (e : Nat × Staged) => e.2.prio) d.boraQueue (k, x)).map (fun e => e.2.num)
      let d1 : Dev := { d with ctxs := d.ctxs.map (fun e => (e.1, { e.2 with snaps := e.2.snaps.map (fun s =>
        { s with staged := s.staged.map (fun y => if past.contains y.num then { y with passed := y.passed + 1 } else y) }) })) }
      d1.freeGranule slot x.num
    else d
  | none => d

/-- HOST_GRANULE_ACK: under SNAP_STREAM = 1 the host has read a granule, and its acknowledgement frees it (R430). -/
def Dev.hostAck (d : Dev) (slot : Nat) : Dev :=
  match d.ctx? slot with
  | none => d
  | some c =>
    if d.hostStream c then
      let ids := ((c.snaps.flatMap Snap.staged).map Staged.num).eraseDups
      match ids[Config.pick d.ctr % ids.length]? with
      | none => d
      | some n => d.tick.freeGranule slot n
    else d

/-- BORA_STREAM (R430). -/
def execBoraStream (slot : Nat) (s : State) : Host.Outcome State Fault Refusal := onDev s (fun d => d.bora slot)

/-- HOST_GRANULE_ACK (R430). -/
def execHostGranuleAck (slot : Nat) (s : State) : Host.Outcome State Fault Refusal := onDev s (fun d => d.hostAck slot)

/-- The cycle since when a thread has waited for staging. -/
def Thread.stagedSince (t : Thread) : Option Nat :=
  match t.wait with
  | .staging n => some n
  | _ => none

/-- SNAPSHOT_STAGING_FULL: the writers of an instruction that waited for staging go on; a record gives the stall (R421). -/
def Dev.stagingOver (d : Dev) (u : Nat) : Dev :=
  match (d.thread? u).bind (fun t => t.stagedSince.map (fun n => (t, n))) with
  | none => d
  | some (t, n) =>
    if d.staging < stagingCap then
      let ts := d.threads.filter (fun x => x.ctx == t.ctx && x.core == t.core && x.pc == t.pc && x.wait == t.wait)
      let e := ((d.ctx? t.ctx).map (fun c => c.regs.epoch)).getD 0
      (d.record { Rec.plain (d.whoOf t) cSnapshotStagingFull (snapDetail e 0 (d.pcyc - n)) with lanes := lanesOf ts }).mapUids
        (ts.map Thread.uid) (fun x => x.readyNext d.pcyc)
    else d

/-- SNAPSHOT_STAGING_FULL (R421). -/
def execSnapshotStagingFull (uid : Nat) (s : State) : Host.Outcome State Fault Refusal := onDev s (fun d => d.stagingOver uid)

/-- A write has waited 24,000 cycles for staging (R421). DEDUCED: notes/assumptions/99. -/
def Dev.stagingLate (d : Dev) : Bool :=
  stagingCap ≤ d.staging &&
    (d.threads.any (fun t => match t.stagedSince with | some n => n + 24000 ≤ d.pcyc | none => false) ||
      match d.stalled with
      | some n => n + 24000 ≤ d.pcyc
      | none => false)

/-- The oldest live snapshot of the module's contexts: slot and epoch. -/
def Dev.oldestSnap (d : Dev) : Option (Nat × Nat) :=
  (minBy (fun (x : Nat × Nat × Nat) => x.2.2)
    (d.ctxs.flatMap (fun e => (e.2.snaps.filter (fun s => s.live)).map (fun s => (e.1, s.epoch, s.born))))).map (fun x => (x.1, x.2.1))

/-- STAGING_ABORT: the oldest live snapshot is aborted (R421). DEDUCED: notes/assumptions/99. -/
def Dev.stagingAbort (d : Dev) (slot : Nat) : Dev :=
  match d.oldestSnap with
  | some (k, e) => if d.stagingLate && k = slot then (d.abortSnap k e).unstall else d
  | none => d

/-- STAGING_ABORT (R421). -/
def execStagingAbort (slot : Nat) (s : State) : Host.Outcome State Fault Refusal := onDev s (fun d => d.stagingAbort slot)

/-- PART_COMPLETE (R428). -/
def execPartComplete (slot epoch : Nat) (s : State) : Host.Outcome State Fault Refusal := onDev s (fun d => d.partComplete slot epoch)

/-- SNAPSHOT_ABORTED: a live snapshot is aborted (R429). DEDUCED: notes/assumptions/100. -/
def execSnapshotAborted (slot epoch : Nat) (s : State) : Host.Outcome State Fault Refusal :=
  onDev s (fun d => (d.abortSnap slot epoch).unstall)

/-- The log of a re-run is exhausted: the context halts as if saved (R444). DEDUCED: notes/assumptions/97. -/
def Dev.rerunOver (d : Dev) (slot : Nat) : Dev :=
  d.mapCtx slot (fun c => if c.rerun && c.rlog = [] && c.phase.issues then { c with phase := .exhausted, haltAt := c.regs.cyc } else c)

/-- RERUN_LOG_EXHAUSTED (R444). DEDUCED: notes/assumptions/97. -/
def execRerunLogExhausted (slot : Nat) (s : State) : Host.Outcome State Fault Refusal := onDev s (fun d => d.rerunOver slot)

end Sys2Proof.Machine
end

