-- ==== Sys2Proof/Machine/Resume.lean ====
section
/-! DEFINITION. A context that was drained, saved or loaded goes on (spec/03 R86, spec/04 R92, R98, spec/16 R360, spec/19 R402, spec/20
R440 to R442, R444, R468). -/

namespace Sys2Proof.Machine

/-- Launches whose rows lie with an unbound core end, and what the image holds of ended launches goes (R468). -/
def Dev.strand (d : Dev) (slot : Nat) (x : CtxImage) : Dev × CtxImage :=
  let d1 := d.endRowLaunches slot (fun n => d.physOf n = 0x3FF)
  let gone := (x.launches.map Launch.lid).filter (fun lid => !(((d1.launch? slot lid).map (fun l => l.state.holds)).getD false))
  (d1, x.without gone)

/-- The threads may issue, their ages zero: the launches run, ends that waited are taken, held packets are applied first, and sleeping
SNAPQ.W look again (R86, R92, R442). DEDUCED: notes/assumptions/89. -/
def Dev.goAgain (d : Dev) (slot : Nat) : Dev :=
  let held := ((d.ctx? slot).map Ctx.held).getD []
  let d1 := d.mapCtx slot (fun c => { c with phase := .running, saved := none, held := [], haltSeen := [], readySeen := [], onto := [] })
  let d2 : Dev :=
    { d1 with
      threads := d1.threads.map (fun t => if t.ctx = slot then { t with since := max t.since d1.pcyc } else t)
      launches := d1.launches.map (fun l =>
        if l.ctx = slot && (l.state = .saved || l.state = .draining || l.state = .saving) then { l with state := .running } else l) }
  ((held.foldl (fun d p => d.takeHeld slot p) (d2.endPendings slot)).wakeSnap slot).drainChans slot

/-- The cores that Foehn quarantines under a saved context are filled and released, or can be bound no more (R402, R415). -/
def Dev.refilled (d : Dev) (c : Ctx) : Bool :=
  c.onto.all (fun n => d.physOf n = 0x3FF || (!(d.phys? (d.physOf n)).doomed && !(d.fills.any (fun f => f.logical == n && f.foehn))))

/-- CONTEXT_RESUME (R468): a saved context goes on once every saved chunk is bound; a drained one binds again. DEDUCED: notes/assumptions/89. -/
def Dev.resume (d : Dev) (slot : Nat) (place : List (Nat × Nat)) : Dev :=
  match d.ctx? slot with
  | none => d
  | some c =>
    match c.phase, c.saved with
    | .saved, some x =>
      if c.noResume || !(d.refilled c) then d
      else
        let (d1, x1) := d.strand slot x
        match d1.placeImage slot x1 place with
        | some d2 => d2.goAgain slot
        | none => d1.mapCtx slot (fun c => { c with saved := some x1 })
    | .draining _, _ => if d.hasChunks slot then d else d.goAgain slot
    | .exhausted, _ => (d.mapCtx slot (fun c => { c with rerun := false })).goAgain slot
    | _, _ => d

/-- CONTEXT_RESUME (R468). DEDUCED: notes/assumptions/89. -/
def execContextResume (slot : Nat) (place : List (Nat × Nat)) (s : State) : Host.Outcome State Fault Refusal :=
  onDev s (fun d => d.resume slot place)

/-- Every member's ready notice has arrived (R440). -/
def Ctx.allReady (c : Ctx) : Bool :=
  match c.phase with
  | .restoring r => c.others.all (fun v => r.contains v)
  | _ => false

/-- The key exchanges among the members of a confidential context are complete (R360). -/
def Ctx.keyed (c : Ctx) : Bool := !c.sealedMode || c.others.all (fun v => (c.chan v).key.isSome)

/-- The leases of a context that is restored are held: every page is resident, and no column of its rows is another's (R90, R180, R341). -/
def Dev.releasesHeld (d : Dev) (slot : Nat) (c : Ctx) : Bool :=
  (d.launches.filter (fun l => l.ctx == slot && l.state.holds)).all (fun l => d.allResident c l && !(d.rowBlocked slot c l))

/-- The last step of a restore may be taken (R360, R440): every member is ready, the keys are there, the leases are held. -/
def Dev.mayRestore (d : Dev) (slot : Nat) (c : Ctx) : Bool :=
  c.allReady && !(d.unlocked c) && c.keyed && d.releasesHeld slot c

/-- The core that the remap of a restore gives a chunk (R440). -/
def Ctx.remapCore (c : Ctx) (ch : Chunk) : Nat := KV.get c.vcmap ch.core ch.vc

/-- A loaded section is placed by the remap; a virtual core whose core has become unbound since may go elsewhere (R468). DEDUCED: notes/assumptions/87. -/
def Dev.placeRestored (d : Dev) (slot : Nat) (c : Ctx) (x : CtxImage) (place : List (Nat × Nat)) : Option Dev :=
  if x.chunks.all (fun ch => placeOf place ch == c.remapCore ch || d.physOf (c.remapCore ch) = 0x3FF) then d.placeAll slot x place else none

/-- Levante's placement of a loaded context: that of the remap. -/
def Dev.findRestored (d : Dev) (slot : Nat) (c : Ctx) (x : CtxImage) : Option (List (Nat × Nat)) :=
  let p := x.chunks.foldl (fun m ch => KV.set m ch.vc (c.remapCore ch)) []
  if (d.placeRestored slot c x p).isSome then some p
  else if x.chunks.any (fun ch => d.physOf (c.remapCore ch) = 0x3FF) then d.choosePlace (fun d x p => d.placeRestored slot c x p) x
  else none

/-- A logged packet is applied again in its turn (R426, R440). DEDUCED: notes/assumptions/94. -/
def Dev.reinject (d : Dev) (slot : Nat) (p : Packet) : Dev :=
  let d1 := d.mapChan slot p.src (fun x => { x with recvSeq := (p.seq + 1) % 2 ^ 32 })
  if p.body = .marker then d1 else d1.applyPacket slot p

/-- RESTORE_RESUME (R440 steps 4 and 5): the chunks are bound, the logged packets are applied, the threads go on. -/
def Dev.restore (d : Dev) (slot : Nat) (place : List (Nat × Nat)) : Dev :=
  match d.ctx? slot with
  | none => d
  | some c =>
    match c.saved with
    | none => d
    | some x =>
      if d.mayRestore slot c then
        let (d1, x1) := d.strand slot x
        match d1.placeRestored slot c x1 place with
        | none => d1.mapCtx slot (fun c => { c with saved := some x1 })
        | some d2 =>
          let log := (c.reload.map Image.log).getD []
          let d3 := log.foldl (fun d p => d.reinject slot p) (d2.mapCtx slot (fun c => { c with reload := none }))
          d3.goAgain slot
      else d

/-- RESTORE_RESUME (R440). -/
def execRestoreResume (slot : Nat) (place : List (Nat × Nat)) (s : State) : Host.Outcome State Fault Refusal :=
  onDev s (fun d => d.restore slot place)

end Sys2Proof.Machine
end

