-- ==== Sys2Proof/Machine/Launch.lean ====
section
/-! DEFINITION. Launch records, leases, the binding of chunks and the task queue (spec/03 R85, spec/04 R87 to R94, spec/15
R333, spec/23 R459). -/

namespace Sys2Proof.Machine

/-! ### Launch records (R87, R88) -/

/-- A footprint entry of a record. -/
def rangeOf (x : Nat) : Range :=
  { base := BitVec.ofNat 64 x, len := bitsOf x 64 48, rd := bitOf x 112, wr := bitOf x 113, row := bitOf x 114, inherited := false }

/-- A footprint entry that no record may have: reserved bits, no intent, or a part not of 4 KiB granules. -/
def rangeBad (x : Nat) : Bool :=
  bitsOf x 115 13 ≠ 0 || !(bitOf x 112 || bitOf x 113) || x % 4096 ≠ 0 || bitsOf x 64 48 % 4096 ≠ 0 || bitsOf x 64 48 = 0

/-- The local window holds an address. -/
def isLocal (a : W64) : Bool :=
  match windowOf a with
  | .local_ _ => true
  | _ => false

/-- The launch of a record with its footprint entries, under a launch id, in the context of the queue it came through: its CTX field is
read by nothing. One that Levante creates runs at system level (R22). DESIGN CHOICE: notes/assumptions/147. -/
def launchOf (slot lid x : Nat) (fps : List Nat) (who : Submitter) : Launch :=
  { ctx := slot, lid := lid, entry := BitVec.ofNat 64 x, nthr := bitsOf x 64 32 + 1, regsN := bitsOf x 96 10,
    stashLen := 8 * bitsOf x 112 16, acc := bitsOf x 128 4, prio := bitsOf x 132 2, prot := bitOf x 134, rcd := bitOf x 135,
    level := if who = .levante then .system else if bitOf x 136 then .context else .user, pers := bitOf x 137, arg := BitVec.ofNat 64 (x / 2 ^ 192), addr := none,
    die := none, ranges := fps.map rangeOf, state := .queued, started := [], intents := [], endPending := none }

/-- The check a record fails, in order of precedence, with the address concerned (R88). DEDUCED: notes/assumptions/106. -/
def Dev.recordFlt (d : Dev) (c : Ctx) (x : Nat) (fps : List Nat) (mayCtx : Bool) : Option (Cause × W64) :=
  let entry : W64 := BitVec.ofNat 64 x
  let regs := bitsOf x 96 10
  let rsv := bitsOf x 106 6 ≠ 0 || bitsOf x 138 6 ≠ 0 || bitsOf x 151 9 ≠ 0 || bitsOf x 176 16 ≠ 0 || bitsOf x 256 256 ≠ 0
  let off := regs = 0 || 512 < regs || 32768 < bitsOf x 112 16 || 8 < bitsOf x 128 4 || 64 < bitsOf x 144 7 || fps.any rangeBad
  if rsv || off then some (cReservedBits, entry)
  else if entry.toNat % 4 ≠ 0 then some (cMisalignedPc, entry)
  else if !(isLocal entry) then some (cProtection, entry)
  else
    match fps.find? (fun f => !(isLocal (BitVec.ofNat 64 f))) with
    | some f => some (cProtection, BitVec.ofNat 64 f)
    | none =>
      if bitOf x 136 && !mayCtx then some (cPrivilege, entry)
      else if d.unlocked c then some (cTdispUnlocked, entry)
      else none

/-- A launch joins its context's queue under the next launch id. -/
def Dev.addLaunch (d : Dev) (slot : Nat) (l : Nat → Launch) : Dev :=
  match d.ctx? slot with
  | none => d
  | some c => { (d.mapCtx slot (fun c => { c with nextLid := c.nextLid + 1 })) with launches := d.launches ++ [l c.nextLid] }

/-- A launch record arrives: it is queued or rejected (R88). DEDUCED: notes/assumptions/106. -/
def Dev.recordIn (d : Dev) (slot : Nat) (raw : BitVec 512) (fps : List (BitVec 128)) (who : Submitter) : Dev :=
  match d.ctx? slot with
  | none => d
  | some c =>
    if c.phase = .empty then d
    else
      let x := raw.toNat
      let fs := (fps.take (bitsOf x 144 7)).map BitVec.toNat
      match d.recordFlt c x fs (who == .driver) with
      | some (cause, addr) => d.reject slot (BitVec.ofNat 64 x) none cause addr c.part
      | none => d.addLaunch slot (fun lid => launchOf slot lid x fs who)

/-- LAUNCH_RECORD_ARRIVAL (R88). -/
def execLaunchRecordArrival (slot : Nat) (raw : BitVec 512) (fps : List (BitVec 128)) (who : Submitter) (s : State) :
    Host.Outcome State Fault Refusal := onDev s (fun d => d.recordIn slot raw fps who)

/-- The host's link and mailbox answer (R461, R465). DEDUCED: notes/assumptions/112. -/
def HostSide.up (h : HostSide) : Bool := h.linkUp && h.ready

/-- A doorbell of a partition's virtual function delivers the records up to a tail, in order (R459). -/
def Dev.doorbell (d : Dev) (part slot tail : Nat) : Dev :=
  match d.ctx? slot with
  | none => d
  | some c =>
    if c.part ≠ part then d
    else
      let n := min (tail - c.head) c.ring.length
      (c.ring.take n).foldl (fun d r => d.recordIn slot r.1 r.2 .driver)
        (d.mapCtx slot (fun c => { c with ring := c.ring.drop n, head := c.head + n }))

/-- DOORBELL_WRITE (R459): it reaches the module while its link is up. Outside the IDE stream of a locked partition it is an
unsupported request (R349). DEDUCED: notes/assumptions/112. -/
def execDoorbellWrite (part slot : Nat) (bell : Doorbell) (s : State) : Host.Outcome State Fault Refusal :=
  if s.host.up then
    if (s.dev.mode part).getLsbD 8 && !bell.ide then .next { s with host := { s.host with answer := 3 } }
    else onDev s (fun d => d.doorbell part slot bell.tail)
  else .next s

/-! ### Leases (R90, R91, R333) -/

/-- LEASE_ACQUIRE_START (R90): Levante begins to acquire a queued launch's lease. -/
def Dev.leaseStart (d : Dev) (slot lid : Nat) : Dev :=
  match d.ctx? slot, d.launch? slot lid with
  | some c, some l =>
    if c.phase = .running && l.state = .queued then
      ((d.mapLaunch slot lid (fun l => { l with state := .leasing })).leaseCheck slot c l).1
    else d
  | _, _ => d

/-- LEASE_ACQUIRE_START (R90). -/
def execLeaseAcquireStart (slot lid : Nat) (s : State) : Host.Outcome State Fault Refusal := onDev s (fun d => d.leaseStart slot lid)

/-- The cached lines of a launch's ROW ranges are written back and invalidated (R91). -/
def Dev.dropRows (d : Dev) (c : Ctx) (l : Launch) : Dev :=
  (l.ranges.filter (fun r => r.row)).foldl (fun d r =>
    (d.leavesIn c r.base.toNat r.len).foldl (fun d o =>
      match o with
      | some x => { d with caches := d.caches.drop (x.pa - x.pa % 2 ^ (levelShift x.level).1) (2 ^ (levelShift x.level).1) }
      | none => d) d) d

/-- LEASE_HELD (R90): every range is held, no column of its rows is another context's (R180), and the launch is ready. -/
def Dev.leaseHeld (d : Dev) (slot lid : Nat) : Dev :=
  match d.ctx? slot, d.launch? slot lid with
  | some c, some l =>
    if c.phase = .running && l.state = .leasing then
      let r := d.leaseCheck slot c l
      if r.2 && d.allResident c l && !(d.rowBlocked slot c l) then
        ((r.1.dropRows c l).mapLaunch slot lid (fun l => { l with state := .ready })).fetchCode slot
      else r.1
    else d
  | _, _ => d

/-- LEASE_HELD (R90). -/
def execLeaseHeld (slot lid : Nat) (s : State) : Host.Outcome State Fault Refusal := onDev s (fun d => d.leaseHeld slot lid)

/-- A 64-byte line of a context's owned frame as it is sealed under the context's memory key (R351, R357). -/
def Dev.sealedLine (d : Dev) (key : BitVec 256) (line : Nat) : List Byte :=
  (sealIv key (Config.lineIv line (KV.get d.vers 0 line)) [] (d.mem.getBytes (64 * line) 64)).1

/-- A page that the host moved under RESIDENCY = 1 is unsealed on its return: a line that is not the one that left fails its tag
(R351). No bytes: the page never left. DEDUCED: notes/assumptions/117. -/
def Dev.unsealPage (d : Dev) (key : BitVec 256) (pa n : Nat) (bytes : List Byte) : Dev :=
  if bytes = [] then d
  else
    let bad := (upTo (n / 64)).filter (fun k => (bytes.drop (64 * k)).take 64 ≠ d.sealedLine key (pa / 64 + k))
    { d with badTags := bad.foldl (fun l k => NatSet.add l (pa / 64 + k)) d.badTags }

/-- RESIDENCY of a partition: the host moves pages (R29). -/
def Dev.hostResidency (d : Dev) (part : Nat) : Bool := (d.mode part).getLsbD 1

/-- PAGE_RESIDENT (R333): the pager or the driver makes the page of an address resident; launches that wait for it are
checked again. -/
def Dev.pageIn (d : Dev) (slot : Nat) (va : W64) (bytes : List Byte) : Dev :=
  match d.ctx? slot with
  | none => d
  | some c =>
    match d.leaf? c va.toNat with
    | none => d
    | some l =>
      if l.p then d
      else
        let size := 2 ^ (levelShift l.level).1
        let d0 := if l.conf && l.owner = slot && d.hostResidency c.part then d.unsealPage c.memKey (l.pa - l.pa % size) size bytes else d
        let d1 := d0.setEntry l.at_ (l.entry.toNat + 32)
        (d1.launches.filter (fun x => x.ctx == slot && x.state == .leasing)).foldl (fun d x => (d.leaseCheck slot c x).1) d1

/-- PAGE_RESIDENT (R333). -/
def execPageResident (slot : Nat) (page : PageBack) (s : State) : Host.Outcome State Fault Refusal :=
  onDev s (fun d => d.pageIn slot page.va page.sealed)

/-! ### Binding (R85, R91, R93, R94) -/

/-- SCHED of a partition: the host decides where chunks bind (R29). -/
def Dev.hostSched (d : Dev) (part : Nat) : Bool := (d.mode part).getLsbD 0

/-- Chunks of a launch may bind: its context binds chunks, and its lease is held (R90, R98). -/
def Ctx.binds (c : Ctx) (l : Launch) : Bool := c.phase = .running && (l.state = .ready || l.state = .running)

/-- Levante may place a chunk on a core: it has not started, and the core is one of the partition, of the column or of the die the
launch is tied to (R91, R85). -/
def Dev.mayBind (d : Dev) (c : Ctx) (l : Launch) (chunk core : Nat) : Bool :=
  c.binds l && chunk < l.numChunks && !(l.started.contains chunk) && d.partOf core = c.part &&
    (match d.rowCore? c l with
     | some n => n == core
     | none => (l.die.map (fun k => core / 128 == k)).getD true)

/-- A core has what a bind record asks for (R93). -/
def Dev.recFits (d : Dev) (core : Nat) (r : BindRec) : Bool := d.room core r.prot (r.cnt + 1) r.regsN (8 * r.stash) r.acc

/-- The bind record by which chunk k of a launch goes to a core: Levante's own, or under SCHED = 1 the host's, verbatim (R93, R94). A
chunk that the host names once more gets an index of its own. DESIGN CHOICE: notes/assumptions/155. -/
def Dev.recordFor (d : Dev) (c : Ctx) (l : Launch) (chunk core : Nat) : Option BindRec :=
  if d.hostSched c.part then
    (l.intents.find? (fun i => i.1 == core && (BindRec.ofBits i.2 l.chunkSize).chunk == chunk)).map (fun i =>
      let r := BindRec.ofBits i.2 l.chunkSize
      if l.started.contains chunk then { r with chunk := l.started.foldl (fun m k => max m (k + 1)) l.numChunks } else r)
  else if d.mayBind c l chunk core then some (l.bindRec chunk)
  else none

/-- The bind slot of a core in which a record of a chunk waits. -/
def Core.waitSlot (c : Core) (slot lid chunk : Nat) : Option (Nat × BindRec) :=
  ((upTo 4).filterMap (fun k => (c.binds[k]?.getD none).map (fun r => (k, r)))).find? (fun e =>
    !e.2.bound && e.2.ctx == slot && e.2.lid == lid && e.2.chunk == chunk)

/-- A record that waits in a core's slot binds as soon as it fits (R93). -/
def Dev.bindsNow (d : Dev) (core : Nat) (r : BindRec) : Bool :=
  !r.bound && d.recFits core r &&
    (match d.ctx? r.ctx, d.launch? r.ctx r.lid with
     | some c, some l => c.binds l
     | _, _ => false)

/-- A record is written into a free slot of a core, after Levante has withdrawn one of the same chunk that waits elsewhere (R93). -/
def Dev.putBind (d : Dev) (core : Nat) (r : BindRec) : Dev :=
  let d1 : Dev := { d with cores := d.cores.map (fun e => (e.1, e.2.withdrawn r.ctx (fun b => b.lid == r.lid && b.chunk == r.chunk))) }
  match (d1.core core).freeBind with
  | some k => d1.mapCore core (fun x => { x with binds := x.binds.set k (some r) })
  | none => d1

/-- The record of a chunk that waits on a core binds, if it may. -/
def Dev.bindWaiting (d : Dev) (slot lid chunk core : Nat) : Dev :=
  match d.launch? slot lid, (d.core core).waitSlot slot lid chunk with
  | some l, some (k, r) => if d.bindsNow core r then d.bindChunk l r core k else d
  | _, _ => d

/-- CHUNK_BIND: Levante places a chunk on a core, or executes the host's intent: its record is written, and binds when the core has what
it asks for; a record that waits already binds (R93, R94). -/
def Dev.bind (d : Dev) (slot lid chunk core : Nat) : Dev :=
  match d.ctx? slot, d.launch? slot lid with
  | some c, some l =>
    if ((d.core core).waitSlot slot lid chunk).isSome then d.bindWaiting slot lid chunk core
    else
      match d.recordFor c l chunk core with
      | some r =>
        if c.binds l && (d.core core).freeBind.isSome then
          ((d.putBind core r).mapLaunch slot lid (fun l =>
            { l with intents := l.intents.filter (fun i => !(i.1 == core && (BindRec.ofBits i.2 l.chunkSize).chunk == chunk)) })).bindWaiting
            slot lid r.chunk core
        else d
      | none => d
  | _, _ => d

/-- CHUNK_BIND (R93). -/
def execChunkBind (slot lid chunk core : Nat) (s : State) : Host.Outcome State Fault Refusal := onDev s (fun d => d.bind slot lid chunk core)

/-- BIND_INTENT (R94): under SCHED = 1 the host writes a bind record for a core; it is refused where it names a core outside the
partition or a launch whose lease is not held, or does not fit. The answer is whether it was accepted. DESIGN CHOICE: notes/assumptions/155. -/
def Dev.intent (d : Dev) (core : Nat) (raw : BitVec 128) : Dev × Bool :=
  let slot := bitsOf raw.toNat 8 6
  let lid := bitsOf raw.toNat 16 32
  match d.ctx? slot, d.launch? slot lid with
  | some c, some l =>
    if d.hostSched c.part && d.partOf core = c.part && l.state.holds && (d.core core).freeBind.isSome &&
        d.recFits core (BindRec.ofBits raw l.chunkSize) then
      (d.mapLaunch slot lid (fun l => { l with intents := l.intents ++ [(core, raw)] }), true)
    else (d, false)
  | _, _ => (d, false)

/-- The answer to the host: 1 accepted, 2 refused. DESIGN CHOICE: notes/assumptions/111. -/
def HostSide.answers (h : HostSide) (ok : Bool) : HostSide := { h with answer := if ok then 1 else 2 }

/-- BIND_INTENT (R94): the record's fields as R93 places them, LID at [47:16] between the flags with CTXSLOT and what the chunk needs. -/
def execBindIntent (core : Nat) (head : BitVec 16) (lid : W32) (rest : BitVec 80) (s : State) : Host.Outcome State Fault Refusal :=
  let r := s.dev.intent core (rest ++ lid ++ head)
  .next { s with host := s.host.answers r.2, dev := r.1 }

/-! ### The task queue (R85) -/

/-- Records of a context may become launches: it is neither between a record point and its end, nor waits for a restore, nor is at the
end of a re-run. DEDUCED: notes/assumptions/107. -/
def CtxPhase.dequeues : CtxPhase → Bool
  | .recording .. | .restoring _ | .exhausted | .empty => false
  | _ => true

/-- The record Levante takes next from a die's queue: the oldest of the highest class; in a re-run, the logged one (R85). DEDUCED: notes/assumptions/107. -/
def Dev.nextTask (d : Dev) (k : Nat) : Option (Nat × Task) :=
  let ts := ((upTo (d.die k).tasks.length).zip (d.die k).tasks).filter (fun x =>
    ((d.ctx? x.2.ctx).map (fun c => c.phase.dequeues)).getD true && !(d.logStalls x.2.ctx))
  match minBy (fun (x : Nat × Task) => x.2.prio) ts with
  | none => none
  | some x =>
    match (d.ctx? x.2.ctx).bind (fun c => if c.rerun then c.rlog.find? (fun e => e.1 == logKey 2 k) else none) with
    | some e =>
      match ts.find? (fun y => y.1 == e.2.toNat && y.2.ctx == x.2.ctx) with
      | some y => some y
      | none => some x
    | none => some x

/-- The launch of a continuation record (R85). DEDUCED: notes/assumptions/107. -/
def contLaunch (t : Task) (p : Option Launch) (die lid : Nat) : Launch :=
  { ctx := t.ctx, lid := lid, entry := t.entry, nthr := t.nthr, regsN := t.regsN, stashLen := (p.map Launch.stashLen).getD 0,
    acc := (p.map Launch.acc).getD 0, prio := t.prio, prot := false, rcd := false, level := if t.ctxl then .context else .user,
    pers := false, arg := t.arg, addr := some t.addr, die := some die,
    ranges := ((p.map Launch.ranges).getD []).map (fun r => { r with inherited := true }), state := .queued, started := [], intents := [],
    endPending := none }

/-- TASK_DEQUEUE (R85): Levante launches a record as a launch of its own. DEDUCED: notes/assumptions/107. -/
def Dev.dequeue (d : Dev) (k : Nat) : Dev :=
  match d.nextTask k with
  | none => d
  | some (i, t) =>
    let d1 := (d.logInput t.ctx (logKey 2 k) (BitVec.ofNat 64 i)).mapDie k (fun x => { x with tasks := x.tasks.eraseIdx i })
    match d1.ctx? t.ctx with
    | none => d1
    | some c =>
      if d1.unlocked c then d1.reject t.ctx t.entry none cTdispUnlocked t.entry c.part
      else d1.addLaunch t.ctx (contLaunch t (d1.launch? t.ctx t.poster) k)

/-- TASK_DEQUEUE (R85). -/
def execTaskDequeue (die : Nat) (s : State) : Host.Outcome State Fault Refusal := onDev s (fun d => d.dequeue die)

end Sys2Proof.Machine
end

