-- ==== Sys2Proof/Machine/Errors.lean ====
section
/-! DEFINITION. Errors that the module detects in its register files, stashes, tiles and caches (spec/09 R225, spec/18 R365, R371, R378,
R379). The array errors are in Access, the transfer errors in Row. -/

namespace Sys2Proof.Machine

/-! ### Register-file parity (R378) -/

/-- How many of the leading registers that an instruction names it only writes. -/
def pureDests (i : Instr) : Nat :=
  match i with
  | .pair _ => 2
  | .brx .. | .call .. | .retLink .. | .sleepAbs .. | .join .. | .joinT .. | .joinRank .. | .joinRankT .. | .post .. => 0
  | .icmp .. | .fcmp .. | .xbflyTr .. | .st .. | .stl .. | .smap .. | .sst .. | .binit .. | .barv .. | .bexp .. | .bexpMax .. => 0
  | .baddb .. | .bdrop .. | .bwait .. | .btest .. | .bwaitt .. | .rowact .. | .rowconS .. | .rowput .. | .rowputV .. => 0
  | .xwait .. | .xcancel .. | .fatom .. | .fsig .. | .mldw .. | .mstream .. | .mlda .. | .mst .. | .mldaReg .. | .mgrp .. => 0
  | .mscl .. | .norma .. | .normb .. | .aliasT .. | .sampmm .. | .awupd .. | .sgdm .. | .sysw .. | .cyccmpWrite .. => 0
  | .eqheadWrite .. | .eqRingWrite .. | .partmodeWrite .. | .lcmapWrite .. | .fmtrangeWrite .. | .marginRegWrite .. => 0
  | .svarWrite .. | .margin .. | .scan .. | .scanAbort .. | .quar .. | .haltc .. | .haltcRel .. | .ctxsv .. | .ctxld .. => 0
  | .ctxldImg .. => 0
  | .pmov _ (.fromV ..) => 0
  | _ => 1

/-- The registers that an instruction reads. -/
def readsOf (i : Instr) : List Named := (namedOf i).drop (pureDests i)

/-- The predicates that an instruction reads beside its guard. -/
def predsOf (i : Instr) : List PReg :=
  match i with
  | .sel _ _ _ _ _ _ p => [p]
  | .plop _ _ a b c _ => [a, b, c]
  | .voteMask _ _ a | .voteCount _ _ a | .voteTest _ _ a _ | .pmov _ (.toV _ a) => [a]
  | _ => []

/-- An instruction reads a register whose parity fails. -/
def Upset.readBy (x : Upset) (i : Instr) (gp : PReg) : Bool :=
  match x with
  | .v r => (readsOf i).any (fun n => match n with | .v q k => decide (q.toNat ≤ r.toNat) && decide (r.toNat < q.toNat + k) | .s .. => false)
  | .p q => q == gp || (predsOf i).contains q

/-- The detail of REGISTER_PARITY (R379, group 11): the register file, the register and its kind. -/
def regDetail (reg kind : Nat) : Detail := detailOf 0 0 (6 + reg * 2 ^ 21 + kind * 2 ^ 30)

/-- A thread reads a register whose parity fails: it is delivered poisoned, and the error is imprecise (R225, R371, R378). -/
def Dev.upsetReg (d : Dev) (t : Thread) (x : Upset) : Dev :=
  let d1 := d.mapThread t.uid (fun t =>
    { t with
      upsets := t.upsets.filter (fun y => y ≠ x)
      regPsn := match x with | .v r => t.regPsn.set r.toNat true | .p _ => t.regPsn
      predPsn := match x with | .v _ => t.predPsn | .p p => if p = 0 then t.predPsn else t.predPsn.set p.toNat true })
  d1.imprecise (d.whoOf t) t.uid (t.retired + 1) cRegisterParity
    (match x with | .v r => regDetail r.toNat 0 | .p p => regDetail p.toNat 2) [t.lane]

/-- A thread's instruction reads a gang scalar whose parity fails. -/
def Dev.upsetS (d : Dev) (t : Thread) (k : Nat) (r : SReg) : Dev :=
  (d.mapGang t.core k (fun g => { g with upsets := g.upsets.filter (fun y => y ≠ r), sregPsn := if r = 0 then g.sregPsn else g.sregPsn.set r.toNat true })).imprecise
    (d.whoOf t) t.uid (t.retired + 1) cRegisterParity (regDetail r.toNat 1) [t.lane]

/-- What the reads of an instruction of the issue group find in the register files. -/
def Dev.parity (d : Dev) (i : Instr) (gp : PReg) : Dev :=
  d.members.foldl (fun (d : Dev) t =>
    let d1 := (t.upsets.filter (fun x => x.readBy i gp)).foldl (fun (d : Dev) x => d.upsetReg t x) d
    match d1.gangOf? t with
    | some (k, g) =>
      (g.upsets.filter (fun r => (readsOf i).any (fun n => match n with | .s q m => decide (q.toNat ≤ r.toNat) && decide (r.toNat < q.toNat + m) | .v .. => false))).foldl
        (fun (d : Dev) r => d.upsetS t k r) d1
    | none => d1) d

/-! ### Stashes, tiles and caches (R365, R378) -/

/-- The bits flipped in a word. -/
def bitsAt (l : List (Nat × Nat)) (w : Nat) : List Nat := (l.filter (fun f => f.1 == w)).map Prod.snd

/-- One flipped bit of a word is corrected, more are not (R378). -/
def flipCause (bits : List Nat) : Cause := if bits.length = 1 then cEccCorrected else cEccUncorrected

/-- The words of a list that cannot be corrected. -/
def badWords (l : List (Nat × Nat)) : List Nat := ((l.map Prod.fst).eraseDups).filter (fun w => (bitsAt l w).length ≠ 1)

/-- The errors of a chunk's stash are corrected, or its words poisoned, and recorded. -/
def Dev.scrubStash (d : Dev) (c : Chunk) : Dev :=
  (((c.flips.map Prod.fst).eraseDups).foldl (fun (d : Dev) w =>
    let bs := bitsAt c.flips w
    d.note (Who.nobody (some c.ctx)) (flipCause bs) (detailOf (8 * w) 0 (5 + bs.headD 0 * 2 ^ 4))) d).mapChunk c.ctx c.lid c.idx (fun c =>
      { c with flips := [], stashPsn := (badWords c.flips).foldl NatSet.add c.stashPsn })

/-- The errors of a tile. -/
def Dev.scrubTile (d : Dev) (core k : Nat) (x : Tile) : Dev :=
  let slot := x.owner.bind (fun g => (d.gang? core g).map Gang.ctx)
  (((x.flips.map Prod.fst).eraseDups).foldl (fun (d : Dev) w =>
    let bs := bitsAt x.flips w
    d.note (Who.nobody slot) (flipCause bs) (detailOf (4 * w) k (7 + bs.headD 0 * 2 ^ 4))) d).mapCore core (fun c =>
      { c with tiles := mapAt c.tiles k (fun x => { x with flips := [], psn := (badWords x.flips).foldl NatSet.add x.psn }) })

/-- The errors of the lines in the LLC or in the L1s. -/
def Dev.scrubLines (d : Dev) : Dev :=
  let words := (d.lineFlips.map (fun f => (f.1, f.2.1))).eraseDups
  words.foldl (fun (d : Dev) x =>
    let bs := (d.lineFlips.filter (fun f => f.1 == x.1 && f.2.1 == x.2)).map (fun f => f.2.2)
    let held := d.holderOf (8 * x.2)
    let say := detailOf ((held.map Prod.snd).getD (8 * x.2) % 2 ^ 32) ((held.map Prod.snd).getD (8 * x.2) / 2 ^ 32)
      ((if x.1 then 3 else 4) + b2n held.isNone * 2 ^ 3 + bs.headD 0 * 2 ^ 4)
    { (d.note (Who.nobody (held.map Prod.fst)) (flipCause bs) say) with
      lineFlips := d.lineFlips.filter (fun f => !(f.1 == x.1 && f.2.1 == x.2))
      psn := if bs.length = 1 then d.psn else NatSet.add d.psn x.2 }) d

/-- An error waits to be detected. The spec does not say when: the model detects it before anything else happens. DESIGN CHOICE: notes/assumptions/72. -/
def Dev.scrubDue (d : Dev) : Bool :=
  !d.lineFlips.isEmpty || d.chunks.any (fun c => !c.flips.isEmpty) || d.cores.any (fun e => e.2.tiles.any (fun x => !x.flips.isEmpty))

/-- Every error of the stashes, the tiles and the caches is detected (R365). DESIGN CHOICE: notes/assumptions/72. -/
def Dev.scrub (d : Dev) : Dev :=
  let d1 := (d.chunks.filter (fun c => !c.flips.isEmpty)).foldl (fun d c => d.scrubStash c) d
  let d2 := d1.cores.foldl (fun (d : Dev) e =>
    ((upTo e.2.tiles.length).zip e.2.tiles).foldl (fun (d : Dev) x => if x.2.flips.isEmpty then d else d.scrubTile e.1 x.1 x.2) d) d1
  if d2.lineFlips.isEmpty then d2 else d2.scrubLines

end Sys2Proof.Machine
end

