-- ==== Sys2Proof/Machine/Margin.lean ====
section
/-! DEFINITION. Timing replay, margins, Foehn's quarantine, and the progress of scans and fills (spec/19 R391 to R416). -/

namespace Sys2Proof.Machine

/-! ### Margin raises (R400, R401) -/

/-- A raise: CUR and TGT take a value at once, and WCNT becomes 0. DEDUCED: notes/assumptions/73. -/
def Phys.raised (x : Phys) (cur now : Nat) : Phys :=
  { x with cur := cur, tgt := cur, reps := [], lastTgt := now, lastRaise := some now }

/-- Foehn is to quarantine a core: the contexts with chunks on it are saved first, as level 2, to be restored onto it (R402). DEDUCED: notes/assumptions/76. -/
def Dev.doom (d : Dev) (p : Nat) : Dev :=
  let d1 := d.mapPhys p (fun x => { x with doomed := true })
  match d1.logicalOf? p with
  | some n =>
    (((d1.chunks.filter (fun c => c.core == n)).map Chunk.ctx).eraseDups).foldl (fun d k =>
      (d.mapCtx k (fun c => { c with onto := n :: c.onto })).startSave k) d1
  | none => d1

/-- No chunk is left on a core that Foehn is to quarantine. DEDUCED: notes/assumptions/76. -/
def Dev.doomReady (d : Dev) (p : Nat) : Bool :=
  (d.phys? p).doomed &&
    match d.logicalOf? p with
    | some n => d.chunks.all (fun c => c.core ≠ n)
    | none => true

/-- STATE becomes 2, and the quarantine follows (R402). DEDUCED: notes/assumptions/76. -/
def Dev.doomEnd (d : Dev) (p : Nat) : Dev :=
  ((d.mapPhys p (fun x => { x with doomed := false, state := 2 })).quarantine p true).1

/-- What a replay does to the margin of a core: WCNT, the raises and the quarantine (R400, R401). `third` says that one
instance has been reported three times in a row. DEDUCED: notes/assumptions/73. -/
def Dev.countReplay (d : Dev) (p : Nat) (third : Bool) : Dev :=
  let d1 := d.mapPhys p (fun x => { x with reps := d.pcyc :: (x.reps.filter (fun t => d.pcyc < t + 100000) ++
      (x.reps.filter (fun t => t + 100000 ≤ d.pcyc)).take 2) })
  let x := d1.phys? p
  if x.doomed then d1
  else if x.cur = 0 then (if third || 5 ≤ d1.wcnt p then d1.doom p else d1)
  else if third then
    (d1.note (Who.nobody none) cReplayLimit (Detail.mk (d1.physDetail p 0).w0 (BitVec.ofNat 32 (d1.wcnt p * 2 ^ 5)) 0)).mapPhys p
      (fun x => x.raised 0 d.pcyc)
  else if 9 ≤ d1.wcnt p then
    (d1.note (Who.nobody none) cMarginEscalated (Detail.mk (d1.physDetail p 0).w0 (BitVec.ofNat 32 (x.cur - 1 + d1.wcnt p * 2 ^ 5)) 0)).mapPhys p
      (fun x => x.raised (x.cur - 1) d.pcyc)
  else d1

/-! ### Replay (R391 to R395) -/

/-- The instructions that execute in the side unit (R394, R433). DEDUCED: notes/assumptions/77. -/
def sideUnit : Instr → Bool
  | .barv .. | .bdrop .. | .bexp .. | .bexpMax .. | .baddb .. | .post .. | .rngd .. => true
  | .join .. | .joinRank .. | .joinT .. | .joinRankT .. | .leave .. | .eqtailRead .. => true
  | .sysr _ _ n => !(ownScope n.toNat)
  | .margin .. | .marginRd .. | .scan .. | .scanAbort .. | .quar .. | .haltc .. | .haltcRel .. => true
  | .snap .. | .ctxsv .. => true
  | _ => false

/-- The instruction a thread is about to issue. -/
def Dev.atPc (d : Dev) (t : Thread) : Option Instr :=
  match d.fetch t.ctx t.pc with
  | .word w => (decode w).toOption
  | .fails _ => none

/-- The module effect that a side-unit instruction has had when its replay turns out impossible; its threads keep their
state, since it does not retire (R394, R395). Every other side-unit effect lies in the context, which is discarded. DEDUCED: notes/assumptions/77. -/
def sideEffect (i : Instr) (s : State) : Host.Outcome State Fault Refusal :=
  match i with
  | .margin h p a b => execMargin h p a b s
  | .scan h p a => execScan h p a s
  | .scanAbort h p a => execScanAbort h p a s
  | .quar h p a => execQuar h p a s
  | .haltc h p a => execHaltc h p a s
  | .haltcRel h p a => execHaltcRel h p a s
  | .ctxsv h p a => execCtxsv h p a s
  | _ => .next s

/-- The operation that the side unit performs for an instruction (R394). -/
def sideRun (i : Instr) (s : State) : Host.Outcome State Fault Refusal :=
  match i with
  | .barv h m n => execBarv h m n s
  | .bdrop h m => execBdrop h m s
  | .bexp h m n => execBexp h m n s
  | .bexpMax h m n => execBexpMax h m n s
  | .baddb h m n => execBaddb h m n s
  | .post h a b => execPost h a b s
  | .rngd h f r => execRngd h f r s
  | .join h p a k => execJoin h p a k s
  | .joinRank h p a b k => execJoinRank h p a b k s
  | .joinT h p a k => execJoinT h p a k s
  | .joinRankT h p a b k => execJoinRankT h p a b k s
  | .leave h => execLeave h s
  | .eqtailRead h f => execEqtailRead h f s
  | .sysr h f n => execSysr h f n s
  | .marginRd h r a => execMarginRd h r a s
  | .snap h p k => execSnap h p k s
  | i => sideEffect i s

/-- The outcome of a side effect with the threads as they were. DEDUCED: notes/assumptions/77. -/
def keepThreads (s : State) (o : Host.Outcome State Fault Refusal) : State :=
  match o with
  | .next s' => { s' with dev := { s'.dev with threads := s.dev.threads } }
  | _ => s

/-- NONREPLAYABLE_TIMING: a record in the system queue and one in the context's, a save, and an image that may not be resumed
(R395). DEDUCED: notes/assumptions/77. -/
def Dev.nonreplayable (d : Dev) (p : Nat) (t : Thread) : Dev :=
  let r := Rec.plain (d.whoOf t) cNonreplayableTiming (d.physDetail p 0)
  (((d.sysRecord r).ctxRecord t.ctx r).mapCtx t.ctx (fun c => { c with noResume := true })).startSave t.ctx

/-- A thread issues its instruction again `w` cycles after the report, once the supply has settled; its age goes on as if these had not
passed (R62, R391). DEDUCED: notes/assumptions/74. -/
def Thread.replay (t : Thread) (n now w : Nat) : Thread :=
  { t with replays := n, wait := .settle (now + w), latches := [], since := t.since + w }

/-- An instruction that waits so is discarded by a report and issues again: it has done nothing yet that a second issue would repeat.
What has arrived at a rendezvous, or waits for a matrix instruction, a transfer or another module, has (R70, R396). DEDUCED: notes/assumptions/74. -/
def Wait.again : Wait → Bool
  | .none | .rendezvous | .remote _ | .transfer _ | .matrix _ | .matrixQueue _ | .settle _ => false
  | _ => true

/-- The threads of the instruction in whose stage a report on a thread falls: its issue group, if it is ready; those that wait with it, if
it waits so that it may issue again (R391). DEDUCED: notes/assumptions/74. -/
def Dev.reported (d : Dev) (t : Thread) : List Nat :=
  if !(d.mayIssue t) then []
  else if t.wait = .none then
    if d.pairReady t then
      let g := (d.withShadows (groupWith (d.readyOn t.core) t d.pcyc)).map Thread.uid
      if g.contains t.uid then g else (d.withShadows [t]).map Thread.uid
    else []
  else if t.wait.again then
    (d.threads.filter (fun x => x.core == t.core && x.ctx == t.ctx && x.pc == t.pc && x.wait == t.wait)).map Thread.uid
  else []

/-- A late transition in the instruction of some threads: it is discarded and issues again (R391, R401). DEDUCED: notes/assumptions/74. -/
def Dev.replay (d : Dev) (p : Nat) (t : Thread) (g : List Nat) : Dev :=
  let n := t.replays + 1
  let third := 3 ≤ n && (d.phys? p).cur ≠ 0
  let w := if third then Config.delay d.ctr % 2401 else 12
  (d.tick.mapUids g (fun x => x.replay n d.pcyc w)).countReplay p (3 ≤ n)

/-- A report that discards no instruction is counted; of a matrix instruction the step alone is repeated (R297, R391, R401). DEDUCED: notes/assumptions/74. -/
def Dev.countOnly (d : Dev) (p : Nat) (t : Thread) : Dev :=
  match t.wait with
  | .matrix n => (d.mapThreads (fun x => x.wait == .matrix n) (fun x => { x with replays := t.replays + 1 })).countReplay p (3 ≤ t.replays + 1)
  | _ => d.countReplay p false

/-- The side unit had performed the operation before the report: the replay receives the kept result 12 cycles later (R394, R396). DEDUCED: notes/assumptions/77. -/
def kept (s : State) (i : Instr) (p : Nat) (t : Thread) (g : List Nat) : Host.Outcome State Fault Refusal :=
  match sideRun i { s with dev := { s.dev.tick with cur := .group t.core g t.pc } } with
  | .next s1 =>
    onDev s1 (fun d => (d.mapUids g (fun x => { x with since := max x.since (s.dev.pcyc + 13) })).countReplay p (3 ≤ t.replays + 1))
  | o => o

/-- SHADOW_LATCH_REPORT (R391, R394, R395): a report in a stage that an instruction of a thread passed through. Whether the side unit has
performed an operation by then is a free choice. DEDUCED: notes/assumptions/74. DEDUCED: notes/assumptions/77. -/
def execShadowLatchReport (phys uid : Nat) (nonreplayable : Bool) (s : State) : Host.Outcome State Fault Refusal :=
  match (s.dev.thread? uid).map (fun t => (s.dev.thread? t.gangUid).getD t) with
  | none => .next s
  | some t =>
    if s.dev.physOf t.core ≠ phys then .next s
    else
      match s.dev.reported t, s.dev.atPc t with
      | [], _ => onDev s (fun d => d.countOnly phys t)
      | g, some i =>
        if sideUnit i && t.wait = .none && nonreplayable then
          onDev (keepThreads s (sideEffect i { s with dev := { s.dev with cur := .group t.core g t.pc } })) (fun d =>
            (d.countReplay phys (3 ≤ t.replays + 1)).nonreplayable phys t)
        else if sideUnit i && t.wait = .none && Config.pick s.dev.ctr % 2 = 1 then kept s i phys t g
        else onDev s (fun d => d.replay phys t g)
      | g, none => onDev s (fun d => d.replay phys t g)

/-- A thread's wait after a report is over. -/
def Thread.replayOver (t : Thread) (now : Nat) : Bool :=
  match t.wait with
  | .settle u => u ≤ now
  | _ => false

/-- The threads of a replay issue again. -/
def Dev.reissue (d : Dev) (p : Thread → Bool) : Dev :=
  d.mapThreads (fun t => p t && t.replayOver d.pcyc) (fun t => { t with wait := .none })

/-- REPLAY_REISSUE: 12 cycles after the report the group of a thread issues again (R391). -/
def execReplayReissue (uid : Nat) (s : State) : Host.Outcome State Fault Refusal :=
  onDev s (fun d =>
    match d.thread? uid with
    | some t => d.reissue (fun x => x.core == t.core && x.ctx == t.ctx && x.pc == t.pc)
    | none => d)

/-- SUPPLY_SETTLED: the fourth execution of a group whose core went to guaranteed margin issues (R401). -/
def execSupplySettled (phys : Nat) (s : State) : Host.Outcome State Fault Refusal :=
  onDev s (fun d => d.reissue (fun x => d.physOf x.core == phys && 3 ≤ x.replays))

/-! ### Foehn (R398, R399) -/

/-- A step of CUR is due: CUR and TGT differ, and 1,200 cycles have passed since the last step, or since they began to differ (R398). DEDUCED: notes/assumptions/75. -/
def Phys.stepDue (x : Phys) (now : Nat) : Bool := x.cur ≠ x.tgt && x.lastStep + 1200 ≤ now

/-- FOEHN_STEP: CUR moves one step towards TGT (R398). DEDUCED: notes/assumptions/75. -/
def execFoehnStep (phys : Nat) (s : State) : Host.Outcome State Fault Refusal :=
  onDev s (fun d =>
    if (d.phys? phys).stepDue d.pcyc then
      d.mapPhys phys (fun x => { x with cur := if x.cur < x.tgt then x.cur + 1 else x.cur - 1, lastStep := d.pcyc })
    else d)

/-- Since when WCNT has been at 2 or below, the last change of TGT and the last raise lie back (R399). -/
def Phys.calmSince (x : Phys) : Nat :=
  max (max x.lastTgt (x.lastRaise.getD 0)) (match x.reps[2]? with | some t => t + 100000 | none => 0)

/-- A deepening is due (R399). -/
def Dev.deepenDue (d : Dev) (p : Nat) : Bool :=
  let x := d.phys? p
  d.foehnSets p && x.tgt < x.ceil && x.calmSince + 12000000 ≤ d.pcyc &&
    (match x.lastRaise with | some t => t + 120000000 ≤ d.pcyc | none => true)

/-- FOEHN_DEEPEN: TGT deepens by one (R399). -/
def execFoehnDeepen (phys : Nat) (s : State) : Host.Outcome State Fault Refusal :=
  onDev s (fun d => if d.deepenDue phys then d.setTgt phys ((d.phys? phys).tgt + 1) else d)

/-! ### Scans and fills (R412 to R414) -/

/-- A scan run of a core ends with a signature (R412). -/
def Dev.scanEnds (d : Dev) (p : Nat) (sig : W64) : Dev :=
  let x := d.phys? p
  if x.scanEnd ≠ 0 && x.scanEnd ≤ d.pcyc && (x.state = 3 || x.state = 5) then
    let st := if x.state = 3 then x.prior else 5
    let d := d.wipeCore p
    if sig = KV.get d.scansig 0 p then d.mapPhys p (fun x => { x with scanEnd := 0, sres := 1, state := st })
    else
      let d1 := (d.mapPhys p (fun x => { x with scanEnd := 0, sres := 2, state := st })).physNote p cScanFail (lo32 sig).toNat
      if st = 4 || st = 5 then (d1.quarantine p false).1 else d1
  else d

/-- SCAN_RUN_END (R412). DESIGN CHOICE: notes/assumptions/78. -/
def execScanRunEnd (phys : Nat) (sig : W64) (s : State) : Host.Outcome State Fault Refusal := onDev s (fun d => d.scanEnds phys sig)

/-- SCAN_ABORTED: the run stops (R412). -/
def execScanAborted (phys : Nat) (s : State) : Host.Outcome State Fault Refusal :=
  onDev s (fun d =>
    let x := d.phys? phys
    if x.state = 3 && x.scanEnd = 0 then
      ((d.wipeCore phys).mapPhys phys (fun x => { x with sres := 3, state := x.prior })).physNote phys cScanAborted 0
    else d)

/-- The fill of a die that may start: the first, if none runs (R414). -/
def Dev.nextFill (d : Dev) (die : Nat) : Option Fill :=
  match d.fills.filter (fun f => dieOfPhys f.spare == die) with
  | f :: r => if (f :: r).any (fun f => f.started.isSome) then none else some f
  | [] => none

/-- FILL_START: the copy of a column into a spare begins, and with it a scan of the spare (R414). DEDUCED: notes/assumptions/79. -/
def Dev.fillStart (d : Dev) (die : Nat) : Dev :=
  match d.nextFill die with
  | none => d
  | some f =>
    let d1 : Dev := { d with fills := d.fills.map (fun g => if g.spare = f.spare then { g with started := some d.pcyc } else g) }
    let d2 := (d1.mapPhys f.spare (fun x => { x with sres := 0 })).scanBegin f.spare
    let run := (d2.phys? f.spare).scanEnd - d2.pcyc
    { d2 with
      agenda := insertEvent (d2.pcyc + run + Config.delay d2.ctr % (300001 - run)) (.fillComplete f.spare) d2.agenda
      ctr := d2.ctr + 1 }

/-- FILL_START (R414). -/
def execFillStart (die : Nat) (s : State) : Host.Outcome State Fault Refusal := onDev s (fun d => d.fillStart die)

/-- The array words of a logical core's column that have flipped bits, but for the log rows (R184, R414). -/
def Dev.columnWords (d : Dev) (n : Nat) : List Nat :=
  ((d.flips.map Prod.fst).eraseDups).filter (fun w => inTier1 (16 * w) && columnOf (16 * w) = n &&
    !(bitsOf (16 * w) 18 10 = 1011 && 123 ≤ bankOf (16 * w)))

/-- The copy of one word of a column: it reads what the array delivers, and writes that into the spare's column (R182, R414). -/
def Dev.copyWord (d : Dev) (w : Nat) : Dev :=
  let bs := (upTo 16).map (fun k => d.arrayByte (16 * w + k))
  let d1 := d.eccNote none true (16 * w) 16
  { d1 with
    mem := d1.mem.setBytes (16 * w) (bs.map Prod.fst)
    flips := d1.flips.filter (fun f => f.1 ≠ w)
    psn := ([0, 1]).foldl (fun l k => if (bs.drop (8 * k)).take 8 |>.any Prod.snd then NatSet.add l (2 * w + k) else l) d1.psn }

/-- The errors of the column above a spare: each is logged, and one that cannot be corrected quarantines the spare (R184, R414). -/
def Dev.spareBad (d : Dev) (p : Nat) : Bool := badWords (d.phys? p).flips ≠ []

/-- The errors of the column above a spare are logged. -/
def Dev.logSpare (d : Dev) (p : Nat) : Dev :=
  (((d.phys? p).flips.map Prod.fst).eraseDups).foldl (fun (d : Dev) w =>
    let bs := bitsAt (d.phys? p).flips w
    d.logPhys p (16 * w) (bs.headD 0) (bs.length ≠ 1) true) d

/-- FILL_COMPLETE: the copy is made, and the spare is halted and bound, and keeps FOR; after a quarantine by Foehn, Levante releases it
(R402, R414, R450). An uncorrectable error in the spare's column quarantines it. DEDUCED: notes/assumptions/79. -/
def Dev.fillDone (d : Dev) (p : Nat) : Dev :=
  match d.fills.find? (fun f => f.spare == p) with
  | some f =>
    if f.started.isSome && (d.phys? p).scanEnd = 0 && (d.phys? p).state = 5 then
      let d1 := d.logSpare p
      if d.spareBad p then (d1.quarantine p false).1
      else
        let d2 := (d1.columnWords f.logical).foldl (fun d w => d.copyWord w) d1
        { (d2.mapPhys p (fun x => { x with state := if f.foehn then 0 else 2, flips := [] })) with
          fills := d2.fills.filter (fun g => g.spare ≠ p)
          colPhys := KV.del d2.colPhys f.logical }
    else d
  | none => d

/-- FILL_COMPLETE (R414). -/
def execFillComplete (phys : Nat) (s : State) : Host.Outcome State Fault Refusal := onDev s (fun d => d.fillDone phys)

end Sys2Proof.Machine
end

