-- ==== Sys2Proof/Machine/HostSide.lean ====
section
/-! DEFINITION. The host's requests, the security core and bring-up (spec/01 R23 to R31, spec/15 R330 to R335, spec/16 R346
to R361, spec/23 R459 to R467). -/

namespace Sys2Proof.Machine

/-! ### HSTAT and answers (R465) -/

/-- HSTAT as the host reads it. -/
def HostSide.hstat (h : HostSide) : W64 :=
  BitVec.ofNat 64 (packFields [(0, 4, h.step), (4, 1, b2n h.ready), (5, 1, b2n h.imgfail), (8, 8, h.failimg)])

/-- The last request was answered so: 1 accepted, 2 ERROR or refused, 3 unsupported request. DESIGN CHOICE: notes/assumptions/111. -/
def HostSide.says (h : HostSide) (n : Nat) : HostSide := { h with answer := n }

/-- A request to Levante through the mailbox: discarded unless the link is up and READY is 1 (R459, R466). DEDUCED: notes/assumptions/112. -/
def onMail (s : State) (f : Dev → Dev × Bool) : Host.Outcome State Fault Refusal :=
  if s.host.up then
    let r := f s.dev
    .next { s with host := s.host.answers r.2, dev := r.1 }
  else .next s

/-! ### TDISP (R29, R349, R350, R461) -/

/-- The security core sets or clears LOCKED. -/
def Dev.setLocked (d : Dev) (p : Nat) (b : Bool) : Dev :=
  { d with partmode := KV.set d.partmode p ((d.mode p &&& 0xFF) ||| (if b then 0x100 else 0)) }

/-- A tenant's session is established. -/
def HostSide.inSession (h : HostSide) (k : Nat) : Bool := h.sessions.any (fun x => x.id == k && x.finished)

/-- The partition of whose tenant an established session is. -/
def HostSide.sessionPart (h : HostSide) (k : Nat) : Option Nat := (h.sessions.find? (fun x => x.id == k && x.finished)).map Session.part

/-- TDISP_LOCK: a partition's interface enters RUN, over the link and the keys of its tenant's session (R349). DEDUCED: notes/assumptions/112. -/
def execTdispLock (part : Nat) (s : State) : Host.Outcome State Fault Refusal :=
  onDev s (fun d => if part < 8 && s.host.up && s.host.sessions.any (fun x => x.finished && x.part == part) then d.setLocked part true else d)

/-- What becomes of a confidential context when its interface leaves RUN: a reset that leaves it empty, its frames zeroed, its
keys and stream table gone, its tags cleared (R350). DEDUCED: notes/assumptions/113. -/
def Dev.scrubCtx (d : Dev) (slot : Nat) : Dev :=
  let d1 := (d.mapCtx slot (fun c => { c with lastImage := none })).forceReset slot
  (d1.releaseFrames slot).mapCtx slot (fun c => { c with keys := [], snapKey := none, streams := [] })

/-- A partition's interface leaves RUN (R350). DEDUCED: notes/assumptions/113. -/
def Dev.unlock (d : Dev) (part : Nat) : Dev :=
  if (d.mode part).getLsbD 8 then
    let slots := (d.ctxs.filter (fun e => e.2.part == part && e.2.conf)).map Prod.fst
    (slots.foldl (fun d k => d.scrubCtx k) (d.setLocked part false)).note (Who.nobody none) cTdispUnlocked (detailOf part 0 0)
  else d

/-- TDISP_UNLOCKED (R350). DEDUCED: notes/assumptions/113. -/
def execTdispUnlocked (part : Nat) (s : State) : Host.Outcome State Fault Refusal := onDev s (fun d => d.unlock part)

/-- PCIE_HOT_RESET: every interface leaves RUN; the link is down until it trains again (R461). DEDUCED: notes/assumptions/113. -/
def execPcieHotReset (s : State) : Host.Outcome State Fault Refusal :=
  .next { s with host := { s.host with linkUp := false }, dev := (upTo 8).foldl (fun d p => d.unlock p) s.dev }

/-- PCIE_LINK_UP: the link trains again; before bring-up step 3 nothing answers (R461, R466). -/
def execPcieLinkUp (s : State) : Host.Outcome State Fault Refusal :=
  .next { s with host := if 3 ≤ s.host.step then { s.host with linkUp := true } else s.host }

/-! ### The mailbox (R459) -/

/-- Levante creates a context in a free slot. A confidential one needs a locked partition whose EQ_DRAIN is 0; another one is
given a snapshot key that the security core draws (R31, R144, R330, R349, R435). A memory key is drawn, and the root table holds no
entry (R334, R357). DEDUCED: notes/assumptions/118. DEDUCED: notes/assumptions/121. DESIGN CHOICE: notes/assumptions/127. -/
def Dev.createContext (d : Dev) (part ctxid : Nat) (conf : Bool) (members : List Nat) (vm plim root : Nat) (sgen : W64) : Dev × Bool :=
  match (upTo 64).find? (fun k => (d.ctx? k).isNone) with
  | none => (d, false)
  | some k =>
    let m := d.mode part
    if part < 8 && (!conf || (m.getLsbD 8 && !(m.getLsbD 3))) && plim % 4096 = 0 && 4096 ≤ plim && plim ≤ 16777216 &&
        d.tableFits none root 65536 && members.contains vm && members.all (fun v => v < 4096) then
      let c := { Ctx.new part (BitVec.ofNat 16 ctxid) conf members vm plim root sgen with
        memKey := Config.key d.ctr, snapKey := if conf then none else some (Config.key (d.ctr + 1)) }
      ({ (d.tick.tick.zeroTable root 65536) with ctxs := KV.set d.ctxs k c }, true)
    else (d, false)

/-- A context ends: its launches and chunks are gone, its frames are taken back, its slot is free (R24, R351). DEDUCED: notes/assumptions/118. -/
def Dev.destroyContext (d : Dev) (slot : Nat) : Dev × Bool :=
  match d.ctx? slot with
  | none => (d, false)
  | some c =>
    let d1 := (d.launches.filter (fun l => l.ctx == slot)).foldl (fun d l => d.endLaunch slot l.lid none .reset) d
    let d2 := (c.privMap.foldl (fun d e => d.zeroFrame e.2) (d1.evict slot)).releaseFrames slot
    ({ d2 with
      launches := d2.launches.filter (fun l => l.ctx ≠ slot)
      dies := d2.dies.map (fun x => { x with tasks := x.tasks.filter (fun t => t.ctx ≠ slot) })
      ctxs := KV.del d2.ctxs slot }, true)

/-- A launch of the context holds a lease. -/
def Dev.leasing (d : Dev) (slot : Nat) : Bool := d.launches.any (fun l => l.ctx == slot && (l.state.holds || l.state == .leasing))

/-- What Levante does for a request; the answer is whether it was accepted. DESIGN CHOICE: notes/assumptions/78. DEDUCED: notes/assumptions/118. -/
def Dev.mail (d : Dev) (r : MailReq) : Dev × Bool :=
  let inCtx := fun (k : Nat) (ok : Ctx → Bool) (f : Ctx → Ctx) =>
    match d.ctx? k with
    | some c => if ok c then (d.mapCtx k f, true) else (d, false)
    | none => (d, false)
  let known := fun (k : Nat) (f : Dev → Dev) => if (d.ctx? k).isSome then (f d, true) else (d, false)
  match r with
  | .createContext part ctxid conf members vm plim root sgen => d.createContext part ctxid conf members vm plim root sgen
  | .destroyContext slot => d.destroyContext slot
  | .setImage slot a n ro m =>
    inCtx slot (fun _ => !(d.leasing slot)) (fun c => { c with code := (a, n), ro := (ro, m) })
  -- from 1 µs to 10 ms (R98)
  | .setDrain part n => if part < 8 && 1200 ≤ n && n ≤ 12000000 then ({ d with drain := KV.set d.drain part n }, true) else (d, false)
  -- in tier 3, in no page and no frame of a context (R334, R430)
  | .setImageArea slot k pa =>
    inCtx slot (fun _ => k < 2 && (tier3Port pa).isSome && d.ctxs.all (fun e =>
        (e.2.pages d.readMem).all (fun p => !(meets pa 256 p.pa p.size))) && !(d.ownedIn pa 256 (fun _ => true)))
      (fun c => { c with areas := mapAt c.areas k (fun _ => some pa) })
  -- with EQ_DRAIN = 1 (R31, R382)
  | .moveEqHead slot h =>
    match d.ctx? slot with
    | some c =>
      if (d.mode c.part).getLsbD 3 && !c.conf && (h - c.regs.eqhead).toNat ≤ (c.regs.eqtail - c.regs.eqhead).toNat then
        (d.setEqhead slot h, true)
      else (d, false)
    | none => (d, false)
  -- with MARGIN_POL = 1 (R397, R399)
  | .setTgt p n => if 543 < p || d.foehnSets p || 24 < n then (d, false) else (d.setTgt p (min n (d.phys? p).ceil), true)
  | .orderSave slot => known slot (fun d => d.startSave slot)
  | .orderReset slot => known slot (fun d => d.forceReset slot)
  -- the next CTXLD.IMG into the slot is a re-run (R444)
  | .orderRerun slot => inCtx slot (fun c => d.slotEmpty slot c) (fun c => { c with rerun := true })
  -- a member that leaves aborts every live snapshot (R429)
  | .setMembers slot ms =>
    match d.ctx? slot with
    | some c =>
      if ms.contains c.vm && ms.all (fun v => v < 4096) then
        let d1 := if c.members.all (fun v => ms.contains v) then d else d.abortSnaps slot
        (d1.mapCtx slot (fun c => { c with members := ms }), true)
      else (d, false)
    | none => (d, false)
  | .readQueueHead slot => (d, (d.ctx? slot).isSome)
  -- the core has no chunk bound (R23)
  | .assignCore n part =>
    if n < 512 && part < 8 && !(d.chunks.any (fun c => c.core == n)) then ({ d with corePart := KV.set d.corePart n part }, true) else (d, false)
  -- the host reads an error log (R184)
  | .readLog p _ => (d, p < 544)
  -- with SCAN_SCHED = 1 the host schedules scans (R29, R412)
  | .orderScan p =>
    if p < 544 && (((d.logicalOf? p).map (fun n => (d.mode (d.partOf n)).getLsbD 5)).getD true) && ((d.phys? p).state = 2 || (d.phys? p).state = 4) then
      ((d.mapPhys p (fun x => { x with prior := x.state, state := 3, sres := 0 })).scanBegin p, true)
    else (d, false)
  | .queueRecord slot raw fps => inCtx slot (fun _ => true) (fun c => { c with ring := c.ring ++ [(raw, fps)] })

/-- The entries of an error log in the order of the places of its ring, where entry number n has place n modulo 256 (R184, R419). -/
def ringLayout (cnt : Nat) (l : List LogEntry) : List LogEntry :=
  if cnt < 256 then l else l.drop (256 - cnt % 256) ++ l.take (256 - cnt % 256)

/-- What a request returns to the host beside the answer: a launch queue's head (R461); an error log, its count first (R184). -/
def Dev.mailData (d : Dev) (r : MailReq) : List Byte :=
  match r with
  | .readQueueHead slot => ((d.ctx? slot).map (fun c => leBytes 4 c.head)).getD []
  | .readLog p bus =>
    let x := d.phys? p
    if bus then leBytes 4 x.busCnt ++ (ringLayout x.busCnt x.busLog).flatMap (fun e => leBytes 16 e.toNat)
    else leBytes 4 x.arrayCnt ++ (ringLayout x.arrayCnt x.arrayLog).flatMap (fun e => leBytes 16 e.toNat)
  | _ => []

/-- MAILBOX_REQUEST (R459). -/
def execMailboxRequest (r : MailReq) (s : State) : Host.Outcome State Fault Refusal :=
  onMail { s with host := if s.host.up then { s.host with readData := s.dev.mailData r } else s.host } (fun d => d.mail r)

/-- PARTMODE_REQUEST: Levante applies a host's mode change at an idle point (R30). -/
def execPartmodeRequest (part : Nat) (val : W64) (s : State) : Host.Outcome State Fault Refusal :=
  onMail s (fun d => if part < 8 then (d.setMode part val, d.partIdle part && !((d.mode part).getLsbD 8)) else (d, false))

/-! ### Page tables (R331 to R335, R351) -/

/-- A held lease, or the error ring, reaches the range that an entry maps (R334, R382). DEDUCED: notes/assumptions/115. -/
def Dev.pinned (d : Dev) (slot : Nat) (c : Ctx) (va n : Nat) : Bool :=
  meets va n c.regs.eqbase.toNat (64 * c.regs.eqsize.toNat) ||
    d.launches.any (fun l => l.ctx == slot && l.state.holds &&
      (l.ranges.map (fun r => (r.base.toNat, r.len)) ++ [c.code, c.ro]).any (fun r => meets va n r.1 r.2))

/-- What a request may not change of a pinned entry (R334): of a leaf everything but TIER and EPOCH, since a reserved bit that is set
makes it invalid; of another entry everything. DEDUCED: notes/assumptions/115. -/
def pinMask (old : W64) : W64 := if old.getLsbD 1 then 0x0000FFFFFFFFFCFF else BitVec.allOnes 64

/-- The size of a table that an entry of a level names (R331). -/
def tableSize (level : Nat) : Nat := if level = 0 then 0 else 8 * 2 ^ (levelShift (level - 1)).2

/-- Levante does not map an entry: a leaf that shows a context shadow storage, a page table or as its own a frame of another context, or
an owned page in tier 3 without a snapshot key; a table outside tier 2, or where something else lies (R28, R334, R335, R356). DEDUCED: notes/assumptions/115. -/
def Dev.refusesEntry (d : Dev) (slot : Nat) (c : Ctx) (level : Nat) (e : W64) : Bool :=
  let pa := bitsOf e.toNat 16 32 * 65536
  let n := 2 ^ (levelShift level).1
  if !(e.getLsbD 0) then false
  else if e.getLsbD 1 then
    inShadow pa n || d.touchesTable pa n ||
      (e.getLsbD 6 && c.conf && (d.ownedIn pa n (fun o => o ≠ slot) || ((tier3Port pa).isSome && c.snapKey.isNone)))
  else !(nodeBad e.toNat level) && !(d.tableFits (some slot) (bitsOf e.toNat 8 40 * 256) (tableSize level))

/-- The frames that a leaf of a level gives to a context as its own. -/
def ownedBy (slot : Nat) (c : Ctx) (level : Nat) (e : W64) : List Nat :=
  if e.getLsbD 0 && e.getLsbD 1 && e.getLsbD 6 && c.conf && bitsOf e.toNat 10 6 = slot && !(leafBad e.toNat level) then
    framesOf (bitsOf e.toNat 16 32 * 65536) (2 ^ (levelShift level).1)
  else []

/-- A frame is still mapped in a context. DEDUCED: notes/assumptions/114. -/
def Dev.stillMapped (d : Dev) (c : Ctx) (f : Nat) : Bool := (c.pages d.readMem).any (fun p => meets p.pa p.size (f * 65536) 65536)

/-- A table that an entry newly names holds no entry yet (R334). DEDUCED: notes/assumptions/115. -/
def Dev.newTable (d : Dev) (c : Ctx) (level : Nat) (e : W64) : Dev :=
  let pa := bitsOf e.toNat 8 40 * 256
  if e.getLsbD 0 && !(e.getLsbD 1) && !(nodeBad e.toNat level) && !((d.tablesOf c).any (fun t => t.1 == pa)) then d.zeroTable pa (tableSize level)
  else d

/-- Levante writes a page-table entry for the host: refused where a held lease pins it and it would change; frames that the
context comes to own are zeroed and tagged first, and those it gives up are zeroed and cleared (R334, R351). -/
def Dev.writeEntry (d : Dev) (slot : Nat) (va : W64) (level : Nat) (e : W64) : Dev × Bool :=
  match d.ctx? slot with
  | none => (d, false)
  | some c =>
    match entryAt d.readMem va.toNat level 4 c.root with
    | none => (d, false)
    | some ea =>
      let old : W64 := BitVec.ofNat 64 (d.readMem.getLE ea 8)
      let size := 2 ^ (levelShift level).1
      let a := va.toNat / size * size
      if (d.pinned slot c a size && old.getLsbD 0 && ((old ^^^ e) &&& pinMask old) ≠ 0) || d.refusesEntry slot c level e then (d, false)
      else
        let gain := ownedBy slot c level e
        let d1 := gain.foldl (fun d f => d.ownFrame slot f) (d.newTable c level e)
        let d2 := d1.setEntry ea e.toNat
        let lose := (ownedBy slot c level old).filter (fun f => !(d2.stillMapped c f))
        (lose.foldl (fun d f => d.releaseFrame f) d2, true)

/-- What leaves the module when the host moves an owned page out under RESIDENCY = 1, clearing its P: its lines, sealed (R351). DEDUCED: notes/assumptions/117. -/
def Dev.pageOut (d : Dev) (slot : Nat) (va : W64) (level : Nat) (e : W64) : List Byte :=
  match d.ctx? slot with
  | none => []
  | some c =>
    match d.leaf? c va.toNat with
    | none => []
    | some l =>
      if l.p && l.conf && l.owner = slot && l.level = level && !(e.getLsbD 5) && d.hostResidency c.part then
        let size := 2 ^ (levelShift level).1
        (upTo (size / 64)).flatMap (fun k => d.sealedLine c.memKey ((l.pa - l.pa % size) / 64 + k))
      else []

/-- PAGE_TABLE_REQUEST (R334, R351). -/
def execPageTableRequest (slot : Nat) (va : W64) (level : Nat) (entry : W64) (s : State) : Host.Outcome State Fault Refusal :=
  let out := s.dev.pageOut slot va level entry
  onMail (if s.host.up && out ≠ [] && (s.dev.writeEntry slot va level entry).2 then { s with host := { s.host with readData := out } } else s)
    (fun d => d.writeEntry slot va level entry)

/-! ### BAR 2–3 (R459, R460) -/

/-- A host access through BAR 2–3 completes: it lies in tier 2 and reaches no owned frame and no page table. -/
def Dev.barOk (d : Dev) (off n : Nat) : Bool :=
  off + n ≤ 0xC000000000 &&
    (let pa := 0x10000000000 + off
     !(d.owners.any (fun o => meets pa n (o.1 * 65536) 65536)) && !(d.touchesTable pa n))

/-- BAR_ACCESS: a read returns bytes, as the host may see them, and what the arrays correct is recorded; a write stores them, and has no
effect yet while staging has no room for what it would change (R421); refused ones are unsupported requests (R114, R182, R459, R460). For
a read the data say how many bytes. DEDUCED: notes/assumptions/99. -/
def execBarAccess (write : Bool) (off : Nat) (data : List Byte) (s : State) : Host.Outcome State Fault Refusal :=
  if s.host.up then
    if s.dev.barOk off data.length then
      if write then
        if (granulesOf (0x10000000000 + off) data.length).any s.dev.stagingStall then .next s
        else .next { s with host := s.host.says 1, dev := s.dev.writePhys (.plain [.host]) (0x10000000000 + off) data false }
      else
        let pa := 0x10000000000 + off
        .next { host := { s.host with answer := 1, readData := (s.dev.readAs [.host] pa data.length).1 }
                dev := ((s.dev.sawAs [.host] pa data.length).tick).eccNote none true pa data.length }
    else .next { s with host := s.host.says 3 }
  else .next s

/-! ### SPDM (R346 to R348) -/

/-- The signatures that the XMSS key makes. -/
def xmssMax : Nat := 1048576

/-- The responder answers over its transport once bring-up step 3 has completed (R466). -/
def HostSide.spdmUp (h : HostSide) : Bool := h.linkUp && 3 ≤ h.step

/-- A request that needs the connection's first three exchanges; an accepted one returns data. DESIGN CHOICE: notes/assumptions/111. -/
def HostSide.talk (h : HostSide) (ok : Bool) (data : List Byte) : HostSide :=
  if 3 ≤ h.spdm && ok then { h with answer := 1, readData := data } else h.says 2

/-- The identity seed from which the security core has its key pair (R346). -/
def HostSide.identity (h : HostSide) : BitVec 256 := h.seed.getD 0

/-- The certificate chain: it certifies the public root of the key pair that the seed gives (R346, R348). -/
def HostSide.chain (h : HostSide) : List Byte := Config.certChain (Config.xmssRoot h.identity)

/-- A measurement block (R348): the images as bring-up measured them; SHA-384 over LCMAP and the quarantine list; PARTMODE, of one partition
or of all. DESIGN CHOICE: notes/assumptions/144. -/
def Dev.measurement (d : Dev) (block : Nat) (part : Option Nat) : List Byte :=
  match block with
  | 3 =>
    sha384 ((upTo 512).flatMap (fun n => leBytes 2 (d.physOf n)) ++
      ((upTo 544).filter (fun p => (d.phys? p).state = 6)).flatMap (fun p => leBytes 2 p))
  | 4 => (match part with | some p => [p] | none => upTo 8).flatMap (fun p => leBytes 8 (d.mode p).toNat)
  | k => Config.measure k

/-- One more signature: the index advances first; after the last, ERROR and a record; when fewer than 4,096 are left, one
record of severity notice (R347, R381). The signature follows what it signs. DEDUCED: notes/assumptions/110. DEDUCED: notes/assumptions/129. DESIGN CHOICE: notes/assumptions/144. -/
def State.sign (s : State) (msg : List Byte) (f : HostSide → HostSide) : State :=
  let note := fun (d : Dev) (sev left : Nat) =>
    d.record { Rec.plain (Who.nobody none) cAttestationState (detailOf left 0 0) with sev := sev }
  if xmssMax ≤ s.host.xmss then { s with host := s.host.says 2, dev := note s.dev 3 0 }
  else
    let h := { f s.host with xmss := s.host.xmss + 1, answer := 1, readData := msg ++ Config.xmssSign s.host.identity s.host.xmss msg }
    let left := xmssMax - h.xmss
    if left < 4096 && !s.host.warned then { s with host := { h with warned := true }, dev := note s.dev 1 left }
    else { s with host := h }

/-- A request that gets an answer without a signature. -/
def onSpdm (s : State) (f : HostSide → HostSide) : Host.Outcome State Fault Refusal :=
  .next { s with host := if s.host.spdmUp then f s.host else s.host }

/-- A request whose answer is signed. -/
def onSign (s : State) (ok : Bool) (msg : List Byte) (f : HostSide → HostSide) : Host.Outcome State Fault Refusal :=
  if s.host.spdmUp then
    if 3 ≤ s.host.spdm && ok then .next (s.sign msg f) else .next { s with host := s.host.says 2 }
  else .next s

/-- GET_VERSION: the first exchange of a connection; a new one starts it again. PRESUMED: notes/assumptions/109. -/
def execGetVersion (s : State) : Host.Outcome State Fault Refusal := onSpdm s (fun h => { h with spdm := 1, answer := 1 })

/-- GET_CAPABILITIES: the second exchange. PRESUMED: notes/assumptions/109. -/
def execGetCapabilities (s : State) : Host.Outcome State Fault Refusal :=
  onSpdm s (fun h => if h.spdm = 1 then { h with spdm := 2, answer := 1 } else h.says 2)

/-- NEGOTIATE_ALGORITHMS: the third exchange; the answer announces SHA-384, XMSS, ECDH on P-384 and AES-256-GCM (R348). PRESUMED: notes/assumptions/109. DESIGN CHOICE: notes/assumptions/144. -/
def execNegotiateAlgorithms (s : State) : Host.Outcome State Fault Refusal :=
  onSpdm s (fun h => if h.spdm = 2 then { h with spdm := 3, answer := 1, readData := Config.algorithms } else h.says 2)

/-- GET_DIGESTS: SHA-384 of the certificate chain (R348). -/
def execGetDigests (s : State) : Host.Outcome State Fault Refusal :=
  onSpdm s (fun h => h.talk true (sha384 h.chain))

/-- GET_CERTIFICATE: one slot exists; it holds the chain to the device certificate (R346, R348). -/
def execGetCertificate (slot : Nat) (s : State) : Host.Outcome State Fault Refusal :=
  onSpdm s (fun h => h.talk (slot = 0) h.chain)

/-- CHALLENGE: the answer is signed. PRESUMED: notes/assumptions/109. -/
def execChallenge (s : State) : Host.Outcome State Fault Refusal := onSign s true (sha384 s.host.chain) id

/-- GET_MEASUREMENTS of block 0 to 4: signed, but within an established session authenticated by MAC (R347, R348). DEDUCED: notes/assumptions/110. -/
def execGetMeasurements (r : MeasureReq) (s : State) : Host.Outcome State Fault Refusal :=
  match r.session with
  | none => onSign s (r.block < 5) (s.dev.measurement r.block none) id
  | some k => onSpdm s (fun h => h.talk (r.block < 5 && (h.sessionPart k).isSome) (s.dev.measurement r.block (h.sessionPart k)))

/-- KEY_EXCHANGE: a session with the tenant of a partition begins; the answer holds the module's ephemeral point on P-384, with one
signature (R347, R348). DEDUCED: notes/assumptions/110. DESIGN CHOICE: notes/assumptions/144. -/
def execKeyExchange (r : SessionReq) (s : State) : Host.Outcome State Fault Refusal :=
  onSign { s with dev := s.dev.tick } (r.part < 8 && !(s.host.sessions.any (fun x => x.id == r.session))) (Config.ecdhPoint s.dev.ctr)
    (fun h => { h with sessions := h.sessions ++ [{ id := r.session, part := r.part, finished := false }] })

/-- FINISH: the session is established. -/
def execFinish (session : Nat) (s : State) : Host.Outcome State Fault Refusal :=
  onSpdm s (fun h =>
    if h.sessions.any (fun x => x.id == session && !x.finished) then
      { h with answer := 1, sessions := h.sessions.map (fun x => if x.id = session then { x with finished := true } else x) }
    else h.says 2)

/-- END_SESSION. -/
def execEndSession (session : Nat) (s : State) : Host.Outcome State Fault Refusal :=
  onSpdm s (fun h =>
    if h.inSession session then { h with answer := 1, sessions := h.sessions.filter (fun x => x.id ≠ session) } else h.says 2)

/-- HEARTBEAT. -/
def execHeartbeat (session : Nat) (s : State) : Host.Outcome State Fault Refusal :=
  onSpdm s (fun h => h.says (if h.inSession session then 1 else 2))

/-- Any other request: UnsupportedRequest. -/
def execUnsupportedRequest (s : State) : Host.Outcome State Fault Refusal := onSpdm s (fun h => h.says 3)

/-! ### Keys (R352, R353, R357, R360) -/

/-- A slot of a confidential context of a locked partition takes a key; the slot's stream entries go (R349, R352, R353). -/
def Dev.loadKey (d : Dev) (slot ks : Nat) (key : BitVec 256) : Dev × Bool :=
  match d.ctx? slot with
  | some c =>
    if c.conf && !(d.unlocked c) && ks < 32 then
      (d.mapCtx slot (fun c =>
        { c with
          snapKey := if ks = 0 then some key else c.snapKey
          keys := if ks = 0 then c.keys else KV.set c.keys ks key
          streams := c.streams.filter (fun e => e.1 ≠ ks) }), true)
    else (d, false)
  | none => (d, false)

/-- KEY_LOAD: a vendor-defined request in the session of the tenant of the context's partition (R352). -/
def execKeyLoad (session slot ks : Nat) (key : BitVec 256) (s : State) : Host.Outcome State Fault Refusal :=
  if s.host.spdmUp then
    if s.host.inSession session && (s.dev.ctx? slot).map Ctx.part == s.host.sessionPart session then
      let r := s.dev.loadKey slot ks key
      .next { s with host := s.host.answers r.2, dev := r.1 }
    else .next { s with host := s.host.says 2 }
  else .next s

/-- PEER_KEY_EXCHANGE: an SPDM session of two members, over Jartus or, with KEY_EXCH = 1, relayed by the host, gives the secret from which
their channel keys are derived; a further exchange starts a new key epoch. The peer may hand over the snapshot key of a context that
has none (R29, R359, R360). DESIGN CHOICE: notes/assumptions/142. -/
def execPeerKeyExchange (slot : Nat) (other : PeerEnd) (s : State) : Host.Outcome State Fault Refusal :=
  onDev s (fun d =>
    match d.ctx? slot with
    | some c =>
      if c.conf && c.others.contains other.peer && (d.mode c.part).getLsbD 7 == other.relayed then
        let (n, d1) := d.newId
        (d1.mapChan slot other.peer (fun x => { x with key := some n, keyEpoch := if x.key.isSome then x.keyEpoch + 1 else x.keyEpoch })).mapCtx slot
          (fun c => { c with snapKey := match c.snapKey with | some k => some k | none => other.snapKey })
      else d
    | none => d)

/-- TIER3_TAG_FAIL: the memory behind a CXL port alters a sealed line of an owned frame, so that its tag fails; its reads are delivered
poisoned, and record it (R357). DEDUCED: notes/assumptions/117. -/
def execTier3TagFail (slot : Nat) (pa : Nat) (s : State) : Host.Outcome State Fault Refusal :=
  onDev s (fun d =>
    if (tier3Port pa).isSome && d.ownerOf pa = some slot then { d with badTags := NatSet.add d.badTags (pa / 64) } else d)

/-! ### Bring-up (R465 to R467) -/

/-- The configuration image's core map serves: distinct cores of the right die, none on the quarantine list. DEDUCED: notes/assumptions/116. -/
def imageMapOk : Bool :=
  let m := (upTo 512).map Config.imageMap
  m.eraseDups.length = 512 &&
    (upTo 512).all (fun n => dieOfPhys (Config.imageMap n) = n / 128 && Config.imageMap n < 544 && !(Config.imageQuarantined (Config.imageMap n)))

/-- Step 4: the image's core map and quarantine list, tier 1 and tier 2 zeroed, the logs cleared. DEDUCED: notes/assumptions/116. -/
def Dev.bootCores (d : Dev) : Dev :=
  let lc := if imageMapOk then (upTo 512).map (fun n => (n, Config.imageMap n)) else []
  let used := (upTo 512).map (fun n => KV.get lc (lcmapReset n) n)
  { d with
    mem := d.mem.zero 0 0x1C000000000
    psn := d.psn.filter (fun w => 0x1C000000000 ≤ 8 * w)
    caches := Caches.empty
    flips := d.flips.filter (fun f => 0x1C000000000 ≤ 16 * f.1)
    lcmap := lc
    phys := (upTo 544).map (fun p =>
      (p, { Phys.reset p with
        state := if Config.imageQuarantined p && imageMapOk then 6 else if used.contains p then 0 else 4
        stuck := (d.phys? p).stuck })) }

/-- Step 5 for one core: a scan, and the quarantine of a core that fails. DESIGN CHOICE: notes/assumptions/78. DEDUCED: notes/assumptions/116. -/
def Dev.bootScan (d : Dev) (p : Nat) : Dev :=
  let x := d.phys? p
  if x.state = 6 then d
  else
    let sig := Config.signature d.ctr
    if sig = KV.get d.scansig 0 p then d.tick.mapPhys p (fun x => { x with sres := 1 })
    else
      let d1 := (d.tick.mapPhys p (fun x => { x with sres := 2 })).physNote p cScanFail (lo32 sig).toNat
      ((if x.state = 0 then d1.mapPhys p (fun x => { x with state := 2 }) else d1).quarantine p true).1

/-- Steps 6 and 8 on the device: the CXL ports with a device; partitions, modes and drain deadlines of the image. DEDUCED: notes/assumptions/116. -/
def Dev.bootImage (d : Dev) : Dev :=
  { d with
    partmode := (upTo 8).map (fun p => (p, Config.imagePartmode p &&& 0xFF))
    drain := (upTo 8).map (fun p => (p, max 1200 (min 12000000 (Config.imageDrain p))))
    corePart := (upTo 512).map (fun n => (n, Config.imagePart n % 8)) }

/-- Bring-up goes on. -/
def HostSide.booting (h : HostSide) : Bool := !h.ready && !h.imgfail

/-- What the device does in a bring-up step. DESIGN CHOICE: notes/assumptions/1. -/
def Dev.bootStep (d : Dev) (k : Nat) : Dev :=
  match k with
  | 4 => d.bootCores
  | 5 => (upTo 544).foldl (fun d p => d.bootScan p) d
  | 6 => { d with cxl := (upTo 2).filter (fun p => Config.cxlPresent p) }
  | 8 => d.bootImage
  | _ => d

/-- The next bring-up step on the host side: at step 2 the security core derives its seed, and a failing image stops the boot, at step 3 the link trains, at step 8
READY becomes 1 (R466). -/
def HostSide.bootStep (h : HostSide) : HostSide :=
  if h.step = 1 && Config.badImage % 4 ≠ 0 then { h with imgfail := true, failimg := Config.badImage % 4, seed := some Config.pufSeed }
  else if h.step = 1 then { h with step := 2, seed := some Config.pufSeed }
  else if h.step = 2 then { h with step := 3, linkUp := true }
  else if h.step = 7 then { h with step := 8, ready := true }
  else { h with step := h.step + 1 }

/-- The memory behind the CXL ports as a reset leaves it: the lines of owned frames stand there as they were sealed (R345, R357). -/
def Dev.sealedMem (d : Dev) : Memory :=
  (d.owners.filter (fun o => (tier3Port (o.1 * 65536)).isSome)).foldl (fun (m : Memory) o =>
    match d.ctx? o.2 with
    | some c => (upTo 1024).foldl (fun (m : Memory) k => m.setBytes (o.1 * 65536 + 64 * k) (d.sealedLine c.memKey (o.1 * 1024 + k))) m
    | none => m) d.mem

/-- The machine as a reset leaves it: only the signature index and the memories behind the CXL ports outlive it (R347). DESIGN CHOICE: notes/assumptions/1. DEDUCED: notes/assumptions/6. -/
def State.restart (s : State) : State :=
  { host := { HostSide.reset with xmss := s.host.xmss, warned := s.host.warned }
    dev := { Dev.reset with
      ctr := s.dev.ctr
      fresh := s.dev.fresh
      mem := s.dev.sealedMem
      psn := s.dev.psn
      flips := s.dev.flips
      badTags := s.dev.badTags
      images := s.dev.images
      phys := s.dev.phys.filterMap (fun e => if e.2.stuck = [] then none else some (e.1, { Phys.reset e.1 with stuck := e.2.stuck })) } }

/-- MODULE_RESET: a reset begins, or, while bring-up runs, its next step completes (R466). DEDUCED: notes/assumptions/6. -/
def execModuleReset (s : State) : Host.Outcome State Fault Refusal :=
  if s.host.booting && s.host.step < 8 then
    .next { host := s.host.bootStep, dev := if s.host.bootStep.imgfail then s.dev else s.dev.bootStep s.host.bootStep.step }
  else .next s.restart

end Sys2Proof.Machine
end

