-- ==== Sys2Proof/Machine/IntAlu.lean ====
section
/-! DEFINITION. The integer and gang-scalar instructions (spec/10 R239 to R251). -/

namespace Sys2Proof.Machine

/-! ### Operations (R240 to R249) -/

/-- PD of IADD and ISUB (R240). -/
def carryPred (ty : Ty) (sub : Bool) (pd : Option PReg) : Option PredFn :=
  pd.map (fun p => { p := p, f := fun s => if sub then borrowOut s.a s.b else carryOut ty.width s.a s.b })

/-- A shift or rotate by the low 8 bits of the amount (R241). -/
def shiftFn (w : Nat) (op : Nat → Nat → Nat) : AluFn := AluFn.raw w (fun s => op s.a (s.b % 256))

/-- SHL (R241). -/
def shlOp (w a n : Nat) : Nat := if n < w then a * 2 ^ n % 2 ^ w else 0
/-- SHR (R241). -/
def shrOp (w a n : Nat) : Nat := if n < w then a / 2 ^ n else 0
/-- SAR (R241). -/
def sarOp (w a n : Nat) : Nat := wrapInt w ((elemInt true w a).shiftRight (min n w))
/-- ROL (R241). -/
def rolOp (w a n : Nat) : Nat := (a * 2 ^ (n % w) % 2 ^ w) + a / 2 ^ (w - n % w)

/-- The number of one bits (R242). -/
def popCount (x : Nat) : Nat := ((upTo 64).filter (fun k => bitOf x k)).length
/-- Leading zeros of w bits (R242). -/
def clzOp (w x : Nat) : Nat := w - bitLen x
/-- The bits of w bits reversed (R242). -/
def brevOp (w x : Nat) : Nat := (upTo w).foldl (fun y k => if bitOf x k then y + 2 ^ (w - 1 - k) else y) 0

/-- Position and length of BFX and BFI, from SUB or from a register value (R243). -/
def fieldOf (f : Field) (x : Nat) : Nat × Nat :=
  match f with
  | .imm pos len => (pos.toNat, len.toNat)
  | .reg _ => (x % 256, x / 256 % 256)

/-- The register of a field, as an operand. -/
def fieldOpd (f : Field) : Opd :=
  match f with
  | .imm _ _ => .none
  | .reg r => opdOf false r

/-- The effective length (R243). -/
def fieldLen (w pos len : Nat) : Nat := if pos ≥ w then 0 else min len (w - pos)

/-- BFX (R243). -/
def bfxOp (signed : Bool) (w a pos len : Nat) : Nat :=
  let n := fieldLen w pos len
  let f := a / 2 ^ pos % 2 ^ n
  if n = 0 then 0 else if signed then wrapInt w (elemInt true n f) else f

/-- BFI (R243). -/
def bfiOp (w a b pos len : Nat) : Nat :=
  let n := fieldLen w pos len
  if n = 0 then b else b % 2 ^ pos + a % 2 ^ n * 2 ^ pos + b / 2 ^ (pos + n) * 2 ^ (pos + n)

/-- SEL: byte k of A where bit k of the selector is one, else of B (R245). -/
def selOp (n : Nat) (m : Byte) (a b : Nat) : Nat :=
  (upTo n).foldl (fun x k => x + (if m.getLsbD k then elemOf 8 k a else elemOf 8 k b) * 2 ^ (8 * k)) 0

/-- IDOT4 (R248). -/
def idot4Op (as bs : Bool) (a b c : Nat) : Nat :=
  wrapInt 32 ((upTo 4).foldl (fun x k => x + elemInt as 8 (elemOf 8 k a) * elemInt bs 8 (elemOf 8 k b)) (c : Int))

/-- The pool byte of PRMT (R249). -/
def poolByte (a b k : Nat) : Nat := if k < 4 then elemOf 8 k a else elemOf 8 (k - 4) b

/-- PRMT with immediate picks (R249). -/
def prmtOp (sel a b : Nat) : Nat :=
  (upTo 4).foldl (fun x k => x + poolByte a b (bitsOf sel (3 * k) 3) * 2 ^ (8 * k)) 0

/-- One byte of PRMT.CTL (R249). -/
def prmtByte (a b ctl : Nat) : Nat :=
  let x := poolByte a b (ctl % 8)
  let y := match bitsOf ctl 3 2 with
    | 0 => x
    | 1 => 0
    | 2 => if bitOf x 7 then 0xFF else 0
    | _ => 0xFF
  if bitOf ctl 5 then brevOp 8 y else y

/-- PRMT with a control register (R249). -/
def prmtCtlOp (a b c : Nat) : Nat :=
  (upTo 4).foldl (fun x k => x + prmtByte a b (elemOf 8 k c) * 2 ^ (8 * k)) 0

/-! ### Meanings -/

/-- IADD (R240). -/
def execIadd (h : Hd) (ty : Ty) (v : Ov) (d : Dst) (a : Src) (b : SrcI) (pd : Option PReg) (s : State) :
    Host.Outcome State Fault Refusal :=
  onDev s (fun x => x.alu (.iadd h ty v d a b pd) h d ty.wide (opdOf ty.wide a) (opdI ty.wide ty.signed b) .none
    (AluFn.int ty v (fun a b _ => a + b)) (carryPred ty false pd))

/-- ISUB (R240). -/
def execIsub (h : Hd) (ty : Ty) (v : Ov) (d : Dst) (a : Src) (b : SrcI) (pd : Option PReg) (s : State) :
    Host.Outcome State Fault Refusal :=
  onDev s (fun x => x.alu (.isub h ty v d a b pd) h d ty.wide (opdOf ty.wide a) (opdI ty.wide ty.signed b) .none
    (AluFn.int ty v (fun a b _ => a - b)) (carryPred ty true pd))

/-- IMUL (R240). -/
def execImul (h : Hd) (ty : Ty) (v : Ov) (d : Dst) (a : Src) (b : SrcI) (s : State) : Host.Outcome State Fault Refusal :=
  onDev s (fun x => x.alu (.imul h ty v d a b) h d ty.wide (opdOf ty.wide a) (opdI ty.wide ty.signed b) .none
    (AluFn.int ty v (fun a b _ => a * b)))

/-- IMULH (R240). -/
def execImulh (h : Hd) (ty : Ty) (d : Dst) (a : Src) (b : SrcI) (s : State) : Host.Outcome State Fault Refusal :=
  onDev s (fun x => x.alu (.imulh h ty d a b) h d ty.wide (opdOf ty.wide a) (opdI ty.wide ty.signed b) .none
    (AluFn.int ty .wrap (fun a b _ => (a * b).shiftRight ty.width)))

/-- IMAD (R240). -/
def execImad (h : Hd) (ty : Ty) (v : Ov) (d : Dst) (a b c : Src) (s : State) : Host.Outcome State Fault Refusal :=
  onDev s (fun x => x.alu (.imad h ty v d a b c) h d ty.wide (opdOf ty.wide a) (opdOf ty.wide b) (opdOf ty.wide c)
    (AluFn.int ty v (fun a b c => a * b + c)))

/-- IMIN (R240). -/
def execImin (h : Hd) (ty : Ty) (d : Dst) (a : Src) (b : SrcI) (s : State) : Host.Outcome State Fault Refusal :=
  onDev s (fun x => x.alu (.imin h ty d a b) h d ty.wide (opdOf ty.wide a) (opdI ty.wide ty.signed b) .none
    (AluFn.int ty .wrap (fun a b _ => min a b)))

/-- IMAX (R240). -/
def execImax (h : Hd) (ty : Ty) (d : Dst) (a : Src) (b : SrcI) (s : State) : Host.Outcome State Fault Refusal :=
  onDev s (fun x => x.alu (.imax h ty d a b) h d ty.wide (opdOf ty.wide a) (opdI ty.wide ty.signed b) .none
    (AluFn.int ty .wrap (fun a b _ => max a b)))

/-- IABS (R240). -/
def execIabs (h : Hd) (ty : Ty) (v : Ov) (d : Dst) (a : Src) (s : State) : Host.Outcome State Fault Refusal :=
  onDev s (fun x => x.alu (.iabs h ty v d a) h d ty.wide (opdOf ty.wide a) .none .none
    (AluFn.int ty v (fun a _ _ => (a.natAbs : Int))))

/-- The width of a 32- or 64-bit operand. -/
def wideW (wide : Bool) : Nat := if wide then 64 else 32

/-- AND (R241). -/
def execAnd (h : Hd) (w : Bool) (d : Dst) (a : Src) (b : SrcI) (s : State) : Host.Outcome State Fault Refusal :=
  onDev s (fun x => x.alu (.and h w d a b) h d w (opdOf w a) (opdI w false b) .none (AluFn.raw (wideW w) (fun s => s.a &&& s.b)))

/-- OR (R241). -/
def execOr (h : Hd) (w : Bool) (d : Dst) (a : Src) (b : SrcI) (s : State) : Host.Outcome State Fault Refusal :=
  onDev s (fun x => x.alu (.or h w d a b) h d w (opdOf w a) (opdI w false b) .none (AluFn.raw (wideW w) (fun s => s.a ||| s.b)))

/-- XOR (R241). -/
def execXor (h : Hd) (w : Bool) (d : Dst) (a : Src) (b : SrcI) (s : State) : Host.Outcome State Fault Refusal :=
  onDev s (fun x => x.alu (.xor h w d a b) h d w (opdOf w a) (opdI w false b) .none (AluFn.raw (wideW w) (fun s => s.a ^^^ s.b)))

/-- ANDN: A and not B (R241). -/
def execAndn (h : Hd) (w : Bool) (d : Dst) (a : Src) (b : SrcI) (s : State) : Host.Outcome State Fault Refusal :=
  onDev s (fun x => x.alu (.andn h w d a b) h d w (opdOf w a) (opdI w false b) .none
    (AluFn.raw (wideW w) (fun s => s.a &&& (s.b ^^^ (2 ^ wideW w - 1)))))

/-- SHL (R241). -/
def execShl (h : Hd) (w : Bool) (d : Dst) (a : Src) (b : SrcI) (s : State) : Host.Outcome State Fault Refusal :=
  onDev s (fun x => x.alu (.shl h w d a b) h d w (opdOf w a) (opdI false false b) .none (shiftFn (wideW w) (shlOp (wideW w))))

/-- SHR (R241). -/
def execShr (h : Hd) (w : Bool) (d : Dst) (a : Src) (b : SrcI) (s : State) : Host.Outcome State Fault Refusal :=
  onDev s (fun x => x.alu (.shr h w d a b) h d w (opdOf w a) (opdI false false b) .none (shiftFn (wideW w) (shrOp (wideW w))))

/-- SAR (R241). -/
def execSar (h : Hd) (w : Bool) (d : Dst) (a : Src) (b : SrcI) (s : State) : Host.Outcome State Fault Refusal :=
  onDev s (fun x => x.alu (.sar h w d a b) h d w (opdOf w a) (opdI false false b) .none (shiftFn (wideW w) (sarOp (wideW w))))

/-- ROL (R241). -/
def execRol (h : Hd) (w : Bool) (d : Dst) (a : Src) (b : SrcI) (s : State) : Host.Outcome State Fault Refusal :=
  onDev s (fun x => x.alu (.rol h w d a b) h d w (opdOf w a) (opdI false false b) .none (shiftFn (wideW w) (rolOp (wideW w))))

/-- POPC (R242). -/
def execPopc (h : Hd) (w : Bool) (d : Dst) (a : Src) (s : State) : Host.Outcome State Fault Refusal :=
  onDev s (fun x => x.alu (.popc h w d a) h d false (opdOf w a) .none .none (AluFn.raw 32 (fun s => popCount s.a)))

/-- CLZ (R242). -/
def execClz (h : Hd) (w : Bool) (d : Dst) (a : Src) (s : State) : Host.Outcome State Fault Refusal :=
  onDev s (fun x => x.alu (.clz h w d a) h d false (opdOf w a) .none .none (AluFn.raw 32 (fun s => clzOp (wideW w) s.a)))

/-- BREV (R242). -/
def execBrev (h : Hd) (w : Bool) (d : Dst) (a : Src) (s : State) : Host.Outcome State Fault Refusal :=
  onDev s (fun x => x.alu (.brev h w d a) h d w (opdOf w a) .none .none (AluFn.raw (wideW w) (fun s => brevOp (wideW w) s.a)))

/-- BFX (R243). -/
def execBfx (h : Hd) (ty : Ty) (d : Dst) (a : Src) (f : Field) (s : State) : Host.Outcome State Fault Refusal :=
  onDev s (fun x => x.alu (.bfx h ty d a f) h d ty.wide (opdOf ty.wide a) (fieldOpd f) .none
    (AluFn.raw ty.width (fun s => let (p, n) := fieldOf f s.b; bfxOp ty.signed ty.width s.a p n)))

/-- BFI (R243). -/
def execBfi (h : Hd) (w : Bool) (d : Dst) (a b : Src) (f : Field) (s : State) : Host.Outcome State Fault Refusal :=
  onDev s (fun x => x.alu (.bfi h w d a b f) h d w (opdOf w a) (opdOf w b) (fieldOpd f)
    (AluFn.raw (wideW w) (fun s => let (p, n) := fieldOf f s.c; bfiOp (wideW w) s.a s.b p n)))

/-- ICMP (R244). -/
def execIcmp (h : Hd) (ty : Ty) (d : PReg) (a b : Src) (c : Cond) (s : State) : Host.Outcome State Fault Refusal :=
  onDev s (fun x => x.compare (.icmp h ty d a b c) h d ty.width ty.count (opdOf ty.wide a) (opdOf ty.wide b)
    (fun s k =>
      let g := fun x => elemInt ty.signed ty.width (elemOf ty.width k x)
      (condHolds c (g s.a) (g s.b), 0)))

/-- SEL (R245): the selector is a predicate of each thread; under DK the first participant whose guard is true supplies
it. A poisoned selector poisons the result (R225). -/
def execSel (h : Hd) (w : Bool) (d : Dst) (a b : Src) (neg : Bool) (p : PReg) (s : State) : Host.Outcome State Fault Refusal :=
  let i := Instr.sel h w d a b neg p
  let n := if w then 8 else 4
  let res := fun (e : Env) =>
    let x := e.srcs (opdOf w a) (opdOf w b) .none
    (selOp n (e.t.guardBits neg p) x.a x.b, x.p || e.t.predP p)
  match d with
  | .v r =>
    onDev s (fun x => x.lanes i h [0] false (fun act x =>
      (x.mapUids (act.map Thread.uid) (fun t => let y := res (x.env t); t.wrs r (aluWords w y.1) y.2)).done h))
  | .s r =>
    onDev s (fun x => x.gangWide i h (fun m act x =>
      match act with
      | [] => x.meetDone h m
      | t :: _ =>
        let y := res { c := x.ctr, t := t, g := some m.gang }
        (x.mapGang m.core m.idx (fun g => g.setS r (BitVec.ofNat 64 y.1) y.2)).meetDone h m))

/-- MOV (R246). -/
def execMov (h : Hd) (w : Bool) (d : Dst) (a : Src) (s : State) : Host.Outcome State Fault Refusal :=
  onDev s (fun x => x.alu (.mov h w d a) h d w (opdOf w a) .none .none (AluFn.raw (wideW w) (fun s => s.a)))

/-- MOVI (R246). -/
def execMovi (h : Hd) (k : MoviKind) (d : VReg) (imm : W32) (s : State) : Host.Outcome State Fault Refusal :=
  let w := k != .b32
  onDev s (fun x => x.alu (.movi h k d imm) h (.v d) w (opdI w (k == .i64) (.imm imm)) .none .none
    (AluFn.raw (wideW w) (fun s => s.a)))

/-- LEA (R247). -/
def execLea (h : Hd) (signed : Bool) (d : VReg) (a b : Src) (sh : BitVec 3) (s : State) : Host.Outcome State Fault Refusal :=
  onDev s (fun x => x.alu (.lea h signed d a b sh) h (.v d) true (opdOf true a) (opdOf false b) .none
    (AluFn.raw 64 (fun s => wrapInt 64 ((s.a : Int) + elemInt signed 32 s.b * 2 ^ sh.toNat))))

/-- IDOT4 (R248). -/
def execIdot4 (h : Hd) (as bs : Bool) (d a b c : VReg) (s : State) : Host.Outcome State Fault Refusal :=
  onDev s (fun x => x.alu (.idot4 h as bs d a b c) h (.v d) false (.v a false) (.v b false) (.v c false)
    (AluFn.raw 32 (fun s => idot4Op as bs s.a s.b s.c)))

/-- PRMT (R249). -/
def execPrmt (h : Hd) (d a b : VReg) (sel : BitVec 12) (s : State) : Host.Outcome State Fault Refusal :=
  onDev s (fun x => x.alu (.prmt h d a b sel) h (.v d) false (.v a false) (.v b false) .none
    (AluFn.raw 32 (fun s => prmtOp sel.toNat s.a s.b)))

/-- PRMT.CTL (R249). -/
def execPrmtCtl (h : Hd) (d a b c : VReg) (s : State) : Host.Outcome State Fault Refusal :=
  onDev s (fun x => x.alu (.prmtCtl h d a b c) h (.v d) false (.v a false) (.v b false) (.v c false)
    (AluFn.raw 32 (fun s => prmtCtlOp s.a s.b s.c)))

/-- ICLAMP: the lesser of C and the greater of A and B (R240). -/
def execIclamp (h : Hd) (ty : Ty) (d : Dst) (a b c : Src) (s : State) : Host.Outcome State Fault Refusal :=
  onDev s (fun x => x.alu (.iclamp h ty d a b c) h d ty.wide (opdOf ty.wide a) (opdOf ty.wide b) (opdOf ty.wide c)
    (AluFn.int ty .wrap (fun a b c => min (max a b) c)))

/-! ### Gang scalars (R250, R251) -/

/-- A gang-wide instruction that writes one gang scalar, if the guard is true in at least one participant. -/
def Dev.writeS (d : Dev) (i : Instr) (h : Hd) (r : SReg) (f : Meet → Dev → W64 × Bool × FFlags) : Dev :=
  d.gangWide i h (fun m act d =>
    if act = [] then d.meetDone h m
    else
      let (v, p, fl) := f m d
      let d1 := d.mapGang m.core m.idx (fun g => g.setS r v p)
      (act.foldl (fun d t => d.deliver t.uid (fun x => x.orFlags fl)) d1).meetDone h m)

/-- What SMOV writes (R250). -/
def smovVal (x : SmovSrc) (m : Meet) (d : Dev) : W64 × Bool :=
  match x with
  | .pair a rank => let y := m.supply d (.v a true) rank.toNat; (BitVec.ofNat 64 y.1, y.2)
  | .reg a rank => let y := m.supply d (.v a false) rank.toNat; (BitVec.ofNat 64 y.1, y.2)
  | .imm x => (sext64 x, false)
  | .s a => (m.gang.sreg a, m.gang.spsn a)

/-- SMOV (R250). -/
def execSmov (h : Hd) (d : SReg) (x : SmovSrc) (s : State) : Host.Outcome State Fault Refusal :=
  onDev s (fun y => y.writeS (.smov h d x) h d (fun m y => let v := smovVal x m y; (v.1, v.2, 0)))

/-- SMOV.HI (R250): the low half keeps its value and its poison. -/
def execSmovHi (h : Hd) (d : SReg) (imm : W32) (s : State) : Host.Outcome State Fault Refusal :=
  onDev s (fun y => y.writeS (.smovHi h d imm) h d (fun m _ => (pairOf (lo32 (m.gang.sreg d)) imm, m.gang.spsn d, 0)))

/-- The result and flags of SALU (R251). -/
def saluOp (op : SaluOp) (a b : Nat) : Nat × FFlags :=
  let sg := elemInt true 64
  let f := fun (k : FVal → FVal → Nat × FFlags) =>
    k (FVal.ofBits Fmt.f32 (a % 2 ^ 32)) (FVal.ofBits Fmt.f32 (b % 2 ^ 32))
  match op with
  | .add => ((a + b) % 2 ^ 64, 0)
  | .sub => (wrapInt 64 ((a : Int) - b), 0)
  | .mul => (a * b % 2 ^ 64, 0)
  | .and => (a &&& b, 0)
  | .or => (a ||| b, 0)
  | .xor => (a ^^^ b, 0)
  | .shl => (shlOp 64 a (b % 256), 0)
  | .shr => (shrOp 64 a (b % 256), 0)
  | .sar => (sarOp 64 a (b % 256), 0)
  | .minI => (if sg a ≤ sg b then a else b, 0)
  | .maxI => (if sg a ≤ sg b then b else a, 0)
  | .minN => (min a b, 0)
  | .maxN => (max a b, 0)
  | .fadd => f (fpAdd Fmt.f32)
  | .fmul => f (fpMul Fmt.f32)

/-- SALU's second source. -/
def saluSrc : SaluSrc → Opd
  | .s r => .s r true
  | .imm x => .imm (sext64 x).toNat

/-- SALU (R251). -/
def execSalu (h : Hd) (op : SaluOp) (d a : SReg) (b : SaluSrc) (s : State) : Host.Outcome State Fault Refusal :=
  onDev s (fun y => y.aluGang (.salu h op d a b) h d true (.s a true) (saluSrc b) .none
    (AluFn.one 64 (fun s => saluOp op s.a s.b)) none)

end Sys2Proof.Machine
end

