-- ==== Sys2Proof/Machine/Optim.lean ====
section
/-! DEFINITION. The optimiser instructions AWUPD, SGDM and GSCALE (spec/11 R299 to R304). -/

namespace Sys2Proof.Machine

/-- A binary32 result and the flags collected so far. -/
abbrev FAcc := Nat × FFlags

/-- Adds a step's flags to those collected. -/
def FAcc.more (fl : FFlags) (r : Nat × FFlags) : FAcc := (r.1, fl ||| r.2)

/-- The gradient: binary32, or BF16 in the low half (R299). -/
def gradOf (bf : Bool) (x : Nat) : Nat := if bf then x % 2 ^ 16 * 2 ^ 16 else x

/-- The hyperparameter word at half `k` of a gang scalar: 0 the low one (R300). -/
def hyper (s : Nat) (k : Nat) : Nat := bitsOf s (32 * k) 32

/-- A fused step: exact product and sum, one rounding (R301). -/
def fused (a b c : Nat) : Nat × FFlags := fpFma Fmt.f32 (f32 a) (f32 b) (f32 c)

/-- A fused step with the product negated. -/
def fusedNeg (a b c : Nat) : Nat × FFlags := fpFma Fmt.f32 (f32 a).negate (f32 b) (f32 c)

/-- AWUPD in one lane: w, m, v, g and the four gang scalars give w1, m1, v1 and the flags (R301). -/
def awupdOp (w m v g : Nat) (b : List Nat) : List Nat × FFlags :=
  let s := fun (k : Nat) => b[k]?.getD 0
  let beta1 := hyper (s 0) 0
  let beta2 := hyper (s 0) 1
  let lr := hyper (s 1) 0
  let eps := hyper (s 1) 1
  let lambda := hyper (s 2) 0
  let c1 := hyper (s 2) 1
  let clip := hyper (s 3) 0
  let c2 := hyper (s 3) 1
  let g1 := fmulOp g clip
  let mg := fsubOp m g1.1
  let m1 := fused beta1 mg.1 g1.1
  let q := fmulOp g1.1 g1.1
  let vq := fsubOp v q.1
  let v1 := fused beta2 vq.1 q.1
  let mh := fmulOp m1.1 c1
  let vh := fmulOp v1.1 c2
  let rt := fpSqrt Fmt.f32 (f32 vh.1)
  let den := faddOp rt.1 eps
  let x := fpDiv Fmt.f32 (f32 mh.1) (f32 den.1)
  let dd := fused lambda w x.1
  let w1 := fusedNeg lr dd.1 w
  ([w1.1, m1.1, v1.1],
   [g1, mg, m1, q, vq, v1, mh, vh, rt, den, x, dd, w1].foldl (fun (f : FFlags) r => f ||| r.2) 0)

/-- SGDM in one lane: w, m, g and the two gang scalars give w1, m1 and the flags (R302). -/
def sgdmOp (w m g : Nat) (b : List Nat) : List Nat × FFlags :=
  let s := fun (k : Nat) => b[k]?.getD 0
  let mu := hyper (s 0) 0
  let lr := hyper (s 0) 1
  let lambda := hyper (s 1) 0
  let clip := hyper (s 1) 1
  let g1 := fmulOp g clip
  let dd := fused lambda w g1.1
  let m1 := fused mu m dd.1
  let w1 := fusedNeg lr m1.1 w
  ([w1.1, m1.1], [g1, dd, m1, w1].foldl (fun (f : FFlags) r => f ||| r.2) 0)

/-- The clip factor of a sum of squares and the largest allowed norm (R303). -/
def gscaleFactor (s : Nat) : Nat × FFlags :=
  let tau := hyper s 1
  let r := fpSqrt Fmt.f32 (f32 (hyper s 0))
  if (f32 r.1).isNan then (Fmt.f32.canon, r.2)
  else if (f32 tau).isNan then (Fmt.f32.canon, r.2 ||| fNV)
  else if (fpCmp .gt (f32 r.1) (f32 tau)).1 then
    FAcc.more r.2 (fpDiv Fmt.f32 (f32 tau) (f32 r.1))
  else (0x3F800000, r.2)

/-- What one lane of an optimiser instruction reads: the registers it names, with the first poisoned one. -/
structure OptRead where
  vals : List Nat
  psn  : Option (Nat × Nat)

/-- Reads operands in order; a poisoned one is named by its register and kind. -/
def Env.optRead (e : Env) (os : List (Nat × Opd)) : OptRead :=
  let xs := os.map (fun o => (o.2, e.read o.1 o.2))
  { vals := xs.map (fun x => x.2.1)
    psn := xs.findSome? (fun x =>
      if x.2.2 then
        (match x.1 with
         | .v r _ => some (r.toNat, 0)
         | .s r _ => some (r.toNat, 1)
         | _ => none)
      else none) }

/-- One record for the lanes that consumed poison, with the origin of the lowest of them (R304). No thread traps. DEDUCED: notes/assumptions/43. -/
def Dev.optNote (d : Dev) (bad : List (Thread × Nat × Nat)) : Dev :=
  match bad with
  | [] => d
  | (t, reg, kind) :: _ =>
    d.record { Rec.plain (d.whoOf t) cPoisonConsumed (t.poisonDetail reg kind) with lanes := lanesOf (bad.map Prod.fst) }

/-- An optimiser instruction per lane: `f` gives the results from the values read (R299, R304). DEDUCED: notes/assumptions/44. -/
def Dev.optim (d : Dev) (i : Instr) (h : Hd) (r : VReg) (os : List (Nat × Opd)) (f : List Nat → List Nat × FFlags) : Dev :=
  d.lanes i h [0] true (fun act d =>
    let bad := act.filterMap (fun t => (Env.optRead (d.env t) os).psn.map (fun p => (t, p)))
    let d1 := d.optNote bad
    (d1.mapUids (act.map Thread.uid) (fun t =>
      let x := Env.optRead (d.env t) os
      let y := f x.vals
      (t.wrs r (y.1.map (BitVec.ofNat 32)) x.psn.isSome).orFlags y.2)).done h)

/-- The registers from vD on, vA and the s group of an optimiser instruction, by position. -/
def optOpds (r : VReg) (n : Nat) (a : VReg) (b : SReg) (k : Nat) : List (Nat × Opd) :=
  (upTo n).map (fun j => (3, Opd.v (r + BitVec.ofNat 9 j) false)) ++ [(0, .v a false)] ++
    (upTo k).map (fun j => (1, Opd.s (b + BitVec.ofNat 6 j) true))

/-- A value of a list. -/
def nth0 (l : List Nat) (k : Nat) : Nat := l[k]?.getD 0

/-- AWUPD (R301). -/
def execAwupd (h : Hd) (bf : Bool) (r a : VReg) (b : SReg) (s : State) : Host.Outcome State Fault Refusal :=
  onDev s (fun d => d.optim (.awupd h bf r a b) h r (optOpds r 3 a b 4) (fun x =>
    awupdOp (nth0 x 0) (nth0 x 1) (nth0 x 2) (gradOf bf (nth0 x 3)) (x.drop 4)))

/-- SGDM (R302). -/
def execSgdm (h : Hd) (bf : Bool) (r a : VReg) (b : SReg) (s : State) : Host.Outcome State Fault Refusal :=
  onDev s (fun d => d.optim (.sgdm h bf r a b) h r (optOpds r 2 a b 2) (fun x =>
    sgdmOp (nth0 x 0) (nth0 x 1) (gradOf bf (nth0 x 2)) (x.drop 3)))

/-- GSCALE (R303). -/
def execGscale (h : Hd) (r a : VReg) (b : SReg) (s : State) : Host.Outcome State Fault Refusal :=
  onDev s (fun d => d.optim (.gscale h r a b) h r (optOpds r 0 a b 1) (fun x =>
    let f := gscaleFactor (nth0 x 1)
    let y := fmulOp (nth0 x 0) f.1
    ([y.1], f.2 ||| y.2)))

/-- GSCALE into a gang scalar (R303): sD[63:32] keeps its value. DEDUCED: notes/assumptions/43. -/
def execGscaleF (h : Hd) (r b : SReg) (s : State) : Host.Outcome State Fault Refusal :=
  onDev s (fun d => d.gangWide (.gscaleF h r b) h (fun m act d =>
    match act with
    | [] => d.meetDone h m
    | _ =>
      let p := m.gang.spsn b
      let f := gscaleFactor (m.gang.sreg b).toNat
      let d1 := if p then d.optNote ((sortBy Thread.lane act).map (fun t => (t, b.toNat, 1))) else d
      let d2 := d1.mapGang m.core m.idx (fun g =>
        g.setS r (pairOf (BitVec.ofNat 32 f.1) (hi32 (g.sreg r))) (p || g.spsn r))
      (act.foldl (fun d t => d.deliver t.uid (fun x => x.orFlags f.2)) d2).meetDone h m))

end Sys2Proof.Machine
end

