-- ==== Sys2Proof/Machine/Pair.lean ====
section
/-! DEFINITION. The paired instruction, format P (spec/02 R47 to R51, spec/18 R375). -/

namespace Sys2Proof.Machine

/-! ### The pair (R47 to R51) -/

/-- One operation of a pair as an arithmetic operation; its third source is D (R50). -/
def pairFn (c : PairCode) : AluFn :=
  match c with
  | .add => AluFn.int .n32 .wrap (fun a b _ => a + b)
  | .sub => AluFn.int .n32 .wrap (fun a b _ => a - b)
  | .and => AluFn.raw 32 (fun s => s.a &&& s.b)
  | .or => AluFn.raw 32 (fun s => s.a ||| s.b)
  | .xor => AluFn.raw 32 (fun s => s.a ^^^ s.b)
  | .andn => AluFn.raw 32 (fun s => s.a &&& (s.b ^^^ (2 ^ 32 - 1)))
  | .shl => shiftFn 32 (shlOp 32)
  | .shr => shiftFn 32 (shrOp 32)
  | .sar => shiftFn 32 (sarOp 32)
  | .sel => AluFn.raw 32 (fun s => s.a)
  | .mov => AluFn.raw 32 (fun s => s.a)
  | .fadd => AluFn.one 32 (fun s => faddOp s.a s.b)
  | .fmul => AluFn.one 32 (fun s => fmulOp s.a s.b)
  | .ffma => AluFn.one 32 (fun s => ffmaOp false false s.a s.b s.c)
  | .fmin => AluFn.one 32 (fun s => fpMinMax Fmt.f32 false s.a s.b)
  | .fmax => AluFn.one 32 (fun s => fpMinMax Fmt.f32 true s.a s.b)
  | .hadd2F16 => hadd2Fn false
  | .hadd2Bf16 => hadd2Fn true
  | .hfma2F16 => hfma2Fn false
  | .hfma2Bf16 => hfma2Fn true

/-- The sources of one operation of a pair. -/
def pairOpds (o : PairOp) : Opd × Opd × Opd :=
  (.v (o.reg o.a) false, if o.code.readsB then .v (o.reg o.b) false else .none,
   if o.code.fma then .v (o.reg o.d) false else .none)

/-- A write of a pair's operation in one lane: register, value, poison, flags; none where the guard is false. Select
writes in every lane, A or B by bit 0 of the guard (R51). -/
def pairWrite (e : Env) (w : PairWord) (k : Nat) (o : PairOp) : Option (VReg × W32 × Bool × FFlags) :=
  let (a, b, c) := pairOpds o
  let s := Env.srcs { e with c := 2 * e.c + k } a b c
  let f := pairFn o.code
  let g := e.t.guardBits w.gn w.gp
  let gov := fun j => g.getLsbD (govBit f.w j)
  if o.code = PairCode.sel then
    some (o.reg o.d, BitVec.ofNat 32 (if g.getLsbD 0 then s.a else s.b), s.p || e.t.predP w.gp, 0)
  else if (upTo f.n).any gov then
    let part := !((upTo f.n).all gov)
    let r := f.run s gov (if part then (e.t.rd (4 * e.c + 3) (o.reg o.d)).toNat else 0)
    some (o.reg o.d, BitVec.ofNat 32 r.val, s.p || (part && e.t.rdP (4 * e.c + 3) (o.reg o.d)), r.flags)
  else none

/-- Makes one write of a pair. -/
def applyWrite (t : Thread) : Option (VReg × W32 × Bool × FFlags) → Thread
  | some (r, v, p, fl) => (t.wr r v p).orFlags fl
  | none => t

/-- A pair holds a select (R51). -/
def pairSel (w : PairWord) : Bool := w.op0.code = PairCode.sel || w.op1.code = PairCode.sel

/-- The header a pair has: its guard and yield hint. -/
def pairHd (w : PairWord) : Hd := { gn := w.gn, gp := w.gp, yh := w.yh, lah := 0, ru := 0 }

/-- PAIR (R51): both operations read before either writes. With a select, every thread of the group takes part. -/
def execPair (w : PairWord) (s : State) : Host.Outcome State Fault Refusal :=
  onDev s (fun d =>
    let h := pairHd w
    let run := fun (act : List Thread) (d : Dev) =>
      (d.mapUids (act.map Thread.uid) (fun t =>
        let e := d.env t
        let x := pairWrite e w 0 w.op0
        let y := pairWrite e w 1 w.op1
        applyWrite (applyWrite t x) y)).done h
    if pairSel w then
      let d0 := (d.tick.prefer h.yh).confirmed (.pair w) false
      let d1 := d0.mapUids d0.group (fun t => { t with latches := latchesOf (.pair w) })
      let act := d1.members
      match d1.faultIn (.pair w) act (d1.guardFlt (.pair w) h false) with
      | some f => d1.failGroup h act f
      | none => run act d1
    else d.lanes (.pair w) h (pairGov w.op0.code ++ pairGov w.op1.code) false run)

end Sys2Proof.Machine
end

