-- ==== Sys2Proof/Machine/Time.lean ====
section
/-! DEFINITION. What time brings to threads: ends of sleeps, timeouts, late results, growth, the timer and pending traps
(spec/02 R44, R46, spec/03 R63, R65, R78, spec/06 R145, R159, spec/18 R371, R372). -/

namespace Sys2Proof.Machine

/-! ### Sleeps and timeouts (R78, R159) -/

/-- The deadline of a sleeping thread has come. -/
def Dev.sleepOver (d : Dev) (t : Thread) : Bool :=
  match t.wait with
  | .sleep dl => dl ≤ d.cyc t.ctx
  | _ => false

/-- SLEEP_WAKE: the thread goes on after its SLEEP (R78). DEDUCED: notes/assumptions/11. -/
def Dev.sleepWake (d : Dev) (u : Nat) : Dev :=
  match d.thread? u with
  | some t => if d.sleepOver t then d.mapThread u (fun t => t.woken d.pcyc) else d
  | none => d

/-- SLEEP_WAKE (R78). -/
def execSleepWake (uid : Nat) (s : State) : Host.Outcome State Fault Refusal := onDev s (fun d => d.sleepWake uid)

/-- The deadline of a sleeping BWAITT has come. -/
def Dev.bwaitOver (d : Dev) (t : Thread) : Bool :=
  match t.wait with
  | .barrier _ _ _ (some dl) => dl ≤ d.cyc t.ctx
  | _ => false

/-- BWAITT_TIMEOUT: pD := 0x00, and the thread goes on (R159); the timeout is an input of a re-run (R443). DEDUCED: notes/assumptions/11. -/
def Dev.bwaitTimeout (d : Dev) (u : Nat) : Dev :=
  match d.thread? u with
  | none => d
  | some t =>
    match t.wait with
    | .barrier p _ _ (some dl) =>
      if dl ≤ d.cyc t.ctx then
        (d.logInput t.ctx (logKey 4 t.logId) (d.cyc t.ctx)).mapThread u (fun t => (t.setPred p 0x00 false).woken d.pcyc)
      else d
    | _ => d

/-- BWAITT_TIMEOUT (R159). -/
def execBwaittTimeout (uid : Nat) (s : State) : Host.Outcome State Fault Refusal := onDev s (fun d => d.bwaitTimeout uid)

/-! ### Issue hints (R46, R63, R65) -/

/-- yield=spin passes a thread over no longer: 64 cycles have passed, or a cycle begins in which nothing on its core is ready
(R46, R63). -/
def Dev.spinOver (d : Dev) (t : Thread) : Bool :=
  t.spin ≠ 0 && (t.spin ≤ d.pcyc || (d.turn ≤ t.core && t.idle && d.ctxIssues t.ctx && d.readyOn t.core = []))

/-- A thread that yield=spin passed over, and its shadow, are ready in the following cycle (R63). -/
def Dev.endSpin (d : Dev) (u : Nat) : Dev :=
  match d.thread? u with
  | some t => if d.spinOver t then d.deliver t.gangUid (fun t => { t with spin := 0, since := max t.since (d.pcyc + 1) }) else d
  | none => d

/-- YIELD_SPIN_EXPIRY (R63). -/
def execYieldSpinExpiry (uid : Nat) (s : State) : Host.Outcome State Fault Refusal := onDev s (fun d => d.endSpin uid)

/-- AGED_ISSUE: a thread of age 2,048 makes the core issue its group: the hints are ignored, and its PC enters the issue table
(R65). The issue itself follows, by the choice of the core. -/
def execAgedIssue (core uid : Nat) (s : State) : Host.Outcome State Fault Refusal :=
  onDev s (fun d =>
    match (d.readyOn core).find? (fun t => t.uid == uid) with
    | some t =>
      if 2048 ≤ t.age d.pcyc then
        d.mapCore core (fun c => { c with avoid := [], table := enterAged (d.tableNow core) t d.pcyc })
      else d
    | none => d)

/-! ### Late results and late reads (R44, R107, R108, R368) -/

/-- A thread and its shadow. -/
def Thread.pairWith (t x : Thread) : Bool := x.uid == t.uid || (x.shadow && x.partner == some t.uid)

/-- The reply to a late read at another module has come. -/
def Dev.lateReply (d : Dev) (t : Thread) (l : Late) : Option OttAcc :=
  match l.unread with
  | some (.far tag _ _ _ _) =>
    match (d.core t.core).accOf t.gangUid tag with
    | some a => if a.reply = .none then none else some a
    | none => none
  | _ => none

/-- The words that a reply gives a late read. -/
def OttAcc.words (a : OttAcc) (off n : Nat) (sx : Bool) : List (W32 × Bool) :=
  (partsOf off n).flatMap (fun x =>
    let b := a.bytes x.1 x.2
    (loadWords x.2 sx (leOf b.1)).map (fun w => (w, b.2)))

/-- The flags of an ATOMF at another module follow from the old value that came back (R139). -/
def OttAcc.atomFlags (a : OttAcc) (off : Nat) (f : Option (AtomfOp × W32 × Bool)) : FFlags :=
  match f, a.reply with
  | some (op, x, p), .data _ _ => let b := a.bytes off 4; (atomfRmw op (leOf b.1, b.2) (x.toNat, p)).flags
  | _, _ => 0

/-- A late read at another module is performed: its words are there, an acquire learns of the writes of other modules, its access
leaves the table, and releases that waited for it try again (R104, R120, R142). -/
def Dev.fillFar (d : Dev) (t : Thread) (l : Late) (a : OttAcc) : Dev :=
  match l.unread with
  | some (.far tag off n sx f) =>
    let d1 := d.mapThreads t.pairWith (fun x => (x.fill (.far tag off n sx f) (a.words off n sx)).orFlags (a.atomFlags off f))
    let d2 := d1.mapCore t.core (fun c =>
      { c with ott := c.ott.map (fun e => { e with accs := e.accs.filter (fun b => !(b.uid == t.uid && !b.posted && b.tag == tag)) }) })
    (if l.acq then { d2 with caches := d2.caches.takePeers [.thread t.uid] } else d2).wakeReleases t.core
  | _ => d

/-- A pending result whose reply has come, unless an instruction under way keeps its operands as it read them (R44). -/
def Dev.lateFilled (d : Dev) (t : Thread) : Option (Late × OttAcc) :=
  if t.shadow || t.asked.isSome then none else t.late.findSome? (fun l => (d.lateReply t l).map (fun a => (l, a)))

/-- A late read of this module that the thread's next instruction waits for. -/
def Thread.lateHere (t : Thread) : Option Late :=
  if t.shadow then none else t.unreads.find? (fun l => l.cover = 0 || l.acq)

/-- A pending result with its value that the thread's next instruction waits for. -/
def Thread.lateLands (t : Thread) : Option Late := t.late.find? (fun l => l.cover = 0 && l.unread.isNone)

/-- LOOKAHEAD_RESULT is due for a thread. -/
def Dev.lateDue (d : Dev) (t : Thread) : Bool :=
  (d.lateFilled t).isSome || (d.ctxIssues t.ctx && (t.lateHere.isSome || t.lateLands.isSome))

/-- A thread may perform a late read of this module at any time before it must (R107, R108). -/
def Dev.lateMay (d : Dev) (t : Thread) : Bool := !t.shadow && t.asked.isNone && d.ctxIssues t.ctx && t.unreads ≠ []

/-- LOOKAHEAD_RESULT: a reply from another module fills a pending result; else a late read of this module is performed, first one that
the thread's next instruction waits for; else a pending result is written (R44). The thread is ready in the cycle after the one in
which the last that it waits for is written (R63). -/
def Dev.lateStep (d : Dev) (t : Thread) : Dev :=
  match d.lateFilled t with
  | some (l, a) => d.fillFar t l a
  | none =>
    match t.lateHere, t.lateLands with
    | some l, _ => (l.unread.map (d.perform t)).getD d
    | none, some l => d.mapThread t.uid (fun t => { t.landOne l with since := d.pcyc + 1 })
    | none, none =>
      if d.lateMay t then
        match t.unreads[Config.pick d.ctr % t.unreads.length]? with
        | some l => (l.unread.map (d.perform t)).getD d
        | none => d
      else d

/-- LOOKAHEAD_RESULT (R44). -/
def execLookaheadResult (uid : Nat) (s : State) : Host.Outcome State Fault Refusal :=
  onDev s (fun d =>
    match d.tick.thread? uid with
    | some t => d.tick.lateStep t
    | none => d.tick)

/-! ### Private memory grows (R145, R340) -/

/-- PRIV_GROW of a partition: the driver grows private memory (R29). -/
def Dev.hostGrows (d : Dev) (part : Nat) : Bool := (d.mode part).getLsbD 2

/-- The mark that a waiting thread needs. -/
def Thread.needs (t : Thread) : Option Nat :=
  match t.wait with
  | .grow m => some m
  | _ => none

/-- PRIVATE_GROWTH: the private map gets the frames, and a lane's mark rises; the new bytes are zero. Once every lane of the instruction
has its mark, it issues again. DESIGN CHOICE: notes/assumptions/150. -/
def Dev.grow (d : Dev) (u : Nat) : Dev :=
  match (d.thread? u).bind (fun t => t.needs.bind (fun m => ((d.growMap t m).map (fun d' => (t, m, d'))))) with
  | none => d
  | some (t, m, d0) =>
    let d1 := d0.deliver t.gangUid (fun t => { t with hwm := max t.hwm m })
    let peers := d1.threads.filter (fun x => x.ctx == t.ctx && x.core == t.core && x.pc == t.pc && x.needs.isSome)
    if peers.all (fun x => x.needs.getD 0 ≤ x.hwm) then
      d1.mapUids (peers.map Thread.uid) (fun x => x.readyNext d.pcyc)
    else d1

/-- PRIVATE_GROWTH (R145). -/
def execPrivateGrowth (uid : Nat) (s : State) : Host.Outcome State Fault Refusal := onDev s (fun d => d.grow uid)

/-! ### TIMER and pending traps (R371, R372) -/

/-- CYC has reached CYCCMP, which is not zero. DEDUCED: notes/assumptions/10. -/
def Ctx.timerOver (c : Ctx) : Bool := c.regs.cyccmp ≠ 0 && c.regs.cyccmp ≤ c.regs.cyc

/-- TIMER: CYCCMP becomes 0, and the arming thread, with its shadow, has the trap to take; if it has exited, only the record
is written (R372). -/
def Dev.timer (d : Dev) (slot : Nat) : Dev :=
  match d.ctx? slot with
  | none => d
  | some c =>
    if c.timerOver then
      let d1 := d.mapCtx slot (fun c => { c with regs := { c.regs with cyccmp := 0, armer := none } })
      match c.regs.armer.bind d.thread? with
      | some t => d1.deliver t.gangUid (fun t => { t with timerDue := some c.regs.cyccmp })
      | none =>
        d1.timerRecord slot c.regs.cyccmp
    else d

/-- TIMER (R372). -/
def execTimer (slot : Nat) (s : State) : Host.Outcome State Fault Refusal := onDev s (fun d => d.timer slot)

/-- A thread stands at an instruction boundary: it waits for nothing, and no part of an instruction is under way. -/
def Dev.atBoundary (d : Dev) (t : Thread) : Bool :=
  t.wait = .none && d.ctxIssues t.ctx && ((d.core t.core).farOf t.gangUid).isNone

/-- A trap that a thread has to take at a boundary: a pending one, or TIMER when it is next ready (R371, R372). -/
def Dev.trapWaits (d : Dev) (t : Thread) : Bool :=
  !t.inTrap && d.atBoundary t && (t.pending.isSome || (t.timerDue.isSome && t.readyAt d.pcyc))

/-- PENDING_TRAP_TAKEN: a thread and its shadow take a pending trap, or TIMER with one record (R371, R372). DEDUCED: notes/assumptions/33. -/
def Dev.takeTrap (d : Dev) (u : Nat) : Dev :=
  match d.thread? u with
  | none => d
  | some t =>
    let both := d.threads.filter (fun x => x.uid == t.gangUid || (x.shadow && x.partner == some t.gangUid))
    if !(both.all d.trapWaits) then d
    else if t.pending.isSome then both.foldl (fun d x => d.takePending x.uid) d
    else
      match both.filter (fun x => !x.shadow) with
      | p :: _ =>
        let d1 := d.takeTimer p.uid
        (both.filter (fun x => x.shadow)).foldl (fun (d : Dev) x =>
          match x.timerDue with
          | some v => (d.mapThread x.uid (fun y => { y with timerDue := none })).enter x cTimer (cycDetail v 0) x.pc
          | none => d) d1
      | [] => d

/-- PENDING_TRAP_TAKEN (R371). -/
def execPendingTrapTaken (uid : Nat) (s : State) : Host.Outcome State Fault Refusal := onDev s (fun d => d.takeTrap uid)

end Sys2Proof.Machine
end

