-- ==== Sys2Proof/Machine/Dispatch.lean ====
section
/-! DEFINITION. One arm per constructor of `Instr`: its meaning, or rejected by name. -/

namespace Sys2Proof.Machine

/-- What an instruction or event does to the state. DESIGN CHOICE: notes/assumptions/9. -/
def exec (i : Instr) (s : State) : Host.Outcome State Fault Refusal :=
  match i with
  | .nop h => Sys2Proof.Machine.execNop h s
  | .bra h imm => Sys2Proof.Machine.execBra h imm s
  | .brx h base imm => Sys2Proof.Machine.execBrx h base imm s
  | .call h t => Sys2Proof.Machine.execCall h t s
  | .callLink h d t => Sys2Proof.Machine.execCallLink h d t s
  | .ret h => Sys2Proof.Machine.execRet h s
  | .retLink h a => Sys2Proof.Machine.execRetLink h a s
  | .exit h => Sys2Proof.Machine.execExit h s
  | .yield h => Sys2Proof.Machine.execYield h s
  | .sleep h imm => Sys2Proof.Machine.execSleep h imm s
  | .sleepAbs h a => Sys2Proof.Machine.execSleepAbs h a s
  | .join h d a size => Sys2Proof.Machine.execJoin h d a size s
  | .joinRank h d a b size => Sys2Proof.Machine.execJoinRank h d a b size s
  | .joinT h d a size => Sys2Proof.Machine.execJoinT h d a size s
  | .joinRankT h d a b size => Sys2Proof.Machine.execJoinRankT h d a b size s
  | .leave h => Sys2Proof.Machine.execLeave h s
  | .ginfo h d => Sys2Proof.Machine.execGinfo h d s
  | .post h a b => Sys2Proof.Machine.execPost h a b s
  | .pair w => Sys2Proof.Machine.execPair w s
  | .iadd h ty v d a b pd => Sys2Proof.Machine.execIadd h ty v d a b pd s
  | .isub h ty v d a b pd => Sys2Proof.Machine.execIsub h ty v d a b pd s
  | .imul h ty v d a b => Sys2Proof.Machine.execImul h ty v d a b s
  | .imulh h ty d a b => Sys2Proof.Machine.execImulh h ty d a b s
  | .imad h ty v d a b c => Sys2Proof.Machine.execImad h ty v d a b c s
  | .imin h ty d a b => Sys2Proof.Machine.execImin h ty d a b s
  | .imax h ty d a b => Sys2Proof.Machine.execImax h ty d a b s
  | .iabs h ty v d a => Sys2Proof.Machine.execIabs h ty v d a s
  | .and h wide d a b => Sys2Proof.Machine.execAnd h wide d a b s
  | .or h wide d a b => Sys2Proof.Machine.execOr h wide d a b s
  | .xor h wide d a b => Sys2Proof.Machine.execXor h wide d a b s
  | .andn h wide d a b => Sys2Proof.Machine.execAndn h wide d a b s
  | .shl h wide d a b => Sys2Proof.Machine.execShl h wide d a b s
  | .shr h wide d a b => Sys2Proof.Machine.execShr h wide d a b s
  | .sar h wide d a b => Sys2Proof.Machine.execSar h wide d a b s
  | .rol h wide d a b => Sys2Proof.Machine.execRol h wide d a b s
  | .popc h wide d a => Sys2Proof.Machine.execPopc h wide d a s
  | .clz h wide d a => Sys2Proof.Machine.execClz h wide d a s
  | .brev h wide d a => Sys2Proof.Machine.execBrev h wide d a s
  | .bfx h ty d a f => Sys2Proof.Machine.execBfx h ty d a f s
  | .bfi h wide d a b f => Sys2Proof.Machine.execBfi h wide d a b f s
  | .icmp h ty d a b c => Sys2Proof.Machine.execIcmp h ty d a b c s
  | .sel h wide d a b neg p => Sys2Proof.Machine.execSel h wide d a b neg p s
  | .mov h wide d a => Sys2Proof.Machine.execMov h wide d a s
  | .movi h k d imm => Sys2Proof.Machine.execMovi h k d imm s
  | .lea h signed d a b sh => Sys2Proof.Machine.execLea h signed d a b sh s
  | .idot4 h as bs d a b c => Sys2Proof.Machine.execIdot4 h as bs d a b c s
  | .prmt h d a b sel => Sys2Proof.Machine.execPrmt h d a b sel s
  | .prmtCtl h d a b c => Sys2Proof.Machine.execPrmtCtl h d a b c s
  | .smov h d x => Sys2Proof.Machine.execSmov h d x s
  | .smovHi h d imm => Sys2Proof.Machine.execSmovHi h d imm s
  | .salu h op d a b => Sys2Proof.Machine.execSalu h op d a b s
  | .iclamp h ty d a b c => Sys2Proof.Machine.execIclamp h ty d a b c s
  | .fadd h d a b => Sys2Proof.Machine.execFadd h d a b s
  | .fsub h d a b => Sys2Proof.Machine.execFsub h d a b s
  | .fmul h d a b => Sys2Proof.Machine.execFmul h d a b s
  | .ffma h nab nc d a b c => Sys2Proof.Machine.execFfma h nab nc d a b c s
  | .fmin h d a b => Sys2Proof.Machine.execFmin h d a b s
  | .fmax h d a b => Sys2Proof.Machine.execFmax h d a b s
  | .fcmp h fmt d a b c => Sys2Proof.Machine.execFcmp h fmt d a b c s
  | .fclass h d a pd mask => Sys2Proof.Machine.execFclass h d a pd mask s
  | .frnd h rm d a => Sys2Proof.Machine.execFrnd h rm d a s
  | .fcvt h c rm d a => Sys2Proof.Machine.execFcvt h c rm d a s
  | .icvt h c rm d a => Sys2Proof.Machine.execIcvt h c rm d a s
  | .frcp h d a => Sys2Proof.Machine.execFrcp h d a s
  | .frsq h d a => Sys2Proof.Machine.execFrsq h d a s
  | .fsqrt h d a => Sys2Proof.Machine.execFsqrt h d a s
  | .fdiv h d a b => Sys2Proof.Machine.execFdiv h d a b s
  | .fexp2 h d a => Sys2Proof.Machine.execFexp2 h d a s
  | .flog2 h d a => Sys2Proof.Machine.execFlog2 h d a s
  | .fsin h d a => Sys2Proof.Machine.execFsin h d a s
  | .fcos h d a => Sys2Proof.Machine.execFcos h d a s
  | .ftanh h d a => Sys2Proof.Machine.execFtanh h d a s
  | .hadd2 h bf d a b => Sys2Proof.Machine.execHadd2 h bf d a b s
  | .hmul2 h bf d a b => Sys2Proof.Machine.execHmul2 h bf d a b s
  | .hfma2 h bf d a b c => Sys2Proof.Machine.execHfma2 h bf d a b c s
  | .hdot2 h bf d a b c => Sys2Proof.Machine.execHdot2 h bf d a b c s
  | .fscale h d a b => Sys2Proof.Machine.execFscale h d a b s
  | .fflagTrap h mask => Sys2Proof.Machine.execFflagTrap h mask s
  | .fflagClr h mask => Sys2Proof.Machine.execFflagClr h mask s
  | .fflagRd h d => Sys2Proof.Machine.execFflagRd h d s
  | .rngd h f32 d => Sys2Proof.Machine.execRngd h f32 d s
  | .rngs h f32 d a key => Sys2Proof.Machine.execRngs h f32 d a key s
  | .plop h d a b c table => Sys2Proof.Machine.execPlop h d a b c table s
  | .pmov h f => Sys2Proof.Machine.execPmov h f s
  | .voteMask h d a => Sys2Proof.Machine.execVoteMask h d a s
  | .voteCount h d a => Sys2Proof.Machine.execVoteCount h d a s
  | .voteTest h d a c => Sys2Proof.Machine.execVoteTest h d a c s
  | .xbfly h wide d a n => Sys2Proof.Machine.execXbfly h wide d a n s
  | .xbflyTr h d x => Sys2Proof.Machine.execXbflyTr h d x s
  | .xshfl h wide d a m => Sys2Proof.Machine.execXshfl h wide d a m s
  | .xbcast h wide d a n => Sys2Proof.Machine.execXbcast h wide d a n s
  | .xred h op d a => Sys2Proof.Machine.execXred h op d a s
  | .xscan h op ex d a => Sys2Proof.Machine.execXscan h op ex d a s
  | .ld h priv sz sx d m => Sys2Proof.Machine.execLd h priv sz sx d m s
  | .lda h sz sx d m => Sys2Proof.Machine.execLda h sz sx d m s
  | .st h priv sz m b => Sys2Proof.Machine.execSt h priv sz m b s
  | .stl h sz m b => Sys2Proof.Machine.execStl h sz m b s
  | .atom h ord op wide d m b => Sys2Proof.Machine.execAtom h ord op wide d m b s
  | .cas h ord wide d m b => Sys2Proof.Machine.execCas h ord wide d m b s
  | .atomf h ord op d m b => Sys2Proof.Machine.execAtomf h ord op d m b s
  | .fence h => Sys2Proof.Machine.execFence h s
  | .smap h entry w len f => Sys2Proof.Machine.execSmap h entry w len f s
  | .sunmap h entry => Sys2Proof.Machine.execSunmap h entry s
  | .sflush h entry => Sys2Proof.Machine.execSflush h entry s
  | .sld h sz sx d m => Sys2Proof.Machine.execSld h sz sx d m s
  | .sst h sz m b => Sys2Proof.Machine.execSst h sz m b s
  | .binit h gang m b => Sys2Proof.Machine.execBinit h gang m b s
  | .barv h m n => Sys2Proof.Machine.execBarv h m n s
  | .bexp h m n => Sys2Proof.Machine.execBexp h m n s
  | .bexpMax h m n => Sys2Proof.Machine.execBexpMax h m n s
  | .baddb h m n => Sys2Proof.Machine.execBaddb h m n s
  | .bdrop h m => Sys2Proof.Machine.execBdrop h m s
  | .bwait h d m k => Sys2Proof.Machine.execBwait h d m k s
  | .btest h d m k => Sys2Proof.Machine.execBtest h d m k s
  | .bwaitt h d m k deadline => Sys2Proof.Machine.execBwaitt h d m k deadline s
  | .rowact h d base off => Sys2Proof.Machine.execRowact h d base off s
  | .rowconW h a k => Sys2Proof.Machine.execRowconW h a k s
  | .rowconS h a base off => Sys2Proof.Machine.execRowconS h a base off s
  | .rowconV h d a => Sys2Proof.Machine.execRowconV h d a s
  | .rowput h a base off => Sys2Proof.Machine.execRowput h a base off s
  | .rowputV h a b => Sys2Proof.Machine.execRowputV h a b s
  | .rowpre h a => Sys2Proof.Machine.execRowpre h a s
  | .rowqry h d a => Sys2Proof.Machine.execRowqry h d a s
  | .rowwt h d a => Sys2Proof.Machine.execRowwt h d a s
  | .xcopy h d c => Sys2Proof.Machine.execXcopy h d c s
  | .xwait h d a => Sys2Proof.Machine.execXwait h d a s
  | .xqry h d a => Sys2Proof.Machine.execXqry h d a s
  | .xcancel h d a => Sys2Proof.Machine.execXcancel h d a s
  | .crs h d c => Sys2Proof.Machine.execCrs h d c s
  | .crsNorm h d c => Sys2Proof.Machine.execCrsNorm h d c s
  | .cag h d c => Sys2Proof.Machine.execCag h d c s
  | .car h d c => Sys2Proof.Machine.execCar h d c s
  | .cbc h d c => Sys2Proof.Machine.execCbc h d c s
  | .fput h d a rank => Sys2Proof.Machine.execFput h d a rank s
  | .fget h d a rank => Sys2Proof.Machine.execFget h d a rank s
  | .fatom h ord op wide m b => Sys2Proof.Machine.execFatom h ord op wide m b s
  | .fsig h x => Sys2Proof.Machine.execFsig h x s
  | .mldw h ty tr a => Sys2Proof.Machine.execMldw h ty tr a s
  | .mswap h => Sys2Proof.Machine.execMswap h s
  | .mstream h ty z d a => Sys2Proof.Machine.execMstream h ty z d a s
  | .mclr h mask => Sys2Proof.Machine.execMclr h mask s
  | .mst h cv a b => Sys2Proof.Machine.execMst h cv a b s
  | .mstReg h cv d a => Sys2Proof.Machine.execMstReg h cv d a s
  | .mlda h cv d a => Sys2Proof.Machine.execMlda h cv d a s
  | .mldaReg h cv d a => Sys2Proof.Machine.execMldaReg h cv d a s
  | .mgrp h ty z d a => Sys2Proof.Machine.execMgrp h ty z d a s
  | .mqry h d => Sys2Proof.Machine.execMqry h d s
  | .mtake h d mask => Sys2Proof.Machine.execMtake h d mask s
  | .mgive h mask => Sys2Proof.Machine.execMgive h mask s
  | .macc h int d a => Sys2Proof.Machine.execMacc h int d a s
  | .mscl h d a => Sys2Proof.Machine.execMscl h d a s
  | .norma h f16 a b => Sys2Proof.Machine.execNorma h f16 a b s
  | .normb h f16 a b => Sys2Proof.Machine.execNormb h f16 a b s
  | .nprod h d a => Sys2Proof.Machine.execNprod h d a s
  | .aliasT h a b => Sys2Proof.Machine.execAliasT h a b s
  | .sampmm h f16 d a b => Sys2Proof.Machine.execSampmm h f16 d a b s
  | .svrd h d => Sys2Proof.Machine.execSvrd h d s
  | .svrdW h d => Sys2Proof.Machine.execSvrdW h d s
  | .svset h row col => Sys2Proof.Machine.execSvset h row col s
  | .awupd h bf d a b => Sys2Proof.Machine.execAwupd h bf d a b s
  | .sgdm h bf d a b => Sys2Proof.Machine.execSgdm h bf d a b s
  | .gscale h d a b => Sys2Proof.Machine.execGscale h d a b s
  | .gscaleF h d b => Sys2Proof.Machine.execGscaleF h d b s
  | .sysr h f srn => Sys2Proof.Machine.execSysr h f srn s
  | .sysw h f srn => Sys2Proof.Machine.execSysw h f srn s
  | .trap h imm => Sys2Proof.Machine.execTrap h imm s
  | .trapBrk h imm => Sys2Proof.Machine.execTrapBrk h imm s
  | .eret h => Sys2Proof.Machine.execEret h s
  | .eretNext h => Sys2Proof.Machine.execEretNext h s
  | .xlate h d a => Sys2Proof.Machine.execXlate h d a s
  | .xlateCtx h d a b => Sys2Proof.Machine.execXlateCtx h d a b s
  | .leaseq h d a => Sys2Proof.Machine.execLeaseq h d a s
  | .margin h d a b => Sys2Proof.Machine.execMargin h d a b s
  | .marginRd h d a => Sys2Proof.Machine.execMarginRd h d a s
  | .scan h d a => Sys2Proof.Machine.execScan h d a s
  | .scanAbort h d a => Sys2Proof.Machine.execScanAbort h d a s
  | .quar h d a => Sys2Proof.Machine.execQuar h d a s
  | .haltc h d a => Sys2Proof.Machine.execHaltc h d a s
  | .haltcRel h d a => Sys2Proof.Machine.execHaltcRel h d a s
  | .snap h d c => Sys2Proof.Machine.execSnap h d c s
  | .snapq h d c => Sys2Proof.Machine.execSnapq h d c s
  | .snapqW h d c => Sys2Proof.Machine.execSnapqW h d c s
  | .ctxsv h d a => Sys2Proof.Machine.execCtxsv h d a s
  | .ctxld h d a => Sys2Proof.Machine.execCtxld h d a s
  | .ctxldImg h d a b => Sys2Proof.Machine.execCtxldImg h d a b s
  | .cyccmpWrite h f => Sys2Proof.Machine.execCyccmpWrite h f s
  | .eqheadWrite h f => Sys2Proof.Machine.execEqheadWrite h f s
  | .eqRingWrite h f size => Sys2Proof.Machine.execEqRingWrite h f size s
  | .eqtailRead h f => Sys2Proof.Machine.execEqtailRead h f s
  | .partmodeWrite h f n => Sys2Proof.Machine.execPartmodeWrite h f n s
  | .lcmapWrite h f n => Sys2Proof.Machine.execLcmapWrite h f n s
  | .fmtrangeWrite h f n hi => Sys2Proof.Machine.execFmtrangeWrite h f n hi s
  | .marginRegWrite h f n => Sys2Proof.Machine.execMarginRegWrite h f n s
  | .svarWrite h f n => Sys2Proof.Machine.execSvarWrite h f n s
  | .leaseAcquireStart slot lid => Sys2Proof.Machine.execLeaseAcquireStart slot lid s
  | .leaseHeld slot lid => Sys2Proof.Machine.execLeaseHeld slot lid s
  | .pageResident slot page => Sys2Proof.Machine.execPageResident slot page s
  | .chunkBind slot lid chunk core => Sys2Proof.Machine.execChunkBind slot lid chunk core s
  | .taskDequeue die => Sys2Proof.Machine.execTaskDequeue die s
  | .drainDeadline slot => Sys2Proof.Machine.execDrainDeadline slot s
  | .contextSave slot => Sys2Proof.Machine.execContextSave slot s
  | .contextSaved slot => Sys2Proof.Machine.execContextSaved slot s
  | .contextSaveTimeout slot => Sys2Proof.Machine.execContextSaveTimeout slot s
  | .contextResume slot place => Sys2Proof.Machine.execContextResume slot place s
  | .watchdog core gang => Sys2Proof.Machine.execWatchdog core gang s
  | .sleepWake uid => Sys2Proof.Machine.execSleepWake uid s
  | .bwaittTimeout uid => Sys2Proof.Machine.execBwaittTimeout uid s
  | .ottEntryFree core entry => Sys2Proof.Machine.execOttEntryFree core entry s
  | .privateGrowth uid => Sys2Proof.Machine.execPrivateGrowth uid s
  | .lookaheadResult uid => Sys2Proof.Machine.execLookaheadResult uid s
  | .timer slot => Sys2Proof.Machine.execTimer slot s
  | .pendingTrapTaken uid => Sys2Proof.Machine.execPendingTrapTaken uid s
  | .jobSegment die handle => Sys2Proof.Machine.execJobSegment die handle s
  | .jobFail die handle cause addr => Sys2Proof.Machine.execJobFail die handle cause addr s
  | .gcmOpenCheck die handle => Sys2Proof.Machine.execGcmOpenCheck die handle s
  | .promiseMissed uid => Sys2Proof.Machine.execPromiseMissed uid s
  | .packetRetransmit slot dst seq => Sys2Proof.Machine.execPacketRetransmit slot dst seq s
  | .fabricTimeout core entry => Sys2Proof.Machine.execFabricTimeout core entry s
  | .activationComplete core slot => Sys2Proof.Machine.execActivationComplete core slot s
  | .rowTransfer core => Sys2Proof.Machine.execRowTransfer core s
  | .laneSwap core => Sys2Proof.Machine.execLaneSwap core s
  | .forcedClose core slot => Sys2Proof.Machine.execForcedClose core slot s
  | .prechargeDone core bank => Sys2Proof.Machine.execPrechargeDone core bank s
  | .refreshWindow core layer => Sys2Proof.Machine.execRefreshWindow core layer s
  | .matrixAccept core => Sys2Proof.Machine.execMatrixAccept core s
  | .matrixStep core => Sys2Proof.Machine.execMatrixStep core s
  | .replayReissue uid => Sys2Proof.Machine.execReplayReissue uid s
  | .foehnStep phys => Sys2Proof.Machine.execFoehnStep phys s
  | .foehnDeepen phys => Sys2Proof.Machine.execFoehnDeepen phys s
  | .scanRunEnd phys sig => Sys2Proof.Machine.execScanRunEnd phys sig s
  | .scanAborted phys => Sys2Proof.Machine.execScanAborted phys s
  | .fillStart die => Sys2Proof.Machine.execFillStart die s
  | .fillComplete phys => Sys2Proof.Machine.execFillComplete phys s
  | .supplySettled phys => Sys2Proof.Machine.execSupplySettled phys s
  | .recordStep slot epoch => Sys2Proof.Machine.execRecordStep slot epoch s
  | .recordStepEnd slot => Sys2Proof.Machine.execRecordStepEnd slot s
  | .snapshotSweep slot u => Sys2Proof.Machine.execSnapshotSweep slot u s
  | .boraStream slot => Sys2Proof.Machine.execBoraStream slot s
  | .snapshotStagingFull uid => Sys2Proof.Machine.execSnapshotStagingFull uid s
  | .stagingAbort slot => Sys2Proof.Machine.execStagingAbort slot s
  | .partComplete slot epoch => Sys2Proof.Machine.execPartComplete slot epoch s
  | .restoreResume slot place => Sys2Proof.Machine.execRestoreResume slot place s
  | .packetArrival p => Sys2Proof.Machine.execPacketArrival p s
  | .rerunLogExhausted slot => Sys2Proof.Machine.execRerunLogExhausted slot s
  | .yieldSpinExpiry uid => Sys2Proof.Machine.execYieldSpinExpiry uid s
  | .launchRecordArrival slot raw fps who => Sys2Proof.Machine.execLaunchRecordArrival slot raw fps who s
  | .doorbellWrite part slot bell => Sys2Proof.Machine.execDoorbellWrite part slot bell s
  | .bindIntent core head lid rest => Sys2Proof.Machine.execBindIntent core head lid rest s
  | .preemptDrain slot => Sys2Proof.Machine.execPreemptDrain slot s
  | .contextReset slot => Sys2Proof.Machine.execContextReset slot s
  | .agedIssue core uid => Sys2Proof.Machine.execAgedIssue core uid s
  | .collectiveStep die handle peers data qs => Sys2Proof.Machine.execCollectiveStep die handle peers data qs s
  | .collectiveStepRetry die handle => Sys2Proof.Machine.execCollectiveStepRetry die handle s
  | .collectiveFailureNotice die handle => Sys2Proof.Machine.execCollectiveFailureNotice die handle s
  | .packetAck slot dst seq => Sys2Proof.Machine.execPacketAck slot dst seq s
  | .gapNotice slot src seq => Sys2Proof.Machine.execGapNotice slot src seq s
  | .linkReplay port seq => Sys2Proof.Machine.execLinkReplay port seq s
  | .shadowLatchReport phys uid nonreplayable => Sys2Proof.Machine.execShadowLatchReport phys uid nonreplayable s
  | .markerArrival slot src epoch seq => Sys2Proof.Machine.execMarkerArrival slot src epoch seq s
  | .cowCopy slot u => Sys2Proof.Machine.execCowCopy slot u s
  | .hostGranuleAck slot => Sys2Proof.Machine.execHostGranuleAck slot s
  | .completionNotice slot src epoch => Sys2Proof.Machine.execCompletionNotice slot src epoch s
  | .snapshotAborted slot epoch => Sys2Proof.Machine.execSnapshotAborted slot epoch s
  | .abortNotice slot src epoch => Sys2Proof.Machine.execAbortNotice slot src epoch s
  | .restoreReadyNotice slot src => Sys2Proof.Machine.execRestoreReadyNotice slot src s
  | .haltMarker slot src => Sys2Proof.Machine.execHaltMarker slot src s
  | .tdispLock part => Sys2Proof.Machine.execTdispLock part s
  | .tdispUnlocked part => Sys2Proof.Machine.execTdispUnlocked part s
  | .pcieHotReset => Sys2Proof.Machine.execPcieHotReset s
  | .mailboxRequest r => Sys2Proof.Machine.execMailboxRequest r s
  | .pageTableRequest slot va level entry => Sys2Proof.Machine.execPageTableRequest slot va level entry s
  | .partmodeRequest part val => Sys2Proof.Machine.execPartmodeRequest part val s
  | .barAccess write off data => Sys2Proof.Machine.execBarAccess write off data s
  | .getVersion => Sys2Proof.Machine.execGetVersion s
  | .getCapabilities => Sys2Proof.Machine.execGetCapabilities s
  | .negotiateAlgorithms => Sys2Proof.Machine.execNegotiateAlgorithms s
  | .getDigests => Sys2Proof.Machine.execGetDigests s
  | .getCertificate slot => Sys2Proof.Machine.execGetCertificate slot s
  | .challenge => Sys2Proof.Machine.execChallenge s
  | .getMeasurements r => Sys2Proof.Machine.execGetMeasurements r s
  | .keyExchange r => Sys2Proof.Machine.execKeyExchange r s
  | .finish session => Sys2Proof.Machine.execFinish session s
  | .endSession session => Sys2Proof.Machine.execEndSession session s
  | .heartbeat session => Sys2Proof.Machine.execHeartbeat session s
  | .keyLoad session slot ks key => Sys2Proof.Machine.execKeyLoad session slot ks key s
  | .unsupportedRequest => Sys2Proof.Machine.execUnsupportedRequest s
  | .peerKeyExchange slot other => Sys2Proof.Machine.execPeerKeyExchange slot other s
  | .tier3TagFail slot pa => Sys2Proof.Machine.execTier3TagFail slot pa s
  | .moduleReset => Sys2Proof.Machine.execModuleReset s
  | .pcieLinkUp => Sys2Proof.Machine.execPcieLinkUp s

end Sys2Proof.Machine
end

