-- ==== Sys2Proof/Machine/Next.lean ====
section
/-! DEFINITION. What the module does next: an event that is due, a rendezvous that is complete, an event that an agent may
choose, the next core's issue, or the passing of a cycle (spec/01 R20, spec/03 R62 to R65, R69). -/

namespace Sys2Proof.Machine

/-- What the machine does next: run an instruction or an event on a device, or go on with another device. -/
inductive Next where
  | run (i : Instr) (d : Dev)
  | goOn (d : Dev)
  deriving DecidableEq, Repr

/-- The first event of the agenda, when its cycle has come. DESIGN CHOICE: notes/assumptions/7. -/
def Dev.agendaNext (d : Dev) : Option Next :=
  match d.agenda with
  | [] => none
  | (t, i) :: r => if t ≤ d.pcyc then some (.run i { d with agenda := r, cur := .none }) else none

/-! ### Events that are due -/

/-- A list of at most one. -/
def only {α : Type} (b : Bool) (a : α) : List α := if b then [a] else []

/-- What is due of a thread: a result its next instruction waits for (R44), a trap (R371, R372), a missed promise (R196), the
end of a replay (R391, R401) or of a wait for staging (R421). -/
def Dev.threadDue (d : Dev) (t : Thread) : List Instr :=
  let both := d.threads.filter (fun x => x.uid == t.gangUid || (x.shadow && x.partner == some t.gangUid))
  only (d.lateDue t) (.lookaheadResult t.uid) ++
    only ((t.timerDue.isSome || (t.pending.isSome && 255 ≤ t.skid)) && both.all d.trapWaits) (.pendingTrapTaken t.uid) ++
    only (d.missed t && d.ctxIssues t.ctx) (.promiseMissed t.uid) ++
    only (t.replayOver d.pcyc) (if t.replays < 3 then .replayReissue t.uid else .supplySettled (d.physOf t.core)) ++
    only (t.stagedSince.isSome && d.staging < stagingCap) (.snapshotStagingFull t.uid)

/-- A packet at the head of a channel that nothing holds back any more (R205, R421, R444). -/
def Dev.headDue (d : Dev) (slot : Nat) (c : Ctx) (vm : Nat) (ch : Chan) : Option Packet :=
  match ch.window.find? (fun p => p.seq == ch.recvSeq) with
  | some p =>
    if c.phase.issues && p.slot = slot && p.src = vm && p.dst = c.vm && c.others.contains vm && !(ch.gaps.contains ch.recvSeq) &&
        !(newer p.epoch c.regs.epoch) && !(d.packetWaits slot c p) then some p
    else none
  | none => none

/-- What is due of a context. -/
def Dev.ctxDue (d : Dev) (slot : Nat) (c : Ctx) : List Instr :=
  only (c.timerOver && c.phase.counts) (.timer slot) ++
    only (c.rerun && c.rlog = [] && c.phase.issues) (.rerunLogExhausted slot) ++
    c.chans.flatMap (fun e =>
      (e.2.sent.filter d.resendDue).map (fun q => .packetRetransmit slot e.1 q.pkt.seq) ++
        (match d.headDue slot c e.1 e.2 with | some p => [.packetArrival p] | none => [])) ++
    (c.snaps.filter (fun s => c.partDone s && !s.sentNotice)).map (fun s => .partComplete slot s.epoch) ++
    (match c.phase with
     | .recording since e _ =>
       if c.regs.epoch = e then only (since + 24000 ≤ d.pcyc) (.recordStepEnd slot)
       else only (since + 23999 ≤ d.pcyc && d.recordReady slot) (.recordStep slot e)
     | _ => [])

/-- The oldest live snapshot is to be aborted (R421). -/
def Dev.stagingDue (d : Dev) : List Instr :=
  if d.stagingLate then (match d.oldestSnap with | some (k, _) => [.stagingAbort k] | none => []) else []

/-- A rendezvous has been open too long, and the launch that its gang belongs to does not end already (R100). -/
def Dev.watchdogOver (d : Dev) (g : Gang) : Bool :=
  d.watchdogDue g && ((d.launch? g.ctx g.lid).map (fun l => l.state.holds && l.endPending.isNone)).getD false

/-- Rows are in use above a core: the model follows the refresh windows of such cores. DESIGN CHOICE: notes/assumptions/71. -/
def Dev.rowsAbove (d : Dev) (c : Core) : Bool :=
  d.launches.any (fun l => l.state.holds && l.ranges.any (fun r => r.row)) && c.binds.any Option.isSome

/-- What is due of a core. -/
def Dev.coreDue (d : Dev) (n : Nat) (c : Core) : List Instr :=
  (c.gangs.filter (fun g => d.watchdogOver g.2)).map (fun g => .watchdog n g.1) ++
    (c.ott.filter (fun e => e.complete d.pcyc)).map (fun e => .ottEntryFree n e.idx) ++
    (c.ott.filter (fun e => e.accs.any (fun a => a.overdue d.pcyc))).map (fun e => .fabricTimeout n e.idx) ++
    ((upTo 8).zip c.slots).flatMap (fun s =>
      only (d.activated s.2) (.activationComplete n s.1) ++
        only ((s.2.state = .opening || s.2.state = .ready) && s.2.close ≤ d.cyc s.2.ctx && !(d.slotBusy n s.1)) (.forcedClose n s.1)) ++
    only (d.crossed n) (.rowTransfer n) ++ only (c.bus.any (fun b => b.att = 3)) (.laneSwap n) ++
    (c.banks.filter (fun b => b.2.preEnd ≠ 0 && b.2.preEnd ≤ d.pcyc)).map (fun b => .prechargeDone n b.1) ++
    only (d.canAccept n) (.matrixAccept n) ++
    (c.binds.filterMap id).flatMap (fun r => only (d.bindsNow n r) (.chunkBind r.ctx r.lid r.chunk n)) ++
    (if d.rowsAbove c then ((upTo 8).filter (d.refreshDue n)).map (fun k => .refreshWindow n k) else [])

/-- What is due of a die's engine. -/
def Dev.dieDue (d : Dev) (k : Nat) (x : Die) : List Instr :=
  x.jobs.flatMap (fun j =>
    match j.failing with
    | some (c, _) => only (j.pend = []) (.jobFail k j.handle.toNat c 0)
    | none => only (j.crypt = 1 && j.todo = [] && j.pend = [] && !j.emitted && d.ctxIssues j.ctx) (.gcmOpenCheck k j.handle.toNat))

/-- What is due of Foehn and of fills. -/
def Dev.physDue (d : Dev) : List Instr :=
  (d.phys.filter (fun p => p.2.stepDue d.pcyc)).map (fun p => .foehnStep p.1) ++
    (if d.pcyc < 12000000 then [] else ((upTo 544).filter d.deepenDue).map (fun p => .foehnDeepen p)) ++
    (if d.fills = [] then [] else ((upTo 4).filter (fun k => (d.nextFill k).isSome)).map (fun k => .fillStart k))

/-- Events whose time the spec fixes, in the order in which one cycle takes them. -/
def Dev.dueEvents (d : Dev) : List Instr :=
  d.cores.flatMap (fun e => d.coreDue e.1 e.2) ++ ((upTo 4).zip d.dies).flatMap (fun e => d.dieDue e.1 e.2) ++
    d.ctxs.flatMap (fun e => d.ctxDue e.1 e.2) ++ d.stagingDue ++ d.threads.flatMap d.threadDue ++ d.physDue

/-- An event of the device itself that is due now; or a core that Foehn quarantines, once it is clear (R402). DESIGN CHOICE: notes/assumptions/7. -/
def Dev.dueNext (d : Dev) : Option Next :=
  match d.dueEvents with
  | [] => (d.phys.find? (fun p => d.doomReady p.1)).map (fun p => .goOn (d.doomEnd p.1))
  | i :: _ => some (.run i { d with cur := .none })

/-! ### A rendezvous that a member's leaving made complete -/

/-- The rendezvous is complete; a write of SVAR waits for the gang's sampled products, MGRP for those that still write its table (R69,
R281, R316). -/
def Core.meets (c : Core) (k : Nat) (g : Gang) : Option Instr :=
  match g.rdv with
  | none => none
  | some v =>
    if v.complete && !v.parts.isEmpty && !g.freed then
      match v.instr with
      | .svarWrite .. => if c.svarBusy k then none else some v.instr
      | .mgrp _ _ _ _ a => if c.tableBusy k g a then none else some v.instr
      | i => some i
    else none

/-- A complete rendezvous executes (R69). DESIGN CHOICE: notes/assumptions/7. -/
def Dev.meetNext (d : Dev) : Option Next :=
  d.cores.findSome? (fun e => e.2.gangs.findSome? (fun g =>
    (e.2.meets g.1 g.2).map (fun i => .run i { d with cur := .complete e.1 g.1 })))

/-! ### Events that an agent chooses -/

/-- A core's bus, layers and matrix engine may act. DESIGN CHOICE: notes/assumptions/8. -/
def Dev.coreMay (d : Dev) (n : Nat) (c : Core) : List Instr :=
  only (d.busReady n) (.rowTransfer n) ++ only (d.matChoices n ≠ []) (.matrixStep n) ++
    (if d.rowsAbove c then ((upTo 8).filter (d.refreshMay n)).map (fun k => .refreshWindow n k) else [])

/-- A core has a bind slot for a record of a chunk that does not wait there already. -/
def Dev.slotFor (d : Dev) (slot lid chunk core : Nat) : Bool :=
  let c := d.core core
  core < 512 && d.physOf core < 544 && c.freeBind.isSome && (c.waitSlot slot lid chunk).isNone

/-- A free chunk of a launch and the cores where Levante may place it; under SCHED = 1 the host's intents. DESIGN CHOICE: notes/assumptions/8. -/
def Dev.bindMay (d : Dev) (slot : Nat) (c : Ctx) (l : Launch) : List Instr :=
  if d.hostSched c.part then
    (l.intents.map (fun i => ((BindRec.ofBits i.2 l.chunkSize).chunk, i.1))).filterMap (fun i =>
      if c.binds l && d.slotFor slot l.lid i.1 i.2 then some (.chunkBind slot l.lid i.1 i.2) else none)
  else
    let free := (upTo l.numChunks).filter (fun k => !(l.started.contains k))
    match free with
    | [] => []
    | _ =>
      match free[Config.pick (d.ctr + 1) % free.length]? with
      | some k => ((upTo 512).filter (fun n => d.mayBind c l k n && d.slotFor slot l.lid k n)).map (fun n => .chunkBind slot l.lid k n)
      | none => []

/-- An address of a range that a leaf maps. -/
def Dev.addrIn (d : Dev) (c : Ctx) (a n : Nat) (x : Leaf) : Option W64 :=
  (((upTo (n / 65536 + 2)).map (fun k => if k = 0 then a else (a / 65536 + k) * 65536)).find? (fun v =>
    v < a + n && (d.leaf? c v).map Leaf.at_ == some x.at_)).map (BitVec.ofNat 64)

/-- A page that a launch's lease waits for (R333). -/
def Dev.absentPage (d : Dev) (c : Ctx) (l : Launch) : Option W64 :=
  (l.ranges.map (fun r => (r.base.toNat, r.len)) ++ [c.code, c.ro]).findSome? (fun r =>
    (d.leavesIn c r.1 r.2).findSome? (fun o => o.bind (fun x => if x.p then none else d.addrIn c r.1 r.2 x)))

/-- Levante may go on with a launch. DESIGN CHOICE: notes/assumptions/8. -/
def Dev.launchMay (d : Dev) (l : Launch) : List Instr :=
  match d.ctx? l.ctx with
  | none => []
  | some c =>
    let page := if d.hostResidency c.part then [] else (match d.absentPage c l with | some v => [.pageResident l.ctx { va := v, sealed := [] }] | none => [])
    match c.phase, l.state with
    | .running, .queued => [.leaseAcquireStart l.ctx l.lid]
    | .running, .leasing =>
      if (d.leaseFlt l.ctx c l).isSome then [.leaseHeld l.ctx l.lid]
      else if !(d.allResident c l) then page
      else only (!(d.rowBlocked l.ctx c l)) (.leaseHeld l.ctx l.lid)
    | .running, .ready => d.bindMay l.ctx c l
    | .running, .running => d.bindMay l.ctx c l
    | .restoring _, _ => if l.state.holds && !(d.allResident c l) then page else []
    | _, _ => []

/-- Levante and Bora may go on with a context. DESIGN CHOICE: notes/assumptions/8. -/
def Dev.ctxMay (d : Dev) (slot : Nat) (c : Ctx) : List Instr :=
  (match c.phase, c.saved with
   | .recording _ e _, _ => if c.regs.epoch = e then [.recordStepEnd slot] else only (d.recordReady slot) (.recordStep slot e)
   | .saving _, _ => only (d.quiet slot c) (.contextSaved slot)
   | .saved, some x =>
     if c.noResume || !(d.refilled c) then []
     else (let y := d.strand slot x; match y.1.findPlace slot y.2 with | some p => [.contextResume slot p] | none => [])
   | .draining _, _ => only (!(d.hasChunks slot)) (.contextResume slot [])
   | .restoring _, some x =>
     if d.mayRestore slot c then
       (let y := d.strand slot x; match y.1.findRestored slot c y.2 with | some p => [.restoreResume slot p] | none => [])
     else []
   | _, _ => []) ++
    (match (c.snaps.filter (fun s => s.live)).flatMap Snap.todo with
     | [] => []
     | us =>
       match us[Config.pick (d.ctr + 1) % us.length]? with
       | some u => only (!(c.needsCopy u) || d.staging < stagingCap) (.snapshotSweep slot u)
       | none => []) ++
    only (((d.boraNext).map (fun x => x.1 == slot)).getD false) (.boraStream slot)

/-- Events that an agent may take now, at a time the spec leaves free. DESIGN CHOICE: notes/assumptions/8. -/
def Dev.freeEvents (d : Dev) : List Instr :=
  d.cores.flatMap (fun e => d.coreMay e.1 e.2) ++
    (upTo 4).flatMap (fun k =>
      (match d.grantedJob k with | some j => [.jobSegment k j.handle.toNat] | none => []) ++
        (match d.nextTask k with | some _ => [.taskDequeue k] | none => [])) ++
    (d.threads.filter (fun t => t.pending.isSome && d.trapWaits t)).map (fun t => .pendingTrapTaken t.uid) ++
    (d.threads.filter (fun t => !t.shadow && t.needs.any (fun m => t.hwm < m) && d.ctxIssues t.ctx && (d.growMap t (t.needs.getD 0)).isSome &&
      !(((d.ctx? t.ctx).map (fun c => d.hostGrows c.part)).getD false))).map (fun t => .privateGrowth t.uid) ++
    (d.threads.filter d.lateMay).map (fun t => .lookaheadResult t.uid) ++
    d.launches.flatMap d.launchMay ++ d.ctxs.flatMap (fun e => d.ctxMay e.1 e.2)

/-- An agent takes one of its events, or none in this cycle. DESIGN CHOICE: notes/assumptions/7. -/
def Dev.freeNext (d : Dev) : Option Next :=
  match d.freeEvents with
  | [] => none
  | es =>
    match es[Config.pick d.ctr % (es.length + 1)]? with
    | some i => some (.run i { d with cur := .none, ctr := d.ctr + 1 })
    | none => none

/-! ### Issue, wakes, and the passing of a cycle -/

/-- The next core in this cycle issues: its group's instruction, or the fault of its fetch or encoding (R53, R54, R65). DESIGN CHOICE: notes/assumptions/7. -/
def Dev.issueNext (d : Dev) : Option Next :=
  match d.nextIssue with
  | none => none
  | some (core, x) =>
    match x.group with
    | [] => none
    | t :: ts =>
      let d1 := d.begin core ((t :: ts).map Thread.uid) t.pc x.table
      match d1.fetch t.ctx t.pc with
      | .fails c => some (.goOn (d1.fetchFail c))
      | .word w =>
        match decode w with
        | .ok i => some (.run i (d1.parity i (wordGuard w).2))
        | .error f => some (.goOn (d1.encodingFault w f))

/-- Deadlines that a thread sleeps to; a flip of the same cycle comes first, and the thread is ready in the following cycle
(R78, R159). DESIGN CHOICE: notes/assumptions/7. DEDUCED: notes/assumptions/11. -/
def Dev.wakeNext (d : Dev) : Option Next :=
  d.threads.findSome? (fun t =>
    if !(d.ctxIssues t.ctx) then none
    else if d.sleepOver t then some (.run (.sleepWake t.uid) { d with cur := .none, turn := 512 })
    else if d.bwaitOver t && !(d.logStalls t.ctx) then some (.run (.bwaittTimeout t.uid) { d with cur := .none, turn := 512 })
    else none)

/-- A drain's deadline, and the bound of a save: an EXIT, a violation or the end of the save in the same cycle comes first (R101). DESIGN CHOICE: notes/assumptions/7. -/
def Dev.boundNext (d : Dev) : Option Next :=
  d.ctxs.findSome? (fun e =>
    if d.drainOver e.1 e.2 then some (.run (.drainDeadline e.1) { d with cur := .none, turn := 512 })
    else if d.saveLate e.2 then some (.run (.contextSaveTimeout e.1) { d with cur := .none, turn := 512 })
    else none)

/-- A halt marker leaves behind the packets of its channel (R442). -/
def Dev.egressWaits (d : Dev) (e : Egress) : Bool :=
  e.pkt.body == .halted && d.egress.any (fun x => x.pkt.slot == e.pkt.slot && x.pkt.dst == e.pkt.dst && x.pkt.body != .halted)

/-- A Jartus port grants one of its packets, by class (R96). DESIGN CHOICE: notes/assumptions/154. -/
def Dev.grantPort (d : Dev) (k : Nat) : Dev :=
  let q := d.egress.filter (fun e => e.port == k && !(d.egressWaits e))
  match grantOf Egress.prio Egress.passed q with
  | none => d
  | some e =>
    let past := passedBy Egress.prio q e
    { d with
      egress := (d.egress.erase e).map (fun x => if past.contains x then { x with passed := x.passed + 1 } else x)
      outbox := d.outbox ++ [e.pkt] }

/-- Every port grants. DESIGN CHOICE: notes/assumptions/154. -/
def Dev.grantPorts (d : Dev) : Dev := if d.egress.isEmpty then d else (upTo 18).foldl Dev.grantPort d

/-- A write of an engine, of another module, of the bus or of the matrix engine, or an entry of a re-run's log that no thread makes,
waits for staging (R421, R443). DEDUCED: notes/assumptions/99. -/
def Dev.writesWait (d : Dev) : Bool :=
  stagingCap ≤ d.staging &&
    (d.dies.any (fun x =>
        x.jobs.any (fun j => d.ctxIssues j.ctx && j.failing.isNone && (j.kind.coll || j.todo ≠ [] || j.toEmit)) ||
          x.tasks.any (fun t => d.logStalls t.ctx)) ||
      d.ctxs.any (fun e => e.2.chans.any (fun ch =>
        (ch.2.window.find? (fun p => p.seq == ch.2.recvSeq)).any (fun p => d.packetStalls e.1 p.body || d.logStalls e.1))) ||
      d.cores.any (fun e => e.2.mq.any d.matStalls ||
        e.2.bus.any (fun b => match b.kind with | .put .. => d.stagingStall ((d.slot e.1 b.slot).pa / 4096) | _ => false)) ||
      d.threads.any (fun t => d.bwaitOver t && d.logStalls t.ctx))

/-! ### The copies of stash, registers and tiles (R420) -/

/-- The bytes of a unit of stash, registers or tiles of a context as they are now. -/
def Dev.unitNow (d : Dev) (slot : Nat) (u : UnitId) : Option (List Byte) :=
  let chunk := fun (o : Nat) => d.chunks.find? (fun c => c.order == o)
  match u with
  | .stash o b => (chunk o).map (fun c => c.stash.getBytes (4096 * b) 4096)
  | .regs o lane k =>
    (chunk o).map (fun c => wordBytes (((laneFile (d.threads.filter (fun t => t.ctx == slot)) c lane).drop (1024 * k)).take 1024))
  | .tile core k => ((d.core core).tiles[k]?).map (fun t => wordBytes t.data)
  | _ => none

/-- The units that a step has written, each with the slot of its context, and that a live snapshot still needs: those whose bytes have
changed. DEDUCED: notes/assumptions/25. -/
def Dev.wroteUnits (d e : Dev) : List (Nat × UnitId) :=
  d.ctxs.flatMap (fun x =>
    (((x.2.snaps.filter (fun s => s.live)).flatMap Snap.todo).eraseDups.filter (fun u =>
      x.2.needsCopy u && (e.unitNow x.1 u).isSome && d.unitNow x.1 u ≠ e.unitNow x.1 u)).map (fun u => (x.1, u)))

/-- A step has taken a device to another: what it wrote of stash, registers and tiles is copied for the live snapshots; where staging has
no room for it, the instruction waits instead (R420, R421). DEDUCED: notes/assumptions/25. -/
def Dev.copied (d e : Dev) : Dev :=
  match d.wroteUnits e with
  | [] => e
  | us =>
    if d.group ≠ [] && stagingCap < e.staging + us.length then d.waitAll d.group (.staging d.pcyc)
    else us.foldl (fun e u => e.copyUnit u.1 u.2 ((((d.group.head?).bind d.thread?).map d.prioOf).getD 2)) e

/-- The outcome of an instruction or event that ran on a device, with those copies. DEDUCED: notes/assumptions/25. -/
def withCopies (d : Dev) (o : Host.Outcome State Fault Refusal) : Host.Outcome State Fault Refusal :=
  match o with
  | .next t => .next { t with dev := d.copied t.dev }
  | .fault f => .fault f
  | .refused r => .refused r

/-- One cycle passes: the fabric ports grant, and what waits for staging has waited one more. DESIGN CHOICE: notes/assumptions/7. DEDUCED: notes/assumptions/10. -/
def Dev.passOn (d : Dev) : Dev :=
  { d.grantPorts.pass with stalled := if d.writesWait then some (d.stalled.getD d.pcyc) else none }

/-- What the module does of itself before anything else: it detects errors in its stores, writes EPOCH, and ends what yield=spin passes over (R46, R336, R365). DESIGN CHOICE: notes/assumptions/72. -/
def Dev.keepNext (d : Dev) : Option Next :=
  if d.scrubDue then some (.goOn d.scrub)
  else if d.epochOwed ≠ [] then some (.goOn d.syncEpochs)
  else (d.threads.find? (fun t => !t.shadow && d.spinOver t)).map (fun t => .goOn (d.endSpin t.uid))

/-- What the module does next; of what comes in one cycle, in this order (R101). DESIGN CHOICE: notes/assumptions/7. -/
def Dev.next (d : Dev) : Next :=
  match d.keepNext with
  | some n => n
  | none =>
    match d.dueNext with
    | some n => n
    | none =>
      match d.agendaNext with
      | some n => n
      | none =>
        match d.meetNext with
        | some n => n
        | none =>
          match d.freeNext with
          | some n => n
          | none =>
            match d.issueNext with
            | some n => n
            | none =>
              match d.wakeNext with
              | some n => n
              | none =>
                match d.boundNext with
                | some n => n
                | none => .goOn d.passOn

end Sys2Proof.Machine
end

