-- ==== Sys2Proof/Machine/Step.lean ====
section
/-! DEFINITION. One step of the machine, and the state in which a given instruction runs next. -/

namespace Sys2Proof.Machine

/-- One step: while bring-up runs its next step completes (R466); else what the device does next is run. -/
def step (s : State) : Host.Outcome State Fault Refusal :=
  if s.host.booting then exec .moduleReset s
  else
    match s.dev.next with
    | .run i d => withCopies d (exec i { s with dev := d })
    | .goOn d => .next { s with dev := d }

/-- The module brought up, with one context, one launch and one thread, whose next twelve bytes are an instruction word. DESIGN CHOICE: notes/assumptions/1. -/
def State.withFetchWord (s : State) (nbits w : Nat) : State :=
  { host := { s.host with step := 8, ready := true, imgfail := false, failimg := 0, linkUp := true }
    dev := fetchDev s.dev (BitVec.ofNat 96 (w % 2 ^ nbits)) }

end Sys2Proof.Machine
end

