-- ==== Sys2Proof/Safety.lean ====
section
/-! DEFINITION. What a safe run is, and the words in which statements say what an instruction does: the checks before it, the
device as a per-lane instruction leaves it, the meeting of a gang-wide one, and the invariant of bring-up. -/

namespace Sys2Proof.Machine

/-! ### Safe runs -/

/-- The machine goes on for `n` steps. -/
def SafeFor : Nat → State → Prop
  | 0, _ => True
  | n + 1, s => ∃ t, step s = .next t ∧ SafeFor n t

/-- A run is safe: it never ends in a fault or a refusal. -/
def Safe (s : State) : Prop := ∀ n, SafeFor n s

/-! ### Events -/

/-- An event takes place: where its condition holds, the device becomes what `f` says, and the host side stays. -/
def DevRuns (i : Instr) (pre : Dev → Prop) (f : Dev → Dev) : Prop := ∀ s : State, pre s.dev → exec i s = .next { s with dev := f s.dev }

/-- An event between the host and the security core takes place: the host side becomes what `f` says, and the device stays. -/
def HostRuns (i : Instr) (pre : HostSide → Prop) (f : HostSide → HostSide) : Prop :=
  ∀ s : State, pre s.host → exec i s = .next { s with host := f s.host }

/-! ### Per-lane instructions (R36, R45, R54, R73) -/

/-- The device as a per-lane instruction's own work finds it: a fresh number for free values, the yield hint noted (R46), the late
reads that the instruction waits for performed (R44, R107), and its latches in place of the earlier ones (R45). -/
def Dev.opened (d : Dev) (i : Instr) (h : Hd) : Dev :=
  ((d.tick.prefer h.yh).confirmed i false).mapUids d.group (fun t => { t with latches := latchesOf i })

/-- The threads of the issue group that are not guarded off (R36), in ascending lane order. -/
def Dev.acting (d : Dev) (h : Hd) (bits : List Nat) : List Thread := d.members.filter (fun t => t.active h bits)

/-- A thread passes the checks before an instruction's own: its level is high enough, the registers named exist, it is in a
gang where that is needed, and its guard is not poisoned (R54, R17, R376). -/
def Dev.Passes (d : Dev) (i : Instr) (h : Hd) (gangOp : Bool) (t : Thread) : Prop :=
  levelOf i ≤ t.level.num ∧ (∀ n ∈ namedOf i, n.regBad t.regs.length = false) ∧
    ((gangOp = true ∨ ∃ n ∈ namedOf i, n.isGang = true) → (d.gangOf? t).isSome = true) ∧ t.predP h.gp = false

/-- Every acting thread passes those checks, and the instruction's own. -/
def Dev.AllPass (d : Dev) (i : Instr) (h : Hd) (bits : List Nat) (gangOp : Bool) (ok : Dev → Thread → Prop) : Prop :=
  ∀ t ∈ (d.opened i h).acting h bits, (d.opened i h).Passes i h gangOp t ∧ ok (d.opened i h) t

/-- A thread after an instruction of its group: retired, with the yield hint (R32, R46, R368). -/
def Thread.gone (t : Thread) (h : Hd) (now : Nat) : Thread := (t.retire now).hint h.yh now

/-- The device after a per-lane instruction: the threads are changed by `G`, and nothing else is touched. -/
def Dev.after (d : Dev) (i : Instr) (h : Hd) (G : Thread → Thread) : Dev :=
  { d.opened i h with threads := (d.opened i h).threads.map G }

/-- What `G` does: an acting thread becomes what `F` says, a guarded-off thread of the group goes on, and every other thread
stays as it is. -/
def Dev.LaneMap (d : Dev) (i : Instr) (h : Hd) (bits : List Nat) (F : Dev → Thread → Thread) (G : Thread → Thread) : Prop :=
  let e := d.opened i h
  (∀ t ∈ e.acting h bits, G t = F e t) ∧
    (∀ t, d.group.contains t.uid = true → ((e.acting h bits).map Thread.uid).contains t.uid = false → G t = t.gone h d.pcyc) ∧
    (∀ t, d.group.contains t.uid = false → G t = t)

/-- A per-lane instruction completes: wherever every acting thread passes its checks, `exec` answers the state in which the
acting threads have become what `F` says and the others of the group have gone on. -/
def LaneEnds (i : Instr) (h : Hd) (bits : List Nat) (gangOp : Bool) (ok : Dev → Thread → Prop) (F : Dev → Thread → Thread) :
    Prop :=
  ∀ s : State, s.dev.AllPass i h bits gangOp ok →
    ∃ G, exec i s = .next { s with dev := s.dev.after i h G } ∧ s.dev.LaneMap i h bits F G

/-- The same where the acting threads are changed by `F` and go on after the instruction. -/
def LaneRuns (i : Instr) (h : Hd) (bits : List Nat) (gangOp : Bool) (ok : Dev → Thread → Prop) (F : Dev → Thread → Thread) :
    Prop :=
  LaneEnds i h bits gangOp ok (fun e t => (F e t).gone h e.pcyc)

/-- A transfer of control completes: the acting threads are changed by `F` and go on at the target, which is aligned and lies in
the local window (R33, R73). -/
def TransferRuns (i : Instr) (h : Hd) (ok : Dev → Thread → Prop) (F : Dev → Thread → Thread) (tgt : Dev → Thread → W64) : Prop :=
  LaneEnds i h [0] false (fun e t => ok e t ∧ (tgt e t).toNat % 4 = 0 ∧ localTarget (tgt e t) = true)
    (fun e t => ((F e t).retireTo (tgt e t) e.pcyc).hint h.yh e.pcyc)

/-- An instruction whose effect leaves the core passes its checks: those of every acting thread, and the pairs of protected mode
agree on what leaves (R405). -/
def Dev.OutPass (d : Dev) (i : Instr) (h : Hd) (gangOp : Bool) (key : Dev → Thread → List Nat) (ok : Dev → Thread → Prop) : Prop :=
  let e := d.opened i h
  d.AllPass i h [0] gangOp ok ∧ e.acting h [0] ≠ [] ∧ mismatchOf e.members (e.acting h [0]) (key e) = none

/-- Such an instruction completes: the threads that act for their pairs make the device `body` gives. -/
def OutRuns (i : Instr) (h : Hd) (gangOp : Bool) (key : Dev → Thread → List Nat) (ok : Dev → Thread → Prop)
    (body : Dev → List Thread → Dev) : Prop :=
  ∀ s : State, s.dev.OutPass i h gangOp key ok →
    exec i s = .next { s with dev := body (s.dev.opened i h) (primaries ((s.dev.opened i h).acting h [0])) }

/-! ### Gang-wide instructions (R69, R283) -/

/-- The rendezvous whose completion executes an instruction: its gang and its participants by rank; no guard of theirs is poisoned,
and where guards are compared the pairs agree on theirs (R405). -/
def Dev.MeetsAt (d : Dev) (i : Instr) (h : Hd) (m : Meet) : Prop :=
  d.cur = .complete m.core m.idx ∧ d.meet? m.core m.idx = some m ∧ (∀ v, m.gang.rdv = some v → v.complete = true) ∧
    (∀ p ∈ m.parts, p.2.predP h.gp = false) ∧ (comparesGuards i = true → d.oddGuards h m = [])

/-- A gang-wide instruction completes: the device is what `body` gives for the participants whose guard is true. -/
def MeetRuns (i : Instr) (h : Hd) (ok : Dev → Meet → Prop) (body : Dev → Meet → List Thread → Dev) : Prop :=
  ∀ (s : State) (m : Meet), s.dev.MeetsAt i h m → ok s.dev.tick m →
    exec i s = .next { s with dev := body s.dev.tick m (m.true? h) }

/-- A gang-wide instruction that writes one gang scalar, if the guard is true in some participant: its value with poison, what
the participants whose guard is true get, and all go on. -/
def Dev.meetWrites (d : Dev) (h : Hd) (m : Meet) (act : List Thread) (r : SReg) (x : W64) (p : Bool) (f : Thread → Thread) : Dev :=
  if act = [] then d.meetDone h m
  else (act.foldl (fun d t => d.deliver t.uid f) (d.mapGang m.core m.idx (fun g => g.setS r x p))).meetDone h m

/-! ### Values of the arithmetic instructions (R226, R236, R238, R240) -/

/-- Element k of an operand as TY reads it. -/
def elemNum (ty : Ty) (x k : Nat) : Int :=
  let b := BitVec.ofNat ty.width (x / 2 ^ (ty.width * k))
  if ty.signed then b.toInt else b.toNat

/-- A number lies in the type. -/
def Fits (ty : Ty) (x : Int) : Prop :=
  if ty.signed then -(2 ^ (ty.width - 1) : Int) ≤ x ∧ x < 2 ^ (ty.width - 1) else 0 ≤ x ∧ x < 2 ^ ty.width

/-- The bits V leaves of an exact number: modulo 2^w, or clamped to the type for `sat`. -/
def putNum (ty : Ty) (v : Ov) (x : Int) : Nat :=
  let lo : Int := if ty.signed then -(2 ^ (ty.width - 1)) else 0
  let hi : Int := if ty.signed then 2 ^ (ty.width - 1) - 1 else 2 ^ ty.width - 1
  (BitVec.ofInt ty.width (if v = .sat then max lo (min hi x) else x)).toNat

/-- Elements of w bits put together; a guarded-off element keeps the old bits. -/
def merged (w n : Nat) (gov : Nat → Bool) (val : Nat → Nat) (old : Nat) : Nat :=
  ((upTo n).map (fun k => (if gov k then val k % 2 ^ w else elemOf w k old) * 2 ^ (w * k))).sum

/-- A lane's element-wise result: its elements, its poison (with that of a kept element), its flags. -/
def laneElems (e : Env) (h : Hd) (r : VReg) (two : Bool) (w n : Nat) (val : Nat → Nat) (fl : FFlags) (p : Bool) (t : Thread) : Thread :=
  let old := e.read 3 (.v r two)
  let all := (upTo n).all (e.t.gov h w)
  (t.wrRes h r (aluWords two (merged w n (e.t.gov h w) val old.1)) (p || (!all && old.2))).orFlags fl

/-- A lane's result of one element. -/
def laneOne (h : Hd) (r : VReg) (two : Bool) (x : Nat) (fl : FFlags) (p : Bool) (t : Thread) : Thread :=
  (t.wrRes h r (aluWords two x) p).orFlags fl

/-- PD as a comparison writes it: the four or eight bits of one element (R238). -/
def putPD (t : Thread) (pd : Option PReg) (two b p : Bool) : Thread :=
  match pd with
  | none => t
  | some q => t.setPred q (if b then (if two then 0xFF else 0x0F) else 0x00) p

/-- An integer instruction of type TY with V (R240): the elements are the exact result of `f` on the elements of its sources,
narrowed as V says; under `trap` it completes where every governed element fits. PD gets `cy` of the sources. -/
def IntRuns (i : Instr) (h : Hd) (ty : Ty) (v : Ov) (r : VReg) (a b c : Opd) (f : Int → Int → Int → Int) (pd : Option PReg)
    (cy : Nat → Nat → Bool) : Prop :=
  let x := fun (e : Dev) (t : Thread) (k : Nat) =>
    let s := (e.env t).srcs a b c
    f (elemNum ty s.a k) (elemNum ty s.b k) (elemNum ty s.c k)
  LaneRuns i h (govBits ty.width ty.count) false
    (fun e t => v = .trap → ∀ k < ty.count, t.gov h ty.width k = true → Fits ty (x e t k))
    (fun e t =>
      let s := (e.env t).srcs a b c
      putPD (laneElems (e.env t) h r ty.wide ty.width ty.count (fun k => putNum ty v (x e t k)) 0 s.p t) pd ty.wide (cy s.a s.b) s.p)

/-- An instruction of one 32- or 64-bit result and no flags: `f` of its sources. -/
def RawRuns (i : Instr) (h : Hd) (two : Bool) (r : VReg) (a b c : Opd) (f : Nat → Nat → Nat → Nat) : Prop :=
  LaneRuns i h [0] false (fun _ _ => True) (fun e t =>
    let s := (e.env t).srcs a b c
    laneOne h r two (f s.a s.b s.c) 0 s.p t)

/-- A floating-point instruction of one result with its flags: `f` of its sources. -/
def FpRuns (i : Instr) (h : Hd) (two : Bool) (r : VReg) (a b c : Opd) (f : Nat → Nat → Nat → Nat × FFlags) : Prop :=
  LaneRuns i h [0] false (fun _ _ => True) (fun e t =>
    let s := (e.env t).srcs a b c
    let y := f s.a s.b s.c
    laneOne h r two y.1 y.2 s.p t)

/-! ### Gang scalars (R237, R250, R251) -/

/-- The sources of a gang-wide arithmetic instruction: gang scalars and numbers. -/
def Meet.srcs (m : Meet) (d : Dev) (h : Hd) (a b c : Opd) : Srcs :=
  match m.true? h with
  | t :: _ => Env.srcs { c := d.ctr, t := t, g := some m.gang } a b c
  | [] => { a := 0, b := 0, c := 0, p := false }

/-- A gang-wide arithmetic instruction completes: `val` of its sources goes to a gang scalar, the flags to the participants
whose guard is true, and `put` is what else they get. -/
def ScalarRuns (i : Instr) (h : Hd) (r : SReg) (a b c : Opd) (ok : Srcs → Prop) (val : Srcs → Nat × FFlags)
    (put : Srcs → Thread → Thread) : Prop :=
  MeetRuns i h (fun d m => m.true? h ≠ [] → ok (m.srcs d h a b c)) (fun d m act =>
    let s := m.srcs d h a b c
    d.meetWrites h m act r (BitVec.ofNat 64 (val s).1) s.p (fun t => put s (t.orFlags (val s).2)))

/-- The gang-wide form of an integer instruction of type TY with V (R237, R240). -/
def IntScalar (i : Instr) (h : Hd) (ty : Ty) (v : Ov) (r : SReg) (a b c : Opd) (f : Int → Int → Int → Int) (pd : Option PReg)
    (cy : Nat → Nat → Bool) : Prop :=
  let x := fun (s : Srcs) (k : Nat) => f (elemNum ty s.a k) (elemNum ty s.b k) (elemNum ty s.c k)
  ScalarRuns i h r a b c (fun s => v = .trap → ∀ k < ty.count, Fits ty (x s k))
    (fun s => (merged ty.width ty.count (fun _ => true) (fun k => putNum ty v (x s k)) 0, 0))
    (fun s t => putPD t pd ty.wide (cy s.a s.b) s.p)

/-- The gang-wide form of an instruction of one result without flags. -/
def RawScalar (i : Instr) (h : Hd) (two : Bool) (r : SReg) (a b c : Opd) (f : Nat → Nat → Nat → Nat) : Prop :=
  ScalarRuns i h r a b c (fun _ => True) (fun s => (f s.a s.b s.c % 2 ^ wideW two, 0)) (fun _ t => t)

/-- The gang-wide form of a binary32 instruction with its flags. -/
def FpScalar (i : Instr) (h : Hd) (r : SReg) (a b c : Opd) (f : Nat → Nat → Nat → Nat × FFlags) : Prop :=
  ScalarRuns i h r a b c (fun _ => True) (fun s => ((f s.a s.b s.c).1 % 2 ^ 32, (f s.a s.b s.c).2)) (fun _ t => t)

/-! ### Delivery across a gang (R268) -/

/-- A cross-lane instruction completes: each participant whose guard is true is changed by its rank, and all go on. -/
def CrossRuns (i : Instr) (h : Hd) (f : Meet → Dev → Nat → Thread → Thread) : Prop :=
  MeetRuns i h (fun _ _ => True) (fun d m act =>
    ((m.parts.filter (fun p => act.any (fun t => t.uid == p.2.uid))).foldl (fun e p => e.deliver p.2.uid (f m d p.1)) d).meetDone h m)

/-- The issue group of a gang-wide instruction is one thread that opens its gang's rendezvous: it arrives and waits, and others
are still to come (R69). -/
def ArrivalRuns (i : Instr) : Prop :=
  ∀ (s : State) (t : Thread) (k : Nat) (pc : W64) (g : Gang), s.dev.cur = .group t.core [t.uid] pc →
    let e := s.dev.tick.confirmed i true
    e.members = [t] → t.shadow = false → e.gangOf? t = some (k, g) → e.gang? t.core k = some g → g.rdv = none →
    (∃ u ∈ g.members, u ≠ t.uid ∧ (g.rankOf u).isSome = true) → levelOf i ≤ t.level.num →
    (∀ n ∈ namedOf i, n.regBad t.regs.length = false) →
    let f := (e.mapUids [t.uid] (fun x => { x with latches := [] })).deliver t.uid (fun x => { x with wait := .rendezvous })
    exec i s = .next { s with dev := f.mapGang t.core k (fun g => g.open t.pc i [t.uid] (e.cyc t.ctx)) }

/-! ### Lanes served one after another (R79, R132, R158, R167) -/

/-- Each lane passes its checks in the state that the lanes before it left. -/
def SerialOk (ok : Dev → Thread → Prop) (act : Dev → Thread → Dev) : Dev → List Thread → Prop
  | _, [] => True
  | d, t :: ts => ok d t ∧ SerialOk ok act (act d t) ts

/-- An instruction whose lanes are served one after another completes: where no lane has to wait (`free`) and each passes, the
device is what serving them in ascending lane order leaves. `ok` and `act` also see the device the instruction started from. -/
def SerialRuns (i : Instr) (h : Hd) (gangOp : Bool) (key : Dev → Thread → List Nat) (base free : Dev → Thread → Prop)
    (ok : Dev → Dev → Thread → Prop) (act : Dev → Dev → Thread → Dev) (fin : Dev → List Thread → Dev) : Prop :=
  ∀ s : State, s.dev.OutPass i h gangOp key base →
    let e := s.dev.opened i h
    let ts := primaries (e.acting h [0])
    (∀ t ∈ ts, free e t) → SerialOk (ok e) (act e) e ts → exec i s = .next { s with dev := fin (ts.foldl (act e) e) ts }

/-! ### Places in a logged order (R443, R444) -/

/-- No lane's operation waits for room in a re-run's log or for its turn in one. -/
def Dev.InTurn (d : Dev) (ts : List Thread) (place : Thread → Option Nat) : Prop :=
  ∀ t ∈ ts, ((place t).isSome = true → d.logStalls t.ctx = false) ∧ d.early t.ctx (placesOf ts place) = false

/-- Such an instruction, whose lanes' operations also have a place each in a logged order, completes: they take their places, which
changes nothing but in a context that records or re-runs. -/
def TurnRuns (i : Instr) (h : Hd) (gangOp : Bool) (key : Dev → Thread → List Nat) (base free : Dev → Thread → Prop)
    (place : Dev → Thread → Option Nat) (ok : Dev → Dev → Thread → Prop) (act : Dev → Dev → Thread → Dev)
    (fin : Dev → List Thread → Dev) : Prop :=
  ∀ s : State, s.dev.OutPass i h gangOp key base →
    let e := s.dev.opened i h
    let ts := primaries (e.acting h [0])
    (∀ t ∈ ts, free e t) → e.InTurn ts (place e) → SerialOk (ok e) (act e) (e.placed ts (place e)) ts →
      exec i s = .next { s with dev := fin (ts.foldl (act e) (e.placed ts (place e))) ts }

/-! ### Memory instructions (R130 to R143) -/

/-- The core that some threads are on. -/
def coreOf (ts : List Thread) : Nat := (ts.head?.map Thread.core).getD 0

/-- No lane has a question to another module or a line of its own to wait for, and the table has the entries that the instruction takes,
which no earlier one waits for (R142, R143, R165). -/
def Dev.MemFirst (d : Dev) (m : MemOp) (ts : List Thread) : Prop :=
  (∀ t ∈ ts, t.asked = none ∧ d.askOf m t = none) ∧ d.busLines m ts = [] ∧
    let e := d.claimGrants (coreOf ts) (ts.map Thread.uid)
    d.ottNeed (coreOf ts) m ts = 0 ∨
      (d.ottNeed (coreOf ts) m ts ≤ e.ottFree (coreOf ts) ∧
        ((d.core (coreOf ts)).ott.length ≠ (e.core (coreOf ts)).ott.length ∨ e.ottWaiters (coreOf ts) = []))

/-- The instruction has asked, and every answer has come (R132, R133). -/
def Dev.MemAnswered (d : Dev) (m : MemOp) (ts : List Thread) : Prop :=
  (∃ t ∈ ts, t.asked.isSome = true) ∧ ∀ t ∈ ts, ∀ x, d.askOf m t = some x → ∃ a, d.replyOf t = some a ∧ a.reply ≠ .none

/-- What a memory instruction needs of the core to be performed at once: no earlier access or matrix instruction holds it, the
private memory and staging have room, and what it has to wait for has come (R116, R120, R142, R145, R282, R421, R444). -/
structure Dev.MemFree (d : Dev) (m : MemOp) (ts : List Thread) : Prop where
  rel : m.rel = true → ∀ t ∈ ts, d.owes t = false
  acq : m.acq = true → ∀ t ∈ ts, (d.core t.core).owesStores t.gangUid = false
  mat : ∀ t ∈ ts, d.matrixHolds t m.want.wr (d.laneSpot t m) m.want.n = false
  grown : ∀ t ∈ ts, (d.laneSpot t m).mark m.want.n ≤ t.hwm
  room : m.want.wr = true → ∀ t ∈ ts, d.stalls t (d.laneSpot t m) = false
  turn : d.InTurn ts (d.atomPlace m)
  come : d.MemFirst m ts ∨ d.MemAnswered m ts

/-- A memory instruction completes where every lane passes the checks of R131: the lanes act in ascending order, what is sent without
waiting leaves, the lines of this module stay outstanding, and the group goes on. -/
def MemRuns (i : Instr) (h : Hd) (m : MemOp) : Prop :=
  ∀ s : State, s.dev.OutPass i h false (fun d t => ((d.env t).memAddr (m.sp = 0) m.mem).1 :: m.data (d.env t))
      (fun d t => d.memFlt t m.sp m.mem m.want = none) →
    let e := s.dev.opened i h
    let ts := primaries (e.acting h [0])
    e.MemFree m ts → exec i s = .next { s with dev := (e.claimGrants (coreOf ts) (ts.map Thread.uid)).memAct h (coreOf ts) ts m }

/-! ### Matrix instructions (R279) -/

/-- A matrix instruction completes its rendezvous: with no participant whose guard is true it has no effect; else, where its
operands of `strict` are not poisoned, its checks pass and `free` holds, it is accepted, with the ranges that it accesses (R279, R282,
R283). -/
def MatrixRuns (i : Instr) (h : Hd) (rs strict : List SReg) (free : Dev → Meet → Prop) (plans : Dev → Meet → List W64 → List MPlan)
    (table : Dev → Meet → List W64 → List Nat) (given : Dev → Meet → List (List (W32 × Bool))) : Prop :=
  MeetRuns i h
    (fun d m => m.true? h ≠ [] → free d m ∧ (∀ r ∈ strict, m.gang.spsn r = false) ∧
      ∀ p ∈ plans d m (rs.map m.gang.sreg), d.planFlt i m p = none ∧ ∀ t ∈ m.true? h, d.spansFlt m.gang t p = none)
    (fun d m act =>
      if act = [] then d.meetDone h m
      else
        let ops := rs.map m.gang.sreg
        let q := d.newMatrixJob i m act ops (table d m ops) (((plans d m ops).getLast?.map MPlan.spans).getD []) (given d m)
        q.1.accept h m q.2)

/-! ### Bring-up (R347, R465, R466) -/

/-- What bring-up, the link and the security core keep: READY stands exactly once all eight steps are done; an image that failed
stopped the boot before step 2 was done, and is named; the link trains at step 3, and no request to the security core is answered
before it; the signature index never passes its end; open sessions have numbers of their own. -/
structure HostSide.Inv (h : HostSide) : Prop where
  step   : h.step ≤ 8
  ready  : h.ready = true ↔ h.step = 8
  failed : h.imgfail = true → h.step = 1
  image  : h.imgfail = true ↔ h.failimg ≠ 0
  images : h.failimg < 4
  link   : h.linkUp = true → 3 ≤ h.step
  spdm   : h.spdm ≤ 3 ∧ (h.spdm ≠ 0 → 3 ≤ h.step)
  index  : h.xmss ≤ 1048576
  opened : h.sessions ≠ [] → 3 ≤ h.step
  ids    : (h.sessions.map Session.id).Nodup

end Sys2Proof.Machine
end

