-- ==== Sys2Proof/Certificates/Slice0/Obligations.lean ====
section
/-! DEFINITION. The statements for the provers. -/

open Sys2Proof Sys2Proof.Machine

/-! ### Integer instructions (R236 to R249) -/

/-- R240: IADD, ISUB, IMUL, IMULH, IMAD, IMIN, IMAX, IABS and ICLAMP into vector registers complete with the exact result of
each governed element narrowed by V; IADD and ISUB write the carry or the borrow to PD. -/
def Obligations.IntegerArithmetic : Prop :=
  ∀ (h : Hd) (ty : Ty) (v : Ov) (r : VReg) (a b c : Src) (y : SrcI) (pd : Option PReg),
    let A := opdOf ty.wide a
    let B := opdOf ty.wide b
    let C := opdOf ty.wide c
    let Y := opdI ty.wide ty.signed y
    let no := fun (_ _ : Nat) => false
    IntRuns (.iadd h ty v (.v r) a y pd) h ty v r A Y .none (fun a b _ => a + b) pd (fun a b => decide (2 ^ ty.width ≤ a + b)) ∧
    IntRuns (.isub h ty v (.v r) a y pd) h ty v r A Y .none (fun a b _ => a - b) pd (fun a b => decide (a < b)) ∧
    IntRuns (.imul h ty v (.v r) a y) h ty v r A Y .none (fun a b _ => a * b) none no ∧
    IntRuns (.imulh h ty (.v r) a y) h ty .wrap r A Y .none (fun a b _ => a * b / 2 ^ ty.width) none no ∧
    IntRuns (.imad h ty v (.v r) a b c) h ty v r A B C (fun a b c => a * b + c) none no ∧
    IntRuns (.imin h ty (.v r) a y) h ty .wrap r A Y .none (fun a b _ => min a b) none no ∧
    IntRuns (.imax h ty (.v r) a y) h ty .wrap r A Y .none (fun a b _ => max a b) none no ∧
    IntRuns (.iabs h ty v (.v r) a) h ty v r A .none .none (fun a _ _ => max a (-a)) none no ∧
    IntRuns (.iclamp h ty (.v r) a b c) h ty .wrap r A B C (fun a b c => min (max a b) c) none no

/-- R241, R242, R243: the logical, shift, rotate, count, reverse and bit-field instructions into vector registers complete
with the bits that the operations on bit vectors give. -/
def Obligations.BitOperations : Prop :=
  ∀ (h : Hd) (w : Bool) (r : VReg) (a b : Src) (y : SrcI),
    let n := wideW w
    let bv := fun (x : Nat) => BitVec.ofNat n x
    let A := opdOf w a
    let Y := opdI w false y
    let S := opdI false false y
    RawRuns (.and h w (.v r) a y) h w r A Y .none (fun a b _ => (bv a &&& bv b).toNat) ∧
    RawRuns (.or h w (.v r) a y) h w r A Y .none (fun a b _ => (bv a ||| bv b).toNat) ∧
    RawRuns (.xor h w (.v r) a y) h w r A Y .none (fun a b _ => (bv a ^^^ bv b).toNat) ∧
    RawRuns (.andn h w (.v r) a y) h w r A Y .none (fun a b _ => (bv a &&& ~~~(bv b)).toNat) ∧
    RawRuns (.shl h w (.v r) a y) h w r A S .none (fun a s _ => (bv a <<< (s % 256)).toNat) ∧
    RawRuns (.shr h w (.v r) a y) h w r A S .none (fun a s _ => (bv a >>> (s % 256)).toNat) ∧
    RawRuns (.sar h w (.v r) a y) h w r A S .none (fun a s _ => ((bv a).sshiftRight (s % 256)).toNat) ∧
    RawRuns (.rol h w (.v r) a y) h w r A S .none (fun a s _ => ((bv a).rotateLeft (s % 256)).toNat) ∧
    RawRuns (.popc h w (.v r) a) h false r A .none .none (fun a _ _ => (bv a).cpop.toNat) ∧
    RawRuns (.clz h w (.v r) a) h false r A .none .none (fun a _ _ => (bv a).clz.toNat) ∧
    RawRuns (.brev h w (.v r) a) h w r A .none .none (fun a _ _ => (bv a).reverse.toNat) ∧
    RawRuns (.mov h w (.v r) a) h w r A .none .none (fun a _ _ => a) ∧
    (∀ (ty : Ty) (f : Field), ty.count = 1 → RawRuns (.bfx h ty (.v r) a f) h ty.wide r (opdOf ty.wide a) (fieldOpd f) .none (fun a x _ =>
      let p := (fieldOf f x).1
      let n := if ty.width ≤ p then 0 else min (fieldOf f x).2 (ty.width - p)
      let g := (BitVec.ofNat ty.width a).extractLsb' p n
      if ty.signed then (g.signExtend ty.width).toNat else g.toNat)) ∧
    (∀ (f : Field), RawRuns (.bfi h w (.v r) a b f) h w r A (opdOf w b) (fieldOpd f) (fun a b x =>
      let p := (fieldOf f x).1
      let n := if wideW w ≤ p then 0 else min (fieldOf f x).2 (wideW w - p)
      let mask := (BitVec.ofNat (wideW w) (2 ^ n - 1)) <<< p
      ((bv a <<< p &&& mask) ||| (bv b &&& ~~~mask)).toNat))

/-- R244, R245: ICMP writes the bits of each governed element of pD, SEL selects byte by byte. -/
def Obligations.CompareAndSelect : Prop :=
  (∀ (h : Hd) (ty : Ty) (p : PReg) (a b : Src) (c : Cond),
    LaneRuns (.icmp h ty p a b c) h (govBits ty.width ty.count) false (fun _ _ => True) (fun e t =>
      let s := (e.env t).srcs (opdOf ty.wide a) (opdOf ty.wide b) .none
      let all := (upTo ty.count).all (t.gov h ty.width)
      t.setPred p (BitVec.ofNat 8 (merged (ty.width / 8) ty.count (t.gov h ty.width)
        (fun k => if condHolds c (elemNum ty s.a k) (elemNum ty s.b k) then 2 ^ (ty.width / 8) - 1 else 0) (t.pred p).toNat))
        (s.p || (!all && t.predP p)))) ∧
  ∀ (h : Hd) (w : Bool) (r : VReg) (a b : Src) (neg : Bool) (q : PReg),
    LaneRuns (.sel h w (.v r) a b neg q) h [0] false (fun _ _ => True) (fun e t =>
      let s := (e.env t).srcs (opdOf w a) (opdOf w b) .none
      let pick := if neg then ~~~(t.pred q) else t.pred q
      t.wrs r (aluWords w (merged 8 (if w then 8 else 4) (fun k => pick.getLsbD k) (fun k => elemOf 8 k s.a) s.b)) (s.p || t.predP q))

/-- R246, R247, R248, R249: MOVI, LEA, IDOT4 and PRMT complete with the immediate, the address, the dot product and the
permuted bytes. -/
def Obligations.MovesAndPermutes : Prop :=
  (∀ (h : Hd) (k : MoviKind) (r : VReg) (x : W32),
    RawRuns (.movi h k r x) h (k != .b32) r (opdI (k != .b32) (k == .i64) (.imm x)) .none .none
      (fun _ _ _ => if k = .i64 then (x.signExtend 64).toNat else x.toNat)) ∧
  (∀ (h : Hd) (sg : Bool) (r : VReg) (a b : Src) (sh : BitVec 3),
    RawRuns (.lea h sg r a b sh) h true r (opdOf true a) (opdOf false b) .none (fun a b _ =>
      let i := BitVec.ofNat 32 b
      (BitVec.ofNat 64 a + ((if sg then i.signExtend 64 else i.zeroExtend 64) <<< sh.toNat)).toNat)) ∧
  (∀ (h : Hd) (x y : Bool) (r a b c : VReg),
    RawRuns (.idot4 h x y r a b c) h false r (.v a false) (.v b false) (.v c false) (fun a b c =>
      let p := fun k => elemNum (if x then .i8 else .n8) a k * elemNum (if y then .i8 else .n8) b k
      (BitVec.ofInt 32 ((c : Int) + p 0 + p 1 + p 2 + p 3)).toNat)) ∧
  (∀ (h : Hd) (r a b : VReg) (sel : BitVec 12),
    RawRuns (.prmt h r a b sel) h false r (.v a false) (.v b false) .none (fun a b _ =>
      merged 8 4 (fun _ => true) (fun k => poolByte a b (sel.extractLsb' (3 * k) 3).toNat) 0)) ∧
  ∀ (h : Hd) (r a b c : VReg),
    RawRuns (.prmtCtl h r a b c) h false r (.v a false) (.v b false) (.v c false) (fun a b c =>
      merged 8 4 (fun _ => true) (fun k =>
        let ctl := BitVec.ofNat 8 (elemOf 8 k c)
        let x := BitVec.ofNat 8 (poolByte a b (ctl.extractLsb' 0 3).toNat)
        let fill := (ctl.extractLsb' 3 2).toNat
        let y : Byte := if fill = 0 then x else if fill = 1 then 0 else if fill = 2 then (if x.getLsbD 7 then 0xFF else 0) else 0xFF
        (if ctl.getLsbD 5 then y.reverse else y).toNat) 0)

/-! ### Floating point (R252 to R265) -/

/-- R253, R254, R257, R258, R259, R260, R261, R262, R263: the floating-point instructions of one result into vector registers
complete with the value and the flags of their operation. -/
def Obligations.FloatResults : Prop :=
  ∀ (h : Hd) (r x y z : VReg) (a b c : Src) (i : SrcI),
    let A := opdOf false a
    let I := opdI false false i
    let X := Opd.v x false
    FpRuns (.fadd h (.v r) a i) h false r A I .none (fun a b _ => faddOp a b) ∧
    FpRuns (.fsub h (.v r) a i) h false r A I .none (fun a b _ => fsubOp a b) ∧
    FpRuns (.fmul h (.v r) a i) h false r A I .none (fun a b _ => fmulOp a b) ∧
    (∀ nab nc, FpRuns (.ffma h nab nc (.v r) a b c) h false r A (opdOf false b) (opdOf false c) (ffmaOp nab nc)) ∧
    FpRuns (.fmin h (.v r) a i) h false r A I .none (fun a b _ => fpMinMax Fmt.f32 false a b) ∧
    FpRuns (.fmax h (.v r) a i) h false r A I .none (fun a b _ => fpMinMax Fmt.f32 true a b) ∧
    (∀ rm, FpRuns (.frnd h rm r a) h false r A .none .none (fun a _ _ => fpRnd rm a)) ∧
    (∀ k rm, FpRuns (.icvt h k rm r a) h (icvtWideD k) r (opdOf (icvtWideA k) a) .none .none (fun a _ _ => icvtOp k rm a)) ∧
    FpRuns (.frcp h r x) h false r X .none .none (fun a _ _ => seedRcp a) ∧
    FpRuns (.frsq h r x) h false r X .none .none (fun a _ _ => seedRsq a) ∧
    FpRuns (.fsqrt h r x) h false r X .none .none (fun a _ _ => fpSqrt Fmt.f32 (f32 a)) ∧
    FpRuns (.fdiv h r x y) h false r X (.v y false) .none (fun a b _ => fpDiv Fmt.f32 (f32 a) (f32 b)) ∧
    FpRuns (.fexp2 h r x) h false r X .none .none (fun a _ _ => fpExp2 a) ∧
    FpRuns (.flog2 h r x) h false r X .none .none (fun a _ _ => fpLog2 a) ∧
    FpRuns (.fsin h r x) h false r X .none .none (fun a _ _ => fpSin a) ∧
    FpRuns (.fcos h r x) h false r X .none .none (fun a _ _ => fpCos a) ∧
    FpRuns (.ftanh h r x) h false r X .none .none (fun a _ _ => fpTanh a) ∧
    (∀ bf, FpRuns (.hdot2 h bf r x y z) h false r X (.v y false) (.v z false)
      (fun a b c => fpDot2 (Fmt.packed bf) (BitVec.ofNat 32 a) (BitVec.ofNat 32 b) (BitVec.ofNat 32 c))) ∧
    FpRuns (.fscale h r a i) h false r A I .none (fun a b _ => fpScale a (BitVec.ofNat 32 b).toInt)

/-- R238, R255, R256, R258, R262: the packed instructions work element by element under their guard bits, FCMP writes the bits
of each governed element, FCLASS writes the class and tests it into PD, and FCVT completes unless a trapping form meets a value
out of range. -/
def Obligations.FloatElements : Prop :=
  (∀ (h : Hd) (bf : Bool) (r a b c : VReg) (y : SrcI),
    let run := fun (i : Instr) (B C : Opd) (f : FVal → FVal → FVal → Nat × FFlags) =>
      LaneRuns i h [0, 2] false (fun _ _ => True) (fun e t =>
        let s := (e.env t).srcs (.v a false) B C
        let z := fun k => f (FVal.ofBits (Fmt.packed bf) (elemOf 16 k s.a)) (FVal.ofBits (Fmt.packed bf) (elemOf 16 k s.b))
          (FVal.ofBits (Fmt.packed bf) (elemOf 16 k s.c))
        laneElems (e.env t) h r false 16 2 (fun k => (z k).1)
          ((if t.guardBit h 0 then (z 0).2 else 0) ||| (if t.guardBit h 2 then (z 1).2 else 0)) s.p t)
    run (.hadd2 h bf r a y) (opdI false false y) .none (fun a b _ => fpAdd (Fmt.packed bf) a b) ∧
    run (.hmul2 h bf r a y) (opdI false false y) .none (fun a b _ => fpMul (Fmt.packed bf) a b) ∧
    run (.hfma2 h bf r a b c) (.v b false) (.v c false) (fun a b c => fpFma (Fmt.packed bf) a b c)) ∧
  (∀ (h : Hd) (ft : FFmt) (p : PReg) (a b : Src) (c : FCond),
    let f := fcmpFmt ft
    let n := 32 / f.width
    LaneRuns (.fcmp h ft p a b c) h (govBits f.width n) false (fun _ _ => True) (fun e t =>
      let s := (e.env t).srcs (opdOf false a) (opdOf false b) .none
      let z := fun k => fpCmp c (FVal.ofBits f (elemOf f.width k s.a)) (FVal.ofBits f (elemOf f.width k s.b))
      let all := (upTo n).all (t.gov h f.width)
      (t.setPred p (BitVec.ofNat 8 (merged (f.width / 8) n (t.gov h f.width)
        (fun k => if (z k).1 then 2 ^ (f.width / 8) - 1 else 0) (t.pred p).toNat)) (s.p || (!all && t.predP p))).orFlags
        ((upTo n).foldl (fun (x : FFlags) k => if t.gov h f.width k then x ||| (z k).2 else x) 0))) ∧
  (∀ (h : Hd) (r : VReg) (a : Src) (pd : Option PReg) (mask : BitVec 10),
    LaneRuns (.fclass h r a pd mask) h [0] false (fun _ _ => True) (fun e t =>
      let s := (e.env t).srcs (opdOf false a) .none .none
      putPD (laneOne h r false (fpClass s.a) 0 s.p t) pd false (fpClass s.a &&& mask.toNat != 0) s.p)) ∧
  ∀ (h : Hd) (k : FcvtCode) (rm : Rm) (r : VReg) (a : Src),
    LaneRuns (.fcvt h k rm r a) h [0] false
      (fun e t => (fcvtElem k rm ((e.env t).srcs (opdOf false a) (fcvtB k) .none)).mark = false)
      (fun e t =>
        let s := (e.env t).srcs (opdOf false a) (fcvtB k) .none
        let y := fcvtElem k rm s
        laneOne h r (fcvtWide k) y.val y.flags s.p t)

/-- R231, R264, R265, R266, R267: FFLAG, the random draws, PLOP and PMOV complete; FFLAG.TRAP where no flag of its mask is set,
RNGD where the counter is not all ones. -/
def Obligations.FlagsDrawsPredicates : Prop :=
  (∀ (h : Hd) (m : BitVec 5),
    LaneRuns (.fflagTrap h m) h [0] false (fun _ t => t.flags &&& m = 0) (fun _ t => t) ∧
    LaneRuns (.fflagClr h m) h [0] false (fun _ _ => True) (fun _ t => { t with flags := t.flags &&& ~~~m })) ∧
  (∀ (h : Hd) (r : VReg),
    LaneRuns (.fflagRd h r) h [0] false (fun _ _ => True) (fun _ t => t.wr r (t.flags.zeroExtend 32) false)) ∧
  (∀ (h : Hd) (f : Bool) (r : VReg),
    OutRuns (.rngd h f r) h false (fun _ t => [t.rngcnt.toNat]) (fun _ t => t.rngcnt ≠ BitVec.allOnes 32)
      (fun e act => e.each h act (fun d t x =>
        { (x.wrRes h r (drawWords f (mix64 (t.tid ++ t.rngcnt) (d.sgen t))) false) with rngcnt := t.rngcnt + 1 }))) ∧
  (∀ (h : Hd) (f : Bool) (r a : VReg) (k : Src),
    LaneRuns (.rngs h f r a k) h [0] false (fun _ _ => True) (fun e t =>
      let x := (e.env t).read 0 (.v a true)
      let y := (e.env t).read 1 (opdOf true k)
      t.wrs r (drawWords f (mix64 (BitVec.ofNat 64 x.1) (BitVec.ofNat 64 y.1))) (x.2 || y.2))) ∧
  (∀ (h : Hd) (p a b c : PReg) (tab : Byte),
    LaneRuns (.plop h p a b c tab) h [0] false (fun _ _ => True) (fun _ t =>
      t.setPred p (BitVec.ofNat 8 (merged 1 8 (fun _ => true) (fun k =>
        b2n (tab.getLsbD (4 * b2n ((t.pred a).getLsbD k) + 2 * b2n ((t.pred b).getLsbD k) + b2n ((t.pred c).getLsbD k)))) 0))
        (t.predP a || t.predP b || t.predP c))) ∧
  ∀ (h : Hd) (p : PReg) (r : VReg) (x : Byte),
    LaneRuns (.pmov h (.toV r p)) h [0] false (fun _ _ => True) (fun _ t => t.wr r ((t.pred p).zeroExtend 32) (t.predP p)) ∧
    LaneRuns (.pmov h (.fromV p r)) h [0] false (fun _ _ => True) (fun e t =>
      t.setPred p ((t.rd (4 * e.ctr) r).extractLsb' 0 8) (t.rdP (4 * e.ctr) r)) ∧
    LaneRuns (.pmov h (.imm p x)) h [0] false (fun _ _ => True) (fun _ t => t.setPred p x false)

/-! ### Control (R71 to R85) -/

/-- R71, R74, R75, R77, R78, R141: the transfers go to their targets and keep their links, NOP goes on, YIELD with an age of zero, and FENCE
once no access is owed; SLEEP sleeps until CYC has reached its deadline. -/
def Obligations.ControlTransfers : Prop :=
  ∀ (h : Hd) (imm : W32) (a : VReg) (b : Src) (r : VReg),
    let clean := fun (e : Dev) (t : Thread) (x : Src) => ((e.env t).addr x).2 = false
    let at_ := fun (e : Dev) (t : Thread) (x : Src) => ((e.env t).addr x).1 + sext64 imm
    let push := fun (t : Thread) => { t with rstack := (t.pc + 12) :: t.rstack }
    LaneRuns (.nop h) h [0] false (fun _ _ => True) (fun _ t => t) ∧
    LaneEnds (.yield h) h [0] false (fun _ _ => True) (fun e t => { t.gone h e.pcyc with since := e.pcyc + 1 }) ∧
    (∀ s : State, s.dev.AllPass (.fence h) h [0] false (fun e t => e.owes t = false) →
      let e := s.dev.opened (.fence h) h
      let ts := primaries (e.acting h [0])
      exec (.fence h) s = .next { s with dev := (if e.acting h [0] = [] then e else e.fences ts).done h }) ∧
    TransferRuns (.bra h imm) h (fun _ _ => True) (fun _ t => t) (fun _ t => t.pc + 12 + sext64 imm) ∧
    TransferRuns (.brx h b imm) h (fun e t => clean e t b) (fun _ t => t) (fun e t => at_ e t b) ∧
    TransferRuns (.call h (.label imm)) h (fun _ t => t.rstack.length < 16) (fun _ t => push t) (fun _ t => t.pc + 12 + sext64 imm) ∧
    TransferRuns (.call h (.reg a imm)) h (fun e t => clean e t (.v a) ∧ t.rstack.length < 16) (fun _ t => push t)
      (fun e t => at_ e t (.v a)) ∧
    TransferRuns (.callLink h r (.label imm)) h (fun _ _ => True) (fun _ t => t.wr64 r (t.pc + 12) false)
      (fun _ t => t.pc + 12 + sext64 imm) ∧
    TransferRuns (.callLink h r (.reg a imm)) h (fun e t => clean e t (.v a)) (fun _ t => t.wr64 r (t.pc + 12) false)
      (fun e t => at_ e t (.v a)) ∧
    TransferRuns (.ret h) h (fun _ t => t.rstack ≠ []) (fun _ t => { t with rstack := t.rstack.tail }) (fun _ t => t.rstack.headD 0) ∧
    TransferRuns (.retLink h a) h (fun e t => clean e t (.v a)) (fun _ t => t) (fun e t => ((e.env t).addr (.v a)).1) ∧
    (let nap := fun (e : Dev) (t : Thread) (dl : W64) =>
      if e.cyc t.ctx < dl then { (t.hint h.yh e.pcyc) with wait := .sleep dl, since := e.pcyc } else t.gone h e.pcyc
    LaneEnds (.sleep h imm) h [0] false (fun _ _ => True) (fun e t => nap e t (e.cyc t.ctx + zext64 imm)) ∧
    LaneEnds (.sleepAbs h b) h [0] false (fun _ _ => True) (fun e t => nap e t ((e.env t).addr b).1))
/-! ### Gang scalars (R69, R237, R250, R251, R283) -/

/-- R237, R240, R253, R254: the integer and floating-point instructions into a gang scalar execute once, at the completion of their
rendezvous, with the exact result narrowed by V or the rounded one; the flags and PD go to the participants whose guard is true. -/
def Obligations.GangScalarArithmetic : Prop :=
  (∀ (h : Hd) (ty : Ty) (v : Ov) (r : SReg) (a b c : Src) (y : SrcI) (pd : Option PReg),
      let A := opdOf ty.wide a
      let B := opdOf ty.wide b
      let C := opdOf ty.wide c
      let Y := opdI ty.wide ty.signed y
      let no := fun (_ _ : Nat) => false
      IntScalar (.iadd h ty v (.s r) a y pd) h ty v r A Y .none (fun a b _ => a + b) pd (fun a b => decide (2 ^ ty.width ≤ a + b)) ∧
      IntScalar (.isub h ty v (.s r) a y pd) h ty v r A Y .none (fun a b _ => a - b) pd (fun a b => decide (a < b)) ∧
      IntScalar (.imul h ty v (.s r) a y) h ty v r A Y .none (fun a b _ => a * b) none no ∧
      IntScalar (.imulh h ty (.s r) a y) h ty .wrap r A Y .none (fun a b _ => a * b / 2 ^ ty.width) none no ∧
      IntScalar (.imad h ty v (.s r) a b c) h ty v r A B C (fun a b c => a * b + c) none no ∧
      IntScalar (.imin h ty (.s r) a y) h ty .wrap r A Y .none (fun a b _ => min a b) none no ∧
      IntScalar (.imax h ty (.s r) a y) h ty .wrap r A Y .none (fun a b _ => max a b) none no ∧
      IntScalar (.iabs h ty v (.s r) a) h ty v r A .none .none (fun a _ _ => max a (-a)) none no ∧
      IntScalar (.iclamp h ty (.s r) a b c) h ty .wrap r A B C (fun a b c => min (max a b) c) none no) ∧
  ∀ (h : Hd) (r : SReg) (a b c : Src) (y : SrcI),
    let A := opdOf false a
    let I := opdI false false y
    FpScalar (.fadd h (.s r) a y) h r A I .none (fun a b _ => faddOp a b) ∧
    FpScalar (.fsub h (.s r) a y) h r A I .none (fun a b _ => fsubOp a b) ∧
    FpScalar (.fmul h (.s r) a y) h r A I .none (fun a b _ => fmulOp a b) ∧
    (∀ nab nc, FpScalar (.ffma h nab nc (.s r) a b c) h r A (opdOf false b) (opdOf false c) (ffmaOp nab nc)) ∧
    FpScalar (.fmin h (.s r) a y) h r A I .none (fun a b _ => fpMinMax Fmt.f32 false a b) ∧
    FpScalar (.fmax h (.s r) a y) h r A I .none (fun a b _ => fpMinMax Fmt.f32 true a b)

/-- R237, R241, R242, R243, R245, R246, R250, R251: the bit instructions into a gang scalar, SMOV, SMOV.HI and SALU. -/
def Obligations.GangScalarMoves : Prop :=
  ∀ (h : Hd) (w : Bool) (r q : SReg) (a b : Src) (y : SrcI),
    let n := wideW w
    let bv := fun (x : Nat) => BitVec.ofNat n x
    let A := opdOf w a
    let Y := opdI w false y
    let S := opdI false false y
    RawScalar (.and h w (.s r) a y) h w r A Y .none (fun a b _ => (bv a &&& bv b).toNat) ∧
    RawScalar (.or h w (.s r) a y) h w r A Y .none (fun a b _ => (bv a ||| bv b).toNat) ∧
    RawScalar (.xor h w (.s r) a y) h w r A Y .none (fun a b _ => (bv a ^^^ bv b).toNat) ∧
    RawScalar (.andn h w (.s r) a y) h w r A Y .none (fun a b _ => (bv a &&& ~~~(bv b)).toNat) ∧
    RawScalar (.shl h w (.s r) a y) h w r A S .none (fun a s _ => (bv a <<< (s % 256)).toNat) ∧
    RawScalar (.shr h w (.s r) a y) h w r A S .none (fun a s _ => (bv a >>> (s % 256)).toNat) ∧
    RawScalar (.sar h w (.s r) a y) h w r A S .none (fun a s _ => ((bv a).sshiftRight (s % 256)).toNat) ∧
    RawScalar (.rol h w (.s r) a y) h w r A S .none (fun a s _ => ((bv a).rotateLeft (s % 256)).toNat) ∧
    RawScalar (.popc h w (.s r) a) h false r A .none .none (fun a _ _ => (bv a).cpop.toNat) ∧
    RawScalar (.clz h w (.s r) a) h false r A .none .none (fun a _ _ => (bv a).clz.toNat) ∧
    RawScalar (.brev h w (.s r) a) h w r A .none .none (fun a _ _ => (bv a).reverse.toNat) ∧
    RawScalar (.mov h w (.s r) a) h w r A .none .none (fun a _ _ => a) ∧
    (∀ (ty : Ty) (f : Field), ty.count = 1 → RawScalar (.bfx h ty (.s r) a f) h ty.wide r (opdOf ty.wide a) (fieldOpd f) .none
      (fun a x _ => bfxOp ty.signed ty.width a (fieldOf f x).1 (fieldOf f x).2)) ∧
    (∀ (f : Field), RawScalar (.bfi h w (.s r) a b f) h w r A (opdOf w b) (fieldOpd f)
      (fun a b x => bfiOp n a b (fieldOf f x).1 (fieldOf f x).2)) ∧
    (∀ (neg : Bool) (p : PReg), MeetRuns (.sel h w (.s r) a b neg p) h (fun _ _ => True) (fun d m act =>
      match act with
      | [] => d.meetDone h m
      | t :: _ =>
        let s := m.srcs d h A (opdOf w b) .none
        let pick := if neg then ~~~(t.pred p) else t.pred p
        (d.mapGang m.core m.idx (fun g => g.setS r (BitVec.ofNat 64
          (merged 8 (if w then 8 else 4) (fun k => pick.getLsbD k) (fun k => elemOf 8 k s.a) s.b)) (s.p || t.predP p))).meetDone h m)) ∧
    (∀ x : SmovSrc, MeetRuns (.smov h r x) h (fun _ _ => True) (fun d m act =>
      let v : W64 × Bool := match x with
        | .pair a k => let y := m.supply d (.v a true) k.toNat; (BitVec.ofNat 64 y.1, y.2)
        | .reg a k => let y := m.supply d (.v a false) k.toNat; (BitVec.ofNat 64 y.1, y.2)
        | .imm x => (x.signExtend 64, false)
        | .s a => (m.gang.sreg a, m.gang.spsn a)
      d.meetWrites h m act r v.1 v.2 (fun t => t))) ∧
    (∀ x : W32, MeetRuns (.smovHi h r x) h (fun _ _ => True) (fun d m act =>
      d.meetWrites h m act r (x ++ (m.gang.sreg r).extractLsb' 0 32) (m.gang.spsn r) (fun t => t))) ∧
    ∀ (op : SaluOp) (x : SaluSrc),
      ScalarRuns (.salu h op r q x) h r (.s q true) (saluSrc x) .none (fun _ => True)
        (fun s => ((saluOp op s.a s.b).1 % 2 ^ 64, (saluOp op s.a s.b).2)) (fun _ t => t)

/-- R69: a thread that issues a gang-wide instruction first opens its gang's rendezvous and waits for the other members: SMOV, VOTE,
XBFLY, XSHFL, XBCAST, XRED, XSCAN and SVRD. -/
def Obligations.RendezvousOpens : Prop :=
  ∀ (h : Hd) (s : SReg) (x : SmovSrc) (p : PReg) (q : PReg) (c : VoteCond) (r a : VReg) (w ex : Bool) (n : BitVec 6) (md : ShflMode)
    (op : RedOp),
    ArrivalRuns (.smov h s x) ∧ ArrivalRuns (.voteMask h r p) ∧ ArrivalRuns (.voteCount h r p) ∧
    ArrivalRuns (.voteTest h p q c) ∧ ArrivalRuns (.xbfly h w r a n) ∧ ArrivalRuns (.xbflyTr h r n) ∧
    ArrivalRuns (.xshfl h w r a md) ∧ ArrivalRuns (.xbcast h w r a n) ∧ ArrivalRuns (.xred h op r a) ∧
    ArrivalRuns (.xscan h op ex r a) ∧ ArrivalRuns (.svrd h s)

/-! ### Pairs, threads and gangs (R51, R76, R79 to R84) -/

/-- R51: both operations of a pair read before either writes; a pair without a select is governed by its guard, one with a select
acts in every thread of its group. -/
def Obligations.PairedOperations : Prop :=
  ∀ w : PairWord,
    let F := fun (e : Dev) (t : Thread) => applyWrite (applyWrite t (pairWrite (e.env t) w 0 w.op0)) (pairWrite (e.env t) w 1 w.op1)
    if pairSel w then
      ∀ s : State, (∀ t ∈ (s.dev.opened (.pair w) (pairHd w)).members, (s.dev.opened (.pair w) (pairHd w)).Passes (.pair w) (pairHd w) false t) →
        ∃ G, exec (.pair w) s = .next { s with dev := s.dev.after (.pair w) (pairHd w) G } ∧
          (∀ t ∈ (s.dev.opened (.pair w) (pairHd w)).members, G t = (F (s.dev.opened (.pair w) (pairHd w)) t).gone (pairHd w) s.dev.pcyc) ∧
          ∀ t, s.dev.group.contains t.uid = false → G t = t
    else LaneRuns (.pair w) (pairHd w) (pairGov w.op0.code ++ pairGov w.op1.code) false (fun _ _ => True) F

/-- R76, R368: EXIT of threads that owe no access ends them, each with its shadow, and lets the other threads of the group go on; an ended
thread is gone from the machine. -/
def Obligations.ExitEndsThreads : Prop :=
  (∀ (h : Hd) (s : State), s.dev.AllPass (.exit h) h [0] false (fun e t => e.owes t = false) →
    let e := s.dev.opened (.exit h) h
    let ends := e.members.filter (fun t => (e.acting h [0]).any (fun a => !a.shadow && (a.uid == t.uid || some a.uid == t.partner)))
    e.acting h [0] ≠ [] → exec (.exit h) s = .next { s with dev :=
      (e.retire (e.group.filter (fun u => !(ends.any (fun t => t.uid == u)))) h.yh).endThreads (ends.map Thread.uid) }) ∧
  ∀ (d : Dev) (us : List Nat), ∀ u ∈ us, (d.endThreads us).thread? u = none

/-- R79, R80: JOIN's lanes are served in ascending order; each joins the gang its key names, or fails and gets 0x00. -/
def Obligations.JoinServesLanes : Prop :=
  let runs := fun (i : Instr) (h : Hd) (p : PReg) (a : VReg) (b : Option VReg) (size : BitVec 3) (clash : Bool) =>
    ∀ s : State, s.dev.OutPass i h false
        (fun d t => [0, ((d.env t).read 0 (.v a true)).1] ++ (b.map (fun b => ((d.env t).read 1 (.v b false)).1)).toList)
        (fun e t =>
          t.poisonRun ((e.env t).run 0 (.v a) 2) = none ∧ ∀ b', b = some b' → ((e.env t).read 1 (.v b' false)).2 = false) →
      let e := s.dev.opened i h
      let ts := primaries (e.acting h [0])
      let out := fun (d : Dev) (t : Thread) => d.join1 t (BitVec.ofNat 64 ((e.env t).read 0 (.v a true)).1)
        (b.map (fun b => ((e.env t).read 1 (.v b false)).1)) size.toNat clash
      let act := fun (d : Dev) (t : Thread) =>
        match out d t with
        | .joins k g r =>
          (d.mapCore t.core (fun c => { c with gangs := KV.set c.gangs k { g with remap := g.remap.set r (some t.uid) } })).deliver t.uid
            (fun t => t.setPred p 0xFF false)
        | _ => d.deliver t.uid (fun t => t.setPred p 0x00 false)
      let place := fun (t : Thread) => some (gangPlace (BitVec.ofNat 64 ((e.env t).read 0 (.v a true)).1))
      e.InTurn ts place → SerialOk (fun d t => ∀ c, out d t ≠ .traps c) act (e.placed ts place) ts →
        exec i s = .next { s with dev := (ts.foldl act (e.placed ts place)).done h }
  ∀ (h : Hd) (p : PReg) (a b : VReg) (size : BitVec 3),
    runs (.join h p a size) h p a none size false ∧ runs (.joinRank h p a b size) h p a (some b) size false ∧
    runs (.joinT h p a size) h p a none size true ∧ runs (.joinRankT h p a b size) h p a (some b) size true

/-- R81, R82: LEAVE takes its threads out of their gangs; GINFO writes a thread's rank, the gang's size and the ranks that hold a
member. -/
def Obligations.LeaveAndGangInfo : Prop :=
  (∀ (h : Hd) (s : State), s.dev.OutPass (.leave h) h true (fun _ _ => []) (fun _ _ => True) →
    let e := s.dev.opened (.leave h) h
    let ts := primaries (e.acting h [0])
    let place := fun (t : Thread) => (e.gangOf? t).map (fun g => gangPlace g.2.key)
    e.InTurn ts place → exec (.leave h) s = .next { s with dev := (ts.foldl (fun d t => d.leaveGang t) (e.placed ts place)).done h }) ∧
  ∀ (h : Hd) (r : VReg) (s : State), s.dev.AllPass (.ginfo h r) h [0] false (fun _ _ => True) →
    let e := s.dev.opened (.ginfo h r) h
    let words := fun (t : Thread) => match e.gangOf? t with
      | some (_, g) => [BitVec.ofNat 32 ((g.rankOf t.gangUid).getD 0), BitVec.ofNat 32 g.size, lo32 (BitVec.ofNat 64 g.mask),
          hi32 (BitVec.ofNat 64 g.mask)]
      | none => [BitVec.allOnes 32, 0, 0, 0]
    exec (.ginfo h r) s = .next { s with dev := ((primaries (e.acting h [0])).foldl
      (fun d t => d.deliver t.uid (fun x => x.wrs r (words t) false)) e).done h }

/-- R83, R84: POST of records that pass their checks, where no queue is full and no access is owed, appends each record to the task
queue of the home die of its ADDR. -/
def Obligations.PostQueuesTasks : Prop :=
  ∀ (h : Hd) (a b : VReg) (s : State),
    s.dev.OutPass (.post h a b) h false (fun d t => [bitsOf (d.postBits t a b).1 64 64, (d.postBits t a b).1])
      (fun e t => e.postFlt (.post h a b) t a b = none ∧ e.owes t = false) →
    let e := s.dev.opened (.post h a b) h
    let ks := (primaries (e.acting h [0])).map (fun t => let k := taskOf t (e.postBits t a b).1; (k, e.postDie t k.addr))
    (∀ n < 4, (ks.filter (fun k => k.2 == n)).length + (e.die n).tasks.length ≤ 65536) →
    exec (.post h a b) s = .next { s with dev :=
      (ks.foldl (fun d k => d.mapDie k.2 (fun x => { x with tasks := x.tasks ++ [k.1] })) (e.passTo (primaries (e.acting h [0])) .host)).done h }

/-! ### Across the lanes of a gang (R268 to R272) -/

/-- R269: bit k of the ballot says whether a participant of rank k has bit 0 of the predicate; VOTE gives each participant whose
guard is true the ballot, its count, or whether it meets the condition. -/
def Obligations.Votes : Prop :=
  (∀ (m : Meet) (p : PReg) (k : Nat), k < 64 →
    ((BitVec.ofNat 64 (m.ballot p).1).getLsbD k = true ↔ ∃ x ∈ m.parts, x.1 = k ∧ (x.2.pred p).getLsbD 0 = true) ∧
    ((m.ballot p).2 = true ↔ ∃ x ∈ m.parts, x.2.predP p = true)) ∧
  ∀ (h : Hd) (r : VReg) (p q : PReg) (c : VoteCond),
    CrossRuns (.voteMask h r p) h (fun m _ _ t => t.wr64 r (BitVec.ofNat 64 (m.ballot p).1) (m.ballot p).2) ∧
    CrossRuns (.voteCount h r p) h (fun m _ _ t =>
      t.wr r (BitVec.ofNat 32 ((upTo 64).filter (fun k => (BitVec.ofNat 64 (m.ballot p).1).getLsbD k)).length) (m.ballot p).2) ∧
    CrossRuns (.voteTest h q p c) h (fun m _ _ t =>
      let b := (m.ballot p).1
      t.setPred q (if (match c with
        | .none => b == 0
        | .some => b != 0
        | .every => b == m.mask
        | .agree => b == 0 || b == m.mask
        | .split => b != 0 && b != m.mask) then 0xFF else 0x00) (m.ballot p).2)

/-- R270, R271: XBFLY, XSHFL, XBCAST and XBFLY.TR give each participant the value of the rank their rule names, zero where none has
it. -/
def Obligations.Exchanges : Prop :=
  ∀ (h : Hd) (w : Bool) (r a : VReg) (n : BitVec 6),
    CrossRuns (.xbfly h w r a n) h (fun m d k t => t.wrVal w r (m.supply d (.v a w) (k ^^^ n.toNat))) ∧
    CrossRuns (.xbcast h w r a n) h (fun m d _ t => t.wrVal w r (m.supply d (.v a w) n.toNat)) ∧
    (∀ md : ShflMode, CrossRuns (.xshfl h w r a md) h (fun m d k t =>
      let f := shflFrom md { c := d.ctr, t := (m.at k).getD t, g := some m.gang }
      let size := m.gang.size
      let src : Option Nat := match md with
        | .from _ => if f.1 < size then some f.1 else none
        | .bwd x => if x.toNat ≤ k then some (k - x.toNat) else none
        | .fwd x => if k + x.toNat < size then some (k + x.toNat) else none
        | .rot x => some ((k + x.toNat) % size)
      let x := (src.map (m.supply d (.v a w))).getD (0, false)
      t.wrVal w r (x.1, x.2 || f.2))) ∧
    CrossRuns (.xbflyTr h r n) h (fun m d k t => (upTo 16).foldl (fun t j => t.wrVal false (r + BitVec.ofNat 9 j) (trReg m d r n.toNat k j)) t)

/-- R202, R272: XRED gives each participant the combination of all ranks' sources by the fixed tree, XSCAN that of the ranks up to
its own in rank order; a rank without a participant supplies zero. -/
def Obligations.ReductionsAndScans : Prop :=
  ∀ (h : Hd) (op : RedOp) (ex : Bool) (r a : VReg),
    let w := redWide op
    let src := fun (m : Meet) (d : Dev) => (upTo m.gang.size).map (m.supply d (.v a w))
    CrossRuns (.xred h op r a) h (fun m d _ t =>
      let y := treeOf (redOp op) 7 ((src m d).map Prod.fst)
      (t.wrVal w r (y.1, (src m d).any Prod.snd)).orFlags y.2) ∧
    CrossRuns (.xscan h op ex r a) h (fun m d k t =>
      let n := if ex then k else k + 1
      let ys := scanOf (redOp op) ((src m d).map Prod.fst)
      (t.wrVal w r (if n = 0 then 0 else ys.1[n - 1]?.getD 0, ((src m d).take n).any Prod.snd)).orFlags ys.2)

/-! ### Optimiser instructions (R299 to R304) -/

/-- R301, R302, R303, R304: AWUPD, SGDM and GSCALE complete in each lane with the results of their steps; a poisoned operand
poisons them and is recorded, and no thread traps. GSCALE into a gang scalar keeps the high word. -/
def Obligations.OptimiserUpdates : Prop :=
  let runs := fun (i : Instr) (h : Hd) (r : VReg) (os : List (Nat × Opd)) (f : List Nat → List Nat × FFlags) =>
    ∀ s : State, s.dev.AllPass i h [0] true (fun _ _ => True) → (s.dev.opened i h).acting h [0] ≠ [] →
      let e := s.dev.opened i h
      let act := e.acting h [0]
      let d := e.optNote (act.filterMap (fun t => (Env.optRead (e.env t) os).psn.map (fun p => (t, p))))
      exec i s = .next { s with dev := (d.mapUids (act.map Thread.uid) (fun t =>
        let x := Env.optRead (e.env t) os
        (t.wrs r ((f x.vals).1.map (BitVec.ofNat 32)) x.psn.isSome).orFlags (f x.vals).2)).done h }
  ∀ (h : Hd) (bf : Bool) (r a : VReg) (b q : SReg),
    let g := fun (x : Nat) => if bf then x % 2 ^ 16 * 2 ^ 16 else x
    runs (.awupd h bf r a b) h r (optOpds r 3 a b 4) (fun x => awupdOp (nth0 x 0) (nth0 x 1) (nth0 x 2) (g (nth0 x 3)) (x.drop 4)) ∧
    runs (.sgdm h bf r a b) h r (optOpds r 2 a b 2) (fun x => sgdmOp (nth0 x 0) (nth0 x 1) (g (nth0 x 2)) (x.drop 3)) ∧
    runs (.gscale h r a b) h r (optOpds r 0 a b 1) (fun x =>
      let f := gscaleFactor (nth0 x 1)
      ([(fmulOp (nth0 x 0) f.1).1], f.2 ||| (fmulOp (nth0 x 0) f.1).2)) ∧
    MeetRuns (.gscaleF h q b) h (fun _ _ => True) (fun d m act =>
      let f := gscaleFactor (m.gang.sreg b).toNat
      let p := m.gang.spsn b
      let d1 := if p then d.optNote ((sortBy Thread.lane act).map (fun t => (t, b.toNat, 1))) else d
      if act = [] then d.meetDone h m
      else (act.foldl (fun d t => d.deliver t.uid (fun x => x.orFlags f.2)) (d1.mapGang m.core m.idx (fun g =>
        g.setS q (hi32 (g.sreg q) ++ BitVec.ofNat 32 f.1) (p || g.spsn q)))).meetDone h m)

/-! ### Memory, the stash map and barriers (R130 to R162) -/

/-- R134, R135, R146: the loads and stores of every size complete where their checks pass: registers get the loaded words with
their poison, memory the stored bytes, each in the space the operand names. -/
def Obligations.LoadsAndStores : Prop :=
  ∀ (h : Hd) (priv sx : Bool) (sz : Sz) (r b : VReg) (m : MemRef),
    MemRuns (.ld h priv sz sx r m) h (loadOp h (b2n priv) false sz sx r m) ∧
    MemRuns (.lda h sz sx r m) h (loadOp h 0 true sz sx r m) ∧
    MemRuns (.sld h sz sx r m) h (loadOp h 2 false sz sx r m) ∧
    MemRuns (.st h priv sz m b) h (storeOp (b2n priv) false sz m b) ∧
    MemRuns (.stl h sz m b) h (storeOp 0 true sz m b) ∧
    MemRuns (.sst h sz m b) h (storeOp 2 false sz m b)

/-- R136 to R139, R209: ATOM, CAS, ATOMF and FATOM complete: the word gets the combination of its old value and the operand, and
the register of ATOM, CAS and ATOMF the old value. -/
def Obligations.Atomics : Prop :=
  ∀ (h : Hd) (o : Ord) (w : Bool) (r b : VReg) (m : MemRef),
    let n := if w then 8 else 4
    let want := wantOf (if w then .b64 else .b32) true true
    let ops := fun (size : Bool) (req : Env → Nat → Nat × Bool → Nat → PacketBody) (data : Env → List Nat)
        (f : Env → Nat × Bool → Nat × Bool → Rmw) (fl : Env → Option (AtomfOp × W32 × Bool)) =>
      rmwOp h o size r m b f data req fl
    (∀ op : AtomOp, MemRuns (.atom h o op w r m b) h
      (ops w (fun _ off x tag => .atomReq off w op (BitVec.ofNat 64 x.1) x.2 tag) (fun _ => [])
        (fun _ old x => { new := some (atomNew op (8 * n) old.1 x.1), psn := x.2 || (op != .exch && old.2), flags := 0 })
        (fun _ => none))) ∧
    MemRuns (.cas h o w r m b) h
      (ops w (fun e off x tag => .casReq off w (BitVec.ofNat 64 (e.read 2 (.v r w)).1) (BitVec.ofNat 64 x.1) x.2 tag)
        (fun e => [(e.read 2 (.v r w)).1])
        (fun e old x => { new := if old.1 = (e.read 2 (.v r w)).1 then some x.1 else none, psn := x.2, flags := 0 })
        (fun _ => none)) ∧
    (∀ op : AtomfOp, MemRuns (.atomf h o op r m b) h
      (ops false (fun _ off x tag => .atomfReq off op (BitVec.ofNat 32 x.1) x.2 tag) (fun _ => [])
        (fun _ old x => { new := some (atomfNew op old.1 x.1).1, psn := x.2 || old.2, flags := (atomfNew op old.1 x.1).2 })
        (fun e => some (op, BitVec.ofNat 32 (e.read 1 (.v b false)).1, (e.read 1 (.v b false)).2)))) ∧
    ∀ op : FatomOp, MemRuns (.fatom h o op w m b) h
      { sp := 0, mem := m, want := want, rel := isRel o, acq := isAcq o, data := fun e => [(e.read 1 (.v b w)).1]
        fill := fun _ _ _ => none
        far := fun _ _ _ => none
        late := fun _ _ _ _ => noLate
        post := fun d t s => match s with
          | .remote vm off =>
            let x := (d.env t).read 1 (.v b w)
            some { vm := vm, off := off, len := n, posted := true, wr := true, ord := o, body := fun _ => .atom off w op (BitVec.ofNat 64 x.1) x.2 }
          | _ => none
        act := fun d t s => match s with
          | .remote _ _ => d
          | s =>
            let old := d.readAt t s n
            let x := (d.env t).read 1 (.v b w)
            let d1 := (d.sawAt true t s n).afterRead t s n
            let d2 := if isAcq o then (match s.pa? with | some pa => d1.takesBytes [.thread t.gangUid] pa n | none => d1) else d1
            d2.writeAt (t.writer (isRel o) true) t s (leBytes n (atomNew (fatomOp op) (8 * n) (leOf old.1) x.1))
              (x.2 || (fatomOp op != .exch && old.2)) }

/-- R134, R135: a store changes no byte of physical memory outside the bytes its lanes store to, and a word that ST stores in one lane
to physical memory is what the memory reads there afterwards, where no array word is in error, no lane's request is lost and no
earlier value lingers: those write records, or let another write stand after this one. Memory keeps its canonical form. -/
def Obligations.StoresReachMemory : Prop :=
  (∀ (i : Instr) (h : Hd) (sp : Nat) (rel : Bool) (sz : Sz) (m : MemRef) (b : VReg) (s s' : State),
      (i = .st h (sp == 1) sz m b ∧ sp ≤ 1 ∧ rel = false) ∨ (i = .stl h sz m b ∧ sp = 0 ∧ rel = true) ∨
        (i = .sst h sz m b ∧ sp = 2 ∧ rel = false) →
      let op := storeOp sp rel sz m b
      s.dev.OutPass i h false (fun d t => ((d.env t).memAddr (sp = 0) m).1 :: op.data (d.env t)) (fun d t => d.memFlt t sp m op.want = none) →
      let e := s.dev.opened i h
      let ts := primaries (e.acting h [0])
      e.MemFree op ts → e.flips = [] → (∀ t ∈ ts, ∀ x c, e.replyOf t = some x → x.reply ≠ .lost c) → s.dev.mem.wf = true →
      exec i s = .next s' → s'.dev.mem.wf = true ∧
      ∀ a : Nat, (∀ t ∈ ts, ∀ pa, (e.laneSpot t op = .phys pa ∨ ∃ k o, e.laneSpot t op = .mapped k o pa) → a < pa ∨ pa + szBytes sz ≤ a) →
        s'.dev.mem.get a = s.dev.mem.get a) ∧
  ∀ (h : Hd) (m : MemRef) (b : VReg) (s s' : State) (t : Thread) (pa : Nat),
    let i := Instr.st h false .b32 m b
    let op := storeOp 0 false .b32 m b
    s.dev.OutPass i h false (fun d t => ((d.env t).memAddr true m).1 :: op.data (d.env t)) (fun d t => d.memFlt t 0 m op.want = none) →
    let e := s.dev.opened i h
    primaries (e.acting h [0]) = [t] → e.MemFree op [t] → e.flips = [] → e.caches.olds = [] →
    (∀ x c, e.replyOf t = some x → x.reply ≠ .lost c) → e.laneSpot t op = .phys pa → s.dev.mem.wf = true → exec i s = .next s' →
    s'.dev.mem.getLE pa 4 = ((e.env t).read 1 (.v b false)).1 % 2 ^ 32

/-- R107, R110, R111, R114, R116, R118: a load that is an acquire, or of a ROW range, returns memory's own bytes, and every load of one
word those or an earlier value of it that the thread may still read: one that another agent's write replaced, which nothing has ordered
before the load and before which the thread has read nothing later. What a release left with a carrier of order is ordered before
what acquires from it. The numbers that say so keep their order. Which of these values a load returns is the model's free
choice (notes/assumptions/26). -/
def Obligations.LoadsReturnAllowedValues : Prop :=
  let Wf := fun (c : Caches) => ∀ o ∈ c.olds, o.num < c.next
  (Wf Caches.empty ∧ ∀ (c : Caches) (as : List Agent) (a : Agent) (word pa n : Nat) (mask : List Nat) (w : Writer) (b : List Byte × Bool)
      (keep : Bool) (o : Option OldWord) (s : Sync), Wf c →
    Wf (c.saw as word o) ∧ Wf (c.take as s) ∧ Wf (c.leave as s) ∧ Wf (c.passTo as a) ∧ Wf (c.wrote w word mask b keep) ∧ Wf (c.drop pa n) ∧
      ∀ x, c.before? w word = some x → Wf (c.slip w x mask b)) ∧
  (∀ (d : Dev) (t : Thread) (s : Spot) (n : Nat), d.loadAt true t s n = d.readAt t s n ∧
    ∀ pa, s.pa? = some pa → 0 < n → pa % 8 + n ≤ 8 → d.loadAt false t s n = d.readAt t s n ∨
      ∃ o ∈ d.caches.choices [.thread t.gangUid] (pa / 8),
        d.loadAt false t s n = ((upTo n).map (fun k => o.bytes[pa % 8 + k]?.getD 0), o.psn)) ∧
  ∀ (c : Caches) (a : Agent) (word : Nat), Wf c →
    (∀ o ∈ c.choices [a] word, o.word = word ∧ o.by_.contains a = false ∧ o.num ∉ c.past [a]) ∧
    (∀ (as : List Agent) (s : Sync), ∀ o ∈ ((c.leave as s).take [a] s).choices [a] word, o.num ∉ c.done as) ∧
    (∀ as : List Agent, ∀ o ∈ (c.passTo as a).choices [a] word, o.num ∉ c.done as) ∧
    (c.saw [a] word none).choices [a] word = [] ∧
    ∀ o ∈ c.choices [a] word, ∀ p ∈ (c.saw [a] word (some o)).choices [a] word, o.num ≤ p.num

/-- R149 to R152: SMAP maps a range for each lane in turn, SUNMAP ends an entry, SFLUSH keeps it. -/
def Obligations.StashMap : Prop :=
  ∀ (h : Hd) (n : BitVec 4) (w : Bool) (len : BitVec 10) (f : SmapForm),
    let size := (len.toNat + 1) * 64
    SerialRuns (.smap h n w len f) h false (fun d t => [((d.env t).smapOps f).1, ((d.env t).smapOps f).2.1])
      (fun d t => t.poisonRun ((d.env t).smapRun f) = none)
      (fun d t => d.owesEntry t n.toNat = false ∧ d.matrixHolds t true (.stash ((d.env t).smapOps f).2.1) size = false)
      (fun e d t => d.smapFlt t n.toNat w size ((e.env t).smapOps f).1 ((e.env t).smapOps f).2.1 = none)
      (fun e d t => (d.unmap t n.toNat).mapChunk t.ctx t.lid t.chunk (fun c =>
        let entry : MapEntry := ⟨((e.env t).smapOps f).2.1, BitVec.ofNat 64 ((e.env t).smapOps f).1, size, w, []⟩
        { c with map := KV.set c.map n.toNat entry }))
      (fun d _ => d.done h) ∧
    (∀ s : State, s.dev.AllPass (.sunmap h n) h [0] false (fun e t => e.owesEntry t n.toNat = false) →
      let e := s.dev.opened (.sunmap h n) h
      exec (.sunmap h n) s = .next { s with dev := ((primaries (e.acting h [0])).foldl (fun d t => d.unmap t n.toNat) e).done h }) ∧
    LaneRuns (.sflush h n) h [0] false (fun e t => e.owesEntry t n.toNat = false) (fun _ t => t)

/-- R154, R156, R157, R158: the lanes of BINIT, BARV, BEXP, BEXP.MAX, BADDB and BDROP operate on their objects one after another,
each checked in the state that the lanes before it left; an arrival, an expectation or a lowered target settles the object. -/
def Obligations.BarrierOperations : Prop :=
  ∀ (h : Hd) (m : MemRef) (g : Bool) (b : VReg) (n : Src) (x : Option Src),
    let loc := fun (e : Dev) (t : Thread) => e.objLoc t (e.objOff t m)
    let runs := fun (i : Instr) (gangOp rel : Bool) (data : Env → List Nat) (ok : Dev → Thread → ObjLoc → Prop)
        (act : Dev → Thread → ObjLoc → Dev) =>
      TurnRuns i h gangOp (fun d t => d.objOff t m :: data (d.env t)) (fun d t => d.barFlt t m = none)
        (fun d t => (rel = true → d.owes t = false) ∧ d.matrixHolds t true (.stash (d.objOff t m)) 16 = false)
        (fun e t => some (loc e t).place)
        (fun e d t => ok d t (loc e t)) (fun e d t => act d t (loc e t)) (fun d _ => d.done h)
    let size := fun (d : Dev) (t : Thread) => ((d.env t).read 1 (.v b false)).1
    let count := fun (d : Dev) (t : Thread) => (d.env t).count n
    let extra := fun (d : Dev) (t : Thread) => match x with | some r => (d.env t).count r | none => 0
    let sets := fun (d d1 : Dev) (t : Thread) (l : ObjLoc) (f : Obj → Obj) => d1.settle l (f (d1.obj l)) (d.whoOf t)
    let frees := fun (d : Dev) (t : Thread) (l : ObjLoc) => d.leaves [t] (l.sync false)
    runs (.binit h g m b) g false (fun e => [(e.read 1 (.v b false)).1]) (fun d t l => d.binitFlt t g l (size d t) = none)
      (fun d t l => d.binitLane t g l (size d t)) ∧
    runs (.barv h m x) false true (fun e => match x with | some r => [e.count r] | none => [])
      (fun d t l => d.objBad l = false ∧ (d.obj l).thrT ≠ 0 ∧ (d.obj l).thrC ≠ (d.obj l).thrT ∧ (d.obj l).byT + extra d t ≤ byteMax)
      (fun d t l => sets d ((frees d t l).markArrived t l) t l (fun o => { o with thrC := o.thrC + 1, byT := o.byT + extra d t })) ∧
    runs (.bexp h m n) false false (fun e => [e.count n])
      (fun d t l => d.objBad l = false ∧ (d.obj l).byT + count d t ≤ byteMax)
      (fun d t l => sets d d t l (fun o => { o with byT := o.byT + count d t })) ∧
    runs (.bexpMax h m n) false false (fun e => [e.count n])
      (fun d t l => d.objBad l = false ∧ count d t ≤ byteMax)
      (fun d t l => sets d d t l (fun o => { o with byT := max o.byT (count d t) })) ∧
    runs (.baddb h m n) false true (fun e => [e.count n]) (fun d _ l => d.objBad l = false)
      (fun d t l => d.byteArrive l (count d t) false [.thread t.gangUid] (d.whoOf t)) ∧
    runs (.bdrop h m) false true (fun _ => [])
      (fun d _ l => d.objBad l = false ∧ (d.obj l).thrT ≠ 0 ∧ (d.obj l).thrC ≠ (d.obj l).thrT)
      (fun d t l => sets d ((frees d t l).dropRank t l) t l (fun o => { o with thrT := o.thrT - 1 }))

/-- R155: an object with no target, or with an arrival outstanding, keeps its counts; one whose arrivals and bytes are complete
turns its phase, clears its counts and byte target, and every thread that sleeps on it goes on with its predicate written; bytes
beyond the target set ERR and are recorded. The stashes keep the canonical form of memory. -/
def Obligations.BarrierSettles : Prop :=
  ∀ (d : Dev) (l : ObjLoc) (o : Obj) (who : Who), (∀ c ∈ d.chunks, c.stash.wf = true) →
    (∀ c ∈ (d.settle l o who).chunks, c.stash.wf = true) ∧
    ((o.thrT = 0 ∧ o.byT = 0) ∨ o.thrC ≠ o.thrT ∨ o.byC < o.byT → d.settle l o who = d.setObj l o) ∧
    (¬(o.thrT = 0 ∧ o.byT = 0) → o.thrC = o.thrT → o.byT < o.byC →
      d.settle l o who = (d.flipObj l { o with err := true }).note who cBarrierOverflow (objDetail l { o with err := true } 0)) ∧
    (¬(o.thrT = 0 ∧ o.byT = 0) → o.thrC = o.thrT → o.byC = o.byT →
      ((d.objChunk? l).isSome = true → o.thrT < 4096 → o.gang < 64 → (d.settle l o who).obj l =
        { o with phase := !o.phase, thrC := 0, byC := 0, byT := 0 }) ∧
      ∀ (t : Thread) (p : PReg) (k : Bool) (dl : Option W64), t ∈ d.threads → t.ctx = l.ctx → t.lid = l.lid → t.chunk = l.chunk →
        t.wait = .barrier p l.off k dl → ∃ t' ∈ (d.settle l o who).threads, t'.uid = t.uid ∧ t'.wait = .none ∧ t'.pc = t.pc + 12 ∧
          (p ≠ 0 → p.toNat < t.preds.length → t'.pred p = if o.err then 0x0F else 0xFF))

/-- R159: BWAIT, BTEST and BWAITT complete in each lane whose phase has turned, with 0xFF, or 0x0F after an error; a lane whose
phase has not turned sleeps, or gets 0x00 from BTEST and from a BWAITT whose deadline has passed. -/
def Obligations.BarrierWaits : Prop :=
  ∀ (h : Hd) (p : PReg) (m : MemRef) (k : Parity) (kb : Bool) (dl : Src),
    let loc := fun (e : Dev) (t : Thread) => e.objLoc t (e.objOff t m)
    let runs := fun (i : Instr) (par : Env → Bool) (sleeps : Dev → Thread → Bool) (till : Env → Option W64) =>
      ∀ s : State, s.dev.OutPass i h false (fun d t => [d.objOff t m, b2n (par (d.env t))]) (fun d t => d.barFlt t m = none) →
        let e := s.dev.opened i h
        let ts := primaries (e.acting h [0])
        let act := fun (d : Dev) (t : Thread) =>
          let o := d.obj (loc e t)
          if o.phase ≠ par (d.env t) then
            (d.deliver t.uid (fun x => ((x.setPred p (waitDone o.err) false).retire d.pcyc).hint h.yh d.pcyc)).takes [t] ((loc e t).sync true)
          else if sleeps d t then
            let w := Wait.barrier p (loc e t).off (par (d.env t)) (till (d.env t))
            d.deliver t.uid (fun x => { (x.hint h.yh d.pcyc) with wait := w, since := d.pcyc })
          else d.deliver t.uid (fun x => ((x.setPred p 0x00 false).retire d.pcyc).hint h.yh d.pcyc)
        let from_ := e.placed ts (fun t => some (loc e t).place)
        (∀ t ∈ ts, e.matrixHolds t false (.stash (e.objOff t m)) 16 = false) → e.InTurn ts (fun t => some (loc e t).place) →
        SerialOk (fun d t => d.objBad (loc e t) = false) act from_ ts →
        let off := e.group.filter (fun u => !((s.dev.members.filter (fun t => t.active h [0])).any (fun t => t.uid == u)))
        exec i s = .next { s with dev := (ts.foldl act from_).retire off h.yh }
    runs (.bwait h p m k) (fun e => e.parity k) (fun _ _ => true) (fun _ => none) ∧
    runs (.btest h p m k) (fun e => e.parity k) (fun _ _ => false) (fun _ => none) ∧
    runs (.bwaitt h p m kb dl) (fun _ => kb) (fun d t => decide (d.cyc t.ctx < (d.env t).deadline dl)) (fun e => some (e.deadline dl))

/-! ### Rows (R164 to R178) -/

/-- R167, R170, R173, R174, R175: the lanes of ROWACT, ROWPRE, ROWQRY and ROWWT are served one after another: a row opens in a slot,
a slot closes, its state is read, or its ready time is waited for. -/
def Obligations.RowSlots : Prop :=
  ∀ (h : Hd) (k : SlotNo) (base : Src) (off : W32) (r : VReg) (p : PReg),
    let va := fun (e : Dev) (t : Thread) => ((e.env t).rowAddr true base off).1
    let mine := fun (_ d : Dev) (t : Thread) => d.slotTaken t k.toNat = false
    SerialRuns (.rowact h k base off) h true (fun d t => [va d t]) (fun d t => d.rowBaseFlt t true base = none)
      (fun d t => d.matrixHolds t false (.phys (d.rowPa t (va d t))) 2048 = false)
      (fun _ d t => d.rowactFlt t k.toNat (va d t) = none) (fun _ d t => d.openRow t k.toNat (va d t)) (fun d _ => d.done h) ∧
    SerialRuns (.rowpre h k) h true (fun _ _ => []) (fun _ _ => True) (fun d t => d.slotBusy t.core k.toNat = false)
      mine (fun _ d t => d.closeSlot t.core k.toNat) (fun d _ => d.done h) ∧
    SerialRuns (.rowqry h r k) h true (fun _ _ => []) (fun _ _ => True) (fun d t => d.logStalls t.ctx = false) mine
      (fun _ d t =>
        let ws := d.rowqryWords t k.toNat
        let y := d.cycInput t (d64 ws 0)
        let z := y.2.cycInput t (d64 ws 2)
        z.2.deliver t.uid (fun x => x.wrs r [lo32 y.1, hi32 y.1, lo32 z.1, hi32 z.1] false)) (fun d _ => d.done h) ∧
    SerialRuns (.rowwt h p k) h true (fun _ _ => []) (fun _ _ => True) (fun _ _ => True)
      (fun e d t => mine e d t ∧ (d.slot t.core k.toNat).state ≠ .empty)
      (fun _ d t =>
        let x := d.slot t.core k.toNat
        let st := if (x.state = .opening ∨ x.state = .ready) ∧ x.close ≤ d.cyc t.ctx then SlotState.lost else x.state
        if st = .opening then
          let w := Wait.row p k x.act
          d.deliver t.uid (fun y => { (y.hint h.yh d.pcyc) with wait := w, since := d.pcyc })
        else
          d.deliver t.uid (fun y => ((y.setPred p (if st = .ready then 0xFF else 0x00) false).retire d.pcyc).hint h.yh d.pcyc))
      (fun d ts => d.retireOff h ts)

/-- R171, R172: each form of ROWCON and ROWPUT queues its transfers on the vertical bus of its core, and its threads wait for
them. -/
def Obligations.RowTransfers : Prop :=
  ∀ (h : Hd) (a : SlotNo) (k : BitVec 3) (base : Src) (off : W32) (r b : VReg),
    let so := fun (d : Dev) (t : Thread) => ((d.env t).rowAddr false base off).1
    let ready := fun (d : Dev) (t : Thread) (wr : Bool) =>
      d.slotFlt t a.toNat = none ∧ (if wr then (d.slot t.core a.toNat).wr else (d.slot t.core a.toNat).rd) = true
    SerialRuns (.rowconW h a k) h true (fun _ _ => []) (fun _ _ => True) (fun _ _ => True)
      (fun _ d t => ready d t false ∧ d.planesOf t = some (d.gangNo t))
      (fun _ d t => d.request [t] a.toNat (.toPlane k.toNat)) (fun d ts => d.retireOff h ts) ∧
    SerialRuns (.rowconV h r a) h true (fun _ _ => []) (fun _ _ => True) (fun _ _ => True) (fun _ d t => ready d t false) (fun _ d _ => d)
      (fun d ts => (d.retireOff h ts).request ts a.toNat (.toRegs (ts.filterMap (fun t => (d.rank? t).map (fun q => (t.uid, q)))) r)) ∧
    SerialRuns (.rowconS h a base off) h true (fun d t => [so d t]) (fun d t => d.rowBaseFlt t false base = none)
      (fun d t => d.matrixHolds t true (.stash (so d t)) 2048 = false)
      (fun _ d t => ready d t false ∧ d.rowStashFlt t (so d t) true = none)
      (fun _ d t => d.request [t] a.toNat (.toStash t.lid t.chunk (so d t))) (fun d ts => d.retireOff h ts) ∧
    SerialRuns (.rowput h a base off) h true (fun d t => [so d t, (d.rowData t (so d t)).1.getLE 0 2048])
      (fun d t => d.rowBaseFlt t false base = none)
      (fun d t => d.matrixHolds t false (.stash (so d t)) 2048 = false ∧ d.matrixHolds t true (.phys (d.slot t.core a.toNat).pa) 2048 = false)
      (fun _ d t => ready d t true ∧ d.rowStashFlt t (so d t) false = none)
      (fun _ d t => d.request [t] a.toNat (.put (d.rowData t (so d t)).1 [(0, 2048)] (d.rowData t (so d t)).2)) (fun d ts => d.retireOff h ts) ∧
    SerialRuns (.rowputV h a b) h true (fun d t => [leOf (d.rowPart t b).2.1]) (fun _ _ => True)
      (fun d t => d.matrixHolds t true (.phys ((d.slot t.core a.toNat).pa + 32 * (d.rank? t).getD 0)) 32 = false)
      (fun _ d t => ready d t true) (fun _ d _ => d)
      (fun d ts =>
        let ps := ts.map (fun t => d.rowPart t b)
        (d.retireOff h ts).request ts a.toNat (.put (ps.foldl (fun (x : Memory) q => x.setBytes (32 * q.1) q.2.1) [])
          (ps.map (fun q => (32 * q.1, 32))) (ps.map (fun q => q.2.2)).flatten))

/-! ### Engine jobs and the fabric (R187 to R210) -/

/-- R190, R195, R199: XCOPY and the collectives queue one job for each lane in turn, on the thread's die, and write its promise and
handle; the card lies in a gang-scalar group or in stash of this module. -/
def Obligations.JobSubmission : Prop :=
  ∀ (h : Hd) (r : VReg) (c : CardSrc),
    let off := fun (d : Dev) (t : Thread) => match c with
      | .group _ => 0
      | .stash base o => ((d.env t).rowAddr false base o).1
    let runs := fun (i : Instr) (k : JobKind) =>
      ∀ s : State, s.dev.OutPass i h false (fun d t => off d t :: (d.cardOf t c).1.map BitVec.toNat) (fun d t => d.cardFlt t c = none) →
        let o := s.dev.opened i h
        let ts := primaries (o.acting h [0])
        let far := fun (t : Thread) => match c with | .group _ => false | .stash .. => (o.cardFar t (off o t)).isSome
        let e := o.claimGrants (coreOf ts) (ts.map Thread.uid)
        let act := fun (d : Dev) (t : Thread) =>
          match d.submitLane t k r (e.cardOf t c) with
          | .ok (hd, p, d') => d'.deliver t.uid (fun y => y.wrs r [lo32 p, hi32 p, hd, 0] false)
          | .error _ => d
        ((∀ t ∈ ts, far t = false) ∨
          ((∃ t ∈ ts, t.asked.isSome = true) ∧ ∀ t ∈ ts, far t = true → ∃ a, o.replyOf t = some a ∧ a.reply ≠ .none)) →
        (∀ t ∈ ts, e.owes t = false ∧ e.logStalls t.ctx = false) →
        SerialOk (fun d t => ∀ f, d.submitLane t k r (e.cardOf t c) ≠ .error f) act e ts →
        exec i s = .next { s with dev := ((ts.foldl act e).takeFars (coreOf ts) (ts.map Thread.uid)).done h }
    runs (.xcopy h r c) .copy ∧ runs (.crs h r c) (.crs false) ∧ runs (.crsNorm h r c) (.crs true) ∧ runs (.cag h r c) .cag ∧
    runs (.car h r c) .car ∧ runs (.cbc h r c) .cbc

/-- R195, R200: queuing a submission appends one job to the queue of its die, in state queued and with the handle and promise that
are returned, and counts the die's submissions. -/
def Obligations.EnqueueAppends : Prop :=
  ∀ (d : Dev) (s : Sub) (rel : List Thread) (die : Nat) (g : HandleReg), die < d.dies.length →
    let q := d.enqueue s rel die g
    q.1 = BitVec.ofNat 32 (die * 2 ^ 30 + (d.die die).next % 2 ^ 30) ∧
    (∃ j, (q.2.2.die die).jobs = (d.die die).jobs ++ [j] ∧ j.handle = q.1 ∧ j.promise = q.2.1 ∧ j.state = .queued ∧
      j.kind = s.kind ∧ j.card = s.card ∧ j.ctx = s.t.ctx) ∧
    (q.2.2.die die).next = (d.die die).next + 1 ∧ (∀ n, n ≠ die → q.2.2.die n = d.die n) ∧ q.2.2.mem = d.mem ∧
    q.2.2.threads = d.threads

/-- R208, R210: FPUT and FGET, at the completion of their rendezvous, queue one transfer for the chunk of the rank they name and
write its promise and handle to two gang scalars; FSIG sends one packet for each lane whose endpoint lies on another module, and
delivers the bytes of the others here. -/
def Obligations.FabricTransfers : Prop :=
  (∀ (h : Hd) (r a : SReg) (rank : BitVec 6),
      let runs := fun (i : Instr) (k : JobKind) =>
        let sub := fun (d : Dev) (m : Meet) =>
          (m.at rank.toNat).bind (fun t => d.subOf t k ((upTo 4).map (fun n => m.gang.sreg (a + BitVec.ofNat 6 n))))
        MeetRuns i h
          (fun d m => m.true? h ≠ [] → (∀ n < 4, m.gang.spsn (a + BitVec.ofNat 6 n) = false) ∧
            ∃ s, sub d m = some s ∧ d.fxferFlt s (dieOf m.core) = none)
          (fun d m act =>
            match act, sub d m with
            | _ :: _, some s =>
              let q := d.enqueue s (m.parts.map Prod.snd) (dieOf m.core) (.s (r + 1))
              (q.2.2.mapGang m.core m.idx (fun g => (g.setS r q.2.1 false).setS (r + 1) (zext64 q.1) false)).meetDone h m
            | _, _ => d.meetDone h m)
      runs (.fput h r a rank) .put ∧ runs (.fget h r a rank) .get) ∧
  ∀ (h : Hd) (x : FsigSrc) (s : State),
    s.dev.OutPass (.fsig h x) h false (fun d t => let o := (d.env t).fsigOps x; [o.1.toNat, o.2.1])
      (fun d t => d.fsigFlt t x = none ∧ d.owes t = false) →
    let e := s.dev.opened (.fsig h x) h
    let ts := primaries (e.acting h [0])
    let core := coreOf ts
    let vm := fun (t : Thread) => ((e.ctx? t.ctx).map Ctx.vm).getD 0
    let op := fun (t : Thread) => (e.env t).fsigOps x
    let away := ts.filter (fun t => endpointVm (op t).1 ≠ vm t)
    let here := ts.filter (fun t => endpointVm (op t).1 = vm t)
    let f := e.claimGrants core (ts.map Thread.uid)
    e.InTurn ts (fun t => e.fsigPlace t x) → (away.length = 0 ∨ (away.length ≤ f.ottFree core ∧ ((e.core core).ott.length ≠ (f.core core).ott.length ∨ f.ottWaiters core = []))) →
    let d := (away.foldl (fun (d : Dev) t => d.sendFars none [(t, sigFar (op t).1 (op t).2.1)]) f).done h
    exec (.fsig h x) s = .next { s with dev := here.foldl (fun d t => d.fsigHere t (op t).1 (op t).2.1 (vm t)) d }

/-- R196, R197, R198: XWAIT writes how an ended job ended, or sleeps for one that runs until its promise passes; XQRY writes a
handle's promise and state; XCANCEL withdraws a job none of whose segments has begun. -/
def Obligations.JobHandles : Prop :=
  ∀ (h : Hd) (p : PReg) (r : VReg) (a : Src),
    let key := fun (d : Dev) (t : Thread) => [((d.env t).handle a).2.1.toNat]
    (OutRuns (.xwait h p a) h false key
      (fun d t => ∃ st, d.jobState t ((d.env t).handle a).2.1 = some st ∧ (st.live = true → d.cyc t.ctx < ((d.env t).handle a).1))
      (fun e ts => (ts.foldl (fun d t =>
        let x := (d.env t).handle a
        match d.jobState t x.2.1 with
        | some st =>
          if st.live then
            let w := Wait.job p x.2.1 x.1 (handleReg a).1 (handleReg a).2 x.2.2
            d.deliver t.uid (fun y => { (y.hint h.yh d.pcyc) with wait := w, since := d.pcyc })
          else (d.deliver t.uid (fun y => ((y.setPred p (if st = .completed then 0xFF else 0x0F) x.2.2).retire d.pcyc).hint h.yh d.pcyc)).learns [t]
            (.job (dieOf t.core) x.2.1)
        | none => d) e).retireOff h ts)) ∧
    (OutRuns (.xqry h r a) h false key (fun d t => (d.jobState t ((d.env t).handle a).2.1).isSome = true ∧ d.logStalls t.ctx = false)
      (fun e ts => (ts.foldl (fun d t =>
        let y := d.xqryWords t a
        y.2.deliver t.uid (fun x => x.wrs r y.1 ((e.env t).handle a).2.2)) e).done h)) ∧
    OutRuns (.xcancel h p a) h false key (fun _ _ => True)
      (fun e ts => (ts.foldl (fun d t =>
        let x := (d.env t).handle a
        match d.cancellable t x.2.1 with
        | some j => (d.abandonJob (dieOf t.core) j .withdrawn cJobCancelled (jobDetail x.2.1 0 4)).deliver t.uid (fun y => y.setPred p 0xFF x.2.2)
        | none => d.deliver t.uid (fun y => y.setPred p 0x00 x.2.2)) e).done h)

/-! ### The matrix unit (R274 to R316) -/

/-- R279, R282, R283, R284 to R292, R308 to R316: every instruction of the matrix queue, at the completion of its rendezvous, is
accepted with its operands and its participants, or waits for a place in the queue. -/
def Obligations.MatrixAcceptance : Prop :=
  ∀ (h : Hd) (ty : MTy) (f z : Bool) (t u : TileNo) (a b : SReg) (v : VReg) (cv : Cv) (p : PReg) (mask : Byte) (m9 : BitVec 9) (col : BitVec 5),
    let always := fun (_ : Dev) (_ : Meet) => True
    let runs := fun (i : Instr) (rs : List SReg) (plans : Dev → Meet → List W64 → List MPlan) =>
      MatrixRuns i h rs rs always plans (fun _ _ _ => []) (fun _ _ => [])
    let need := fun (ts : List Nat) (planes : Bool) => fun (_ : Dev) (_ : Meet) (_ : List W64) =>
      [{ MPlan.none with tiles := ts, planes := planes }]
    runs (.mldw h ty f a) (sRun a 3) (fun _ _ ops => [mldwPlan ty f ops]) ∧
    runs (.mswap h) [] (need [] true) ∧
    runs (.mstream h ty z t a) (sRun a 3) (fun _ _ ops => [mstreamPlan ty t ops]) ∧
    runs (.mclr h mask) [] (need ((upTo 8).filter (fun k => mask.getLsbD k)) false) ∧
    runs (.mst h cv t a) (sRun a 3) (fun _ _ ops => [mstPlan cv t ops true]) ∧
    runs (.mstReg h cv v t) [] (need [t.toNat] false) ∧
    runs (.mlda h cv t a) (sRun a 3) (fun _ _ ops => [mstPlan cv t ops false]) ∧
    MatrixRuns (.mgrp h ty z t a) h (sRun a 4) (sRun a 4) (fun d m => (d.core m.core).tableBusy m.idx m.gang a = false) (fun d m ops => [mgrpHead t ops, mgrpBody ty t ops (d.groupTable m.gang ops)])
      (fun d m ops => d.groupTable m.gang ops) (fun _ _ => []) ∧
    runs (.mtake h p m9) [] (fun _ _ _ => []) ∧
    runs (.mgive h m9) [] (need ((upTo 8).filter (fun k => m9.getLsbD k)) (m9.getLsbD 8)) ∧
    runs (.macc h f t u) [] (need [t.toNat, u.toNat].eraseDups false) ∧
    runs (.mscl h t a) [a] (need [t.toNat] false) ∧
    runs (.norma h f a b) (sRun a 3 ++ [b]) (fun _ _ ops => [normPlan false ops]) ∧
    runs (.normb h f a b) (sRun a 3 ++ [b]) (fun _ _ ops => [normPlan true ops]) ∧
    runs (.nprod h b a) (sRun a 2) (fun _ _ ops => [nprodPlan ops]) ∧
    MatrixRuns (.aliasT h a b) h [a, b] [a] always (fun _ _ ops => [aliasPlan ops]) (fun _ _ _ => []) (fun _ m => [[(0, m.gang.spsn b)]]) ∧
    runs (.sampmm h f t a b) (sRun a 7 ++ [b]) (fun d m ops =>
      let x := d.ahead m.core m.idx m.gang
      [sampPlan t ops x.probe.1 x.probe.2 x.size]) ∧
    runs (.svset h mask col) [] (fun _ _ _ => []) ∧
    runs (.svrdW h a) [] (fun _ _ _ => [])

/-- R279, R292, R298: MLDA in register form is accepted with the registers of the ranks below 32, where no protected pair
disagrees on them. -/
def Obligations.MatrixRegisterLoad : Prop :=
  ∀ (h : Hd) (cv : Cv) (t : TileNo) (v : VReg) (s : State) (m : Meet), s.dev.MeetsAt (.mldaReg h cv t v) h m →
    let d := s.dev.tick
    let act := m.true? h
    d.threads.all (fun x => !x.shadow) = true → m.parts.all (fun x => !x.2.shadow) = true →
    d.planFlt (.mldaReg h cv t v) m { MPlan.none with tiles := [t.toNat] } = none →
    let q := d.newMatrixJob (.mldaReg h cv t v) m act [] [] [] (m.supplies d cv v)
    exec (.mldaReg h cv t v) s = .next { s with dev := if act = [] then d.meetDone h m else q.1.accept h m q.2 }

/-- R279, R280, R281, R293, R316: MQRY writes the state of the matrix queue to a gang scalar and SVRD the gang's SVAR to two, at once;
a freed entry of the queue goes to the instruction that began to wait first; and of the instructions that may take a step one takes it:
which one, where the spec allows several, is the model's free choice (log 40). -/
def Obligations.MatrixQueries : Prop :=
  ∀ (h : Hd) (r : SReg),
    MeetRuns (.mqry h r) h (fun _ _ => True) (fun d m act =>
      if act = [] then d.meetDone h m else (d.mapGang m.core m.idx (fun g => g.setS r (d.mqryWord m) false)).meetDone h m) ∧
    MeetRuns (.svrd h r) h (fun _ _ => True) (fun d m act =>
      if act = [] then d.meetDone h m
      else (d.mapGang m.core m.idx (fun g =>
        (g.setS r (g.svar.word 1 ++ g.svar.word 0) false).setS (r + 1) (g.svar.word 3 ++ g.svar.word 2) false)).meetDone h m) ∧
    ∀ core : Nat,
      (∀ (w : MatrixWait) (ws : List MatrixWait),
        DevRuns (.matrixAccept core) (fun d => (d.core core).mwait = w :: ws ∧ (d.core core).mq.length < 16) (fun d =>
          let waits := fun (t : Thread) => t.core == core && t.wait == .matrixQueue w.ticket
          let e := d.mapCore core (fun c => { c with mq := (d.core core).mq ++ [w.job], mwait := ws })
          if matrixBlocks w.job.instr then e.mapThreads waits (fun t => { t with wait := .matrix w.ticket })
          else e.mapThreads waits (fun t => (t.woken d.pcyc).hint ((w.job.instr.hd?.map Hd.yh).getD .none) d.pcyc))) ∧
      ∀ s : State, s.dev.tick.matChoices core ≠ [] → ∃ j ∈ s.dev.tick.matChoices core,
        exec (.matrixStep core) s = .next { s with dev := s.dev.tick.matStep core j }

/-! ### System registers, traps and queries (R20 to R31, R343, R344, R384 to R390) -/

/-- R21, R23, R24, R342, R372, R382, R383, R384, R387: SYSR completes: a register of the thread's own scope is read in each lane, any
other once for a pair, and its value goes to one register, a pair, or a gang scalar; SYSR of EQTAIL is an acquire; and what a thread
reads of its own and its context's registers. -/
def Obligations.SystemRegisterReads : Prop :=
  let runs := fun (order : Dev → List Thread → Dev) (i : Instr) (h : Hd) (f : SysForm) (n : Nat) => match f with
    | .s r => MeetRuns i h (fun _ _ => True) (fun d m act =>
        match act with
        | [] => d.meetDone h m
        | t :: _ => ((order (d.sysGet t n).2 act).mapGang m.core m.idx (fun g => g.setS r (d.sysGet t n).1 false)).meetDone h m)
    | f =>
      let r := sysDest f
      let words := fun (v : W64) => match f with
        | .one _ => [lo32 v]
        | _ => [lo32 v, hi32 v]
      if ownScope n then LaneRuns i h [0] (gangScope n) (fun _ _ => True) (fun e t => t.wrRes h r (words (e.sysRead t n)) false)
      else OutRuns i h (gangScope n) (fun _ _ => []) (fun d t => n = 0 → d.logStalls t.ctx = false) (fun e ts =>
        (ts.foldl (fun d t => (d.sysGet t n).2.deliver t.uid (fun y => y.wrRes h r (words (d.sysGet t n).1) false)) (order e ts)).done h)
  (∀ (h : Hd) (f : SysForm), (∀ n : Srn, runs (fun d _ => d) (.sysr h f n) h f n.toNat) ∧
    runs (fun d ts => d.learns ts .device) (.eqtailRead h f) h f 0x02B) ∧
  ∀ (d : Dev) (t : Thread) (c : Ctx), d.ctx? t.ctx = some c →
    d.sysRead t 0x000 = c.regs.cyc ∧ d.sysRead t 0x001 = c.regs.cyccmp ∧ d.sysRead t 0x002 = BitVec.ofNat 64 d.pcyc ∧
    d.sysRead t 0x008 = t.tid.zeroExtend 64 ∧ d.sysRead t 0x009 = BitVec.ofNat 64 t.lid ∧ d.sysRead t 0x00A = c.ctxid.zeroExtend 64 ∧
    d.sysRead t 0x010 = t.flags.zeroExtend 64 ∧ d.sysRead t 0x012 = t.rngcnt.zeroExtend 64 ∧ d.sysRead t 0x013 = c.regs.sgen ∧
    d.sysRead t 0x020 = t.cause.zeroExtend 64 ∧ d.sysRead t 0x021 = t.epc ∧ d.sysRead t 0x022 = t.detail.w0.zeroExtend 64 ∧
    d.sysRead t 0x023 = t.detail.w1.zeroExtend 64 ∧ d.sysRead t 0x024 = t.detail.w2.zeroExtend 64 ∧ d.sysRead t 0x025 = c.regs.tvec ∧
    d.sysRead t 0x028 = c.regs.eqbase ∧ d.sysRead t 0x029 = c.regs.eqsize.zeroExtend 64 ∧
    d.sysRead t 0x02A = c.regs.eqhead.zeroExtend 64 ∧ d.sysRead t 0x02B = c.regs.eqtail.zeroExtend 64

/-- R20, R30, R234, R372, R382, R384, R388, R397, R408: SYSW completes in ascending lane order: each lane's value goes to the register its
number names, by that register's rule; SYSW of EQHEAD is a release. -/
def Obligations.SystemRegisterWrites : Prop :=
  ∀ (h : Hd) (f : SysForm) (n : Srn) (size hi : Bool) (k3 : BitVec 3) (k9 : BitVec 9) (k6 : BitVec 6) (k10 : BitVec 10),
    let runs := fun (i : Instr) (eff : Dev → Thread → W64 → Dev) =>
      OutRuns i h false (fun d t => [((d.env t).sysVal f).1.toNat]) (fun d t => t.poisonRun ((d.env t).sysRun f) = none)
        (fun e ts => (ts.foldl (fun d t => eff d t ((e.env t).sysVal f).1) e).done h)
    let regs := fun (d : Dev) (t : Thread) (g : CtxRegs → CtxRegs) => d.mapCtx t.ctx (fun c => { c with regs := g c.regs })
    (n.toNat ≠ 0x011 → runs (.sysw h f n) (fun d t v => d.sysPut t n.toNat v)) ∧
    runs (.cyccmpWrite h f) (fun d t v => regs d t (fun r => { r with cyccmp := v, armer := if v = 0 then none else some t.uid })) ∧
    OutRuns (.eqheadWrite h f) h false (fun d t => [((d.env t).sysVal f).1.toNat])
      (fun d t => t.poisonRun ((d.env t).sysRun f) = none ∧ d.owes t = false)
      (fun e ts => (ts.foldl (fun d t => d.setEqhead t.ctx (lo32 ((e.env t).sysVal f).1)) (e.passTo ts .device)).done h) ∧
    runs (.eqRingWrite h f size) (fun d t v => d.setRing t.ctx size v) ∧
    runs (.partmodeWrite h f k3) (fun d _ v => d.setMode k3.toNat v) ∧
    runs (.lcmapWrite h f k9) (fun d _ v => d.writeLcmap k9.toNat v) ∧
    runs (.fmtrangeWrite h f k6 hi) (fun d _ v => d.setFmt k6.toNat hi v) ∧
    runs (.marginRegWrite h f k10) (fun d _ v => d.writeMargin k10.toNat v)

/-- R316, R388: SYSW of a gang's register writes it once, with the value of the participant of lowest rank whose guard is true: MXCNT,
and SVAR where no SAMPMM or SVSET of the gang is unfinished. -/
def Obligations.GangRegisterWrites : Prop :=
  ∀ (h : Hd) (f : SysForm) (n : BitVec 2),
    let val := fun (d : Dev) (m : Meet) (t : Thread) => (Env.sysVal { c := d.ctr, t := t, g := some m.gang } f).1
    let runs := fun (i : Instr) (may : Dev → Meet → Prop) (eff : Gang → W64 → Gang) =>
      MeetRuns i h
        (fun d m => may d m ∧ ∀ t ts, m.true? h = t :: ts → t.poisonRun (Env.sysRun { c := d.ctr, t := t, g := some m.gang } f) = none ∧
          ∀ y ∈ d.threads, y.shadow = true → y.partner = some t.uid → val d m y = val d m t)
        (fun d m act =>
          match act with
          | [] => d.meetDone h m
          | t :: _ => (d.mapGang m.core m.idx (fun g => eff g (val d m t))).meetDone h m)
    runs (.sysw h f 0x011) (fun _ _ => True) (fun g v => { g with mxcnt := v.extractLsb' 0 48 }) ∧
    runs (.svarWrite h f n) (fun d m => (d.core m.core).svarBusy m.idx = false)
      (fun g v => { g with svar := g.svar.put n.toNat (lo32 v) })

/-- R370, R389: entering a trap saves the cause, the detail, the address and the level, sets IN_TRAP, and goes on at TVEC at the
context level; TRAP and TRAP.BRK raise TRAP_INSN and BREAKPOINT in their active threads, at every level, with the immediate as the
first detail word; a lone one that has a handler is then in it, with EPC the TRAP itself. -/
def Obligations.TrapsTaken : Prop :=
  (∀ (t : Thread) (c : Cause) (x : Detail) (epc tvec : W64) (now : Nat),
      let u := t.enter c x epc tvec now
      u.cause = c ∧ u.detail = x ∧ u.epc = epc ∧ u.plev = t.level ∧ u.level = .context ∧ u.inTrap = true ∧ u.pc = tvec ∧
      u.regs = t.regs ∧ u.preds = t.preds ∧ u.flags = t.flags ∧ u.rstack = t.rstack ∧ u.uid = t.uid ∧ u.lane = t.lane ∧ u.tid = t.tid) ∧
  ∀ (h : Hd) (imm : W32),
    let runs := fun (i : Instr) (c : Cause) => ∀ s : State, s.dev.AllPass i h [0] false (fun _ _ => True) →
      (s.dev.opened i h).acting h [0] ≠ [] →
      let e := s.dev.opened i h
      let act := e.acting h [0]
      exec i s = .next { s with dev := e.failGroup h act ⟨c, ⟨imm, 0, 0⟩, act.map Thread.uid⟩ }
    let handled := fun (i : Instr) (c : Cause) => ∀ (s : State) (t : Thread), s.dev.AllPass i h [0] false (fun _ _ => True) →
      (s.dev.opened i h).acting h [0] = [t] → (s.dev.opened i h).pairsOf [t] = [t] → t.endsOnTrap ((s.dev.opened i h).tvec t) = false →
      ∃ s', exec i s = .next s' ∧ ∃ u ∈ s'.dev.threads, u.uid = t.uid ∧ u.cause = c ∧ u.detail.w0 = imm ∧ u.epc = t.pc ∧
        u.plev = t.level ∧ u.level = .context ∧ u.inTrap = true ∧ u.pc = (s.dev.opened i h).tvec t ∧ u.regs = t.regs ∧ u.preds = t.preds
    runs (.trap h imm) cTrapInsn ∧ runs (.trapBrk h imm) cBreakpoint ∧ handled (.trap h imm) cTrapInsn ∧
    handled (.trapBrk h imm) cBreakpoint

/-- R371, R390: ERET and ERET.NEXT return a thread in a trap to EPC, or to the instruction after it, at the level of PLEV, with IN_TRAP
cleared, so that a trap held meanwhile is taken before the instruction there issues; in a lone thread that is in no trap ERET raises PRIVILEGE. -/
def Obligations.TrapReturn : Prop :=
  ∀ h : Hd,
    let back := fun (i : Instr) (d : W64) => LaneEnds i h [0] false
      (fun _ t => t.inTrap = true ∧ (t.epc + d).toNat % 4 = 0 ∧ localTarget (t.epc + d) = true)
      (fun e t => ({ (t.retireTo (t.epc + d) e.pcyc) with
          level := t.plev, inTrap := false, skid := if t.pending.isSome then 255 else t.skid }).hint h.yh e.pcyc)
    back (.eret h) 0 ∧ back (.eretNext h) 12 ∧
    ∀ (s : State) (t : Thread), s.dev.AllPass (.eret h) h [0] false (fun _ _ => True) →
      (s.dev.opened (.eret h) h).acting h [0] = [t] → (s.dev.opened (.eret h) h).pairsOf [t] = [t] → t.shadow = false → t.inTrap = false →
      exec (.eret h) s = .next { s with dev :=
        (s.dev.opened (.eret h) h).failGroup h [t] ⟨cPrivilege, insnDetail (.eret h), [t.uid]⟩ }

/-- R343, R344: XLATE and LEASEQ write what the page table and the launch's lease hold for an address; XLATE of another context
completes where it names a context slot. -/
def Obligations.TranslationQueries : Prop :=
  ∀ (h : Hd) (r a b : VReg),
    let va := fun (e : Dev) (t : Thread) => (e.env t).read 0 (.v a true)
    let slot := fun (e : Dev) (t : Thread) => (e.env t).read 1 (.v b false)
    LaneRuns (.xlate h r a) h [0] false (fun _ _ => True) (fun e t =>
      t.wrs r (e.xlateWords (e.ctx? t.ctx) (BitVec.ofNat 64 (va e t).1) (t.level = .system)) (va e t).2) ∧
    LaneRuns (.xlateCtx h r a b) h [0] false (fun e t => (slot e t).1 < 64) (fun e t =>
      t.wrs r (e.xlateWords (e.ctx? (slot e t).1) (BitVec.ofNat 64 (va e t).1) (t.level = .system)) ((va e t).2 || (slot e t).2)) ∧
    LaneRuns (.leaseq h r a) h [0] false (fun _ _ => True) (fun e t => t.wrs r (e.leaseqWords t (BitVec.ofNat 64 (va e t).1)) (va e t).2)

/-- R409 to R413: the maintenance instructions complete in ascending lane order: each request has its effect and answers 0xFF, or has
none and answers 0x00; MARGIN.RD writes a MARGIN register, or all ones for a core that does not exist. -/
def Obligations.Maintenance : Prop :=
  ∀ (h : Hd) (p : PReg) (r a b : VReg),
    let arg := fun (e : Dev) (t : Thread) (x : VReg) => (e.env t).read 0 (.v x false)
    let runs := fun (i : Instr) (xs : List VReg) (f : Dev → Thread → Nat → Nat → Dev × Bool) =>
      OutRuns i h false (fun d t => xs.map (fun x => (arg d t x).1)) (fun _ _ => True) (fun e ts =>
        (ts.foldl (fun d t =>
          let vs := xs.map (arg d t)
          let y := f d t ((vs[0]?.map Prod.fst).getD 0) ((vs[1]?.map Prod.fst).getD 0)
          y.1.deliver t.uid (fun x => x.setPred p (if y.2 then 0xFF else 0x00) (vs.any Prod.snd))) e).done h)
    runs (.margin h p a b) [a, b] (fun d _ n x =>
      if 543 < n || d.foehnSets n || 24 < x % 32 then (d, false) else (d.setTgt n (min (x % 32) (d.phys? n).ceil), true)) ∧
    runs (.scan h p a) [a] (fun d t n _ => if 543 < n then (d, false) else d.scan n (d.physOf t.core)) ∧
    runs (.scanAbort h p a) [a] (fun d _ n _ => if 543 < n then (d, false) else d.scanStop n) ∧
    runs (.quar h p a) [a] (fun d _ n _ => if 543 < n then (d, false) else d.quarantine n false) ∧
    runs (.haltc h p a) [a] (fun d t n _ => if 511 < n then (d, false) else d.halt n t.core) ∧
    runs (.haltcRel h p a) [a] (fun d t n _ => if 511 < n then (d, false) else d.haltRel n t.core) ∧
    OutRuns (.marginRd h r a) h false (fun d t => [(arg d t a).1]) (fun _ _ => True) (fun e ts =>
      (ts.foldl (fun d t => d.deliver t.uid (fun x =>
        let w : W64 := if 543 < (arg e t a).1 then BitVec.allOnes 64 else e.marginWord (arg e t a).1
        x.wrs r [lo32 w, hi32 w] (arg e t a).2)) e).done h)

/-- R434, R436, R438, R439: SNAP begins a snapshot of the context or says that its epoch is recorded already, SNAPQ reads a colour's
state, SNAPQ.W sleeps until it has ended, CTXSV and CTXLD act on the slot their operand names, CTXLD.IMG loads a part. -/
def Obligations.SnapshotInstructions : Prop :=
  ∀ (h : Hd) (p : PReg) (r a b : VReg) (k : Bool),
    let answers := fun (d : Dev) (act : List Thread) (v : Byte) (psn : Bool) => (d.mapUids (act.map Thread.uid) (fun t => t.setPred p v psn)).done h
    let slot := fun (d : Dev) (v : Nat) => if v < 64 then (d.ctx? v).map (fun c => (v, c)) else none
    let one := fun (i : Instr) (body : Dev → List Thread → Thread → Dev → Prop) =>
      ∀ (s : State) (t : Thread) (ts : List Thread), s.dev.AllPass i h [0] false (fun _ _ => True) →
        (s.dev.opened i h).acting h [0] = t :: ts → ∀ d, body (s.dev.opened i h) (t :: ts) t d → exec i s = .next { s with dev := d }
    one (.snap h p k) (fun e act t d => ∃ c, e.ctx? t.ctx = some c ∧ c.snapKey.isSome = true ∧
      let live := (c.snaps[b2n k]?).bind (fun s => if s.live then some s.epoch else none)
      let s := nextEpoch c.regs.epoch k
      (live = some c.regs.epoch ∧ d = answers e act 0x0F false) ∨
      (live = none ∧ (c.areas[b2n k]?.getD none).isSome = true ∧ ((c.regs.epoch + 1) % 65536 = s ∨ c.liveSnap ((c.regs.epoch + 1) % 65536) = none) ∧
        d = (answers e act 0xFF false).recordBegin t.ctx s)) ∧
    LaneRuns (.snapq h r k) h [0] false (fun _ _ => True) (fun e t =>
      t.wrs r (((e.ctx? t.ctx).map (fun c => c.snapWords (b2n k))).getD []) false) ∧
    one (.snapqW h r k) (fun e act t d =>
      d = ((e.retireOff h act).mapUids (act.map Thread.uid) (fun t => { t with wait := .snapshot r k })).wakeSnap t.ctx) ∧
    one (.ctxsv h p a) (fun e act t d =>
      let x := (e.env t).read 0 (.v a false)
      match slot e x.1 with
      | some (n, c) =>
        match c.phase with
        | .running | .draining _ | .recording .. => d = answers (e.startSave n) act 0xFF x.2
        | _ => d = answers e act 0x00 x.2
      | none => d = answers e act 0x00 x.2) ∧
    one (.ctxld h p a) (fun e act t d =>
      let x := (e.env t).read 0 (.v a false)
      match slot e x.1 with
      | some (n, c) =>
        match c.phase, c.saved with
        | .saved, some y => if c.noResume then d = answers e act 0x00 x.2 else d = answers (e.within 72000 (.contextResume n y.stay)) act 0xFF x.2
        | .exhausted, _ => d = answers (e.within 72000 (.contextResume n [])) act 0xFF x.2
        | _, _ => d = answers e act 0x00 x.2
      | none => d = answers e act 0x00 x.2) ∧
    one (.ctxldImg h p a b) (fun e act t d =>
      let v := (e.env t).read 0 (.v a false)
      let y := (e.env t).read 1 (.v b true)
      match slot e v.1 with
      | some (n, c) =>
        if e.slotEmpty n c then ∃ d1, e.loadPart n c y.1 = .ok d1 ∧ d = answers d1 act 0xFF (v.2 || y.2)
        else d = answers e act 0x00 (v.2 || y.2)
      | none => d = answers e act 0x00 (v.2 || y.2))

/-! ### Events: threads, margins, columns (R44, R46, R63, R65, R78, R145, R159, R165 to R183, R279, R371, R372, R391 to R414) -/

/-- R44, R46, R63, R65, R78, R107, R108, R145, R159, R371, R372: the ends of sleeps and of spinning, the issue of an aged group, late
reads and late results, the growth of private memory, the timer, and the taking of a pending trap. Which late read is performed, and
when before it must be, is a free choice of the model (log 26). -/
def Obligations.ThreadEvents : Prop :=
  ∀ (u core slot : Nat) (t : Thread) (c : Ctx),
    let is := fun (d : Dev) => d.thread? u = some t
    let ownOnly := fun (d : Dev) => d.threads.filter (fun x => x.uid == t.gangUid || (x.shadow && x.partner == some t.gangUid)) = [t]
    let rings := fun (d : Dev) => d.ctx? slot = some c ∧ c.regs.cyccmp ≠ 0 ∧ c.regs.cyccmp ≤ c.regs.cyc ∧ c.regs.armer = some u
    let off := fun (d : Dev) => d.mapCtx slot (fun c => { c with regs := { c.regs with cyccmp := 0, armer := none } })
    (∀ dl, DevRuns (.sleepWake u) (fun d => is d ∧ t.wait = .sleep dl ∧ dl ≤ d.cyc t.ctx)
      (fun d => d.mapThread u (fun x => { x.retire d.pcyc with wait := .none, since := d.pcyc + 1 }))) ∧
    (∀ p o k dl, DevRuns (.bwaittTimeout u) (fun d => is d ∧ t.wait = .barrier p o k (some dl) ∧ dl ≤ d.cyc t.ctx)
      (fun d => (d.logInput t.ctx (logKey 4 t.logId) (d.cyc t.ctx)).mapThread u (fun x =>
        { (x.setPred p 0x00 false).retire d.pcyc with wait := .none, since := d.pcyc + 1 }))) ∧
    DevRuns (.yieldSpinExpiry u)
      (fun d => is d ∧ t.spin ≠ 0 ∧ (t.spin ≤ d.pcyc ∨ (d.turn ≤ t.core ∧ t.idle = true ∧ d.ctxIssues t.ctx = true ∧ d.readyOn t.core = [])))
      (fun d => d.deliver t.gangUid (fun x => { x with spin := 0, since := max x.since (d.pcyc + 1) })) ∧
    DevRuns (.agedIssue core u) (fun d => (d.readyOn core).find? (fun x => x.uid == u) = some t ∧ 2048 ≤ d.pcyc - t.since)
      (fun d => d.mapCore core (fun x => { x with avoid := [], table := enterAged (d.tableNow core) t d.pcyc })) ∧
    (∀ l a, DevRuns (.lookaheadResult u) (fun d => is d ∧ d.tick.lateFilled t = some (l, a)) (fun d => d.tick.fillFar t l a)) ∧
    (∀ l r, DevRuns (.lookaheadResult u) (fun d => is d ∧ d.tick.lateFilled t = none ∧ t.lateHere = some l ∧ l.unread = some r)
      (fun d => d.tick.perform t r)) ∧
    (∀ l, DevRuns (.lookaheadResult u)
      (fun d => is d ∧ d.tick.lateFilled t = none ∧ t.lateHere = none ∧ t.late.find? (fun y => y.cover = 0 && y.unread.isNone) = some l ∧
        t.uid = u)
      (fun d => d.tick.mapThread u (fun x =>
        { (l.regs.foldl (fun y r => y.wr r.reg r.val r.psn) { x with late := x.late.erase l }) with since := d.pcyc + 1 }))) ∧
    (∀ s : State, is s.dev → s.dev.tick.lateFilled t = none → t.lateHere = none → t.lateLands = none → s.dev.tick.lateMay t = true →
      ∃ l ∈ t.unreads, ∃ r, l.unread = some r ∧ exec (.lookaheadResult u) s = .next { s with dev := s.dev.tick.perform t r }) ∧
    (∀ m f, DevRuns (.privateGrowth u) (fun d => is d ∧ t.wait = .grow m ∧ d.growMap t m = some f) (fun d =>
      let e := f.deliver t.gangUid (fun x => { x with hwm := max x.hwm m })
      let peers := e.threads.filter (fun x => x.ctx == t.ctx && x.core == t.core && x.pc == t.pc && x.needs.isSome)
      if ∀ x ∈ peers, x.needs.getD 0 ≤ x.hwm then e.mapUids (peers.map Thread.uid) (fun x => { x with wait := .none, since := d.pcyc + 1 })
      else e)) ∧
    DevRuns (.timer slot) (fun d => rings d ∧ is d)
      (fun d => (off d).deliver t.gangUid (fun x => { x with timerDue := some c.regs.cyccmp })) ∧
    DevRuns (.timer slot) (fun d => rings d ∧ d.thread? u = none)
      (fun d => (off d).record { (Rec.plain (Who.nobody (some slot)) cTimer (cycDetail c.regs.cyccmp 0)) with sev := 2 }) ∧
    (∀ p, DevRuns (.pendingTrapTaken u) (fun d => is d ∧ ownOnly d ∧ t.inTrap = false ∧ d.atBoundary t = true ∧ t.uid = u ∧ t.pending = some p)
      (fun d => (d.mapThread u (fun x => { x with pending := none, skid := 0 })).enter t p.cause p.detail t.pc)) ∧
    ∀ v, DevRuns (.pendingTrapTaken u) (fun d => is d ∧ ownOnly d ∧ t.inTrap = false ∧ d.atBoundary t = true ∧ t.readyAt d.pcyc = true ∧
        t.uid = u ∧ t.shadow = false ∧ t.pending = none ∧ t.timerDue = some v)
      (fun d =>
        let ends := t.endsOnTrap (d.tvec t)
        let rec_ : Rec := ⟨cTimer, if ends then 4 else 2, false, !ends, d.whoOf t, 0, [t.lane], cycDetail v 0, 0⟩
        ((d.mapThread u (fun x => { x with timerDue := none })).record rec_).enter t cTimer (cycDetail v 0) t.pc)

/-- R391, R394, R395, R397 to R402, R412 to R414: a late transition replays its instruction, receives the side unit's kept result, or
cannot be replayed, and is counted; CUR follows TGT in steps, Foehn deepens a calm core, scans end, and fills begin and complete. Whether
the side unit had performed an operation before a report is a free choice of the model (log 77). -/
def Obligations.MarginEvents : Prop :=
  ∀ (p u die : Nat) (t : Thread) (f : Fill) (sig : W64) (g : List Nat),
    let scans := fun (d : Dev) (st : Nat) => (d.phys? p).scanEnd ≠ 0 ∧ (d.phys? p).scanEnd ≤ d.pcyc ∧
      (((d.phys? p).state = 3 ∧ (d.phys? p).prior = st) ∨ ((d.phys? p).state = 5 ∧ st = 5))
    let past := fun (d : Dev) (res st : Nat) => (d.wipeCore p).mapPhys p (fun x => { x with scanEnd := 0, sres := res, state := st })
    let here := fun (d : Dev) => (d.thread? u).map (fun y => (d.thread? y.gangUid).getD y) = some t ∧ d.physOf t.core = p
    let stands := fun (d : Dev) => here d ∧ d.reported t = g ∧ g ≠ []
    let side := fun (d : Dev) (i : Instr) => d.atPc t = some i ∧ sideUnit i = true ∧ t.wait = .none
    let third := decide (3 ≤ t.replays + 1)
    let replays := fun (d : Dev) =>
      let w := if 3 ≤ t.replays + 1 ∧ (d.phys? p).cur ≠ 0 then Config.delay d.ctr % 2401 else 12
      (d.tick.mapUids g (fun x => { x with replays := t.replays + 1, wait := .settle (d.pcyc + w), latches := [], since := x.since + w })).countReplay
        p third
    (∀ k, DevRuns (.shadowLatchReport p u k) (fun d => stands d ∧ ∀ i, ¬ side d i) replays) ∧
    DevRuns (.shadowLatchReport p u false) (fun d => stands d ∧ Config.pick d.ctr % 2 = 0) replays ∧
    (∀ s s1 : State, ∀ i, stands s.dev → side s.dev i → Config.pick s.dev.ctr % 2 = 1 →
      sideRun i { s with dev := { s.dev.tick with cur := .group t.core g t.pc } } = .next s1 →
      exec (.shadowLatchReport p u false) s = .next { s1 with dev :=
        (s1.dev.mapUids g (fun x => { x with since := max x.since (s.dev.pcyc + 13) })).countReplay p third }) ∧
    (∀ h m x, DevRuns (.shadowLatchReport p u true) (fun d => stands d ∧ side d (.barv h m x))
      (fun d => (({ d with cur := .group t.core g t.pc } : Dev).countReplay p third).nonreplayable p t)) ∧
    (∀ n k, DevRuns (.shadowLatchReport p u k) (fun d => here d ∧ d.reported t = [] ∧ t.wait = .matrix n)
      (fun d => (d.mapThreads (fun x => x.wait == .matrix n) (fun x => { x with replays := t.replays + 1 })).countReplay p third)) ∧
    (∀ k, DevRuns (.shadowLatchReport p u k) (fun d => here d ∧ d.reported t = [] ∧ ∀ n, t.wait ≠ .matrix n) (fun d => d.countReplay p false)) ∧
    DevRuns (.replayReissue u) (fun d => d.thread? u = some t) (fun d =>
      d.mapThreads (fun x => (x.core == t.core && x.ctx == t.ctx && x.pc == t.pc) && x.replayOver d.pcyc) (fun x => { x with wait := .none })) ∧
    DevRuns (.supplySettled p) (fun _ => True) (fun d =>
      d.mapThreads (fun x => (d.physOf x.core == p && 3 ≤ x.replays) && x.replayOver d.pcyc) (fun x => { x with wait := .none })) ∧
    DevRuns (.foehnStep p) (fun d => (d.phys? p).cur ≠ (d.phys? p).tgt ∧ (d.phys? p).lastStep + 1200 ≤ d.pcyc)
      (fun d => d.mapPhys p (fun x => { x with cur := if x.cur < x.tgt then x.cur + 1 else x.cur - 1, lastStep := d.pcyc })) ∧
    DevRuns (.foehnDeepen p) (fun d => d.foehnSets p = true ∧ (d.phys? p).tgt < (d.phys? p).ceil ∧
        (d.phys? p).calmSince + 12000000 ≤ d.pcyc ∧ ∀ n, (d.phys? p).lastRaise = some n → n + 120000000 ≤ d.pcyc)
      (fun d => d.mapPhys p (fun x => { x with
        tgt := (d.phys? p).tgt + 1, lastTgt := d.pcyc, lastStep := if x.cur = x.tgt then d.pcyc else x.lastStep })) ∧
    (∀ st, DevRuns (.scanRunEnd p sig) (fun d => scans d st ∧ sig = KV.get d.scansig 0 p) (fun d => past d 1 st)) ∧
    (∀ st, DevRuns (.scanRunEnd p sig) (fun d => scans d st ∧ sig ≠ KV.get d.scansig 0 p ∧ st ≠ 4 ∧ st ≠ 5)
      (fun d => (past d 2 st).physNote p cScanFail (lo32 sig).toNat)) ∧
    (∀ st, DevRuns (.scanRunEnd p sig) (fun d => scans d st ∧ sig ≠ KV.get d.scansig 0 p ∧ (st = 4 ∨ st = 5))
      (fun d => (((past d 2 st).physNote p cScanFail (lo32 sig).toNat).quarantine p false).1)) ∧
    DevRuns (.scanAborted p) (fun d => (d.phys? p).state = 3 ∧ (d.phys? p).scanEnd = 0)
      (fun d => ((d.wipeCore p).mapPhys p (fun x => { x with sres := 3, state := x.prior })).physNote p cScanAborted 0) ∧
    (∀ s : State, s.dev.nextFill die = some f → ∃ n ≤ 300000,
      let d : Dev := { s.dev with fills := s.dev.fills.map (fun g => if g.spare = f.spare then { g with started := some s.dev.pcyc } else g) }
      let e := (d.mapPhys f.spare (fun x => { x with sres := 0 })).scanBegin f.spare
      exec (.fillStart die) s = .next { s with dev :=
        { e with agenda := insertEvent (e.pcyc + n) (.fillComplete f.spare) e.agenda, ctr := e.ctr + 1 } }) ∧
    DevRuns (.fillComplete p) (fun d => d.fills.find? (fun g => g.spare == p) = some f ∧ f.started.isSome = true ∧
        (d.phys? p).scanEnd = 0 ∧ (d.phys? p).state = 5 ∧ d.spareBad p = false)
      (fun d =>
        let e := ((d.logSpare p).columnWords f.logical).foldl (fun d w => d.copyWord w) (d.logSpare p)
        { e.mapPhys p (fun x => { x with state := if f.foehn then 0 else 2, flips := [] }) with
          fills := e.fills.filter (fun g => g.spare ≠ p), colPhys := KV.del e.colPhys f.logical }) ∧
    DevRuns (.fillComplete p) (fun d => d.fills.find? (fun g => g.spare == p) = some f ∧ f.started.isSome = true ∧
        (d.phys? p).scanEnd = 0 ∧ (d.phys? p).state = 5 ∧ d.spareBad p = true)
      (fun d => ((d.logSpare p).quarantine p false).1)

/-- R165, R170, R173, R177, R178, R182, R183, R186: a row's activation completes, a slot is closed by force, precharges and refresh
windows pass, a transfer is granted the bus, crosses it whole or with a parity that fails, and lanes are swapped. Before its first window
a layer's refresh begins where it leaves those of the other layers apart, which is the model's choice (log 71). -/
def Obligations.ColumnEvents : Prop :=
  ∀ (core k : Nat) (b : Transfer) (n : Nat),
    let live := fun (s : RowSlot) => s.state = .opening ∨ s.state = .ready
    let put := fun (s : RowSlot) (d : Dev) => d.mapCore core (fun c => { c with slots := c.slots.set k s })
    let crosses := fun (d : Dev) => (d.core core).crossing = some (b, n) ∧ n + 8 ≤ d.pcyc
    let bad := fun (d : Dev) => (d.phys? (d.physOf core)).failing (b.data (d.slot core b.slot)).1 (b.att = 2)
    DevRuns (.activationComplete core k)
      (fun d => (d.slot core k).state = .opening ∧ (d.slot core k).ready ≤ d.cyc (d.slot core k).ctx ∧
        ∀ c t, d.ctx? (d.slot core k).ctx = some c → c.phase ≠ .saving t)
      (fun d =>
        let s := d.slot core k
        let row := if s.kept then (s.copy, s.psn) else d.rowCopy s.pa
        let e := if s.kept then d else d.eccNote s.opener false s.pa 2048
        (put { s with state := .ready, copy := row.1, psn := row.2 } e).wakeRow core k s.act true) ∧
    (∀ c, DevRuns (.activationComplete core k)
      (fun d => let s := d.slot core k
        s.state = .opening ∧ s.kept = false ∧ d.ctx? s.ctx = some c ∧ c.phase = .saving n ∧ c.regs.cyc < s.ready ∧
          s.ready.toNat ≤ c.regs.cyc.toNat + (d.pcyc - n))
      (fun d =>
        let s := d.slot core k
        put { s with kept := true, copy := (d.rowCopy s.pa).1, psn := (d.rowCopy s.pa).2 } (d.eccNote s.opener false s.pa 2048))) ∧
    DevRuns (.forcedClose core k) (fun d => live (d.slot core k) ∧ (d.slot core k).close ≤ d.cyc (d.slot core k).ctx ∧
        ∀ x ∈ (d.core core).bus, x.slot ≠ k)
      (fun d =>
        let s := d.slot core k
        ((d.rewriteRow s.pa).mapCore core (fun c =>
          { c.mapBank (bankOf s.pa) (fun b => { b with preEnd := d.pcyc + 18 }) with
            slots := c.slots.set k { s with state := .lost, copy := [], psn := [] } })).wakeRow core k s.act false) ∧
    DevRuns (.prechargeDone core k) (fun d => ((d.core core).bank k).preEnd ≠ 0 ∧ ((d.core core).bank k).preEnd ≤ d.pcyc)
      (fun d => d.mapCore core (fun c => c.mapBank k (fun b => { b with preEnd := 0 }))) ∧
    DevRuns (.refreshWindow core k) (fun d => k < 8 ∧ KV.get? (d.core core).refresh k = some n ∧ n - 120 + 3900 ≤ d.pcyc ∧ 120 ≤ n)
      (fun d => d.mapCore core (fun c => { c with refresh := KV.set c.refresh k (d.pcyc + 120) })) ∧
    DevRuns (.refreshWindow core k) (fun d => k < 8 ∧ KV.get? (d.core core).refresh k = none ∧ ∀ r ∈ (d.core core).refresh,
        let x := (d.pcyc + 3900 - (r.2 - 120) % 3900) % 3900
        120 ≤ x ∧ x ≤ 3780)
      (fun d => d.mapCore core (fun c => { c with refresh := KV.set c.refresh k (d.pcyc + 120) })) ∧
    DevRuns (.rowTransfer core)
      (fun d => (d.core core).crossing = none ∧ grantOf Transfer.prio Transfer.passed ((d.core core).bus.filter (d.mayCross core)) = some b)
      (fun d =>
        let past := (passedBy Transfer.prio ((d.core core).bus.filter (d.mayCross core)) b).map Transfer.id
        (d.mapCore core (fun c => { c with bus := c.bus.map (fun x =>
          if past.contains x.id then { x with passed := x.passed + 1 } else x) })).mapTransfer core b.id
            (fun x => { x with beats := some d.pcyc })) ∧
    (∀ pa wr tk, DevRuns (.rowTransfer core) (fun d => crosses d ∧ b.kind = .line pa wr tk) (fun d => d.finishLine core b pa)) ∧
    DevRuns (.rowTransfer core)
      (fun d => crosses d ∧ (∀ pa wr tk, b.kind ≠ .line pa wr tk) ∧ bad d = [] ∧ b.att ≠ 4)
      (fun d =>
        let x := b.data (d.slot core b.slot)
        d.finishTransfer core b (d.slot core b.slot).pa ((d.phys? (d.physOf core)).received x.1 (b.att = 2)) x.2) ∧
    (∀ g at_ r, DevRuns (.rowTransfer core)
      (fun d => crosses d ∧ (∀ pa wr tk, b.kind ≠ .line pa wr tk) ∧ bad d = (g, at_) :: r ∧ b.att < 2)
      (fun d =>
        let s := d.slot core b.slot
        ((d.logBus (d.physOf core) (busEntry b.isPut (b.att + 1) g at_ 0 false 0 s.pa (n + at_))).busNote b cBusParityRetried
          (busDetail s.va g at_ 0 0 (b.att + 1)) (n + at_)).mapTransfer core b.id
            (fun x => { x with att := b.att + 1, beats := none, passed := 0 }))) ∧
    DevRuns (.laneSwap core) (fun d => (d.core core).bus.find? (fun x => x.att = 3) = some b) (fun d =>
      let s := d.slot core b.slot
      let p := d.phys? (d.physOf core)
      let bad := p.failing (b.data s).1 true
      let picks := ((bad.map Prod.fst).eraseDups.map (fun g => (g, chooseLane p g))).take (16 - p.spares.length)
      let beat := fun (g : Nat) => ((bad.find? (fun f => f.1 == g)).map Prod.snd).getD 0
      let swaps := (upTo picks.length).zip picks |>.map (fun x => (x.2.1, beat x.2.1, x.2.2, p.spares.length + x.1))
      (((d.mapPhys (d.physOf core) (fun p => { p with spares := p.spares ++ picks.map Prod.snd, lanes := [] })).rewriteRow s.pa).mapCore
        core (fun c => { c with slots := c.slots.set b.slot { s with close := d.cyc s.ctx + 18 + 6000 } })).mapTransfer core b.id
          (fun x => { x with att := 4, after := d.pcyc + 42, swaps := swaps, passed := 0 }))


/-! ### Events: engines, fabric, launches, pre-emption, snapshots, the host (R83 to R101, R191 to R212, R333 to R361, R417 to R468) -/

/-- R96, R191, R192, R196, R202, R204, R355: the granted job performs a segment, writes its seal or takes a step of a collective, a job
fails, an open is checked, a promise is missed, and a collective compares its cards, takes what the others give, repeats a step, or loses
a member. -/
def Obligations.EngineEvents : Prop :=
  ∀ (k h u : Nat) (j : Job) (c : Ctx) (peers : List (Nat × CardKey)) (data : List (Nat × List (Byte × Bool)))
    (qs : List (Nat × W32 × Bool)),
    let hd := BitVec.ofNat 32 h
    let is := fun (d : Dev) => d.job? k hd = some j
    let steps := fun (d : Dev) => is d ∧ d.ctx? j.ctx = some c ∧ d.collReady (d.die k) j = true
    let others := j.members.filter (fun v => v ≠ c.vm)
    let lost := fun (d : Dev) (x : Cause) => (d.failJob k hd x (jobDetail hd 0 3)).endJob k hd
    let granted := fun (d : Dev) => d.grantedJob k = some j ∧ j.handle = hd
    let takes := fun (d : Dev) => d.mapJob k hd (fun i =>
      { i with inbox := data ++ i.inbox.filter (fun e => ∀ f ∈ data, f.1 ≠ e.1), inq := qs ++ i.inq.filter (fun e => ∀ f ∈ qs, f.1 ≠ e.1) })
    (∀ s : State, granted s.dev → j.kind.coll = false → j.toEmit = false → j.todo ≠ [] → ∃ seg ∈ j.todo,
      exec (.jobSegment k h) s = .next { s with dev := (s.dev.grantJob k j).tick.segment k j seg }) ∧
    DevRuns (.jobSegment k h) (fun d => granted d ∧ j.kind.coll = false ∧ j.toEmit = true)
      (fun d => let e := (d.grantJob k j).tick; (e.emitAll k j (e.sealOut j)).endJob k hd) ∧
    DevRuns (.jobSegment k h) (fun d => granted d ∧ j.kind.coll = true ∧ j.progress < j.resultLen ∧ (d.grantJob k j).ctx? j.ctx = some c)
      (fun d => ((d.grantJob k j).tick.mapJob k hd (fun i => { i with state := .running })).dataStep k j c.vm) ∧
    DevRuns (.jobSegment k h) (fun d => granted d ∧ j.kind.coll = true ∧ j.resultLen ≤ j.progress ∧ (d.grantJob k j).ctx? j.ctx = some c)
      (fun d => ((d.grantJob k j).tick.mapJob k hd (fun i => { i with state := .running })).normStep k j c.vm) ∧
    (∀ x a, DevRuns (.jobFail k h x a) (fun d => is d ∧ j.failing = none ∧ j.pend ≠ [] ∧ j.kind.coll = false)
      (fun d => d.mapJob k hd (fun i => { i with failing := some (x, jobDetail hd a 3) }))) ∧
    (∀ x a, DevRuns (.jobFail k h x a) (fun d => is d ∧ j.failing = none ∧ j.pend = [] ∧ j.kind.coll = false)
      (fun d => (d.mapJob k hd (fun i => { i with failing := some (x, jobDetail hd a 3) })).abandonJob k
        { j with failing := some (x, jobDetail hd a 3) } .failed x (jobDetail hd a 3))) ∧
    (∀ x a y z, DevRuns (.jobFail k h x a) (fun d => is d ∧ j.failing = some (y, z) ∧ j.pend = []) (fun d => d.abandonJob k j .failed y z)) ∧
    (∀ key st ctr, DevRuns (.gcmOpenCheck k h) (fun d => is d ∧ j.crypt = 1 ∧ j.todo = [] ∧ j.pend = [] ∧ j.emitted = false ∧
        j.failing = none ∧ d.gcmOf j = some (key, st, ctr))
      (fun d =>
        let b := j.staged
        let n := b.length - 16
        match gcmOpen key st ctr ((b.take n).map Prod.fst) ((b.drop n).map Prod.fst) with
        | some plain => (d.emitAll k j (plain.zip (b.map Prod.snd))).endJob k hd
        | none => ((d.emitAll k j (List.replicate n (0, false))).failJob k hd cGcmTagFail (gcmDetail (cardBits j.card))).endJob k hd)) ∧
    (∀ t p x n r s q, DevRuns (.promiseMissed u) (fun d => d.thread? u = some t ∧ t.wait = .job p x n r s q ∧ d.missed t = true)
      (fun d =>
        let us := (d.threads.filter (fun y => y.ctx == t.ctx && y.core == t.core && y.pc == t.pc && d.missed y)).map Thread.uid
        d.trap (d.threadsOf us) ⟨cPromiseMissed, promiseDetail x r s ((d.jobState t x).getD .queued), us⟩)) ∧
    DevRuns (.collectiveStep k h peers data qs)
      (fun d => steps d ∧ j.matched = false ∧ ∀ v ∈ others, (∃ e ∈ peers, e.1 = v) ∧ ∀ e ∈ peers, e.1 = v → e.2 = j.cardKey)
      (fun d => d.mapJob k hd (fun i => { i with matched := true, state := .running })) ∧
    DevRuns (.collectiveStep k h peers data qs)
      (fun d => steps d ∧ j.matched = false ∧ (∀ v ∈ others, ∃ e ∈ peers, e.1 = v) ∧ ∃ v ∈ others, ∃ e ∈ peers, e.1 = v ∧ e.2 ≠ j.cardKey)
      (fun d => lost d cJobCardInvalid) ∧
    (∀ s t : State, steps s.dev → j.matched = true → exec (.jobSegment k h) { s with dev := takes s.dev } = .next t →
      exec (.collectiveStep k h peers data qs) s = .next t) ∧
    DevRuns (.collectiveStepRetry k h) (fun d => is d ∧ j.kind.coll = true ∧ j.retries < bitsOf (cardBits j.card) 285 3)
      (fun d => d.mapJob k hd (fun i => { i with retries := i.retries + 1 })) ∧
    DevRuns (.collectiveStepRetry k h) (fun d => is d ∧ j.kind.coll = true ∧ bitsOf (cardBits j.card) 285 3 ≤ j.retries)
      (fun d => lost d cCollectiveRetryExhausted) ∧
    DevRuns (.collectiveFailureNotice k h) (fun d => is d ∧ j.kind.coll = true) (fun d => lost d cCollectiveMemberLost)

/-- R143, R205, R211, R212, R359, R425, R428, R429, R440, R442, R463: packets are opened, applied in order, acknowledged, sent again or
given up; gaps are skipped, timeouts end accesses, entries are freed, and notices and halt markers are noted. -/
def Obligations.FabricEvents : Prop :=
  ∀ (slot core n src seq e : Nat) (p r : Packet) (c : Ctx) (q : Sent) (x : OttEntry),
    let ahead := fun (sq vm : Nat) => (sq + 2 ^ 32 - (c.chan vm).recvSeq) % 2 ^ 32 < 1024
    let plain := fun (b : PacketBody) => match b with
      | .halted | .completed _ | .aborted _ | .ready | .gap _ => False
      | _ => True
    let opens := plain p.body ∧ c.opened p = some r ∧ r.slot = slot ∧ plain r.body ∧ r.dst = c.vm ∧ c.others.contains r.src = true
    let joins := fun (p : Packet) (d : Dev) => Dev.drainChan slot p.src 1025 (d.mapChan slot p.src (fun y =>
      { y with window := if y.window.any (fun z => z.seq == p.seq) then y.window else y.window ++ [p] }))
    let marker : Packet := ⟨slot, src, c.vm, seq, e, 0, none, .rlx, .marker⟩
    let cause := if c.conf && 1 < c.members.length then cSealedMismatch else cPacketStomped
    let late := fun (d : Dev) => d.ctx? slot = some c ∧ (c.chan src).sent.find? (fun y => y.pkt.seq == seq) = some q ∧ q.last + 6000 ≤ d.pcyc
    (c.conf = false ∨ c.members.length ≤ 1 → c.opened p = some p) ∧
    DevRuns (.packetArrival p) (fun d => d.ctx? p.slot = some c ∧ opens ∧ p.slot = slot ∧ c.phase ≠ .empty ∧ ahead r.seq r.src) (joins r) ∧
    DevRuns (.packetArrival p) (fun d => d.ctx? p.slot = some c ∧ opens ∧ p.slot = slot ∧ ¬ ahead r.seq r.src) id ∧
    DevRuns (.packetArrival p) (fun d => d.ctx? p.slot = some c ∧ plain p.body ∧ c.opened p = none) id ∧
    DevRuns (.markerArrival slot src e seq)
      (fun d => d.ctx? slot = some c ∧ c.others.contains src = true ∧ c.phase ≠ .empty ∧ ahead seq src) (joins marker) ∧
    DevRuns (.packetAck slot src seq) (fun _ => True) (fun d =>
      (d.mapChan slot src (fun y => { y with sent := y.sent.filter (fun z => z.pkt.seq ≠ seq) })).mapAccs slot
        (fun a => a.vm == src && a.seq == seq && a.acked.isNone) (fun a => { a with acked := some d.pcyc })) ∧
    DevRuns (.packetRetransmit slot src seq) (fun d => late d ∧ q.tries < 7) (fun d =>
      let e := d.mapChan slot src (fun y =>
        { y with sent := y.sent.map (fun z => if z.pkt.seq = seq then { z with tries := z.tries + 1, last := d.pcyc } else z) })
      { e with egress := d.egress ++ [⟨q.pkt, d.portNow, d.classOf q.origin q.job, 0⟩] }) ∧
    DevRuns (.packetRetransmit slot src seq) (fun d => late d ∧ 7 ≤ q.tries) (fun d =>
      ((d.mapChan slot src (fun y => { y with sent := y.sent.filter (fun z => z.pkt.seq ≠ seq) })).lost slot q cause).notice slot src (.gap seq)) ∧
    DevRuns (.gapNotice slot src seq) (fun d => d.ctx? slot = some c ∧ ahead seq src ∧ (c.chan src).gaps.contains seq = false) (fun d =>
      Dev.drainChan slot src 1025 ((d.mapChan slot src (fun y => { y with gaps := y.gaps ++ [seq] })).note (Who.nobody (some slot))
        cSequenceGap (farDetail seq src 0 0 false))) ∧
    DevRuns (.linkReplay n seq) (fun _ => True) id ∧
    DevRuns (.fabricTimeout core n) (fun d => (d.core core).ott.find? (fun y => y.idx == n) = some x) (fun d =>
      (x.accs.filter (fun a => (a.acked.map (fun k => decide (k + 65536 ≤ d.pcyc))).getD false && a.reply == .none)).foldl (fun (d : Dev) a =>
        if a.posted then d.postedEnds a.ctx a.vm a.seq (some cFabricTimeout) else d.replied a.ctx a.vm a.tag (.lost cFabricTimeout)) d) ∧
    DevRuns (.ottEntryFree core n) (fun d => (d.core core).ott.find? (fun y => y.idx == n) = some x ∧ x.granted = none ∧
        (∀ a ∈ x.accs, a.posted = true ∧ a.reply ≠ .none) ∧ ∀ l, x.here = some l → l.till ≤ d.pcyc) (fun d =>
      ((d.mapCore core (fun c => { c with ott := c.ott.filter (fun y => y.idx ≠ n) })).grantAll core).wakeReleases core) ∧
    DevRuns (.haltMarker slot src) (fun d => d.ctx? slot = some c ∧ c.haltSeen.contains src = false)
      (fun d => d.mapCtx slot (fun c => { c with haltSeen := c.haltSeen ++ [src] })) ∧
    (∀ r, DevRuns (.restoreReadyNotice slot src) (fun d => d.ctx? slot = some c ∧ c.phase = .restoring r ∧ r.contains src = false)
      (fun d => d.mapCtx slot (fun c => { c with phase := .restoring (r ++ [src]) }))) ∧
    (∀ k s, DevRuns (.completionNotice slot src e)
      (fun d => d.ctx? slot = some c ∧ c.liveSnap e = some k ∧ c.snaps[k]? = some s ∧ s.notices.contains src = false)
      (fun d => (d.mapCtx slot (fun c => c.mapSnap k (fun s => { s with notices := s.notices ++ [src] }))).finishSnap slot e)) ∧
    DevRuns (.abortNotice slot src e) (fun d => d.ctx? slot = some c ∧ (c.liveSnap e).isSome = true) (fun d => d.abortSnap slot e) ∧
    DevRuns (.abortNotice slot src e) (fun d => d.ctx? slot = some c ∧ c.liveSnap e = none ∧ newer e c.regs.epoch = true)
      (fun d => d.skipEpoch slot e)

/-- R85, R88, R90, R93, R94, R333, R349, R459: launch records are queued or rejected, a doorbell makes the records of a ring arrive, leases
are acquired or refused, pages become resident, bind records are written, wait and bind, intents are noted, and tasks become launches. -/
def Obligations.LaunchEvents : Prop :=
  ∀ (slot lid chunk core k part : Nat) (c : Ctx) (l : Launch) (raw : BitVec 512) (fps : List (BitVec 128)) (who : Submitter)
    (page : PageBack) (bell : Doorbell) (r : BindRec),
    let is := fun (d : Dev) => d.ctx? slot = some c
    let both := fun (d : Dev) => is d ∧ d.launch? slot lid = some l ∧ c.phase = .running
    let fs := (fps.take (bitsOf raw.toNat 144 7)).map BitVec.toNat
    let flt := fun (d : Dev) => d.recordFlt c raw.toNat fs (who == .driver)
    let turn := fun (st : LaunchState) (d : Dev) => d.mapLaunch slot lid (fun l => { l with state := st })
    let refused := fun (x : Cause) (a : W64) (d : Dev) => turn .ended (d.reject slot l.entry (some l.lid) x a c.part)
    let rung := fun (s : State) => s.host.linkUp = true ∧ s.host.ready = true
    let locked := fun (s : State) => (s.dev.mode part).getLsbD 8 = true ∧ bell.ide = false
    DevRuns (.launchRecordArrival slot raw fps who) (fun d => is d ∧ c.phase ≠ .empty ∧ flt d = none) (fun d =>
      { (d.mapCtx slot (fun c => { c with nextLid := c.nextLid + 1 })) with launches := d.launches ++ [launchOf slot c.nextLid raw.toNat fs who] }) ∧
    (∀ x a, DevRuns (.launchRecordArrival slot raw fps who) (fun d => is d ∧ c.phase ≠ .empty ∧ flt d = some (x, a))
      (fun d => d.reject slot (BitVec.ofNat 64 raw.toNat) none x a c.part)) ∧
    (∀ s : State, rung s → ¬ locked s → is s.dev → c.part = part →
      let n := min (bell.tail - c.head) c.ring.length
      let d := s.dev.mapCtx slot (fun c => { c with ring := c.ring.drop n, head := c.head + n })
      exec (.doorbellWrite part slot bell) s = .next { s with dev := (c.ring.take n).foldl (fun d r => d.recordIn slot r.1 r.2 .driver) d }) ∧
    (∀ s : State, rung s → locked s → exec (.doorbellWrite part slot bell) s = .next { s with host := { s.host with answer := 3 } }) ∧
    DevRuns (.leaseAcquireStart slot lid) (fun d => both d ∧ l.state = .queued ∧ (turn .leasing d).leaseFlt slot c l = none) (turn .leasing) ∧
    (∀ x a, DevRuns (.leaseAcquireStart slot lid) (fun d => both d ∧ l.state = .queued ∧ (turn .leasing d).leaseFlt slot c l = some (x, a) ∧ l.lid = lid)
      (fun d => refused x a (turn .leasing d))) ∧
    DevRuns (.leaseHeld slot lid)
      (fun d => both d ∧ l.state = .leasing ∧ d.leaseFlt slot c l = none ∧ d.allResident c l = true ∧ d.rowBlocked slot c l = false)
      (fun d => (turn .ready (d.dropRows c l)).fetchCode slot) ∧
    (∀ x a, DevRuns (.leaseHeld slot lid) (fun d => both d ∧ l.state = .leasing ∧ d.leaseFlt slot c l = some (x, a) ∧ l.lid = lid) (refused x a)) ∧
    (∀ y : Leaf, DevRuns (.pageResident slot page)
      (fun d => is d ∧ d.leaf? c page.va.toNat = some y ∧ y.p = false ∧ ∀ l ∈ d.launches, l.ctx = slot → l.state ≠ .leasing)
      (fun d =>
        let size := 2 ^ (levelShift y.level).1
        let e := if y.conf ∧ y.owner = slot ∧ (d.mode c.part).getLsbD 1 = true then d.unsealPage c.memKey (y.pa - y.pa % size) size page.sealed else d
        e.setEntry y.at_ (y.entry.toNat + 32))) ∧
    DevRuns (.chunkBind slot lid chunk core)
      (fun d => is d ∧ d.launch? slot lid = some l ∧ (d.core core).waitSlot slot lid chunk = none ∧ d.recordFor c l chunk core = some r ∧
        c.binds l = true ∧ (d.core core).freeBind.isSome = true)
      (fun d => ((d.putBind core r).mapLaunch slot lid (fun l =>
        { l with intents := l.intents.filter (fun i => ¬ (i.1 = core ∧ (BindRec.ofBits i.2 l.chunkSize).chunk = chunk)) })).bindWaiting slot lid
          r.chunk core) ∧
    DevRuns (.chunkBind slot lid chunk core)
      (fun d => is d ∧ d.launch? slot lid = some l ∧ (d.core core).waitSlot slot lid chunk = some (k, r) ∧ d.bindsNow core r = true)
      (fun d => d.bindChunk l r core k) ∧
    DevRuns (.chunkBind slot lid chunk core)
      (fun d => is d ∧ d.launch? slot lid = some l ∧ (d.core core).waitSlot slot lid chunk = some (k, r) ∧ d.bindsNow core r = false) id ∧
    (∀ (s : State) (head : BitVec 16) (id_ : W32) (rest : BitVec 80),
      let bits : BitVec 128 := rest ++ id_ ++ head
      bitsOf bits.toNat 8 6 = slot → bitsOf bits.toNat 16 32 = lid → is s.dev → s.dev.launch? slot lid = some l →
      let ok := s.dev.hostSched c.part && decide (s.dev.partOf core = c.part) && l.state.holds && (s.dev.core core).freeBind.isSome &&
        s.dev.recFits core (BindRec.ofBits bits l.chunkSize)
      exec (.bindIntent core head id_ rest) s = .next { s with
        host := { s.host with answer := if ok then 1 else 2 }
        dev := if ok then s.dev.mapLaunch slot lid (fun l => { l with intents := l.intents ++ [(core, bits)] }) else s.dev }) ∧
    (∀ i t, DevRuns (.taskDequeue k) (fun d => d.nextTask k = some (i, t)) (fun d =>
      let e := (d.logInput t.ctx (logKey 2 k) (BitVec.ofNat 64 i)).mapDie k (fun x => { x with tasks := x.tasks.eraseIdx i })
      match e.ctx? t.ctx with
      | none => e
      | some c =>
        if e.unlocked c then e.reject t.ctx t.entry none cTdispUnlocked t.entry c.part
        else e.addLaunch t.ctx (contLaunch t (e.launch? t.ctx t.poster) k)))

/-- R98, R99, R100, R468: a context drains, or is saved at once where a launch of it may not drain; a deadline that passes saves it, a save
that takes too long, or finds an uncorrectable error in shadow storage, resets it; it is resumed, and a rendezvous that stays open ends
its launch. -/
def Obligations.PreemptionEvents : Prop :=
  ∀ (slot core k : Nat) (c : Ctx) (place : List (Nat × Nat)),
    let is := fun (d : Dev) => d.ctx? slot = some c
    let halts := fun (d : Dev) =>
      let e := d.mapCtx slot (fun c => { c with phase := .saving d.pcyc, haltAt := c.regs.cyc })
      let f : Dev := { e with launches := e.launches.map (fun l =>
        if l.ctx = slot ∧ (l.state = .running ∨ l.state = .draining) then { l with state := .saving } else l) }
      f.notices slot .halted
    let straight := fun (d : Dev) => ∃ l ∈ d.launches, l.ctx = slot ∧ d.skipsDrain l = true
    let dl := fun (d : Dev) => c.regs.cyc.toNat + d.drainTime c.part
    let marks := fun (d : Dev) => { d with launches := d.launches.map (fun l => if l.ctx = slot ∧ l.state = .running then { l with state := .draining } else l) }
    DevRuns (.preemptDrain slot) (fun d => is d ∧ c.phase = .running ∧ straight d) halts ∧
    DevRuns (.preemptDrain slot) (fun d => is d ∧ c.phase = .running ∧ ¬ straight d)
      (fun d => marks (d.mapCtx slot (fun c => { c with phase := .draining (dl d), haltAt := c.regs.cyc }))) ∧
    (∀ n e, DevRuns (.preemptDrain slot) (fun d => is d ∧ c.phase = .recording n e none ∧ ¬ straight d)
      (fun d => marks (d.mapCtx slot (fun c => { c with phase := .recording n e (some (dl d)), haltAt := c.regs.cyc })))) ∧
    (∀ n, DevRuns (.drainDeadline slot)
      (fun d => is d ∧ c.phase = .draining n ∧ n ≤ c.regs.cyc.toNat ∧ ∃ x ∈ d.chunks, x.ctx = slot)
      (fun d => (d.note (Who.nobody (some slot)) cDrainDeadline (cycDetail c.haltAt 1)).startSave slot)) ∧
    DevRuns (.contextSave slot) (fun d => is d ∧ (c.phase = .running ∨ ∃ n, c.phase = .draining n)) halts ∧
    (∀ n, DevRuns (.contextSaved slot) (fun d => is d ∧ c.phase = .saving n ∧ d.quiet slot c = true ∧ d.saveBad slot = []) (fun d =>
      let a := d.settleCtx slot
      let e := (a.evict slot).mapCtx slot (fun y => { y with phase := .saved, saved := some (a.capture slot ((a.ctx? slot).getD c)) })
      let f : Dev := { e with launches := e.launches.map (fun l => if l.ctx = slot ∧ l.state = .saving then { l with state := .saved } else l) }
      let g := f.note (Who.nobody (some slot)) cContextSaved (cycDetail c.haltAt 2)
      match g.ctx? slot with
      | some y => if y.phase = .saved ∧ y.noResume = true then g.forceReset slot else g
      | none => g)) ∧
    (∀ s : State, ∀ n, is s.dev → c.phase = .saving n → s.dev.quiet slot c = true → s.dev.saveBad slot ≠ [] →
      let g := ((s.dev.saveBad slot).foldl (fun d w => d.eccNote none true (16 * w) 16) s.dev).forceReset slot
      (∀ y, g.ctx? slot = some y → y.phase ≠ .saved) → exec (.contextSaved slot) s = .next { s with dev := g }) ∧
    (∀ n, DevRuns (.contextSaveTimeout slot)
      (fun d => is d ∧ c.phase = .saving n ∧ n + 72000 ≤ d.pcyc ∧ (c.others = [] ∨ ∃ v ∈ c.others, c.haltSeen.contains v = false))
      (fun d => d.forceReset slot)) ∧
    DevRuns (.contextReset slot) (fun _ => True) (fun d => d.forceReset slot) ∧
    (∀ n, DevRuns (.contextResume slot place) (fun d => is d ∧ c.phase = .draining n ∧ ∀ x ∈ d.chunks, x.ctx ≠ slot) (fun d => d.goAgain slot)) ∧
    DevRuns (.contextResume slot place) (fun d => is d ∧ c.phase = .exhausted)
      (fun d => (d.mapCtx slot (fun c => { c with rerun := false })).goAgain slot) ∧
    (∀ s : State, ∀ x e, is s.dev → c.phase = .saved → c.saved = some x → c.noResume = false → s.dev.refilled c = true →
      (s.dev.strand slot x).1.placeImage slot (s.dev.strand slot x).2 place = some e →
      exec (.contextResume slot place) s = .next { s with dev := e.goAgain slot }) ∧
    ∀ (g : Gang) (v : Rendezvous) (t : Thread), DevRuns (.watchdog core k)
      (fun d => d.gang? core k = some g ∧ g.rdv = some v ∧ v.opened.toNat + 2 ^ 24 ≤ (d.cyc g.ctx).toNat ∧
        (v.arrived.filterMap d.thread?).head? = some t)
      (fun d => d.endLaunchBy g.ctx g.lid { d.whoOf t with pc := v.pc } cWatchdog (cycDetail v.opened 0))

/-- R96, R420, R421, R422, R425, R428 to R430, R440, R444: the record step and its end, copies of units, the sweep and the stream, the end
of a wait for staging, the abort that a full staging forces, the completion of a part, and the end of a restore and of a re-run. -/
def Obligations.SnapshotEvents : Prop :=
  ∀ (slot e k : Nat) (u : UnitId) (c : Ctx) (place : List (Nat × Nat)),
    let is := fun (d : Dev) => d.ctx? slot = some c
    let room := fun (d : Dev) => d.staging < stagingCap
    let frees := fun (n : Nat) (d : Dev) => (d.mapCtx slot (fun c =>
      { c with snaps := c.snaps.map (fun x => { x with staged := x.staged.filter (fun y => y.num ≠ n) }) })).unstall
    let passes := fun (ns : List Nat) (d : Dev) => { d with ctxs := d.ctxs.map (fun (e : Nat × Ctx) => (e.1, { e.2 with snaps := e.2.snaps.map (fun s =>
      { s with staged := s.staged.map (fun y => if ns.contains y.num then { y with passed := y.passed + 1 } else y) }) })) }
    (∀ n b, DevRuns (.recordStep slot e)
      (fun d => is d ∧ c.phase = .recording n e b ∧ c.regs.epoch ≠ e ∧
        ∀ x ∈ d.cores, (∀ t ∈ x.2.bus, t.ctx ≠ slot) ∧ ∀ r ∈ x.2.slots, r.ctx = slot → r.state ≠ .opening)
      (fun d => d.recordPoint slot e)) ∧
    (∀ n b, DevRuns (.recordStepEnd slot) (fun d => is d ∧ c.phase = .recording n e b ∧ c.regs.epoch = e) (fun d =>
      ((d.mapCtx slot (fun c => { c with phase := match b with | some x => .draining x | none => .running })).sendMarkers slot e).drainChans
        slot)) ∧
    DevRuns (.cowCopy slot u) (fun d => is d ∧ c.needsCopy u = true ∧ room d) (fun d => d.cowIn slot u 2) ∧
    DevRuns (.snapshotSweep slot u) (fun d => is d ∧ c.needsCopy u = true ∧ room d) (fun d => d.cowIn slot u 3) ∧
    DevRuns (.snapshotSweep slot u) (fun d => is d ∧ c.needsCopy u = false)
      (fun d => d.mapCtx slot (fun c => { c with snaps := c.snaps.map (fun s => { s with todo := s.todo.filter (fun x => x ≠ u) }) })) ∧
    (∀ x, DevRuns (.boraStream slot) (fun d => d.boraNext = some (slot, x)) (fun d => frees x.num
      (passes ((passedBy (fun (e : Nat × Staged) => e.2.prio) d.boraQueue (slot, x)).map (fun e => e.2.num)) d))) ∧
    (∀ s : State, is s.dev → s.dev.hostStream c = true → (∃ x ∈ c.snaps, x.staged ≠ []) →
      ∃ n, (∃ x ∈ c.snaps, ∃ y ∈ x.staged, y.num = n) ∧ exec (.hostGranuleAck slot) s = .next { s with dev := frees n s.dev.tick }) ∧
    (∀ t n, DevRuns (.snapshotStagingFull k) (fun d => d.thread? k = some t ∧ t.wait = .staging n ∧ room d ∧ d.ctx? t.ctx = some c) (fun d =>
      let ts := d.threads.filter (fun x => x.ctx == t.ctx && x.core == t.core && x.pc == t.pc && x.wait == .staging n)
      (d.record { (Rec.plain (d.whoOf t) cSnapshotStagingFull (snapDetail c.regs.epoch 0 (d.pcyc - n))) with
        lanes := ts.map Thread.lane }).mapUids (ts.map Thread.uid) (fun x => { x with wait := .none, since := d.pcyc + 1 }))) ∧
    DevRuns (.stagingAbort slot) (fun d => d.oldestSnap = some (slot, e) ∧ d.stagingLate = true) (fun d => (d.abortSnap slot e).unstall) ∧
    (∀ s x, DevRuns (.partComplete slot e)
      (fun d => is d ∧ (c.liveSnap e).bind (fun k => c.snaps[k]?) = some s ∧ c.partDone s = true ∧ s.sentNotice = false ∧
        c.imageOf s d.ctr (if d.hostStream c then none else c.areas[e % 2]?.getD none) = some x ∧ d.canWrite x = true)
      (fun d => (((d.tick.putImage x).mapCtx slot (fun c => c.mapSnap (e % 2) (fun s => { s with sentNotice := true, part := some x }))).notices slot
        (.completed e)).finishSnap slot e)) ∧
    (∀ s x, DevRuns (.partComplete slot e)
      (fun d => is d ∧ (c.liveSnap e).bind (fun k => c.snaps[k]?) = some s ∧ c.partDone s = true ∧ s.sentNotice = false ∧
        c.imageOf s d.ctr (if d.hostStream c then none else c.areas[e % 2]?.getD none) = some x ∧ d.canWrite x = false)
      (fun d => d.abortSnap slot e)) ∧
    (∀ n, DevRuns (.snapshotAborted slot e) (fun d => is d ∧ c.liveSnap e = some n) (fun d =>
      let f := d.mapCtx slot (fun c => c.mapSnap n (fun s =>
        { s with state := .aborted, live := false, section_ := none, mem := [], psn := [], todo := [], staged := [], log := [], part := none, units := [] }))
      (((f.note (Who.nobody (some slot)) cSnapshotAborted (snapDetail e 0 0)).notices slot (.aborted e)).wakeSnap slot).unstall)) ∧
    (∀ s : State, ∀ x f, is s.dev → c.saved = some x → s.dev.mayRestore slot c = true →
      (s.dev.strand slot x).1.placeRestored slot c (s.dev.strand slot x).2 place = some f →
      exec (.restoreResume slot place) s = .next { s with dev :=
        (((c.reload.map Image.log).getD []).foldl (fun d p => d.reinject slot p)
          (f.mapCtx slot (fun c => { c with reload := none }))).goAgain slot }) ∧
    DevRuns (.rerunLogExhausted slot) (fun d => is d ∧ c.rerun = true ∧ c.rlog = [] ∧ c.phase.issues = true)
      (fun d => d.mapCtx slot (fun c => { c with phase := .exhausted, haltAt := c.regs.cyc }))

/-- R29, R184, R346 to R353, R357, R359 to R361, R459 to R467: bring-up and resets, the link, the mailbox and the host's accesses, the
interfaces' locks, the requests to the security core with their answers and signatures, keys, and a failing tag of tier 3. -/
def Obligations.HostEvents : Prop :=
  ∀ (part slot x k n : Nat) (r : MailReq) (va v : W64) (bs : List Byte) (key : BitVec 256) (c : Ctx) (p : PeerEnd),
    let up := fun (h : HostSide) => h.linkUp = true ∧ h.ready = true
    let spdm := fun (h : HostSide) => h.linkUp = true ∧ 3 ≤ h.step
    let talks := fun (h : HostSide) => spdm h ∧ 3 ≤ h.spdm
    let reply := fun (n : Nat) (h : HostSide) => { h with answer := n }
    let gives := fun (b : List Byte) (h : HostSide) => { h with answer := 1, readData := b }
    let mine := fun (h : HostSide) => ∃ y ∈ h.sessions, y.id = x ∧ y.finished = true
    let signs := fun (i : Instr) (ok : State → Prop) (msg : State → List Byte) (d : Dev → Dev) (f : HostSide → HostSide) =>
      (∀ s : State, talks s.host → ok s → s.host.xmss + 4096 < 1048576 →
        let data := msg s ++ Config.xmssSign (s.host.seed.getD 0) s.host.xmss (msg s)
        exec i s = .next { s with host := { f s.host with xmss := s.host.xmss + 1, answer := 1, readData := data }, dev := d s.dev }) ∧
      ∀ s : State, talks s.host → ok s → 1048576 ≤ s.host.xmss →
        let w : Rec := { (Rec.plain (Who.nobody none) cAttestationState (detailOf 0 0 0)) with sev := 3 }
        exec i s = .next { s with host := reply 2 s.host, dev := (d s.dev).record w }
    let boots := fun (h : HostSide) => h.ready = false ∧ h.imgfail = false
    let trained := fun (h : HostSide) => { h with step := 3, linkUp := true }
    let done := fun (h : HostSide) => { h with step := 8, ready := true }
    (∀ s : State, boots s.host → s.host.step = 2 → exec .moduleReset s = .next { s with host := trained s.host }) ∧
    (∀ s : State, boots s.host → s.host.step = 7 → exec .moduleReset s = .next { s with host := done s.host, dev := s.dev.bootImage }) ∧
    (∀ s : State, ¬ boots s.host → exec .moduleReset s = .next s.restart) ∧
    (∀ s : State, up s.host → part < 8 → (∃ y ∈ s.host.sessions, y.finished = true ∧ y.part = part) →
      exec (.tdispLock part) s = .next { s with dev := s.dev.setLocked part true }) ∧
    DevRuns (.tdispUnlocked part) (fun d => (d.mode part).getLsbD 8 = true) (fun d =>
      (((d.ctxs.filter (fun e => e.2.part == part && e.2.conf)).map Prod.fst).foldl (fun d k => d.scrubCtx k) (d.setLocked part false)).note
        (Who.nobody none) cTdispUnlocked (detailOf part 0 0)) ∧
    (∀ s : State, exec .pcieHotReset s =
      .next { s with host := { s.host with linkUp := false }, dev := (upTo 8).foldl (fun d p => d.unlock p) s.dev }) ∧
    HostRuns .pcieLinkUp (fun h => 3 ≤ h.step) (fun h => { h with linkUp := true }) ∧
    HostRuns .pcieLinkUp (fun h => h.step < 3) id ∧
    (∀ s : State, up s.host → exec (.mailboxRequest r) s = .next { s with
      host := { s.host with answer := if (s.dev.mail r).2 then 1 else 2, readData := s.dev.mailData r }
      dev := (s.dev.mail r).1 }) ∧
    (∀ s : State, up s.host →
      let w := s.dev.writeEntry slot va n v
      let out := s.dev.pageOut slot va n v
      exec (.pageTableRequest slot va n v) s = .next { s with
        host := { s.host with answer := if w.2 then 1 else 2, readData := if w.2 ∧ out ≠ [] then out else s.host.readData }
        dev := w.1 }) ∧
    (∀ s : State, up s.host →
      exec (.partmodeRequest part v) s = .next { s with
        host := reply (if part < 8 ∧ s.dev.partIdle part = true ∧ (s.dev.mode part).getLsbD 8 = false then 1 else 2) s.host
        dev := if part < 8 then s.dev.setMode part v else s.dev }) ∧
    (∀ s : State, up s.host → s.dev.barOk x bs.length = true →
      let pa := 0x10000000000 + x
      (if (granulesOf pa bs.length).any s.dev.stagingStall then exec (.barAccess true x bs) s = .next s
       else exec (.barAccess true x bs) s = .next { s with host := reply 1 s.host, dev := s.dev.writePhys (.plain [.host]) pa bs false }) ∧
      exec (.barAccess false x bs) s = .next {
        host := gives (s.dev.readAs [.host] pa bs.length).1 s.host
        dev := ((s.dev.sawAs [.host] pa bs.length).tick).eccNote none true pa bs.length }) ∧
    (∀ s : State, ∀ w, up s.host → s.dev.barOk x bs.length = false → exec (.barAccess w x bs) s = .next { s with host := reply 3 s.host }) ∧
    HostRuns .getVersion spdm (fun h => { h with spdm := 1, answer := 1 }) ∧
    HostRuns .getCapabilities (fun h => spdm h ∧ h.spdm = 1) (fun h => { h with spdm := 2, answer := 1 }) ∧
    HostRuns .negotiateAlgorithms (fun h => spdm h ∧ h.spdm = 2) (fun h => { h with spdm := 3, answer := 1, readData := Config.algorithms }) ∧
    HostRuns .getDigests talks (fun h => gives (sha384 h.chain) h) ∧
    HostRuns (.getCertificate 0) talks (fun h => gives h.chain h) ∧ (0 < n → HostRuns (.getCertificate n) talks (reply 2)) ∧
    signs .challenge (fun _ => True) (fun s => sha384 s.host.chain) id id ∧
    (n < 5 → signs (.getMeasurements ⟨n, none⟩) (fun _ => True) (fun s => s.dev.measurement n none) id id) ∧
    (∀ s : State, talks s.host → n < 5 → s.host.sessionPart x = some part →
      exec (.getMeasurements ⟨n, some x⟩) s = .next { s with host := gives (s.dev.measurement n (some part)) s.host }) ∧
    (part < 8 → signs (.keyExchange ⟨part, x⟩) (fun s => ∀ y ∈ s.host.sessions, y.id ≠ x) (fun s => Config.ecdhPoint s.dev.ctr)
      (fun d => d.tick) (fun h => { h with sessions := h.sessions ++ [⟨x, part, false⟩] })) ∧
    HostRuns (.finish x) (fun h => spdm h ∧ ∃ y ∈ h.sessions, y.id = x ∧ y.finished = false)
      (fun h => { h with answer := 1, sessions := h.sessions.map (fun y => if y.id = x then { y with finished := true } else y) }) ∧
    HostRuns (.endSession x) (fun h => spdm h ∧ mine h) (fun h => { h with answer := 1, sessions := h.sessions.filter (fun y => y.id ≠ x) }) ∧
    HostRuns (.heartbeat x) (fun h => spdm h ∧ mine h) (reply 1) ∧
    HostRuns .unsupportedRequest spdm (reply 3) ∧
    (∀ s : State, spdm s.host → s.host.sessionPart x = some c.part → s.dev.ctx? slot = some c → c.conf = true → s.dev.unlocked c = false → k < 32 →
      let snap := if k = 0 then some key else c.snapKey
      let keys := if k = 0 then c.keys else KV.set c.keys k key
      exec (.keyLoad x slot k key) s = .next { s with
        host := reply 1 s.host
        dev := s.dev.mapCtx slot (fun c => { c with snapKey := snap, keys := keys, streams := c.streams.filter (fun e => e.1 ≠ k) }) }) ∧
    DevRuns (.peerKeyExchange slot p)
      (fun d => d.ctx? slot = some c ∧ c.conf = true ∧ c.others.contains p.peer = true ∧ (d.mode c.part).getLsbD 7 = p.relayed)
      (fun d =>
        let e : Dev := { d with fresh := d.fresh + 1 }
        let f := e.mapChan slot p.peer (fun y => { y with key := some d.fresh, keyEpoch := if y.key.isSome then y.keyEpoch + 1 else y.keyEpoch })
        f.mapCtx slot (fun c => { c with snapKey := c.snapKey.or p.snapKey })) ∧
    DevRuns (.tier3TagFail slot x) (fun d => (tier3Port x).isSome = true ∧ d.ownerOf x = some slot)
      (fun d => { d with badTags := NatSet.add d.badTags (x / 64) })

/-! ### The machine (R11, R20, R29, R32, R34, R51, R239, R397, R412, R445, R449, R465, R466) -/

/-- R465 and the reset values of R11, R20, R29, R232, R397 and R412: HSTAT shows the step, READY, IMGFAIL and FAILIMG and is zero at
reset; there LCMAP puts every logical core past no spare, every PARTMODE, FMTRANGE and SCANSIG is zero, PCYC is zero, and MARGIN has
CEIL at 24 and the sixteenth position of each cluster as a spare. -/
def Obligations.ResetValues : Prop :=
  (∀ h : HostSide, h.step < 16 → h.failimg < 256 →
    h.hstat.extractLsb' 0 4 = BitVec.ofNat 4 h.step ∧ h.hstat.getLsbD 4 = h.ready ∧ h.hstat.getLsbD 5 = h.imgfail ∧
    h.hstat.extractLsb' 6 2 = 0 ∧ h.hstat.extractLsb' 8 8 = BitVec.ofNat 8 h.failimg ∧ h.hstat.extractLsb' 16 48 = 0) ∧
  State.reset.host.hstat = 0 ∧ State.reset.dev.pcyc = 0 ∧
  (∀ n < 512, State.reset.dev.physOf n = 136 * (n / 128) + 17 * ((n % 128) / 16) + n % 16) ∧
  (∀ p < 8, State.reset.dev.mode p = 0) ∧ (∀ k < 128, State.reset.dev.fmtWord k = 0) ∧
  ∀ p < 544, KV.get State.reset.dev.scansig 0 p = 0 ∧
    State.reset.dev.marginWord p = BitVec.ofNat 64 (24 * 2 ^ 16 + (if p % 17 = 16 then 4 else 0) * 2 ^ 40)

/-- R32, R53, R54, R65, R466: while bring-up runs a step completes its next step; else an event that is due runs first, then one that was
set for this cycle; and where nothing else is to happen, the core whose turn it is runs the instruction that the twelve bytes at its
group's PC encode, as the last lease of the code left them, or raises the fault of its encoding. While no snapshot is live nothing is
added to what runs; else what it writes of stash, registers and tiles is copied (R420). The order of what one cycle brings is the
model's choice (log 7), and so are the parity errors that a core detects as it reads its registers (log 72). -/
def Obligations.StepRunsDecoded : Prop :=
  (∀ s : State, s.host.ready = false → s.host.imgfail = false → step s = exec .moduleReset s) ∧
  (∀ (d : Dev) (o : Host.Outcome State Fault Refusal), (∀ e ∈ d.ctxs, ∀ x ∈ e.2.snaps, x.live = false) → withCopies d o = o) ∧
  ∀ s : State, (s.host.ready = true ∨ s.host.imgfail = true) → s.dev.keepNext = none →
    (∀ i r, s.dev.dueEvents = i :: r →
      let d := { s.dev with cur := .none }
      step s = withCopies d (exec i { s with dev := d })) ∧
    (s.dev.dueNext = none →
      (∀ n i r, s.dev.agenda = (n, i) :: r → n ≤ s.dev.pcyc →
        let d := { s.dev with agenda := r, cur := .none }
        step s = withCopies d (exec i { s with dev := d })) ∧
      (s.dev.agendaNext = none → s.dev.meetNext = none → s.dev.freeNext = none →
        ∀ (core : Nat) (x : Chosen) (t : Thread) (ts : List Thread) (c : Ctx) (off : Nat) (l m : Leaf),
          s.dev.nextIssue = some (core, x) → x.group = t :: ts → s.dev.ctx? t.ctx = some c → t.pc.toNat % 4 = 0 → windowOf t.pc = .local_ off →
          c.code.1 ≤ off → off + 12 ≤ c.code.1 + c.code.2 → s.dev.leaf? c off = some l → s.dev.leaf? c (off + 11) = some m →
          l.x = true → m.x = true → s.dev.ownerOk l t.ctx = true → s.dev.ownerOk m t.ctx = true →
          let d := s.dev.begin core ((t :: ts).map Thread.uid) t.pc x.table
          let w := wordOfBytes (c.fetchMem.getBytes off 12)
          (∀ i, decode w = .ok i →
            let e := d.parity i (wordGuard w).2
            step s = withCopies e (exec i { s with dev := e })) ∧
          ∀ f, decode w = .error f → step s = .next { s with dev := d.encodingFault w f }))

/-- The words that R51, R239, R445 and R449 write out decode to the instructions they stand for. -/
def Obligations.SpecWordsDecode : Prop :=
  let plain : Hd := ⟨false, 0, .none, 0, 0⟩
  decode 0x20840805_0003FFFF_FFFC0000 = .ok (.iadd plain .i32 .sat (.v 4) (.v 5) (.imm 0xFFFFFFFF) none) ∧
  decode 0xF1400820_65000200_40000000 =
    .ok (.pair ⟨false, 2, .none, ⟨0, .fadd, 1, 2, 3⟩, ⟨1, .mov, 0, 1, 0⟩⟩) ∧
  decode 0x91040001_07800000_20000000 = .ok (.rowconS plain 1 (.v 15) 0x800) ∧
  decode 0xDB000204_00000000_00000000 = .ok (.haltc plain 1 4) ∧
  decode 0xD6040C05_00000000_00000400 = .ok (.marginRd { plain with yh := .spin } 6 5) ∧
  decode 0xD0001200_00009180_00000000 = .ok (.sysr plain (.one 9) 0x246)

/-- R34, R53: an instruction that is well formed has a word, and the word decodes to it, every operand at every value; and a word that
decodes is the word of a well-formed instruction, so that no bit of it is dropped. -/
def Obligations.EncodeDecode : Prop :=
  (∀ i : Instr, i.wf = true → ((∃ w, i = .pair w) ∨ i.hd?.isSome = true) → ∃ w, encode i = some w ∧ decode w = .ok i) ∧
  ∀ (w : W96) (i : Instr), decode w = .ok i → i.wf = true ∧ encode i = some w

/-- R347, R465, R466: from every state a step answers a next state, and keeps what bring-up, the link and the security core keep. -/
def Obligations.StepKeepsInvariant : Prop :=
  ∀ s : State, ∃ t, step s = .next t ∧ (s.host.Inv → t.host.Inv)

/-- R465, R466: the machine right after reset meets that invariant. -/
def Obligations.ResetMeetsInvariant : Prop := State.reset.host.Inv
end

