-- ==== Sys2Proof/Laws/State.lean ====
section
/-! SUPPORT. One lemma per field per update of the device and of a thread: what an update does not touch keeps its value. -/

namespace Sys2Proof.Machine

/-! ### The device -/

@[simp] theorem Dev.tick_pcyc (d : Dev) : (d.tick).pcyc = d.pcyc := rfl
@[simp] theorem Dev.tick_fresh (d : Dev) : (d.tick).fresh = d.fresh := rfl
@[simp] theorem Dev.tick_cur (d : Dev) : (d.tick).cur = d.cur := rfl
@[simp] theorem Dev.tick_turn (d : Dev) : (d.tick).turn = d.turn := rfl
@[simp] theorem Dev.tick_threads (d : Dev) : (d.tick).threads = d.threads := rfl
@[simp] theorem Dev.tick_chunks (d : Dev) : (d.tick).chunks = d.chunks := rfl
@[simp] theorem Dev.tick_launches (d : Dev) : (d.tick).launches = d.launches := rfl
@[simp] theorem Dev.tick_cores (d : Dev) : (d.tick).cores = d.cores := rfl
@[simp] theorem Dev.tick_ctxs (d : Dev) : (d.tick).ctxs = d.ctxs := rfl
@[simp] theorem Dev.tick_dies (d : Dev) : (d.tick).dies = d.dies := rfl
@[simp] theorem Dev.tick_mem (d : Dev) : (d.tick).mem = d.mem := rfl
@[simp] theorem Dev.tick_psn (d : Dev) : (d.tick).psn = d.psn := rfl
@[simp] theorem Dev.tick_caches (d : Dev) : (d.tick).caches = d.caches := rfl
@[simp] theorem Dev.tick_flips (d : Dev) : (d.tick).flips = d.flips := rfl
@[simp] theorem Dev.tick_lineFlips (d : Dev) : (d.tick).lineFlips = d.lineFlips := rfl
@[simp] theorem Dev.tick_badTags (d : Dev) : (d.tick).badTags = d.badTags := rfl
@[simp] theorem Dev.tick_vers (d : Dev) : (d.tick).vers = d.vers := rfl
@[simp] theorem Dev.tick_owners (d : Dev) : (d.tick).owners = d.owners := rfl
@[simp] theorem Dev.tick_partmode (d : Dev) : (d.tick).partmode = d.partmode := rfl
@[simp] theorem Dev.tick_drain (d : Dev) : (d.tick).drain = d.drain := rfl
@[simp] theorem Dev.tick_corePart (d : Dev) : (d.tick).corePart = d.corePart := rfl
@[simp] theorem Dev.tick_lcmap (d : Dev) : (d.tick).lcmap = d.lcmap := rfl
@[simp] theorem Dev.tick_fmt (d : Dev) : (d.tick).fmt = d.fmt := rfl
@[simp] theorem Dev.tick_scansig (d : Dev) : (d.tick).scansig = d.scansig := rfl
@[simp] theorem Dev.tick_phys (d : Dev) : (d.tick).phys = d.phys := rfl
@[simp] theorem Dev.tick_fills (d : Dev) : (d.tick).fills = d.fills := rfl
@[simp] theorem Dev.tick_colPhys (d : Dev) : (d.tick).colPhys = d.colPhys := rfl
@[simp] theorem Dev.tick_sysq (d : Dev) : (d.tick).sysq = d.sysq := rfl
@[simp] theorem Dev.tick_cxl (d : Dev) : (d.tick).cxl = d.cxl := rfl
@[simp] theorem Dev.tick_images (d : Dev) : (d.tick).images = d.images := rfl
@[simp] theorem Dev.tick_egress (d : Dev) : (d.tick).egress = d.egress := rfl
@[simp] theorem Dev.tick_outbox (d : Dev) : (d.tick).outbox = d.outbox := rfl
@[simp] theorem Dev.tick_stalled (d : Dev) : (d.tick).stalled = d.stalled := rfl
@[simp] theorem Dev.tick_agenda (d : Dev) : (d.tick).agenda = d.agenda := rfl

@[simp] theorem Dev.tick_ctr (d : Dev) : d.tick.ctr = d.ctr + 1 := rfl

@[simp] theorem Dev.mapThreads_pcyc (d : Dev) (p : Thread → Bool) (f : Thread → Thread) : (d.mapThreads p f).pcyc = d.pcyc := rfl
@[simp] theorem Dev.mapThreads_ctr (d : Dev) (p : Thread → Bool) (f : Thread → Thread) : (d.mapThreads p f).ctr = d.ctr := rfl
@[simp] theorem Dev.mapThreads_fresh (d : Dev) (p : Thread → Bool) (f : Thread → Thread) : (d.mapThreads p f).fresh = d.fresh := rfl
@[simp] theorem Dev.mapThreads_cur (d : Dev) (p : Thread → Bool) (f : Thread → Thread) : (d.mapThreads p f).cur = d.cur := rfl
@[simp] theorem Dev.mapThreads_turn (d : Dev) (p : Thread → Bool) (f : Thread → Thread) : (d.mapThreads p f).turn = d.turn := rfl
@[simp] theorem Dev.mapThreads_chunks (d : Dev) (p : Thread → Bool) (f : Thread → Thread) : (d.mapThreads p f).chunks = d.chunks := rfl
@[simp] theorem Dev.mapThreads_launches (d : Dev) (p : Thread → Bool) (f : Thread → Thread) : (d.mapThreads p f).launches = d.launches := rfl
@[simp] theorem Dev.mapThreads_cores (d : Dev) (p : Thread → Bool) (f : Thread → Thread) : (d.mapThreads p f).cores = d.cores := rfl
@[simp] theorem Dev.mapThreads_ctxs (d : Dev) (p : Thread → Bool) (f : Thread → Thread) : (d.mapThreads p f).ctxs = d.ctxs := rfl
@[simp] theorem Dev.mapThreads_dies (d : Dev) (p : Thread → Bool) (f : Thread → Thread) : (d.mapThreads p f).dies = d.dies := rfl
@[simp] theorem Dev.mapThreads_mem (d : Dev) (p : Thread → Bool) (f : Thread → Thread) : (d.mapThreads p f).mem = d.mem := rfl
@[simp] theorem Dev.mapThreads_psn (d : Dev) (p : Thread → Bool) (f : Thread → Thread) : (d.mapThreads p f).psn = d.psn := rfl
@[simp] theorem Dev.mapThreads_caches (d : Dev) (p : Thread → Bool) (f : Thread → Thread) : (d.mapThreads p f).caches = d.caches := rfl
@[simp] theorem Dev.mapThreads_flips (d : Dev) (p : Thread → Bool) (f : Thread → Thread) : (d.mapThreads p f).flips = d.flips := rfl
@[simp] theorem Dev.mapThreads_lineFlips (d : Dev) (p : Thread → Bool) (f : Thread → Thread) : (d.mapThreads p f).lineFlips = d.lineFlips := rfl
@[simp] theorem Dev.mapThreads_badTags (d : Dev) (p : Thread → Bool) (f : Thread → Thread) : (d.mapThreads p f).badTags = d.badTags := rfl
@[simp] theorem Dev.mapThreads_vers (d : Dev) (p : Thread → Bool) (f : Thread → Thread) : (d.mapThreads p f).vers = d.vers := rfl
@[simp] theorem Dev.mapThreads_owners (d : Dev) (p : Thread → Bool) (f : Thread → Thread) : (d.mapThreads p f).owners = d.owners := rfl
@[simp] theorem Dev.mapThreads_partmode (d : Dev) (p : Thread → Bool) (f : Thread → Thread) : (d.mapThreads p f).partmode = d.partmode := rfl
@[simp] theorem Dev.mapThreads_drain (d : Dev) (p : Thread → Bool) (f : Thread → Thread) : (d.mapThreads p f).drain = d.drain := rfl
@[simp] theorem Dev.mapThreads_corePart (d : Dev) (p : Thread → Bool) (f : Thread → Thread) : (d.mapThreads p f).corePart = d.corePart := rfl
@[simp] theorem Dev.mapThreads_lcmap (d : Dev) (p : Thread → Bool) (f : Thread → Thread) : (d.mapThreads p f).lcmap = d.lcmap := rfl
@[simp] theorem Dev.mapThreads_fmt (d : Dev) (p : Thread → Bool) (f : Thread → Thread) : (d.mapThreads p f).fmt = d.fmt := rfl
@[simp] theorem Dev.mapThreads_scansig (d : Dev) (p : Thread → Bool) (f : Thread → Thread) : (d.mapThreads p f).scansig = d.scansig := rfl
@[simp] theorem Dev.mapThreads_phys (d : Dev) (p : Thread → Bool) (f : Thread → Thread) : (d.mapThreads p f).phys = d.phys := rfl
@[simp] theorem Dev.mapThreads_fills (d : Dev) (p : Thread → Bool) (f : Thread → Thread) : (d.mapThreads p f).fills = d.fills := rfl
@[simp] theorem Dev.mapThreads_colPhys (d : Dev) (p : Thread → Bool) (f : Thread → Thread) : (d.mapThreads p f).colPhys = d.colPhys := rfl
@[simp] theorem Dev.mapThreads_sysq (d : Dev) (p : Thread → Bool) (f : Thread → Thread) : (d.mapThreads p f).sysq = d.sysq := rfl
@[simp] theorem Dev.mapThreads_cxl (d : Dev) (p : Thread → Bool) (f : Thread → Thread) : (d.mapThreads p f).cxl = d.cxl := rfl
@[simp] theorem Dev.mapThreads_images (d : Dev) (p : Thread → Bool) (f : Thread → Thread) : (d.mapThreads p f).images = d.images := rfl
@[simp] theorem Dev.mapThreads_egress (d : Dev) (p : Thread → Bool) (f : Thread → Thread) : (d.mapThreads p f).egress = d.egress := rfl
@[simp] theorem Dev.mapThreads_outbox (d : Dev) (p : Thread → Bool) (f : Thread → Thread) : (d.mapThreads p f).outbox = d.outbox := rfl
@[simp] theorem Dev.mapThreads_stalled (d : Dev) (p : Thread → Bool) (f : Thread → Thread) : (d.mapThreads p f).stalled = d.stalled := rfl
@[simp] theorem Dev.mapThreads_agenda (d : Dev) (p : Thread → Bool) (f : Thread → Thread) : (d.mapThreads p f).agenda = d.agenda := rfl

@[simp] theorem Dev.mapThreads_threads (d : Dev) (p : Thread → Bool) (f : Thread → Thread) :
    (d.mapThreads p f).threads = d.threads.map (fun t => if p t then f t else t) := rfl

@[simp] theorem Dev.mapUids_pcyc (d : Dev) (us : List Nat) (f : Thread → Thread) : (d.mapUids us f).pcyc = d.pcyc := rfl
@[simp] theorem Dev.mapUids_ctr (d : Dev) (us : List Nat) (f : Thread → Thread) : (d.mapUids us f).ctr = d.ctr := rfl
@[simp] theorem Dev.mapUids_fresh (d : Dev) (us : List Nat) (f : Thread → Thread) : (d.mapUids us f).fresh = d.fresh := rfl
@[simp] theorem Dev.mapUids_cur (d : Dev) (us : List Nat) (f : Thread → Thread) : (d.mapUids us f).cur = d.cur := rfl
@[simp] theorem Dev.mapUids_turn (d : Dev) (us : List Nat) (f : Thread → Thread) : (d.mapUids us f).turn = d.turn := rfl
@[simp] theorem Dev.mapUids_chunks (d : Dev) (us : List Nat) (f : Thread → Thread) : (d.mapUids us f).chunks = d.chunks := rfl
@[simp] theorem Dev.mapUids_launches (d : Dev) (us : List Nat) (f : Thread → Thread) : (d.mapUids us f).launches = d.launches := rfl
@[simp] theorem Dev.mapUids_cores (d : Dev) (us : List Nat) (f : Thread → Thread) : (d.mapUids us f).cores = d.cores := rfl
@[simp] theorem Dev.mapUids_ctxs (d : Dev) (us : List Nat) (f : Thread → Thread) : (d.mapUids us f).ctxs = d.ctxs := rfl
@[simp] theorem Dev.mapUids_dies (d : Dev) (us : List Nat) (f : Thread → Thread) : (d.mapUids us f).dies = d.dies := rfl
@[simp] theorem Dev.mapUids_mem (d : Dev) (us : List Nat) (f : Thread → Thread) : (d.mapUids us f).mem = d.mem := rfl
@[simp] theorem Dev.mapUids_psn (d : Dev) (us : List Nat) (f : Thread → Thread) : (d.mapUids us f).psn = d.psn := rfl
@[simp] theorem Dev.mapUids_caches (d : Dev) (us : List Nat) (f : Thread → Thread) : (d.mapUids us f).caches = d.caches := rfl
@[simp] theorem Dev.mapUids_flips (d : Dev) (us : List Nat) (f : Thread → Thread) : (d.mapUids us f).flips = d.flips := rfl
@[simp] theorem Dev.mapUids_lineFlips (d : Dev) (us : List Nat) (f : Thread → Thread) : (d.mapUids us f).lineFlips = d.lineFlips := rfl
@[simp] theorem Dev.mapUids_badTags (d : Dev) (us : List Nat) (f : Thread → Thread) : (d.mapUids us f).badTags = d.badTags := rfl
@[simp] theorem Dev.mapUids_vers (d : Dev) (us : List Nat) (f : Thread → Thread) : (d.mapUids us f).vers = d.vers := rfl
@[simp] theorem Dev.mapUids_owners (d : Dev) (us : List Nat) (f : Thread → Thread) : (d.mapUids us f).owners = d.owners := rfl
@[simp] theorem Dev.mapUids_partmode (d : Dev) (us : List Nat) (f : Thread → Thread) : (d.mapUids us f).partmode = d.partmode := rfl
@[simp] theorem Dev.mapUids_drain (d : Dev) (us : List Nat) (f : Thread → Thread) : (d.mapUids us f).drain = d.drain := rfl
@[simp] theorem Dev.mapUids_corePart (d : Dev) (us : List Nat) (f : Thread → Thread) : (d.mapUids us f).corePart = d.corePart := rfl
@[simp] theorem Dev.mapUids_lcmap (d : Dev) (us : List Nat) (f : Thread → Thread) : (d.mapUids us f).lcmap = d.lcmap := rfl
@[simp] theorem Dev.mapUids_fmt (d : Dev) (us : List Nat) (f : Thread → Thread) : (d.mapUids us f).fmt = d.fmt := rfl
@[simp] theorem Dev.mapUids_scansig (d : Dev) (us : List Nat) (f : Thread → Thread) : (d.mapUids us f).scansig = d.scansig := rfl
@[simp] theorem Dev.mapUids_phys (d : Dev) (us : List Nat) (f : Thread → Thread) : (d.mapUids us f).phys = d.phys := rfl
@[simp] theorem Dev.mapUids_fills (d : Dev) (us : List Nat) (f : Thread → Thread) : (d.mapUids us f).fills = d.fills := rfl
@[simp] theorem Dev.mapUids_colPhys (d : Dev) (us : List Nat) (f : Thread → Thread) : (d.mapUids us f).colPhys = d.colPhys := rfl
@[simp] theorem Dev.mapUids_sysq (d : Dev) (us : List Nat) (f : Thread → Thread) : (d.mapUids us f).sysq = d.sysq := rfl
@[simp] theorem Dev.mapUids_cxl (d : Dev) (us : List Nat) (f : Thread → Thread) : (d.mapUids us f).cxl = d.cxl := rfl
@[simp] theorem Dev.mapUids_images (d : Dev) (us : List Nat) (f : Thread → Thread) : (d.mapUids us f).images = d.images := rfl
@[simp] theorem Dev.mapUids_egress (d : Dev) (us : List Nat) (f : Thread → Thread) : (d.mapUids us f).egress = d.egress := rfl
@[simp] theorem Dev.mapUids_outbox (d : Dev) (us : List Nat) (f : Thread → Thread) : (d.mapUids us f).outbox = d.outbox := rfl
@[simp] theorem Dev.mapUids_stalled (d : Dev) (us : List Nat) (f : Thread → Thread) : (d.mapUids us f).stalled = d.stalled := rfl
@[simp] theorem Dev.mapUids_agenda (d : Dev) (us : List Nat) (f : Thread → Thread) : (d.mapUids us f).agenda = d.agenda := rfl

@[simp] theorem Dev.mapUids_threads (d : Dev) (us : List Nat) (f : Thread → Thread) :
    (d.mapUids us f).threads = d.threads.map (fun t => if us.contains t.uid then f t else t) := rfl

@[simp] theorem Dev.mapThread_pcyc (d : Dev) (u : Nat) (f : Thread → Thread) : (d.mapThread u f).pcyc = d.pcyc := rfl
@[simp] theorem Dev.mapThread_ctr (d : Dev) (u : Nat) (f : Thread → Thread) : (d.mapThread u f).ctr = d.ctr := rfl
@[simp] theorem Dev.mapThread_fresh (d : Dev) (u : Nat) (f : Thread → Thread) : (d.mapThread u f).fresh = d.fresh := rfl
@[simp] theorem Dev.mapThread_cur (d : Dev) (u : Nat) (f : Thread → Thread) : (d.mapThread u f).cur = d.cur := rfl
@[simp] theorem Dev.mapThread_turn (d : Dev) (u : Nat) (f : Thread → Thread) : (d.mapThread u f).turn = d.turn := rfl
@[simp] theorem Dev.mapThread_chunks (d : Dev) (u : Nat) (f : Thread → Thread) : (d.mapThread u f).chunks = d.chunks := rfl
@[simp] theorem Dev.mapThread_launches (d : Dev) (u : Nat) (f : Thread → Thread) : (d.mapThread u f).launches = d.launches := rfl
@[simp] theorem Dev.mapThread_cores (d : Dev) (u : Nat) (f : Thread → Thread) : (d.mapThread u f).cores = d.cores := rfl
@[simp] theorem Dev.mapThread_ctxs (d : Dev) (u : Nat) (f : Thread → Thread) : (d.mapThread u f).ctxs = d.ctxs := rfl
@[simp] theorem Dev.mapThread_dies (d : Dev) (u : Nat) (f : Thread → Thread) : (d.mapThread u f).dies = d.dies := rfl
@[simp] theorem Dev.mapThread_mem (d : Dev) (u : Nat) (f : Thread → Thread) : (d.mapThread u f).mem = d.mem := rfl
@[simp] theorem Dev.mapThread_psn (d : Dev) (u : Nat) (f : Thread → Thread) : (d.mapThread u f).psn = d.psn := rfl
@[simp] theorem Dev.mapThread_caches (d : Dev) (u : Nat) (f : Thread → Thread) : (d.mapThread u f).caches = d.caches := rfl
@[simp] theorem Dev.mapThread_flips (d : Dev) (u : Nat) (f : Thread → Thread) : (d.mapThread u f).flips = d.flips := rfl
@[simp] theorem Dev.mapThread_lineFlips (d : Dev) (u : Nat) (f : Thread → Thread) : (d.mapThread u f).lineFlips = d.lineFlips := rfl
@[simp] theorem Dev.mapThread_badTags (d : Dev) (u : Nat) (f : Thread → Thread) : (d.mapThread u f).badTags = d.badTags := rfl
@[simp] theorem Dev.mapThread_vers (d : Dev) (u : Nat) (f : Thread → Thread) : (d.mapThread u f).vers = d.vers := rfl
@[simp] theorem Dev.mapThread_owners (d : Dev) (u : Nat) (f : Thread → Thread) : (d.mapThread u f).owners = d.owners := rfl
@[simp] theorem Dev.mapThread_partmode (d : Dev) (u : Nat) (f : Thread → Thread) : (d.mapThread u f).partmode = d.partmode := rfl
@[simp] theorem Dev.mapThread_drain (d : Dev) (u : Nat) (f : Thread → Thread) : (d.mapThread u f).drain = d.drain := rfl
@[simp] theorem Dev.mapThread_corePart (d : Dev) (u : Nat) (f : Thread → Thread) : (d.mapThread u f).corePart = d.corePart := rfl
@[simp] theorem Dev.mapThread_lcmap (d : Dev) (u : Nat) (f : Thread → Thread) : (d.mapThread u f).lcmap = d.lcmap := rfl
@[simp] theorem Dev.mapThread_fmt (d : Dev) (u : Nat) (f : Thread → Thread) : (d.mapThread u f).fmt = d.fmt := rfl
@[simp] theorem Dev.mapThread_scansig (d : Dev) (u : Nat) (f : Thread → Thread) : (d.mapThread u f).scansig = d.scansig := rfl
@[simp] theorem Dev.mapThread_phys (d : Dev) (u : Nat) (f : Thread → Thread) : (d.mapThread u f).phys = d.phys := rfl
@[simp] theorem Dev.mapThread_fills (d : Dev) (u : Nat) (f : Thread → Thread) : (d.mapThread u f).fills = d.fills := rfl
@[simp] theorem Dev.mapThread_colPhys (d : Dev) (u : Nat) (f : Thread → Thread) : (d.mapThread u f).colPhys = d.colPhys := rfl
@[simp] theorem Dev.mapThread_sysq (d : Dev) (u : Nat) (f : Thread → Thread) : (d.mapThread u f).sysq = d.sysq := rfl
@[simp] theorem Dev.mapThread_cxl (d : Dev) (u : Nat) (f : Thread → Thread) : (d.mapThread u f).cxl = d.cxl := rfl
@[simp] theorem Dev.mapThread_images (d : Dev) (u : Nat) (f : Thread → Thread) : (d.mapThread u f).images = d.images := rfl
@[simp] theorem Dev.mapThread_egress (d : Dev) (u : Nat) (f : Thread → Thread) : (d.mapThread u f).egress = d.egress := rfl
@[simp] theorem Dev.mapThread_outbox (d : Dev) (u : Nat) (f : Thread → Thread) : (d.mapThread u f).outbox = d.outbox := rfl
@[simp] theorem Dev.mapThread_stalled (d : Dev) (u : Nat) (f : Thread → Thread) : (d.mapThread u f).stalled = d.stalled := rfl
@[simp] theorem Dev.mapThread_agenda (d : Dev) (u : Nat) (f : Thread → Thread) : (d.mapThread u f).agenda = d.agenda := rfl

@[simp] theorem Dev.mapCore_pcyc (d : Dev) (n : Nat) (f : Core → Core) : (d.mapCore n f).pcyc = d.pcyc := rfl
@[simp] theorem Dev.mapCore_ctr (d : Dev) (n : Nat) (f : Core → Core) : (d.mapCore n f).ctr = d.ctr := rfl
@[simp] theorem Dev.mapCore_fresh (d : Dev) (n : Nat) (f : Core → Core) : (d.mapCore n f).fresh = d.fresh := rfl
@[simp] theorem Dev.mapCore_cur (d : Dev) (n : Nat) (f : Core → Core) : (d.mapCore n f).cur = d.cur := rfl
@[simp] theorem Dev.mapCore_turn (d : Dev) (n : Nat) (f : Core → Core) : (d.mapCore n f).turn = d.turn := rfl
@[simp] theorem Dev.mapCore_threads (d : Dev) (n : Nat) (f : Core → Core) : (d.mapCore n f).threads = d.threads := rfl
@[simp] theorem Dev.mapCore_chunks (d : Dev) (n : Nat) (f : Core → Core) : (d.mapCore n f).chunks = d.chunks := rfl
@[simp] theorem Dev.mapCore_launches (d : Dev) (n : Nat) (f : Core → Core) : (d.mapCore n f).launches = d.launches := rfl
@[simp] theorem Dev.mapCore_ctxs (d : Dev) (n : Nat) (f : Core → Core) : (d.mapCore n f).ctxs = d.ctxs := rfl
@[simp] theorem Dev.mapCore_dies (d : Dev) (n : Nat) (f : Core → Core) : (d.mapCore n f).dies = d.dies := rfl
@[simp] theorem Dev.mapCore_mem (d : Dev) (n : Nat) (f : Core → Core) : (d.mapCore n f).mem = d.mem := rfl
@[simp] theorem Dev.mapCore_psn (d : Dev) (n : Nat) (f : Core → Core) : (d.mapCore n f).psn = d.psn := rfl
@[simp] theorem Dev.mapCore_caches (d : Dev) (n : Nat) (f : Core → Core) : (d.mapCore n f).caches = d.caches := rfl
@[simp] theorem Dev.mapCore_flips (d : Dev) (n : Nat) (f : Core → Core) : (d.mapCore n f).flips = d.flips := rfl
@[simp] theorem Dev.mapCore_lineFlips (d : Dev) (n : Nat) (f : Core → Core) : (d.mapCore n f).lineFlips = d.lineFlips := rfl
@[simp] theorem Dev.mapCore_badTags (d : Dev) (n : Nat) (f : Core → Core) : (d.mapCore n f).badTags = d.badTags := rfl
@[simp] theorem Dev.mapCore_vers (d : Dev) (n : Nat) (f : Core → Core) : (d.mapCore n f).vers = d.vers := rfl
@[simp] theorem Dev.mapCore_owners (d : Dev) (n : Nat) (f : Core → Core) : (d.mapCore n f).owners = d.owners := rfl
@[simp] theorem Dev.mapCore_partmode (d : Dev) (n : Nat) (f : Core → Core) : (d.mapCore n f).partmode = d.partmode := rfl
@[simp] theorem Dev.mapCore_drain (d : Dev) (n : Nat) (f : Core → Core) : (d.mapCore n f).drain = d.drain := rfl
@[simp] theorem Dev.mapCore_corePart (d : Dev) (n : Nat) (f : Core → Core) : (d.mapCore n f).corePart = d.corePart := rfl
@[simp] theorem Dev.mapCore_lcmap (d : Dev) (n : Nat) (f : Core → Core) : (d.mapCore n f).lcmap = d.lcmap := rfl
@[simp] theorem Dev.mapCore_fmt (d : Dev) (n : Nat) (f : Core → Core) : (d.mapCore n f).fmt = d.fmt := rfl
@[simp] theorem Dev.mapCore_scansig (d : Dev) (n : Nat) (f : Core → Core) : (d.mapCore n f).scansig = d.scansig := rfl
@[simp] theorem Dev.mapCore_phys (d : Dev) (n : Nat) (f : Core → Core) : (d.mapCore n f).phys = d.phys := rfl
@[simp] theorem Dev.mapCore_fills (d : Dev) (n : Nat) (f : Core → Core) : (d.mapCore n f).fills = d.fills := rfl
@[simp] theorem Dev.mapCore_colPhys (d : Dev) (n : Nat) (f : Core → Core) : (d.mapCore n f).colPhys = d.colPhys := rfl
@[simp] theorem Dev.mapCore_sysq (d : Dev) (n : Nat) (f : Core → Core) : (d.mapCore n f).sysq = d.sysq := rfl
@[simp] theorem Dev.mapCore_cxl (d : Dev) (n : Nat) (f : Core → Core) : (d.mapCore n f).cxl = d.cxl := rfl
@[simp] theorem Dev.mapCore_images (d : Dev) (n : Nat) (f : Core → Core) : (d.mapCore n f).images = d.images := rfl
@[simp] theorem Dev.mapCore_egress (d : Dev) (n : Nat) (f : Core → Core) : (d.mapCore n f).egress = d.egress := rfl
@[simp] theorem Dev.mapCore_outbox (d : Dev) (n : Nat) (f : Core → Core) : (d.mapCore n f).outbox = d.outbox := rfl
@[simp] theorem Dev.mapCore_stalled (d : Dev) (n : Nat) (f : Core → Core) : (d.mapCore n f).stalled = d.stalled := rfl
@[simp] theorem Dev.mapCore_agenda (d : Dev) (n : Nat) (f : Core → Core) : (d.mapCore n f).agenda = d.agenda := rfl

@[simp] theorem Dev.mapPhys_pcyc (d : Dev) (n : Nat) (f : Phys → Phys) : (d.mapPhys n f).pcyc = d.pcyc := rfl
@[simp] theorem Dev.mapPhys_ctr (d : Dev) (n : Nat) (f : Phys → Phys) : (d.mapPhys n f).ctr = d.ctr := rfl
@[simp] theorem Dev.mapPhys_fresh (d : Dev) (n : Nat) (f : Phys → Phys) : (d.mapPhys n f).fresh = d.fresh := rfl
@[simp] theorem Dev.mapPhys_cur (d : Dev) (n : Nat) (f : Phys → Phys) : (d.mapPhys n f).cur = d.cur := rfl
@[simp] theorem Dev.mapPhys_turn (d : Dev) (n : Nat) (f : Phys → Phys) : (d.mapPhys n f).turn = d.turn := rfl
@[simp] theorem Dev.mapPhys_threads (d : Dev) (n : Nat) (f : Phys → Phys) : (d.mapPhys n f).threads = d.threads := rfl
@[simp] theorem Dev.mapPhys_chunks (d : Dev) (n : Nat) (f : Phys → Phys) : (d.mapPhys n f).chunks = d.chunks := rfl
@[simp] theorem Dev.mapPhys_launches (d : Dev) (n : Nat) (f : Phys → Phys) : (d.mapPhys n f).launches = d.launches := rfl
@[simp] theorem Dev.mapPhys_cores (d : Dev) (n : Nat) (f : Phys → Phys) : (d.mapPhys n f).cores = d.cores := rfl
@[simp] theorem Dev.mapPhys_ctxs (d : Dev) (n : Nat) (f : Phys → Phys) : (d.mapPhys n f).ctxs = d.ctxs := rfl
@[simp] theorem Dev.mapPhys_dies (d : Dev) (n : Nat) (f : Phys → Phys) : (d.mapPhys n f).dies = d.dies := rfl
@[simp] theorem Dev.mapPhys_mem (d : Dev) (n : Nat) (f : Phys → Phys) : (d.mapPhys n f).mem = d.mem := rfl
@[simp] theorem Dev.mapPhys_psn (d : Dev) (n : Nat) (f : Phys → Phys) : (d.mapPhys n f).psn = d.psn := rfl
@[simp] theorem Dev.mapPhys_caches (d : Dev) (n : Nat) (f : Phys → Phys) : (d.mapPhys n f).caches = d.caches := rfl
@[simp] theorem Dev.mapPhys_flips (d : Dev) (n : Nat) (f : Phys → Phys) : (d.mapPhys n f).flips = d.flips := rfl
@[simp] theorem Dev.mapPhys_lineFlips (d : Dev) (n : Nat) (f : Phys → Phys) : (d.mapPhys n f).lineFlips = d.lineFlips := rfl
@[simp] theorem Dev.mapPhys_badTags (d : Dev) (n : Nat) (f : Phys → Phys) : (d.mapPhys n f).badTags = d.badTags := rfl
@[simp] theorem Dev.mapPhys_vers (d : Dev) (n : Nat) (f : Phys → Phys) : (d.mapPhys n f).vers = d.vers := rfl
@[simp] theorem Dev.mapPhys_owners (d : Dev) (n : Nat) (f : Phys → Phys) : (d.mapPhys n f).owners = d.owners := rfl
@[simp] theorem Dev.mapPhys_partmode (d : Dev) (n : Nat) (f : Phys → Phys) : (d.mapPhys n f).partmode = d.partmode := rfl
@[simp] theorem Dev.mapPhys_drain (d : Dev) (n : Nat) (f : Phys → Phys) : (d.mapPhys n f).drain = d.drain := rfl
@[simp] theorem Dev.mapPhys_corePart (d : Dev) (n : Nat) (f : Phys → Phys) : (d.mapPhys n f).corePart = d.corePart := rfl
@[simp] theorem Dev.mapPhys_lcmap (d : Dev) (n : Nat) (f : Phys → Phys) : (d.mapPhys n f).lcmap = d.lcmap := rfl
@[simp] theorem Dev.mapPhys_fmt (d : Dev) (n : Nat) (f : Phys → Phys) : (d.mapPhys n f).fmt = d.fmt := rfl
@[simp] theorem Dev.mapPhys_scansig (d : Dev) (n : Nat) (f : Phys → Phys) : (d.mapPhys n f).scansig = d.scansig := rfl
@[simp] theorem Dev.mapPhys_fills (d : Dev) (n : Nat) (f : Phys → Phys) : (d.mapPhys n f).fills = d.fills := rfl
@[simp] theorem Dev.mapPhys_colPhys (d : Dev) (n : Nat) (f : Phys → Phys) : (d.mapPhys n f).colPhys = d.colPhys := rfl
@[simp] theorem Dev.mapPhys_sysq (d : Dev) (n : Nat) (f : Phys → Phys) : (d.mapPhys n f).sysq = d.sysq := rfl
@[simp] theorem Dev.mapPhys_cxl (d : Dev) (n : Nat) (f : Phys → Phys) : (d.mapPhys n f).cxl = d.cxl := rfl
@[simp] theorem Dev.mapPhys_images (d : Dev) (n : Nat) (f : Phys → Phys) : (d.mapPhys n f).images = d.images := rfl
@[simp] theorem Dev.mapPhys_egress (d : Dev) (n : Nat) (f : Phys → Phys) : (d.mapPhys n f).egress = d.egress := rfl
@[simp] theorem Dev.mapPhys_outbox (d : Dev) (n : Nat) (f : Phys → Phys) : (d.mapPhys n f).outbox = d.outbox := rfl
@[simp] theorem Dev.mapPhys_stalled (d : Dev) (n : Nat) (f : Phys → Phys) : (d.mapPhys n f).stalled = d.stalled := rfl
@[simp] theorem Dev.mapPhys_agenda (d : Dev) (n : Nat) (f : Phys → Phys) : (d.mapPhys n f).agenda = d.agenda := rfl

@[simp] theorem Dev.mapDie_pcyc (d : Dev) (k : Nat) (f : Die → Die) : (d.mapDie k f).pcyc = d.pcyc := rfl
@[simp] theorem Dev.mapDie_ctr (d : Dev) (k : Nat) (f : Die → Die) : (d.mapDie k f).ctr = d.ctr := rfl
@[simp] theorem Dev.mapDie_fresh (d : Dev) (k : Nat) (f : Die → Die) : (d.mapDie k f).fresh = d.fresh := rfl
@[simp] theorem Dev.mapDie_cur (d : Dev) (k : Nat) (f : Die → Die) : (d.mapDie k f).cur = d.cur := rfl
@[simp] theorem Dev.mapDie_turn (d : Dev) (k : Nat) (f : Die → Die) : (d.mapDie k f).turn = d.turn := rfl
@[simp] theorem Dev.mapDie_threads (d : Dev) (k : Nat) (f : Die → Die) : (d.mapDie k f).threads = d.threads := rfl
@[simp] theorem Dev.mapDie_chunks (d : Dev) (k : Nat) (f : Die → Die) : (d.mapDie k f).chunks = d.chunks := rfl
@[simp] theorem Dev.mapDie_launches (d : Dev) (k : Nat) (f : Die → Die) : (d.mapDie k f).launches = d.launches := rfl
@[simp] theorem Dev.mapDie_cores (d : Dev) (k : Nat) (f : Die → Die) : (d.mapDie k f).cores = d.cores := rfl
@[simp] theorem Dev.mapDie_ctxs (d : Dev) (k : Nat) (f : Die → Die) : (d.mapDie k f).ctxs = d.ctxs := rfl
@[simp] theorem Dev.mapDie_mem (d : Dev) (k : Nat) (f : Die → Die) : (d.mapDie k f).mem = d.mem := rfl
@[simp] theorem Dev.mapDie_psn (d : Dev) (k : Nat) (f : Die → Die) : (d.mapDie k f).psn = d.psn := rfl
@[simp] theorem Dev.mapDie_caches (d : Dev) (k : Nat) (f : Die → Die) : (d.mapDie k f).caches = d.caches := rfl
@[simp] theorem Dev.mapDie_flips (d : Dev) (k : Nat) (f : Die → Die) : (d.mapDie k f).flips = d.flips := rfl
@[simp] theorem Dev.mapDie_lineFlips (d : Dev) (k : Nat) (f : Die → Die) : (d.mapDie k f).lineFlips = d.lineFlips := rfl
@[simp] theorem Dev.mapDie_badTags (d : Dev) (k : Nat) (f : Die → Die) : (d.mapDie k f).badTags = d.badTags := rfl
@[simp] theorem Dev.mapDie_vers (d : Dev) (k : Nat) (f : Die → Die) : (d.mapDie k f).vers = d.vers := rfl
@[simp] theorem Dev.mapDie_owners (d : Dev) (k : Nat) (f : Die → Die) : (d.mapDie k f).owners = d.owners := rfl
@[simp] theorem Dev.mapDie_partmode (d : Dev) (k : Nat) (f : Die → Die) : (d.mapDie k f).partmode = d.partmode := rfl
@[simp] theorem Dev.mapDie_drain (d : Dev) (k : Nat) (f : Die → Die) : (d.mapDie k f).drain = d.drain := rfl
@[simp] theorem Dev.mapDie_corePart (d : Dev) (k : Nat) (f : Die → Die) : (d.mapDie k f).corePart = d.corePart := rfl
@[simp] theorem Dev.mapDie_lcmap (d : Dev) (k : Nat) (f : Die → Die) : (d.mapDie k f).lcmap = d.lcmap := rfl
@[simp] theorem Dev.mapDie_fmt (d : Dev) (k : Nat) (f : Die → Die) : (d.mapDie k f).fmt = d.fmt := rfl
@[simp] theorem Dev.mapDie_scansig (d : Dev) (k : Nat) (f : Die → Die) : (d.mapDie k f).scansig = d.scansig := rfl
@[simp] theorem Dev.mapDie_phys (d : Dev) (k : Nat) (f : Die → Die) : (d.mapDie k f).phys = d.phys := rfl
@[simp] theorem Dev.mapDie_fills (d : Dev) (k : Nat) (f : Die → Die) : (d.mapDie k f).fills = d.fills := rfl
@[simp] theorem Dev.mapDie_colPhys (d : Dev) (k : Nat) (f : Die → Die) : (d.mapDie k f).colPhys = d.colPhys := rfl
@[simp] theorem Dev.mapDie_sysq (d : Dev) (k : Nat) (f : Die → Die) : (d.mapDie k f).sysq = d.sysq := rfl
@[simp] theorem Dev.mapDie_cxl (d : Dev) (k : Nat) (f : Die → Die) : (d.mapDie k f).cxl = d.cxl := rfl
@[simp] theorem Dev.mapDie_images (d : Dev) (k : Nat) (f : Die → Die) : (d.mapDie k f).images = d.images := rfl
@[simp] theorem Dev.mapDie_egress (d : Dev) (k : Nat) (f : Die → Die) : (d.mapDie k f).egress = d.egress := rfl
@[simp] theorem Dev.mapDie_outbox (d : Dev) (k : Nat) (f : Die → Die) : (d.mapDie k f).outbox = d.outbox := rfl
@[simp] theorem Dev.mapDie_stalled (d : Dev) (k : Nat) (f : Die → Die) : (d.mapDie k f).stalled = d.stalled := rfl
@[simp] theorem Dev.mapDie_agenda (d : Dev) (k : Nat) (f : Die → Die) : (d.mapDie k f).agenda = d.agenda := rfl

@[simp] theorem Dev.mapLaunch_pcyc (d : Dev) (c l : Nat) (f : Launch → Launch) : (d.mapLaunch c l f).pcyc = d.pcyc := rfl
@[simp] theorem Dev.mapLaunch_ctr (d : Dev) (c l : Nat) (f : Launch → Launch) : (d.mapLaunch c l f).ctr = d.ctr := rfl
@[simp] theorem Dev.mapLaunch_fresh (d : Dev) (c l : Nat) (f : Launch → Launch) : (d.mapLaunch c l f).fresh = d.fresh := rfl
@[simp] theorem Dev.mapLaunch_cur (d : Dev) (c l : Nat) (f : Launch → Launch) : (d.mapLaunch c l f).cur = d.cur := rfl
@[simp] theorem Dev.mapLaunch_turn (d : Dev) (c l : Nat) (f : Launch → Launch) : (d.mapLaunch c l f).turn = d.turn := rfl
@[simp] theorem Dev.mapLaunch_threads (d : Dev) (c l : Nat) (f : Launch → Launch) : (d.mapLaunch c l f).threads = d.threads := rfl
@[simp] theorem Dev.mapLaunch_chunks (d : Dev) (c l : Nat) (f : Launch → Launch) : (d.mapLaunch c l f).chunks = d.chunks := rfl
@[simp] theorem Dev.mapLaunch_cores (d : Dev) (c l : Nat) (f : Launch → Launch) : (d.mapLaunch c l f).cores = d.cores := rfl
@[simp] theorem Dev.mapLaunch_ctxs (d : Dev) (c l : Nat) (f : Launch → Launch) : (d.mapLaunch c l f).ctxs = d.ctxs := rfl
@[simp] theorem Dev.mapLaunch_dies (d : Dev) (c l : Nat) (f : Launch → Launch) : (d.mapLaunch c l f).dies = d.dies := rfl
@[simp] theorem Dev.mapLaunch_mem (d : Dev) (c l : Nat) (f : Launch → Launch) : (d.mapLaunch c l f).mem = d.mem := rfl
@[simp] theorem Dev.mapLaunch_psn (d : Dev) (c l : Nat) (f : Launch → Launch) : (d.mapLaunch c l f).psn = d.psn := rfl
@[simp] theorem Dev.mapLaunch_caches (d : Dev) (c l : Nat) (f : Launch → Launch) : (d.mapLaunch c l f).caches = d.caches := rfl
@[simp] theorem Dev.mapLaunch_flips (d : Dev) (c l : Nat) (f : Launch → Launch) : (d.mapLaunch c l f).flips = d.flips := rfl
@[simp] theorem Dev.mapLaunch_lineFlips (d : Dev) (c l : Nat) (f : Launch → Launch) : (d.mapLaunch c l f).lineFlips = d.lineFlips := rfl
@[simp] theorem Dev.mapLaunch_badTags (d : Dev) (c l : Nat) (f : Launch → Launch) : (d.mapLaunch c l f).badTags = d.badTags := rfl
@[simp] theorem Dev.mapLaunch_vers (d : Dev) (c l : Nat) (f : Launch → Launch) : (d.mapLaunch c l f).vers = d.vers := rfl
@[simp] theorem Dev.mapLaunch_owners (d : Dev) (c l : Nat) (f : Launch → Launch) : (d.mapLaunch c l f).owners = d.owners := rfl
@[simp] theorem Dev.mapLaunch_partmode (d : Dev) (c l : Nat) (f : Launch → Launch) : (d.mapLaunch c l f).partmode = d.partmode := rfl
@[simp] theorem Dev.mapLaunch_drain (d : Dev) (c l : Nat) (f : Launch → Launch) : (d.mapLaunch c l f).drain = d.drain := rfl
@[simp] theorem Dev.mapLaunch_corePart (d : Dev) (c l : Nat) (f : Launch → Launch) : (d.mapLaunch c l f).corePart = d.corePart := rfl
@[simp] theorem Dev.mapLaunch_lcmap (d : Dev) (c l : Nat) (f : Launch → Launch) : (d.mapLaunch c l f).lcmap = d.lcmap := rfl
@[simp] theorem Dev.mapLaunch_fmt (d : Dev) (c l : Nat) (f : Launch → Launch) : (d.mapLaunch c l f).fmt = d.fmt := rfl
@[simp] theorem Dev.mapLaunch_scansig (d : Dev) (c l : Nat) (f : Launch → Launch) : (d.mapLaunch c l f).scansig = d.scansig := rfl
@[simp] theorem Dev.mapLaunch_phys (d : Dev) (c l : Nat) (f : Launch → Launch) : (d.mapLaunch c l f).phys = d.phys := rfl
@[simp] theorem Dev.mapLaunch_fills (d : Dev) (c l : Nat) (f : Launch → Launch) : (d.mapLaunch c l f).fills = d.fills := rfl
@[simp] theorem Dev.mapLaunch_colPhys (d : Dev) (c l : Nat) (f : Launch → Launch) : (d.mapLaunch c l f).colPhys = d.colPhys := rfl
@[simp] theorem Dev.mapLaunch_sysq (d : Dev) (c l : Nat) (f : Launch → Launch) : (d.mapLaunch c l f).sysq = d.sysq := rfl
@[simp] theorem Dev.mapLaunch_cxl (d : Dev) (c l : Nat) (f : Launch → Launch) : (d.mapLaunch c l f).cxl = d.cxl := rfl
@[simp] theorem Dev.mapLaunch_images (d : Dev) (c l : Nat) (f : Launch → Launch) : (d.mapLaunch c l f).images = d.images := rfl
@[simp] theorem Dev.mapLaunch_egress (d : Dev) (c l : Nat) (f : Launch → Launch) : (d.mapLaunch c l f).egress = d.egress := rfl
@[simp] theorem Dev.mapLaunch_outbox (d : Dev) (c l : Nat) (f : Launch → Launch) : (d.mapLaunch c l f).outbox = d.outbox := rfl
@[simp] theorem Dev.mapLaunch_stalled (d : Dev) (c l : Nat) (f : Launch → Launch) : (d.mapLaunch c l f).stalled = d.stalled := rfl
@[simp] theorem Dev.mapLaunch_agenda (d : Dev) (c l : Nat) (f : Launch → Launch) : (d.mapLaunch c l f).agenda = d.agenda := rfl

@[simp] theorem Dev.mapChunk_pcyc (d : Dev) (c l k : Nat) (f : Chunk → Chunk) : (d.mapChunk c l k f).pcyc = d.pcyc := rfl
@[simp] theorem Dev.mapChunk_ctr (d : Dev) (c l k : Nat) (f : Chunk → Chunk) : (d.mapChunk c l k f).ctr = d.ctr := rfl
@[simp] theorem Dev.mapChunk_fresh (d : Dev) (c l k : Nat) (f : Chunk → Chunk) : (d.mapChunk c l k f).fresh = d.fresh := rfl
@[simp] theorem Dev.mapChunk_cur (d : Dev) (c l k : Nat) (f : Chunk → Chunk) : (d.mapChunk c l k f).cur = d.cur := rfl
@[simp] theorem Dev.mapChunk_turn (d : Dev) (c l k : Nat) (f : Chunk → Chunk) : (d.mapChunk c l k f).turn = d.turn := rfl
@[simp] theorem Dev.mapChunk_threads (d : Dev) (c l k : Nat) (f : Chunk → Chunk) : (d.mapChunk c l k f).threads = d.threads := rfl
@[simp] theorem Dev.mapChunk_launches (d : Dev) (c l k : Nat) (f : Chunk → Chunk) : (d.mapChunk c l k f).launches = d.launches := rfl
@[simp] theorem Dev.mapChunk_cores (d : Dev) (c l k : Nat) (f : Chunk → Chunk) : (d.mapChunk c l k f).cores = d.cores := rfl
@[simp] theorem Dev.mapChunk_ctxs (d : Dev) (c l k : Nat) (f : Chunk → Chunk) : (d.mapChunk c l k f).ctxs = d.ctxs := rfl
@[simp] theorem Dev.mapChunk_dies (d : Dev) (c l k : Nat) (f : Chunk → Chunk) : (d.mapChunk c l k f).dies = d.dies := rfl
@[simp] theorem Dev.mapChunk_mem (d : Dev) (c l k : Nat) (f : Chunk → Chunk) : (d.mapChunk c l k f).mem = d.mem := rfl
@[simp] theorem Dev.mapChunk_psn (d : Dev) (c l k : Nat) (f : Chunk → Chunk) : (d.mapChunk c l k f).psn = d.psn := rfl
@[simp] theorem Dev.mapChunk_caches (d : Dev) (c l k : Nat) (f : Chunk → Chunk) : (d.mapChunk c l k f).caches = d.caches := rfl
@[simp] theorem Dev.mapChunk_flips (d : Dev) (c l k : Nat) (f : Chunk → Chunk) : (d.mapChunk c l k f).flips = d.flips := rfl
@[simp] theorem Dev.mapChunk_lineFlips (d : Dev) (c l k : Nat) (f : Chunk → Chunk) : (d.mapChunk c l k f).lineFlips = d.lineFlips := rfl
@[simp] theorem Dev.mapChunk_badTags (d : Dev) (c l k : Nat) (f : Chunk → Chunk) : (d.mapChunk c l k f).badTags = d.badTags := rfl
@[simp] theorem Dev.mapChunk_vers (d : Dev) (c l k : Nat) (f : Chunk → Chunk) : (d.mapChunk c l k f).vers = d.vers := rfl
@[simp] theorem Dev.mapChunk_owners (d : Dev) (c l k : Nat) (f : Chunk → Chunk) : (d.mapChunk c l k f).owners = d.owners := rfl
@[simp] theorem Dev.mapChunk_partmode (d : Dev) (c l k : Nat) (f : Chunk → Chunk) : (d.mapChunk c l k f).partmode = d.partmode := rfl
@[simp] theorem Dev.mapChunk_drain (d : Dev) (c l k : Nat) (f : Chunk → Chunk) : (d.mapChunk c l k f).drain = d.drain := rfl
@[simp] theorem Dev.mapChunk_corePart (d : Dev) (c l k : Nat) (f : Chunk → Chunk) : (d.mapChunk c l k f).corePart = d.corePart := rfl
@[simp] theorem Dev.mapChunk_lcmap (d : Dev) (c l k : Nat) (f : Chunk → Chunk) : (d.mapChunk c l k f).lcmap = d.lcmap := rfl
@[simp] theorem Dev.mapChunk_fmt (d : Dev) (c l k : Nat) (f : Chunk → Chunk) : (d.mapChunk c l k f).fmt = d.fmt := rfl
@[simp] theorem Dev.mapChunk_scansig (d : Dev) (c l k : Nat) (f : Chunk → Chunk) : (d.mapChunk c l k f).scansig = d.scansig := rfl
@[simp] theorem Dev.mapChunk_phys (d : Dev) (c l k : Nat) (f : Chunk → Chunk) : (d.mapChunk c l k f).phys = d.phys := rfl
@[simp] theorem Dev.mapChunk_fills (d : Dev) (c l k : Nat) (f : Chunk → Chunk) : (d.mapChunk c l k f).fills = d.fills := rfl
@[simp] theorem Dev.mapChunk_colPhys (d : Dev) (c l k : Nat) (f : Chunk → Chunk) : (d.mapChunk c l k f).colPhys = d.colPhys := rfl
@[simp] theorem Dev.mapChunk_sysq (d : Dev) (c l k : Nat) (f : Chunk → Chunk) : (d.mapChunk c l k f).sysq = d.sysq := rfl
@[simp] theorem Dev.mapChunk_cxl (d : Dev) (c l k : Nat) (f : Chunk → Chunk) : (d.mapChunk c l k f).cxl = d.cxl := rfl
@[simp] theorem Dev.mapChunk_images (d : Dev) (c l k : Nat) (f : Chunk → Chunk) : (d.mapChunk c l k f).images = d.images := rfl
@[simp] theorem Dev.mapChunk_egress (d : Dev) (c l k : Nat) (f : Chunk → Chunk) : (d.mapChunk c l k f).egress = d.egress := rfl
@[simp] theorem Dev.mapChunk_outbox (d : Dev) (c l k : Nat) (f : Chunk → Chunk) : (d.mapChunk c l k f).outbox = d.outbox := rfl
@[simp] theorem Dev.mapChunk_stalled (d : Dev) (c l k : Nat) (f : Chunk → Chunk) : (d.mapChunk c l k f).stalled = d.stalled := rfl
@[simp] theorem Dev.mapChunk_agenda (d : Dev) (c l k : Nat) (f : Chunk → Chunk) : (d.mapChunk c l k f).agenda = d.agenda := rfl

@[simp] theorem Dev.mapCtx_pcyc (d : Dev) (k : Nat) (f : Ctx → Ctx) : (d.mapCtx k f).pcyc = d.pcyc := by unfold Dev.mapCtx; split <;> rfl
@[simp] theorem Dev.mapCtx_ctr (d : Dev) (k : Nat) (f : Ctx → Ctx) : (d.mapCtx k f).ctr = d.ctr := by unfold Dev.mapCtx; split <;> rfl
@[simp] theorem Dev.mapCtx_fresh (d : Dev) (k : Nat) (f : Ctx → Ctx) : (d.mapCtx k f).fresh = d.fresh := by unfold Dev.mapCtx; split <;> rfl
@[simp] theorem Dev.mapCtx_cur (d : Dev) (k : Nat) (f : Ctx → Ctx) : (d.mapCtx k f).cur = d.cur := by unfold Dev.mapCtx; split <;> rfl
@[simp] theorem Dev.mapCtx_turn (d : Dev) (k : Nat) (f : Ctx → Ctx) : (d.mapCtx k f).turn = d.turn := by unfold Dev.mapCtx; split <;> rfl
@[simp] theorem Dev.mapCtx_threads (d : Dev) (k : Nat) (f : Ctx → Ctx) : (d.mapCtx k f).threads = d.threads := by unfold Dev.mapCtx; split <;> rfl
@[simp] theorem Dev.mapCtx_chunks (d : Dev) (k : Nat) (f : Ctx → Ctx) : (d.mapCtx k f).chunks = d.chunks := by unfold Dev.mapCtx; split <;> rfl
@[simp] theorem Dev.mapCtx_launches (d : Dev) (k : Nat) (f : Ctx → Ctx) : (d.mapCtx k f).launches = d.launches := by unfold Dev.mapCtx; split <;> rfl
@[simp] theorem Dev.mapCtx_cores (d : Dev) (k : Nat) (f : Ctx → Ctx) : (d.mapCtx k f).cores = d.cores := by unfold Dev.mapCtx; split <;> rfl
@[simp] theorem Dev.mapCtx_dies (d : Dev) (k : Nat) (f : Ctx → Ctx) : (d.mapCtx k f).dies = d.dies := by unfold Dev.mapCtx; split <;> rfl
@[simp] theorem Dev.mapCtx_mem (d : Dev) (k : Nat) (f : Ctx → Ctx) : (d.mapCtx k f).mem = d.mem := by unfold Dev.mapCtx; split <;> rfl
@[simp] theorem Dev.mapCtx_psn (d : Dev) (k : Nat) (f : Ctx → Ctx) : (d.mapCtx k f).psn = d.psn := by unfold Dev.mapCtx; split <;> rfl
@[simp] theorem Dev.mapCtx_caches (d : Dev) (k : Nat) (f : Ctx → Ctx) : (d.mapCtx k f).caches = d.caches := by unfold Dev.mapCtx; split <;> rfl
@[simp] theorem Dev.mapCtx_flips (d : Dev) (k : Nat) (f : Ctx → Ctx) : (d.mapCtx k f).flips = d.flips := by unfold Dev.mapCtx; split <;> rfl
@[simp] theorem Dev.mapCtx_lineFlips (d : Dev) (k : Nat) (f : Ctx → Ctx) : (d.mapCtx k f).lineFlips = d.lineFlips := by unfold Dev.mapCtx; split <;> rfl
@[simp] theorem Dev.mapCtx_badTags (d : Dev) (k : Nat) (f : Ctx → Ctx) : (d.mapCtx k f).badTags = d.badTags := by unfold Dev.mapCtx; split <;> rfl
@[simp] theorem Dev.mapCtx_vers (d : Dev) (k : Nat) (f : Ctx → Ctx) : (d.mapCtx k f).vers = d.vers := by unfold Dev.mapCtx; split <;> rfl
@[simp] theorem Dev.mapCtx_owners (d : Dev) (k : Nat) (f : Ctx → Ctx) : (d.mapCtx k f).owners = d.owners := by unfold Dev.mapCtx; split <;> rfl
@[simp] theorem Dev.mapCtx_partmode (d : Dev) (k : Nat) (f : Ctx → Ctx) : (d.mapCtx k f).partmode = d.partmode := by unfold Dev.mapCtx; split <;> rfl
@[simp] theorem Dev.mapCtx_drain (d : Dev) (k : Nat) (f : Ctx → Ctx) : (d.mapCtx k f).drain = d.drain := by unfold Dev.mapCtx; split <;> rfl
@[simp] theorem Dev.mapCtx_corePart (d : Dev) (k : Nat) (f : Ctx → Ctx) : (d.mapCtx k f).corePart = d.corePart := by unfold Dev.mapCtx; split <;> rfl
@[simp] theorem Dev.mapCtx_lcmap (d : Dev) (k : Nat) (f : Ctx → Ctx) : (d.mapCtx k f).lcmap = d.lcmap := by unfold Dev.mapCtx; split <;> rfl
@[simp] theorem Dev.mapCtx_fmt (d : Dev) (k : Nat) (f : Ctx → Ctx) : (d.mapCtx k f).fmt = d.fmt := by unfold Dev.mapCtx; split <;> rfl
@[simp] theorem Dev.mapCtx_scansig (d : Dev) (k : Nat) (f : Ctx → Ctx) : (d.mapCtx k f).scansig = d.scansig := by unfold Dev.mapCtx; split <;> rfl
@[simp] theorem Dev.mapCtx_phys (d : Dev) (k : Nat) (f : Ctx → Ctx) : (d.mapCtx k f).phys = d.phys := by unfold Dev.mapCtx; split <;> rfl
@[simp] theorem Dev.mapCtx_fills (d : Dev) (k : Nat) (f : Ctx → Ctx) : (d.mapCtx k f).fills = d.fills := by unfold Dev.mapCtx; split <;> rfl
@[simp] theorem Dev.mapCtx_colPhys (d : Dev) (k : Nat) (f : Ctx → Ctx) : (d.mapCtx k f).colPhys = d.colPhys := by unfold Dev.mapCtx; split <;> rfl
@[simp] theorem Dev.mapCtx_sysq (d : Dev) (k : Nat) (f : Ctx → Ctx) : (d.mapCtx k f).sysq = d.sysq := by unfold Dev.mapCtx; split <;> rfl
@[simp] theorem Dev.mapCtx_cxl (d : Dev) (k : Nat) (f : Ctx → Ctx) : (d.mapCtx k f).cxl = d.cxl := by unfold Dev.mapCtx; split <;> rfl
@[simp] theorem Dev.mapCtx_images (d : Dev) (k : Nat) (f : Ctx → Ctx) : (d.mapCtx k f).images = d.images := by unfold Dev.mapCtx; split <;> rfl
@[simp] theorem Dev.mapCtx_egress (d : Dev) (k : Nat) (f : Ctx → Ctx) : (d.mapCtx k f).egress = d.egress := by unfold Dev.mapCtx; split <;> rfl
@[simp] theorem Dev.mapCtx_outbox (d : Dev) (k : Nat) (f : Ctx → Ctx) : (d.mapCtx k f).outbox = d.outbox := by unfold Dev.mapCtx; split <;> rfl
@[simp] theorem Dev.mapCtx_stalled (d : Dev) (k : Nat) (f : Ctx → Ctx) : (d.mapCtx k f).stalled = d.stalled := by unfold Dev.mapCtx; split <;> rfl
@[simp] theorem Dev.mapCtx_agenda (d : Dev) (k : Nat) (f : Ctx → Ctx) : (d.mapCtx k f).agenda = d.agenda := by unfold Dev.mapCtx; split <;> rfl

@[simp] theorem Dev.mapGang_pcyc (d : Dev) (n k : Nat) (f : Gang → Gang) : (d.mapGang n k f).pcyc = d.pcyc := by unfold Dev.mapGang; split <;> rfl
@[simp] theorem Dev.mapGang_ctr (d : Dev) (n k : Nat) (f : Gang → Gang) : (d.mapGang n k f).ctr = d.ctr := by unfold Dev.mapGang; split <;> rfl
@[simp] theorem Dev.mapGang_fresh (d : Dev) (n k : Nat) (f : Gang → Gang) : (d.mapGang n k f).fresh = d.fresh := by unfold Dev.mapGang; split <;> rfl
@[simp] theorem Dev.mapGang_cur (d : Dev) (n k : Nat) (f : Gang → Gang) : (d.mapGang n k f).cur = d.cur := by unfold Dev.mapGang; split <;> rfl
@[simp] theorem Dev.mapGang_turn (d : Dev) (n k : Nat) (f : Gang → Gang) : (d.mapGang n k f).turn = d.turn := by unfold Dev.mapGang; split <;> rfl
@[simp] theorem Dev.mapGang_threads (d : Dev) (n k : Nat) (f : Gang → Gang) : (d.mapGang n k f).threads = d.threads := by unfold Dev.mapGang; split <;> rfl
@[simp] theorem Dev.mapGang_chunks (d : Dev) (n k : Nat) (f : Gang → Gang) : (d.mapGang n k f).chunks = d.chunks := by unfold Dev.mapGang; split <;> rfl
@[simp] theorem Dev.mapGang_launches (d : Dev) (n k : Nat) (f : Gang → Gang) : (d.mapGang n k f).launches = d.launches := by unfold Dev.mapGang; split <;> rfl
@[simp] theorem Dev.mapGang_ctxs (d : Dev) (n k : Nat) (f : Gang → Gang) : (d.mapGang n k f).ctxs = d.ctxs := by unfold Dev.mapGang; split <;> rfl
@[simp] theorem Dev.mapGang_dies (d : Dev) (n k : Nat) (f : Gang → Gang) : (d.mapGang n k f).dies = d.dies := by unfold Dev.mapGang; split <;> rfl
@[simp] theorem Dev.mapGang_mem (d : Dev) (n k : Nat) (f : Gang → Gang) : (d.mapGang n k f).mem = d.mem := by unfold Dev.mapGang; split <;> rfl
@[simp] theorem Dev.mapGang_psn (d : Dev) (n k : Nat) (f : Gang → Gang) : (d.mapGang n k f).psn = d.psn := by unfold Dev.mapGang; split <;> rfl
@[simp] theorem Dev.mapGang_caches (d : Dev) (n k : Nat) (f : Gang → Gang) : (d.mapGang n k f).caches = d.caches := by unfold Dev.mapGang; split <;> rfl
@[simp] theorem Dev.mapGang_flips (d : Dev) (n k : Nat) (f : Gang → Gang) : (d.mapGang n k f).flips = d.flips := by unfold Dev.mapGang; split <;> rfl
@[simp] theorem Dev.mapGang_lineFlips (d : Dev) (n k : Nat) (f : Gang → Gang) : (d.mapGang n k f).lineFlips = d.lineFlips := by unfold Dev.mapGang; split <;> rfl
@[simp] theorem Dev.mapGang_badTags (d : Dev) (n k : Nat) (f : Gang → Gang) : (d.mapGang n k f).badTags = d.badTags := by unfold Dev.mapGang; split <;> rfl
@[simp] theorem Dev.mapGang_vers (d : Dev) (n k : Nat) (f : Gang → Gang) : (d.mapGang n k f).vers = d.vers := by unfold Dev.mapGang; split <;> rfl
@[simp] theorem Dev.mapGang_owners (d : Dev) (n k : Nat) (f : Gang → Gang) : (d.mapGang n k f).owners = d.owners := by unfold Dev.mapGang; split <;> rfl
@[simp] theorem Dev.mapGang_partmode (d : Dev) (n k : Nat) (f : Gang → Gang) : (d.mapGang n k f).partmode = d.partmode := by unfold Dev.mapGang; split <;> rfl
@[simp] theorem Dev.mapGang_drain (d : Dev) (n k : Nat) (f : Gang → Gang) : (d.mapGang n k f).drain = d.drain := by unfold Dev.mapGang; split <;> rfl
@[simp] theorem Dev.mapGang_corePart (d : Dev) (n k : Nat) (f : Gang → Gang) : (d.mapGang n k f).corePart = d.corePart := by unfold Dev.mapGang; split <;> rfl
@[simp] theorem Dev.mapGang_lcmap (d : Dev) (n k : Nat) (f : Gang → Gang) : (d.mapGang n k f).lcmap = d.lcmap := by unfold Dev.mapGang; split <;> rfl
@[simp] theorem Dev.mapGang_fmt (d : Dev) (n k : Nat) (f : Gang → Gang) : (d.mapGang n k f).fmt = d.fmt := by unfold Dev.mapGang; split <;> rfl
@[simp] theorem Dev.mapGang_scansig (d : Dev) (n k : Nat) (f : Gang → Gang) : (d.mapGang n k f).scansig = d.scansig := by unfold Dev.mapGang; split <;> rfl
@[simp] theorem Dev.mapGang_phys (d : Dev) (n k : Nat) (f : Gang → Gang) : (d.mapGang n k f).phys = d.phys := by unfold Dev.mapGang; split <;> rfl
@[simp] theorem Dev.mapGang_fills (d : Dev) (n k : Nat) (f : Gang → Gang) : (d.mapGang n k f).fills = d.fills := by unfold Dev.mapGang; split <;> rfl
@[simp] theorem Dev.mapGang_colPhys (d : Dev) (n k : Nat) (f : Gang → Gang) : (d.mapGang n k f).colPhys = d.colPhys := by unfold Dev.mapGang; split <;> rfl
@[simp] theorem Dev.mapGang_sysq (d : Dev) (n k : Nat) (f : Gang → Gang) : (d.mapGang n k f).sysq = d.sysq := by unfold Dev.mapGang; split <;> rfl
@[simp] theorem Dev.mapGang_cxl (d : Dev) (n k : Nat) (f : Gang → Gang) : (d.mapGang n k f).cxl = d.cxl := by unfold Dev.mapGang; split <;> rfl
@[simp] theorem Dev.mapGang_images (d : Dev) (n k : Nat) (f : Gang → Gang) : (d.mapGang n k f).images = d.images := by unfold Dev.mapGang; split <;> rfl
@[simp] theorem Dev.mapGang_egress (d : Dev) (n k : Nat) (f : Gang → Gang) : (d.mapGang n k f).egress = d.egress := by unfold Dev.mapGang; split <;> rfl
@[simp] theorem Dev.mapGang_outbox (d : Dev) (n k : Nat) (f : Gang → Gang) : (d.mapGang n k f).outbox = d.outbox := by unfold Dev.mapGang; split <;> rfl
@[simp] theorem Dev.mapGang_stalled (d : Dev) (n k : Nat) (f : Gang → Gang) : (d.mapGang n k f).stalled = d.stalled := by unfold Dev.mapGang; split <;> rfl
@[simp] theorem Dev.mapGang_agenda (d : Dev) (n k : Nat) (f : Gang → Gang) : (d.mapGang n k f).agenda = d.agenda := by unfold Dev.mapGang; split <;> rfl

/-! ### A thread -/

@[simp] theorem Thread.wr_uid (t : Thread) (r : VReg) (v : W32) (p : Bool) : (t.wr r v p).uid = t.uid := rfl
@[simp] theorem Thread.wr_ctx (t : Thread) (r : VReg) (v : W32) (p : Bool) : (t.wr r v p).ctx = t.ctx := rfl
@[simp] theorem Thread.wr_lid (t : Thread) (r : VReg) (v : W32) (p : Bool) : (t.wr r v p).lid = t.lid := rfl
@[simp] theorem Thread.wr_chunk (t : Thread) (r : VReg) (v : W32) (p : Bool) : (t.wr r v p).chunk = t.chunk := rfl
@[simp] theorem Thread.wr_core (t : Thread) (r : VReg) (v : W32) (p : Bool) : (t.wr r v p).core = t.core := rfl
@[simp] theorem Thread.wr_lane (t : Thread) (r : VReg) (v : W32) (p : Bool) : (t.wr r v p).lane = t.lane := rfl
@[simp] theorem Thread.wr_slot (t : Thread) (r : VReg) (v : W32) (p : Bool) : (t.wr r v p).slot = t.slot := rfl
@[simp] theorem Thread.wr_partner (t : Thread) (r : VReg) (v : W32) (p : Bool) : (t.wr r v p).partner = t.partner := rfl
@[simp] theorem Thread.wr_shadow (t : Thread) (r : VReg) (v : W32) (p : Bool) : (t.wr r v p).shadow = t.shadow := rfl
@[simp] theorem Thread.wr_tid (t : Thread) (r : VReg) (v : W32) (p : Bool) : (t.wr r v p).tid = t.tid := rfl
@[simp] theorem Thread.wr_pc (t : Thread) (r : VReg) (v : W32) (p : Bool) : (t.wr r v p).pc = t.pc := rfl
@[simp] theorem Thread.wr_preds (t : Thread) (r : VReg) (v : W32) (p : Bool) : (t.wr r v p).preds = t.preds := rfl
@[simp] theorem Thread.wr_predPsn (t : Thread) (r : VReg) (v : W32) (p : Bool) : (t.wr r v p).predPsn = t.predPsn := rfl
@[simp] theorem Thread.wr_flags (t : Thread) (r : VReg) (v : W32) (p : Bool) : (t.wr r v p).flags = t.flags := rfl
@[simp] theorem Thread.wr_rngcnt (t : Thread) (r : VReg) (v : W32) (p : Bool) : (t.wr r v p).rngcnt = t.rngcnt := rfl
@[simp] theorem Thread.wr_rstack (t : Thread) (r : VReg) (v : W32) (p : Bool) : (t.wr r v p).rstack = t.rstack := rfl
@[simp] theorem Thread.wr_level (t : Thread) (r : VReg) (v : W32) (p : Bool) : (t.wr r v p).level = t.level := rfl
@[simp] theorem Thread.wr_plev (t : Thread) (r : VReg) (v : W32) (p : Bool) : (t.wr r v p).plev = t.plev := rfl
@[simp] theorem Thread.wr_inTrap (t : Thread) (r : VReg) (v : W32) (p : Bool) : (t.wr r v p).inTrap = t.inTrap := rfl
@[simp] theorem Thread.wr_cause (t : Thread) (r : VReg) (v : W32) (p : Bool) : (t.wr r v p).cause = t.cause := rfl
@[simp] theorem Thread.wr_epc (t : Thread) (r : VReg) (v : W32) (p : Bool) : (t.wr r v p).epc = t.epc := rfl
@[simp] theorem Thread.wr_detail (t : Thread) (r : VReg) (v : W32) (p : Bool) : (t.wr r v p).detail = t.detail := rfl
@[simp] theorem Thread.wr_pending (t : Thread) (r : VReg) (v : W32) (p : Bool) : (t.wr r v p).pending = t.pending := rfl
@[simp] theorem Thread.wr_skid (t : Thread) (r : VReg) (v : W32) (p : Bool) : (t.wr r v p).skid = t.skid := rfl
@[simp] theorem Thread.wr_timerDue (t : Thread) (r : VReg) (v : W32) (p : Bool) : (t.wr r v p).timerDue = t.timerDue := rfl
@[simp] theorem Thread.wr_wait (t : Thread) (r : VReg) (v : W32) (p : Bool) : (t.wr r v p).wait = t.wait := rfl
@[simp] theorem Thread.wr_since (t : Thread) (r : VReg) (v : W32) (p : Bool) : (t.wr r v p).since = t.since := rfl
@[simp] theorem Thread.wr_spin (t : Thread) (r : VReg) (v : W32) (p : Bool) : (t.wr r v p).spin = t.spin := rfl
@[simp] theorem Thread.wr_priv (t : Thread) (r : VReg) (v : W32) (p : Bool) : (t.wr r v p).priv = t.priv := rfl
@[simp] theorem Thread.wr_privPsn (t : Thread) (r : VReg) (v : W32) (p : Bool) : (t.wr r v p).privPsn = t.privPsn := rfl
@[simp] theorem Thread.wr_hwm (t : Thread) (r : VReg) (v : W32) (p : Bool) : (t.wr r v p).hwm = t.hwm := rfl
@[simp] theorem Thread.wr_replays (t : Thread) (r : VReg) (v : W32) (p : Bool) : (t.wr r v p).replays = t.replays := rfl
@[simp] theorem Thread.wr_retired (t : Thread) (r : VReg) (v : W32) (p : Bool) : (t.wr r v p).retired = t.retired := rfl
@[simp] theorem Thread.wr_psnFrom (t : Thread) (r : VReg) (v : W32) (p : Bool) : (t.wr r v p).psnFrom = t.psnFrom := rfl
@[simp] theorem Thread.wr_asked (t : Thread) (r : VReg) (v : W32) (p : Bool) : (t.wr r v p).asked = t.asked := rfl
@[simp] theorem Thread.wr_upsets (t : Thread) (r : VReg) (v : W32) (p : Bool) : (t.wr r v p).upsets = t.upsets := rfl

@[simp] theorem Thread.setPred_uid (t : Thread) (q : PReg) (v : Byte) (p : Bool) : (t.setPred q v p).uid = t.uid := by unfold Thread.setPred; split <;> rfl
@[simp] theorem Thread.setPred_ctx (t : Thread) (q : PReg) (v : Byte) (p : Bool) : (t.setPred q v p).ctx = t.ctx := by unfold Thread.setPred; split <;> rfl
@[simp] theorem Thread.setPred_lid (t : Thread) (q : PReg) (v : Byte) (p : Bool) : (t.setPred q v p).lid = t.lid := by unfold Thread.setPred; split <;> rfl
@[simp] theorem Thread.setPred_chunk (t : Thread) (q : PReg) (v : Byte) (p : Bool) : (t.setPred q v p).chunk = t.chunk := by unfold Thread.setPred; split <;> rfl
@[simp] theorem Thread.setPred_core (t : Thread) (q : PReg) (v : Byte) (p : Bool) : (t.setPred q v p).core = t.core := by unfold Thread.setPred; split <;> rfl
@[simp] theorem Thread.setPred_lane (t : Thread) (q : PReg) (v : Byte) (p : Bool) : (t.setPred q v p).lane = t.lane := by unfold Thread.setPred; split <;> rfl
@[simp] theorem Thread.setPred_slot (t : Thread) (q : PReg) (v : Byte) (p : Bool) : (t.setPred q v p).slot = t.slot := by unfold Thread.setPred; split <;> rfl
@[simp] theorem Thread.setPred_partner (t : Thread) (q : PReg) (v : Byte) (p : Bool) : (t.setPred q v p).partner = t.partner := by unfold Thread.setPred; split <;> rfl
@[simp] theorem Thread.setPred_shadow (t : Thread) (q : PReg) (v : Byte) (p : Bool) : (t.setPred q v p).shadow = t.shadow := by unfold Thread.setPred; split <;> rfl
@[simp] theorem Thread.setPred_tid (t : Thread) (q : PReg) (v : Byte) (p : Bool) : (t.setPred q v p).tid = t.tid := by unfold Thread.setPred; split <;> rfl
@[simp] theorem Thread.setPred_pc (t : Thread) (q : PReg) (v : Byte) (p : Bool) : (t.setPred q v p).pc = t.pc := by unfold Thread.setPred; split <;> rfl
@[simp] theorem Thread.setPred_regs (t : Thread) (q : PReg) (v : Byte) (p : Bool) : (t.setPred q v p).regs = t.regs := by unfold Thread.setPred; split <;> rfl
@[simp] theorem Thread.setPred_regPsn (t : Thread) (q : PReg) (v : Byte) (p : Bool) : (t.setPred q v p).regPsn = t.regPsn := by unfold Thread.setPred; split <;> rfl
@[simp] theorem Thread.setPred_flags (t : Thread) (q : PReg) (v : Byte) (p : Bool) : (t.setPred q v p).flags = t.flags := by unfold Thread.setPred; split <;> rfl
@[simp] theorem Thread.setPred_rngcnt (t : Thread) (q : PReg) (v : Byte) (p : Bool) : (t.setPred q v p).rngcnt = t.rngcnt := by unfold Thread.setPred; split <;> rfl
@[simp] theorem Thread.setPred_rstack (t : Thread) (q : PReg) (v : Byte) (p : Bool) : (t.setPred q v p).rstack = t.rstack := by unfold Thread.setPred; split <;> rfl
@[simp] theorem Thread.setPred_level (t : Thread) (q : PReg) (v : Byte) (p : Bool) : (t.setPred q v p).level = t.level := by unfold Thread.setPred; split <;> rfl
@[simp] theorem Thread.setPred_plev (t : Thread) (q : PReg) (v : Byte) (p : Bool) : (t.setPred q v p).plev = t.plev := by unfold Thread.setPred; split <;> rfl
@[simp] theorem Thread.setPred_inTrap (t : Thread) (q : PReg) (v : Byte) (p : Bool) : (t.setPred q v p).inTrap = t.inTrap := by unfold Thread.setPred; split <;> rfl
@[simp] theorem Thread.setPred_cause (t : Thread) (q : PReg) (v : Byte) (p : Bool) : (t.setPred q v p).cause = t.cause := by unfold Thread.setPred; split <;> rfl
@[simp] theorem Thread.setPred_epc (t : Thread) (q : PReg) (v : Byte) (p : Bool) : (t.setPred q v p).epc = t.epc := by unfold Thread.setPred; split <;> rfl
@[simp] theorem Thread.setPred_detail (t : Thread) (q : PReg) (v : Byte) (p : Bool) : (t.setPred q v p).detail = t.detail := by unfold Thread.setPred; split <;> rfl
@[simp] theorem Thread.setPred_pending (t : Thread) (q : PReg) (v : Byte) (p : Bool) : (t.setPred q v p).pending = t.pending := by unfold Thread.setPred; split <;> rfl
@[simp] theorem Thread.setPred_skid (t : Thread) (q : PReg) (v : Byte) (p : Bool) : (t.setPred q v p).skid = t.skid := by unfold Thread.setPred; split <;> rfl
@[simp] theorem Thread.setPred_timerDue (t : Thread) (q : PReg) (v : Byte) (p : Bool) : (t.setPred q v p).timerDue = t.timerDue := by unfold Thread.setPred; split <;> rfl
@[simp] theorem Thread.setPred_wait (t : Thread) (q : PReg) (v : Byte) (p : Bool) : (t.setPred q v p).wait = t.wait := by unfold Thread.setPred; split <;> rfl
@[simp] theorem Thread.setPred_since (t : Thread) (q : PReg) (v : Byte) (p : Bool) : (t.setPred q v p).since = t.since := by unfold Thread.setPred; split <;> rfl
@[simp] theorem Thread.setPred_spin (t : Thread) (q : PReg) (v : Byte) (p : Bool) : (t.setPred q v p).spin = t.spin := by unfold Thread.setPred; split <;> rfl
@[simp] theorem Thread.setPred_late (t : Thread) (q : PReg) (v : Byte) (p : Bool) : (t.setPred q v p).late = t.late := by unfold Thread.setPred; split <;> rfl
@[simp] theorem Thread.setPred_latches (t : Thread) (q : PReg) (v : Byte) (p : Bool) : (t.setPred q v p).latches = t.latches := by unfold Thread.setPred; split <;> rfl
@[simp] theorem Thread.setPred_priv (t : Thread) (q : PReg) (v : Byte) (p : Bool) : (t.setPred q v p).priv = t.priv := by unfold Thread.setPred; split <;> rfl
@[simp] theorem Thread.setPred_privPsn (t : Thread) (q : PReg) (v : Byte) (p : Bool) : (t.setPred q v p).privPsn = t.privPsn := by unfold Thread.setPred; split <;> rfl
@[simp] theorem Thread.setPred_hwm (t : Thread) (q : PReg) (v : Byte) (p : Bool) : (t.setPred q v p).hwm = t.hwm := by unfold Thread.setPred; split <;> rfl
@[simp] theorem Thread.setPred_replays (t : Thread) (q : PReg) (v : Byte) (p : Bool) : (t.setPred q v p).replays = t.replays := by unfold Thread.setPred; split <;> rfl
@[simp] theorem Thread.setPred_retired (t : Thread) (q : PReg) (v : Byte) (p : Bool) : (t.setPred q v p).retired = t.retired := by unfold Thread.setPred; split <;> rfl
@[simp] theorem Thread.setPred_psnFrom (t : Thread) (q : PReg) (v : Byte) (p : Bool) : (t.setPred q v p).psnFrom = t.psnFrom := by unfold Thread.setPred; split <;> rfl
@[simp] theorem Thread.setPred_asked (t : Thread) (q : PReg) (v : Byte) (p : Bool) : (t.setPred q v p).asked = t.asked := by unfold Thread.setPred; split <;> rfl
@[simp] theorem Thread.setPred_upsets (t : Thread) (q : PReg) (v : Byte) (p : Bool) : (t.setPred q v p).upsets = t.upsets := by unfold Thread.setPred; split <;> rfl

@[simp] theorem Thread.retireTo_uid (t : Thread) (pc : W64) (now : Nat) : (t.retireTo pc now).uid = t.uid := rfl
@[simp] theorem Thread.retireTo_ctx (t : Thread) (pc : W64) (now : Nat) : (t.retireTo pc now).ctx = t.ctx := rfl
@[simp] theorem Thread.retireTo_lid (t : Thread) (pc : W64) (now : Nat) : (t.retireTo pc now).lid = t.lid := rfl
@[simp] theorem Thread.retireTo_chunk (t : Thread) (pc : W64) (now : Nat) : (t.retireTo pc now).chunk = t.chunk := rfl
@[simp] theorem Thread.retireTo_core (t : Thread) (pc : W64) (now : Nat) : (t.retireTo pc now).core = t.core := rfl
@[simp] theorem Thread.retireTo_lane (t : Thread) (pc : W64) (now : Nat) : (t.retireTo pc now).lane = t.lane := rfl
@[simp] theorem Thread.retireTo_slot (t : Thread) (pc : W64) (now : Nat) : (t.retireTo pc now).slot = t.slot := rfl
@[simp] theorem Thread.retireTo_partner (t : Thread) (pc : W64) (now : Nat) : (t.retireTo pc now).partner = t.partner := rfl
@[simp] theorem Thread.retireTo_shadow (t : Thread) (pc : W64) (now : Nat) : (t.retireTo pc now).shadow = t.shadow := rfl
@[simp] theorem Thread.retireTo_tid (t : Thread) (pc : W64) (now : Nat) : (t.retireTo pc now).tid = t.tid := rfl
@[simp] theorem Thread.retireTo_regs (t : Thread) (pc : W64) (now : Nat) : (t.retireTo pc now).regs = t.regs := rfl
@[simp] theorem Thread.retireTo_regPsn (t : Thread) (pc : W64) (now : Nat) : (t.retireTo pc now).regPsn = t.regPsn := rfl
@[simp] theorem Thread.retireTo_preds (t : Thread) (pc : W64) (now : Nat) : (t.retireTo pc now).preds = t.preds := rfl
@[simp] theorem Thread.retireTo_predPsn (t : Thread) (pc : W64) (now : Nat) : (t.retireTo pc now).predPsn = t.predPsn := rfl
@[simp] theorem Thread.retireTo_flags (t : Thread) (pc : W64) (now : Nat) : (t.retireTo pc now).flags = t.flags := rfl
@[simp] theorem Thread.retireTo_rngcnt (t : Thread) (pc : W64) (now : Nat) : (t.retireTo pc now).rngcnt = t.rngcnt := rfl
@[simp] theorem Thread.retireTo_rstack (t : Thread) (pc : W64) (now : Nat) : (t.retireTo pc now).rstack = t.rstack := rfl
@[simp] theorem Thread.retireTo_level (t : Thread) (pc : W64) (now : Nat) : (t.retireTo pc now).level = t.level := rfl
@[simp] theorem Thread.retireTo_plev (t : Thread) (pc : W64) (now : Nat) : (t.retireTo pc now).plev = t.plev := rfl
@[simp] theorem Thread.retireTo_inTrap (t : Thread) (pc : W64) (now : Nat) : (t.retireTo pc now).inTrap = t.inTrap := rfl
@[simp] theorem Thread.retireTo_cause (t : Thread) (pc : W64) (now : Nat) : (t.retireTo pc now).cause = t.cause := rfl
@[simp] theorem Thread.retireTo_epc (t : Thread) (pc : W64) (now : Nat) : (t.retireTo pc now).epc = t.epc := rfl
@[simp] theorem Thread.retireTo_detail (t : Thread) (pc : W64) (now : Nat) : (t.retireTo pc now).detail = t.detail := rfl
@[simp] theorem Thread.retireTo_pending (t : Thread) (pc : W64) (now : Nat) : (t.retireTo pc now).pending = t.pending := rfl
@[simp] theorem Thread.retireTo_timerDue (t : Thread) (pc : W64) (now : Nat) : (t.retireTo pc now).timerDue = t.timerDue := rfl
@[simp] theorem Thread.retireTo_spin (t : Thread) (pc : W64) (now : Nat) : (t.retireTo pc now).spin = t.spin := rfl
@[simp] theorem Thread.retireTo_latches (t : Thread) (pc : W64) (now : Nat) : (t.retireTo pc now).latches = t.latches := rfl
@[simp] theorem Thread.retireTo_priv (t : Thread) (pc : W64) (now : Nat) : (t.retireTo pc now).priv = t.priv := rfl
@[simp] theorem Thread.retireTo_privPsn (t : Thread) (pc : W64) (now : Nat) : (t.retireTo pc now).privPsn = t.privPsn := rfl
@[simp] theorem Thread.retireTo_hwm (t : Thread) (pc : W64) (now : Nat) : (t.retireTo pc now).hwm = t.hwm := rfl
@[simp] theorem Thread.retireTo_psnFrom (t : Thread) (pc : W64) (now : Nat) : (t.retireTo pc now).psnFrom = t.psnFrom := rfl
@[simp] theorem Thread.retireTo_upsets (t : Thread) (pc : W64) (now : Nat) : (t.retireTo pc now).upsets = t.upsets := rfl

@[simp] theorem Thread.retireTo_pc (t : Thread) (pc : W64) (now : Nat) : (t.retireTo pc now).pc = pc := rfl
@[simp] theorem Thread.retireTo_wait (t : Thread) (pc : W64) (now : Nat) : (t.retireTo pc now).wait = .none := rfl
@[simp] theorem Thread.retireTo_retired (t : Thread) (pc : W64) (now : Nat) : (t.retireTo pc now).retired = t.retired + 1 := rfl
@[simp] theorem Thread.retireTo_since (t : Thread) (pc : W64) (now : Nat) : (t.retireTo pc now).since = now := rfl

@[simp] theorem Thread.hint_uid (t : Thread) (y : Yield) (now : Nat) : (t.hint y now).uid = t.uid := by cases y <;> rfl
@[simp] theorem Thread.hint_ctx (t : Thread) (y : Yield) (now : Nat) : (t.hint y now).ctx = t.ctx := by cases y <;> rfl
@[simp] theorem Thread.hint_lid (t : Thread) (y : Yield) (now : Nat) : (t.hint y now).lid = t.lid := by cases y <;> rfl
@[simp] theorem Thread.hint_chunk (t : Thread) (y : Yield) (now : Nat) : (t.hint y now).chunk = t.chunk := by cases y <;> rfl
@[simp] theorem Thread.hint_core (t : Thread) (y : Yield) (now : Nat) : (t.hint y now).core = t.core := by cases y <;> rfl
@[simp] theorem Thread.hint_lane (t : Thread) (y : Yield) (now : Nat) : (t.hint y now).lane = t.lane := by cases y <;> rfl
@[simp] theorem Thread.hint_slot (t : Thread) (y : Yield) (now : Nat) : (t.hint y now).slot = t.slot := by cases y <;> rfl
@[simp] theorem Thread.hint_partner (t : Thread) (y : Yield) (now : Nat) : (t.hint y now).partner = t.partner := by cases y <;> rfl
@[simp] theorem Thread.hint_shadow (t : Thread) (y : Yield) (now : Nat) : (t.hint y now).shadow = t.shadow := by cases y <;> rfl
@[simp] theorem Thread.hint_tid (t : Thread) (y : Yield) (now : Nat) : (t.hint y now).tid = t.tid := by cases y <;> rfl
@[simp] theorem Thread.hint_pc (t : Thread) (y : Yield) (now : Nat) : (t.hint y now).pc = t.pc := by cases y <;> rfl
@[simp] theorem Thread.hint_regs (t : Thread) (y : Yield) (now : Nat) : (t.hint y now).regs = t.regs := by cases y <;> rfl
@[simp] theorem Thread.hint_regPsn (t : Thread) (y : Yield) (now : Nat) : (t.hint y now).regPsn = t.regPsn := by cases y <;> rfl
@[simp] theorem Thread.hint_preds (t : Thread) (y : Yield) (now : Nat) : (t.hint y now).preds = t.preds := by cases y <;> rfl
@[simp] theorem Thread.hint_predPsn (t : Thread) (y : Yield) (now : Nat) : (t.hint y now).predPsn = t.predPsn := by cases y <;> rfl
@[simp] theorem Thread.hint_flags (t : Thread) (y : Yield) (now : Nat) : (t.hint y now).flags = t.flags := by cases y <;> rfl
@[simp] theorem Thread.hint_rngcnt (t : Thread) (y : Yield) (now : Nat) : (t.hint y now).rngcnt = t.rngcnt := by cases y <;> rfl
@[simp] theorem Thread.hint_rstack (t : Thread) (y : Yield) (now : Nat) : (t.hint y now).rstack = t.rstack := by cases y <;> rfl
@[simp] theorem Thread.hint_level (t : Thread) (y : Yield) (now : Nat) : (t.hint y now).level = t.level := by cases y <;> rfl
@[simp] theorem Thread.hint_plev (t : Thread) (y : Yield) (now : Nat) : (t.hint y now).plev = t.plev := by cases y <;> rfl
@[simp] theorem Thread.hint_inTrap (t : Thread) (y : Yield) (now : Nat) : (t.hint y now).inTrap = t.inTrap := by cases y <;> rfl
@[simp] theorem Thread.hint_cause (t : Thread) (y : Yield) (now : Nat) : (t.hint y now).cause = t.cause := by cases y <;> rfl
@[simp] theorem Thread.hint_epc (t : Thread) (y : Yield) (now : Nat) : (t.hint y now).epc = t.epc := by cases y <;> rfl
@[simp] theorem Thread.hint_detail (t : Thread) (y : Yield) (now : Nat) : (t.hint y now).detail = t.detail := by cases y <;> rfl
@[simp] theorem Thread.hint_pending (t : Thread) (y : Yield) (now : Nat) : (t.hint y now).pending = t.pending := by cases y <;> rfl
@[simp] theorem Thread.hint_skid (t : Thread) (y : Yield) (now : Nat) : (t.hint y now).skid = t.skid := by cases y <;> rfl
@[simp] theorem Thread.hint_timerDue (t : Thread) (y : Yield) (now : Nat) : (t.hint y now).timerDue = t.timerDue := by cases y <;> rfl
@[simp] theorem Thread.hint_wait (t : Thread) (y : Yield) (now : Nat) : (t.hint y now).wait = t.wait := by cases y <;> rfl
@[simp] theorem Thread.hint_since (t : Thread) (y : Yield) (now : Nat) : (t.hint y now).since = t.since := by cases y <;> rfl
@[simp] theorem Thread.hint_late (t : Thread) (y : Yield) (now : Nat) : (t.hint y now).late = t.late := by cases y <;> rfl
@[simp] theorem Thread.hint_latches (t : Thread) (y : Yield) (now : Nat) : (t.hint y now).latches = t.latches := by cases y <;> rfl
@[simp] theorem Thread.hint_priv (t : Thread) (y : Yield) (now : Nat) : (t.hint y now).priv = t.priv := by cases y <;> rfl
@[simp] theorem Thread.hint_privPsn (t : Thread) (y : Yield) (now : Nat) : (t.hint y now).privPsn = t.privPsn := by cases y <;> rfl
@[simp] theorem Thread.hint_hwm (t : Thread) (y : Yield) (now : Nat) : (t.hint y now).hwm = t.hwm := by cases y <;> rfl
@[simp] theorem Thread.hint_replays (t : Thread) (y : Yield) (now : Nat) : (t.hint y now).replays = t.replays := by cases y <;> rfl
@[simp] theorem Thread.hint_retired (t : Thread) (y : Yield) (now : Nat) : (t.hint y now).retired = t.retired := by cases y <;> rfl
@[simp] theorem Thread.hint_psnFrom (t : Thread) (y : Yield) (now : Nat) : (t.hint y now).psnFrom = t.psnFrom := by cases y <;> rfl
@[simp] theorem Thread.hint_asked (t : Thread) (y : Yield) (now : Nat) : (t.hint y now).asked = t.asked := by cases y <;> rfl
@[simp] theorem Thread.hint_upsets (t : Thread) (y : Yield) (now : Nat) : (t.hint y now).upsets = t.upsets := by cases y <;> rfl

@[simp] theorem Thread.orFlags_uid (t : Thread) (f : FFlags) : (t.orFlags f).uid = t.uid := rfl
@[simp] theorem Thread.orFlags_ctx (t : Thread) (f : FFlags) : (t.orFlags f).ctx = t.ctx := rfl
@[simp] theorem Thread.orFlags_lid (t : Thread) (f : FFlags) : (t.orFlags f).lid = t.lid := rfl
@[simp] theorem Thread.orFlags_chunk (t : Thread) (f : FFlags) : (t.orFlags f).chunk = t.chunk := rfl
@[simp] theorem Thread.orFlags_core (t : Thread) (f : FFlags) : (t.orFlags f).core = t.core := rfl
@[simp] theorem Thread.orFlags_lane (t : Thread) (f : FFlags) : (t.orFlags f).lane = t.lane := rfl
@[simp] theorem Thread.orFlags_slot (t : Thread) (f : FFlags) : (t.orFlags f).slot = t.slot := rfl
@[simp] theorem Thread.orFlags_partner (t : Thread) (f : FFlags) : (t.orFlags f).partner = t.partner := rfl
@[simp] theorem Thread.orFlags_shadow (t : Thread) (f : FFlags) : (t.orFlags f).shadow = t.shadow := rfl
@[simp] theorem Thread.orFlags_tid (t : Thread) (f : FFlags) : (t.orFlags f).tid = t.tid := rfl
@[simp] theorem Thread.orFlags_pc (t : Thread) (f : FFlags) : (t.orFlags f).pc = t.pc := rfl
@[simp] theorem Thread.orFlags_regs (t : Thread) (f : FFlags) : (t.orFlags f).regs = t.regs := rfl
@[simp] theorem Thread.orFlags_regPsn (t : Thread) (f : FFlags) : (t.orFlags f).regPsn = t.regPsn := rfl
@[simp] theorem Thread.orFlags_preds (t : Thread) (f : FFlags) : (t.orFlags f).preds = t.preds := rfl
@[simp] theorem Thread.orFlags_predPsn (t : Thread) (f : FFlags) : (t.orFlags f).predPsn = t.predPsn := rfl
@[simp] theorem Thread.orFlags_rngcnt (t : Thread) (f : FFlags) : (t.orFlags f).rngcnt = t.rngcnt := rfl
@[simp] theorem Thread.orFlags_rstack (t : Thread) (f : FFlags) : (t.orFlags f).rstack = t.rstack := rfl
@[simp] theorem Thread.orFlags_level (t : Thread) (f : FFlags) : (t.orFlags f).level = t.level := rfl
@[simp] theorem Thread.orFlags_plev (t : Thread) (f : FFlags) : (t.orFlags f).plev = t.plev := rfl
@[simp] theorem Thread.orFlags_inTrap (t : Thread) (f : FFlags) : (t.orFlags f).inTrap = t.inTrap := rfl
@[simp] theorem Thread.orFlags_cause (t : Thread) (f : FFlags) : (t.orFlags f).cause = t.cause := rfl
@[simp] theorem Thread.orFlags_epc (t : Thread) (f : FFlags) : (t.orFlags f).epc = t.epc := rfl
@[simp] theorem Thread.orFlags_detail (t : Thread) (f : FFlags) : (t.orFlags f).detail = t.detail := rfl
@[simp] theorem Thread.orFlags_pending (t : Thread) (f : FFlags) : (t.orFlags f).pending = t.pending := rfl
@[simp] theorem Thread.orFlags_skid (t : Thread) (f : FFlags) : (t.orFlags f).skid = t.skid := rfl
@[simp] theorem Thread.orFlags_timerDue (t : Thread) (f : FFlags) : (t.orFlags f).timerDue = t.timerDue := rfl
@[simp] theorem Thread.orFlags_wait (t : Thread) (f : FFlags) : (t.orFlags f).wait = t.wait := rfl
@[simp] theorem Thread.orFlags_since (t : Thread) (f : FFlags) : (t.orFlags f).since = t.since := rfl
@[simp] theorem Thread.orFlags_spin (t : Thread) (f : FFlags) : (t.orFlags f).spin = t.spin := rfl
@[simp] theorem Thread.orFlags_late (t : Thread) (f : FFlags) : (t.orFlags f).late = t.late := rfl
@[simp] theorem Thread.orFlags_latches (t : Thread) (f : FFlags) : (t.orFlags f).latches = t.latches := rfl
@[simp] theorem Thread.orFlags_priv (t : Thread) (f : FFlags) : (t.orFlags f).priv = t.priv := rfl
@[simp] theorem Thread.orFlags_privPsn (t : Thread) (f : FFlags) : (t.orFlags f).privPsn = t.privPsn := rfl
@[simp] theorem Thread.orFlags_hwm (t : Thread) (f : FFlags) : (t.orFlags f).hwm = t.hwm := rfl
@[simp] theorem Thread.orFlags_replays (t : Thread) (f : FFlags) : (t.orFlags f).replays = t.replays := rfl
@[simp] theorem Thread.orFlags_retired (t : Thread) (f : FFlags) : (t.orFlags f).retired = t.retired := rfl
@[simp] theorem Thread.orFlags_psnFrom (t : Thread) (f : FFlags) : (t.orFlags f).psnFrom = t.psnFrom := rfl
@[simp] theorem Thread.orFlags_asked (t : Thread) (f : FFlags) : (t.orFlags f).asked = t.asked := rfl
@[simp] theorem Thread.orFlags_upsets (t : Thread) (f : FFlags) : (t.orFlags f).upsets = t.upsets := rfl

@[simp] theorem Thread.orFlags_flags (t : Thread) (f : FFlags) : (t.orFlags f).flags = t.flags ||| f := rfl

end Sys2Proof.Machine
end

