-- ==== Sys2Proof/Laws/Lanes.lean ====
section
/-! SUPPORT. What the drivers of the per-lane instructions do when no check fails. -/

namespace Sys2Proof.Machine

/-! ### Checks that pass -/

theorem flt_none {b : Bool} {o : Nat} {c : Cause} {x : Detail} (h : b = false) : flt b o c x = none := by simp [flt, h]

@[simp] theorem flt_eq_none {b : Bool} {o : Nat} {c : Cause} {x : Detail} : flt b o c x = none ↔ b = false := by
  cases b <;> simp [flt]

@[simp] theorem firstFlt_eq_none {l : List (Option Flt)} : firstFlt l = none ↔ ∀ x ∈ l, x = none := by
  simp [firstFlt, List.findSome?_eq_none_iff]

/-- No thread fails a check, so the instruction has no fault. -/
theorem faultOf_none {all ts : List Thread} {addr : Thread → Nat} {chk : Thread → Option Flt} (h : ∀ t ∈ ts, chk t = none) :
    faultOf all ts addr chk = none := by
  have : ts.filterMap (fun t => (chk t).map (fun f => (t, f))) = [] := by
    rw [List.filterMap_eq_nil_iff]
    intro t ht
    simp [h t ht]
  simp [faultOf, this]

theorem Dev.faultIn_none {d : Dev} {i : Instr} {ts : List Thread} {chk : Thread → Option Flt} (h : ∀ t ∈ ts, chk t = none) :
    d.faultIn i ts chk = none := faultOf_none h

/-- The checks before an instruction's own pass exactly as the rules say. -/
theorem Dev.preFlt_none {d : Dev} {i : Instr} {g : Bool} {t : Thread} (h1 : levelOf i ≤ t.level.num)
    (h2 : ∀ n ∈ namedOf i, n.regBad t.regs.length = false)
    (h3 : (g = true ∨ ∃ n ∈ namedOf i, n.isGang = true) → (d.gangOf? t).isSome = true) : d.preFlt i g t = none := by
  have e1 : decide (t.level.num < levelOf i) = false := by simpa using h1
  have e2 : (namedOf i).any (Named.regBad t.regs.length) = false := by
    rw [List.any_eq_false]
    intro n hn
    simp [h2 n hn]
  have e3 : ((g || (namedOf i).any Named.isGang) && (d.gangOf? t).isNone) = false := by
    by_cases hg : g = true ∨ ∃ n ∈ namedOf i, n.isGang = true
    · have := h3 hg
      cases hx : d.gangOf? t <;> simp_all
    · have a : g = false := by
        cases g
        · rfl
        · exact absurd (.inl rfl) hg
      have b : (namedOf i).any Named.isGang = false := by
        rw [List.any_eq_false]
        intro n hn hx
        exact hg (.inr ⟨n, hn, hx⟩)
      simp [a, b]
  simp [Dev.preFlt, e1, e2, e3]

theorem Dev.Passes.guardFlt {d : Dev} {i : Instr} {h : Hd} {g : Bool} {t : Thread} (p : d.Passes i h g t) :
    d.guardFlt i h g t = none := by
  obtain ⟨h1, h2, h3, h4⟩ := p
  simp [Dev.guardFlt, Dev.preFlt_none h1 h2 h3, h4]

/-! ### Changing threads -/

theorem Dev.mapUids_nil (d : Dev) (f : Thread → Thread) : d.mapUids [] f = d := by
  simp [Dev.mapUids, Dev.mapThreads]

theorem Dev.group_congr {d e : Dev} (h : d.cur = e.cur) : d.group = e.group := by simp [Dev.group, h]

@[simp] theorem Dev.prefer_threads (d : Dev) (y : Yield) : (d.prefer y).threads = d.threads := by
  unfold Dev.prefer; split <;> rfl
@[simp] theorem Dev.prefer_cur (d : Dev) (y : Yield) : (d.prefer y).cur = d.cur := by unfold Dev.prefer; split <;> rfl
@[simp] theorem Dev.prefer_pcyc (d : Dev) (y : Yield) : (d.prefer y).pcyc = d.pcyc := by unfold Dev.prefer; split <;> rfl
@[simp] theorem Dev.prefer_mem (d : Dev) (y : Yield) : (d.prefer y).mem = d.mem := by unfold Dev.prefer; split <;> rfl
@[simp] theorem Dev.prefer_ctxs (d : Dev) (y : Yield) : (d.prefer y).ctxs = d.ctxs := by unfold Dev.prefer; split <;> rfl
@[simp] theorem Dev.prefer_chunks (d : Dev) (y : Yield) : (d.prefer y).chunks = d.chunks := by unfold Dev.prefer; split <;> rfl
@[simp] theorem Dev.prefer_launches (d : Dev) (y : Yield) : (d.prefer y).launches = d.launches := by
  unfold Dev.prefer; split <;> rfl
@[simp] theorem Dev.prefer_group (d : Dev) (y : Yield) : (d.prefer y).group = d.group := Dev.group_congr (by simp)
/-- What performing late reads leaves as it was: everything but the threads and what the caches have seen. -/
theorem Dev.perform_keeps {α : Type} (d : Dev) (t : Thread) (u : Unread) (f : Dev → α)
    (h1 : ∀ (d : Dev) (ts : List Thread), f { d with threads := ts } = f d) (h2 : ∀ (d : Dev) (c : Caches), f { d with caches := c } = f d) :
    f (d.perform t u) = f d := by
  have hs : ∀ (d : Dev) (a : List Agent) (pa n : Nat), f (d.sawAs a pa n) = f d := by
    intro d a pa n
    unfold Dev.sawAs
    first
      | exact h2 _ _
      | (split <;> first | rfl | exact h2 _ _)
  unfold Dev.perform
  simp only
  split
  · rw [hs]; exact h1 _ _
  · exact h1 _ _

theorem Dev.confirmed_keeps {α : Type} (d : Dev) (i : Instr) (g : Bool) (f : Dev → α)
    (h1 : ∀ (d : Dev) (ts : List Thread), f { d with threads := ts } = f d) (h2 : ∀ (d : Dev) (c : Caches), f { d with caches := c } = f d) :
    f (d.confirmed i g) = f d := by
  have inner : ∀ (t : Thread) (ls : List Late) (d : Dev), f (ls.foldl (fun d l => (l.unread.map (d.perform t)).getD d) d) = f d := by
    intro t ls
    induction ls with
    | nil => intro d; rfl
    | cons l r ih =>
      intro d
      rw [List.foldl_cons, ih]
      cases l.unread with
      | none => rfl
      | some u => exact Dev.perform_keeps d t u f h1 h2
  unfold Dev.confirmed
  simp only
  generalize d.threads.filter _ = ts
  induction ts generalizing d with
  | nil => rfl
  | cons t r ih => rw [List.foldl_cons, ih, inner]

@[simp] theorem Dev.confirmed_cur (d : Dev) (i : Instr) (g : Bool) : (d.confirmed i g).cur = d.cur :=
  Dev.confirmed_keeps d i g Dev.cur (fun _ _ => rfl) (fun _ _ => rfl)
@[simp] theorem Dev.confirmed_pcyc (d : Dev) (i : Instr) (g : Bool) : (d.confirmed i g).pcyc = d.pcyc :=
  Dev.confirmed_keeps d i g Dev.pcyc (fun _ _ => rfl) (fun _ _ => rfl)
@[simp] theorem Dev.confirmed_mem (d : Dev) (i : Instr) (g : Bool) : (d.confirmed i g).mem = d.mem :=
  Dev.confirmed_keeps d i g Dev.mem (fun _ _ => rfl) (fun _ _ => rfl)
@[simp] theorem Dev.confirmed_ctxs (d : Dev) (i : Instr) (g : Bool) : (d.confirmed i g).ctxs = d.ctxs :=
  Dev.confirmed_keeps d i g Dev.ctxs (fun _ _ => rfl) (fun _ _ => rfl)
@[simp] theorem Dev.confirmed_cores (d : Dev) (i : Instr) (g : Bool) : (d.confirmed i g).cores = d.cores :=
  Dev.confirmed_keeps d i g Dev.cores (fun _ _ => rfl) (fun _ _ => rfl)
@[simp] theorem Dev.confirmed_group (d : Dev) (i : Instr) (g : Bool) : (d.confirmed i g).group = d.group := Dev.group_congr (by simp)

/-- Where no group issues, no late read is performed. -/
theorem Dev.confirmed_none (d : Dev) (i : Instr) (g : Bool) (h : d.group = []) : d.confirmed i g = d := by
  unfold Dev.confirmed
  have : d.threads.filter (fun t => d.group.contains t.uid && !t.shadow && !t.unreads.isEmpty) = [] := by
    rw [List.filter_eq_nil_iff]
    intro t _
    simp [h]
  rw [this]
  rfl

@[simp] theorem Dev.tick_group (d : Dev) : d.tick.group = d.group := rfl
@[simp] theorem Dev.opened_group (d : Dev) (i : Instr) (h : Hd) : (d.opened i h).group = d.group :=
  Dev.group_congr (by simp [Dev.opened])
@[simp] theorem Dev.opened_pcyc (d : Dev) (i : Instr) (h : Hd) : (d.opened i h).pcyc = d.pcyc := by simp [Dev.opened]
@[simp] theorem Dev.opened_cur (d : Dev) (i : Instr) (h : Hd) : (d.opened i h).cur = d.cur := by simp [Dev.opened]
@[simp] theorem Dev.opened_mem (d : Dev) (i : Instr) (h : Hd) : (d.opened i h).mem = d.mem := by simp [Dev.opened]
@[simp] theorem Dev.mapUids_group (d : Dev) (us : List Nat) (f : Thread → Thread) : (d.mapUids us f).group = d.group := rfl

/-- Sorting keeps the members. -/
theorem mem_sortBy {α : Type} (f : α → Nat) (l : List α) (x : α) : x ∈ sortBy f l ↔ x ∈ l := by
  induction l with
  | nil => simp [sortBy]
  | cons a r ih =>
    have : sortBy f (a :: r) =
        (sortBy f r).takeWhile (fun b => f b < f a) ++ a :: (sortBy f r).dropWhile (fun b => f b < f a) := rfl
    have hs := List.takeWhile_append_dropWhile (p := fun b => decide (f b < f a)) (l := sortBy f r)
    rw [this, List.mem_append, List.mem_cons, List.mem_cons, ← ih]
    conv_rhs => rw [← hs, List.mem_append]
    tauto

/-- The threads acted on are of the group. -/
theorem Dev.acting_group {d : Dev} {h : Hd} {bits : List Nat} {t : Thread} (ht : t ∈ d.acting h bits) :
    d.group.contains t.uid = true := by
  have h1 : t ∈ d.members := (List.mem_filter.1 ht).1
  exact (List.mem_filter.1 ((mem_sortBy _ _ _).1 h1)).2

/-- Changing threads of the group and retiring it, in one map. -/
theorem Dev.done_eq (e : Dev) (us : List Nat) (h : Hd) (f : Thread → Thread)
    (hs : ∀ u, us.contains u = true → e.group.contains u = true) (hu : ∀ t, (f t).uid = t.uid) :
    (e.mapUids us f).done h =
      { e with
        threads := e.threads.map (fun t =>
          if e.group.contains t.uid then (if us.contains t.uid then f t else t).gone h e.pcyc else t) } := by
  have hth : (e.threads.map (fun t => if us.contains t.uid then f t else t)).map
        (fun t => if e.group.contains t.uid then (t.retire e.pcyc).hint h.yh e.pcyc else t) =
      e.threads.map (fun t =>
        if e.group.contains t.uid then (if us.contains t.uid then f t else t).gone h e.pcyc else t) := by
    rw [List.map_map]
    apply List.map_congr_left
    intro t _
    simp only [Function.comp_apply]
    by_cases hx : us.contains t.uid = true
    · rw [if_pos hx, hu, if_pos (hs _ hx)]
      rw [if_pos (hs _ hx)]
      rfl
    · rw [if_neg hx]
      rfl
  rw [← hth]
  rfl

/-- The map of the threads that a body which changes the acting ones makes. -/
def Dev.laneMap (d : Dev) (i : Instr) (h : Hd) (bits : List Nat) (f : Thread → Thread) (t : Thread) : Thread :=
  if d.group.contains t.uid then
    if (((d.opened i h).acting h bits).map Thread.uid).contains t.uid then f t else t.gone h d.pcyc
  else t

/-- Changing the acting threads and retiring the group. -/
theorem Dev.done_after (d : Dev) (i : Instr) (h : Hd) (bits : List Nat) (f : Thread → Thread)
    (hu : ∀ t, (f t).uid = t.uid) :
    ((d.opened i h).mapUids (((d.opened i h).acting h bits).map Thread.uid) f).done h = d.after i h (d.laneMap i h bits (fun t => (f t).gone h d.pcyc)) := by
  rw [Dev.done_eq _ _ _ _ _ hu]
  · have hm : (fun t : Thread => if (d.opened i h).group.contains t.uid then
          (if (((d.opened i h).acting h bits).map Thread.uid).contains t.uid then f t else t).gone h (d.opened i h).pcyc else t) =
        d.laneMap i h bits (fun t => (f t).gone h d.pcyc) := by
      funext t
      simp only [Dev.laneMap, Dev.opened_group, Dev.opened_pcyc]
      split
      · split <;> rfl
      · rfl
    rw [hm]
    rfl
  · intro u hx
    simp only [List.contains_iff_mem, List.mem_map] at hx
    obtain ⟨t, ht, rfl⟩ := hx
    exact Dev.acting_group ht

/-- That map does what `LaneMap` says, where the body's change is `F` on the acting threads. -/
theorem Dev.laneMap_spec (d : Dev) (i : Instr) (h : Hd) (bits : List Nat) (f : Thread → Thread) (F : Dev → Thread → Thread)
    (hf : ∀ t ∈ (d.opened i h).acting h bits, f t = F (d.opened i h) t) : d.LaneMap i h bits F (d.laneMap i h bits f) := by
  refine ⟨?_, ?_, ?_⟩
  · intro t ht
    have hg : d.group.contains t.uid = true := by
      have := Dev.acting_group ht
      rwa [Dev.opened_group] at this
    have ha : (((d.opened i h).acting h bits).map Thread.uid).contains t.uid = true := by
      rw [List.contains_iff_mem]
      exact List.mem_map_of_mem ht
    rw [Dev.laneMap, if_pos hg, if_pos ha, hf t ht]
  · intro t hg ha
    rw [Dev.laneMap, if_pos hg, if_neg (by rw [ha]; simp)]
  · intro t hg
    rw [Dev.laneMap, if_neg (by rw [hg]; simp)]

/-- A per-lane instruction whose checks pass runs its body on the acting threads, or retires where none acts. -/
theorem Dev.lanes_ok (d : Dev) (i : Instr) (h : Hd) (bits : List Nat) (g : Bool) (body : List Thread → Dev → Dev)
    (hp : ∀ t ∈ (d.opened i h).acting h bits, (d.opened i h).Passes i h g t) :
    d.lanes i h bits g body =
      if (d.opened i h).acting h bits = [] then (d.opened i h).done h else body ((d.opened i h).acting h bits) (d.opened i h) := by
  have hf : (d.opened i h).faultIn i ((d.opened i h).acting h bits) ((d.opened i h).guardFlt i h g) = none :=
    Dev.faultIn_none (fun t ht => (hp t ht).guardFlt)
  have ho : (let d1 := (d.tick.prefer h.yh).confirmed i false; d1.mapUids d1.group (fun t => { t with latches := latchesOf i })) =
      d.opened i h := by
    simp only [Dev.opened, Dev.confirmed_group, Dev.prefer_group, Dev.tick_group]
  unfold Dev.lanes
  simp only at ho ⊢
  rw [ho]
  show (if (d.opened i h).acting h bits = [] then (d.opened i h).done h else
    match (d.opened i h).faultIn i ((d.opened i h).acting h bits) ((d.opened i h).guardFlt i h g) with
    | some f => (d.opened i h).failGroup h ((d.opened i h).acting h bits) f
    | none => body ((d.opened i h).acting h bits) (d.opened i h)) = _
  rw [hf]

/-- The same for a body that changes each acting thread and retires the group. -/
theorem Dev.lanes_after (d : Dev) (i : Instr) (h : Hd) (bits : List Nat) (g : Bool) (body : List Thread → Dev → Dev)
    (f : Thread → Thread) (hu : ∀ t, (f t).uid = t.uid)
    (hp : ∀ t ∈ (d.opened i h).acting h bits, (d.opened i h).Passes i h g t)
    (hb : body ((d.opened i h).acting h bits) (d.opened i h) =
      ((d.opened i h).mapUids (((d.opened i h).acting h bits).map Thread.uid) f).done h) :
    d.lanes i h bits g body = d.after i h (d.laneMap i h bits (fun t => (f t).gone h d.pcyc)) := by
  rw [Dev.lanes_ok d i h bits g body hp, ← Dev.done_after d i h bits f hu]
  split
  · rename_i he; simp [he, Dev.mapUids_nil]
  · exact hb

/-- An instruction whose body maps the threads completes as `LaneEnds` says. -/
theorem LaneEnds.of {i : Instr} {h : Hd} {bits : List Nat} {g : Bool} {ok : Dev → Thread → Prop} {F : Dev → Thread → Thread}
    (body : List Thread → Dev → Dev)
    (hx : ∀ s : State, exec i s = .next { s with dev := s.dev.lanes i h bits g body })
    (hb : ∀ d : Dev, d.AllPass i h bits g ok → (d.opened i h).acting h bits ≠ [] →
      body ((d.opened i h).acting h bits) (d.opened i h) = d.after i h (d.laneMap i h bits (F (d.opened i h)))) :
    LaneEnds i h bits g ok F := by
  intro s hp
  refine ⟨s.dev.laneMap i h bits (F (s.dev.opened i h)), ?_, Dev.laneMap_spec _ _ _ _ _ _ (fun t _ => rfl)⟩
  rw [hx, Dev.lanes_ok s.dev i h bits g body (fun t ht => (hp t ht).1)]
  split
  · rename_i he
    have := Dev.done_after s.dev i h bits id (fun _ => rfl)
    rw [he, List.map_nil, Dev.mapUids_nil] at this
    have hm : s.dev.laneMap i h bits (fun t => (id t).gone h s.dev.pcyc) = s.dev.laneMap i h bits (F (s.dev.opened i h)) := by
      funext t
      simp [Dev.laneMap, he]
    rw [this, hm]
  · rename_i he
    rw [hb s.dev hp he]

/-- An instruction whose body changes the acting threads and retires the group completes as `LaneRuns` says. -/
theorem LaneRuns.of {i : Instr} {h : Hd} {bits : List Nat} {g : Bool} {ok : Dev → Thread → Prop} {F : Dev → Thread → Thread}
    (body : List Thread → Dev → Dev) (f : Dev → Thread → Thread)
    (hx : ∀ s : State, exec i s = .next { s with dev := s.dev.lanes i h bits g body })
    (hu : ∀ e t, (f e t).uid = t.uid)
    (hb : ∀ e : Dev, (∀ t ∈ e.acting h bits, e.Passes i h g t ∧ ok e t) →
      body (e.acting h bits) e = (e.mapUids ((e.acting h bits).map Thread.uid) (f e)).done h)
    (hf : ∀ e : Dev, ∀ t ∈ e.acting h bits, e.Passes i h g t → ok e t → f e t = F e t) : LaneRuns i h bits g ok F := by
  intro s hp
  refine ⟨s.dev.laneMap i h bits (fun t => (f (s.dev.opened i h) t).gone h s.dev.pcyc), ?_, ?_⟩
  · rw [hx, Dev.lanes_after s.dev i h bits g body _ (hu _) (fun t ht => (hp t ht).1) (hb _ hp)]
  · refine Dev.laneMap_spec _ _ _ _ _ _ (fun t ht => ?_)
    rw [hf _ t ht (hp t ht).1 (hp t ht).2, Dev.opened_pcyc]

/-! ### Instructions whose effect leaves the core -/

/-- Checks of an instruction's own that pass. -/
theorem Dev.lanesChk_ok (d : Dev) (i : Instr) (h : Hd) (g : Bool) (chk : Dev → Thread → Option Flt) (body : List Thread → Dev → Dev)
    (hp : ∀ t ∈ (d.opened i h).acting h [0], (d.opened i h).Passes i h g t ∧ chk (d.opened i h) t = none) :
    d.lanesChk i h g chk body =
      if (d.opened i h).acting h [0] = [] then (d.opened i h).done h else body ((d.opened i h).acting h [0]) (d.opened i h) := by
  unfold Dev.lanesChk
  rw [Dev.lanes_ok _ _ _ _ _ _ (fun t ht => (hp t ht).1)]
  have hf : (d.opened i h).faultIn i ((d.opened i h).acting h [0]) (chk (d.opened i h)) = none := Dev.faultIn_none (fun t ht => (hp t ht).2)
  rw [hf]

/-- An instruction whose effect leaves the core, with its checks passed and its pairs agreed. -/
theorem Dev.lanesOut_ok (d : Dev) (i : Instr) (h : Hd) (g : Bool) (key : Dev → Thread → List Nat)
    (chk : Dev → Thread → Option Flt) (body : List Thread → Dev → Dev)
    (hp : d.OutPass i h g key (fun e t => chk e t = none)) :
    d.lanesOut i h g key chk body = body (primaries ((d.opened i h).acting h [0])) (d.opened i h) := by
  obtain ⟨h1, h2, h3⟩ := hp
  unfold Dev.lanesOut
  rw [Dev.lanes_ok _ _ _ _ _ _ (fun t ht => (h1 t ht).1), if_neg h2]
  have hf : (d.opened i h).faultIn i ((d.opened i h).acting h [0]) (chk (d.opened i h)) = none := Dev.faultIn_none (fun t ht => (h1 t ht).2)
  simp only [hf, h3]

theorem OutRuns.of {i : Instr} {h : Hd} {g : Bool} {key : Dev → Thread → List Nat} {ok : Dev → Thread → Prop}
    {body : Dev → List Thread → Dev} (chk : Dev → Thread → Option Flt) (run : List Thread → Dev → Dev)
    (hx : ∀ s : State, exec i s = .next { s with dev := s.dev.lanesOut i h g key chk run })
    (hc : ∀ e t, ok e t → chk e t = none)
    (hb : ∀ e : Dev, (∀ t ∈ e.acting h [0], e.Passes i h g t ∧ ok e t) → run (primaries (e.acting h [0])) e = body e (primaries (e.acting h [0]))) :
    OutRuns i h g key ok body := by
  intro s hp
  have hq : s.dev.OutPass i h g key (fun e t => chk e t = none) :=
    ⟨fun t ht => ⟨(hp.1 t ht).1, hc _ t (hp.1 t ht).2⟩, hp.2⟩
  rw [hx, Dev.lanesOut_ok _ _ _ _ _ _ _ hq, hb _ hp.1]

/-! ### Gang-wide instructions -/

/-- The completion of a rendezvous executes its operation for the participants whose guard is true. -/
theorem Dev.gangWide_ok (d : Dev) (i : Instr) (h : Hd) (body : Meet → List Thread → Dev → Dev) (m : Meet) (hm : d.MeetsAt i h m) :
    d.gangWide i h body = body m (m.true? h) d.tick := by
  obtain ⟨h1, h2, h3, h4, h5⟩ := hm
  have ht : d.tick.meet? m.core m.idx = some m := h2
  have hc : d.tick.confirmed i true = d.tick := Dev.confirmed_none _ _ _ (by simp [Dev.group, h1])
  unfold Dev.gangWide
  simp only [hc, Dev.tick_cur, h1]
  unfold Dev.meetIf
  have hg : ∃ g v, d.tick.gang? m.core m.idx = some g ∧ g.rdv = some v ∧ m.gang = g := by
    unfold Dev.meet? at ht
    cases hgg : d.tick.gang? m.core m.idx with
    | none => rw [hgg] at ht; simp at ht
    | some g =>
      rw [hgg] at ht
      cases hv : g.rdv with
      | none => simp [hv] at ht
      | some v =>
        simp only [hv, Option.some.injEq] at ht
        exact ⟨g, v, rfl, hv, by rw [← ht]⟩
  obtain ⟨g, v, hgg, hv, hmg⟩ := hg
  rw [hgg]
  simp only [hv]
  rw [if_pos (h3 v (by rw [hmg]; exact hv)), ht]
  simp only
  unfold Dev.meetRun
  have hbad : ((m.parts.filter (fun p => p.2.active h [0])).map Prod.snd).filter (fun t => t.predP h.gp) = [] := by
    rw [List.filter_eq_nil_iff]
    intro t ht
    obtain ⟨p, hp, rfl⟩ := List.mem_map.1 ht
    simp [h4 p (List.mem_filter.1 hp).1]
  have hact : (m.parts.filter (fun p => p.2.active h [0])).map Prod.snd = m.true? h := by
    unfold Meet.true?
    congr 1
    apply List.filter_congr
    intro p hp
    simp [Thread.active, h4 p hp, Thread.guard]
  have hodd : (if comparesGuards i then d.tick.oddGuards h m else []) = [] := by
    split
    · rename_i hx; exact h5 hx
    · rfl
  rw [hact] at hbad
  simp only [hact, hbad]
  rw [hodd]
  rfl

theorem MeetRuns.of {i : Instr} {h : Hd} {ok : Dev → Meet → Prop} {body : Dev → Meet → List Thread → Dev}
    (run : Meet → List Thread → Dev → Dev)
    (hx : ∀ s : State, exec i s = .next { s with dev := s.dev.gangWide i h run })
    (hb : ∀ d m, ok d m → run m (m.true? h) d = body d m (m.true? h)) : MeetRuns i h ok body := by
  intro s m hm hk
  rw [hx, Dev.gangWide_ok _ _ _ _ m hm, hb _ _ hk]

end Sys2Proof.Machine
end

