-- ==== Sys2Proof/Laws/Alu.lean ====
section
/-! SUPPORT. What the driver of the arithmetic instructions does in one lane, and its elements. -/

namespace Sys2Proof.Machine

/-! ### Writing a result keeps what is no register -/

/-- A change that keeps a thread's names and its guard. -/
structure Thread.Keeps (t u : Thread) : Prop where
  uid : u.uid = t.uid
  ctx : u.ctx = t.ctx

theorem Thread.Keeps.refl (t : Thread) : t.Keeps t := ⟨rfl, rfl⟩
theorem Thread.Keeps.trans {t u v : Thread} (a : t.Keeps u) (b : u.Keeps v) : t.Keeps v :=
  ⟨b.uid.trans a.uid, b.ctx.trans a.ctx⟩

theorem Thread.keeps_wr (t : Thread) (r : VReg) (v : W32) (p : Bool) : t.Keeps (t.wr r v p) := ⟨rfl, rfl⟩
theorem Thread.keeps_setPred (t : Thread) (q : PReg) (v : Byte) (p : Bool) : t.Keeps (t.setPred q v p) := ⟨by simp, by simp⟩
theorem Thread.keeps_orFlags (t : Thread) (f : FFlags) : t.Keeps (t.orFlags f) := ⟨rfl, rfl⟩

theorem Thread.keeps_foldl {α : Type} (f : Thread → α → Thread) (hf : ∀ (t : Thread) (a : α), t.Keeps (f t a)) (l : List α) (t : Thread) :
    t.Keeps (l.foldl f t) := by
  induction l generalizing t with
  | nil => exact Thread.Keeps.refl t
  | cons a r ih => exact (hf t a).trans (ih (f t a))

theorem Thread.keeps_dropLate (t : Thread) (rs : List VReg) : t.Keeps (t.dropLate rs) := by
  apply Thread.keeps_foldl
  intro t r
  split
  · split
    · exact Thread.keeps_wr _ _ _ _
    · exact ⟨rfl, rfl⟩
  · exact ⟨rfl, rfl⟩

theorem Thread.keeps_addLate (t : Thread) (l : Late) : t.Keeps (t.addLate l) := (Thread.keeps_dropLate t _).trans ⟨rfl, rfl⟩

theorem Thread.keeps_wrResP (t : Thread) (h : Hd) (r : VReg) (vs : List (W32 × Bool)) : t.Keeps (t.wrResP h r vs) := by
  unfold Thread.wrResP
  split
  · apply Thread.keeps_foldl
    intro t x
    exact Thread.keeps_wr _ _ _ _
  · exact Thread.keeps_addLate t _

theorem Thread.keeps_wrRes (t : Thread) (h : Hd) (r : VReg) (vs : List W32) (p : Bool) : t.Keeps (t.wrRes h r vs p) :=
  Thread.keeps_wrResP _ _ _ _

theorem Thread.keeps_wrs (t : Thread) (r : VReg) (vs : List W32) (p : Bool) : t.Keeps (t.wrs r vs p) := by
  induction vs generalizing t r with
  | nil => exact Thread.Keeps.refl t
  | cons v vs ih => exact (Thread.keeps_wr t r v p).trans (ih _ _)

theorem keeps_aluLane (e : Env) (h : Hd) (r : VReg) (two : Bool) (a b c : Opd) (f : AluFn) (pd : Option PredFn) (t : Thread) :
    t.Keeps (aluLane e h r two a b c f pd t) := by
  unfold aluLane
  simp only
  split
  · exact (Thread.keeps_wrRes _ _ _ _ _).trans (Thread.keeps_orFlags _ _)
  · exact ((Thread.keeps_wrRes _ _ _ _ _).trans (Thread.keeps_orFlags _ _)).trans (Thread.keeps_setPred _ _ _ _)

/-! ### The elements of a result -/

/-- The merged bits of a run of an operation, as a sum. -/
theorem AluFn.run_val (f : AluFn) (s : Srcs) (gov : Nat → Bool) (old : Nat) :
    (f.run s gov old).val = merged f.w f.n gov (fun k => (f.elem s k).val) old := by
  unfold AluFn.run merged upTo
  generalize f.n = n
  have key : ∀ (l : List Nat) (acc : Elem),
      (l.foldl (fun (acc : Elem) k => if gov k then
          let e := f.elem s k
          { val := acc.val + e.val % 2 ^ f.w * 2 ^ (f.w * k), mark := acc.mark || e.mark, flags := acc.flags ||| e.flags }
        else { acc with val := acc.val + elemOf f.w k old * 2 ^ (f.w * k) }) acc).val =
      acc.val + (l.map (fun k => (if gov k then (f.elem s k).val % 2 ^ f.w else elemOf f.w k old) * 2 ^ (f.w * k))).sum := by
    intro l
    induction l with
    | nil => intro acc; simp
    | cons k r ih =>
      intro acc
      simp only [List.foldl_cons, List.map_cons, List.sum_cons]
      rw [ih]
      split <;> simp [Nat.add_assoc]
  simpa using key (List.range n) { val := 0 }

/-- A run marks exactly where a governed element is marked. -/
theorem AluFn.run_mark (f : AluFn) (s : Srcs) (gov : Nat → Bool) (old : Nat) :
    (f.run s gov old).mark = (upTo f.n).any (fun k => gov k && (f.elem s k).mark) := by
  unfold AluFn.run upTo
  generalize f.n = n
  have key : ∀ (l : List Nat) (acc : Elem),
      (l.foldl (fun (acc : Elem) k => if gov k then
          let e := f.elem s k
          { val := acc.val + e.val % 2 ^ f.w * 2 ^ (f.w * k), mark := acc.mark || e.mark, flags := acc.flags ||| e.flags }
        else { acc with val := acc.val + elemOf f.w k old * 2 ^ (f.w * k) }) acc).mark =
      (acc.mark || l.any (fun k => gov k && (f.elem s k).mark)) := by
    intro l
    induction l with
    | nil => intro acc; simp
    | cons k r ih =>
      intro acc
      simp only [List.foldl_cons, List.any_cons]
      rw [ih]
      split <;> simp_all [Bool.or_assoc]
  simpa using key (List.range n) { val := 0 }

/-- The flags of a run are those of its governed elements. -/
theorem AluFn.run_flags (f : AluFn) (s : Srcs) (gov : Nat → Bool) (old : Nat) :
    (f.run s gov old).flags = (upTo f.n).foldl (fun (x : FFlags) k => if gov k then x ||| (f.elem s k).flags else x) 0 := by
  unfold AluFn.run upTo
  generalize f.n = n
  have key : ∀ (l : List Nat) (acc : Elem),
      (l.foldl (fun (acc : Elem) k => if gov k then
          let e := f.elem s k
          { val := acc.val + e.val % 2 ^ f.w * 2 ^ (f.w * k), mark := acc.mark || e.mark, flags := acc.flags ||| e.flags }
        else { acc with val := acc.val + elemOf f.w k old * 2 ^ (f.w * k) }) acc).flags =
      l.foldl (fun (x : FFlags) k => if gov k then x ||| (f.elem s k).flags else x) acc.flags := by
    intro l
    induction l with
    | nil => intro acc; simp
    | cons k r ih =>
      intro acc
      simp only [List.foldl_cons]
      rw [ih]
      split <;> rfl
  simpa using key (List.range n) { val := 0 }

/-- Where every element is governed the old bits do not matter. -/
theorem merged_all {w n : Nat} {gov : Nat → Bool} (h : (upTo n).all gov = true) (val : Nat → Nat) (a b : Nat) :
    merged w n gov val a = merged w n gov val b := by
  unfold merged
  congr 1
  apply List.map_congr_left
  intro k hk
  rw [if_pos (List.all_eq_true.1 h k hk), if_pos (List.all_eq_true.1 h k hk)]

/-- An acting thread whose guard is not poisoned has a governing bit. -/
theorem acting_guard {d : Dev} {h : Hd} {bits : List Nat} {t : Thread} (ht : t ∈ d.acting h bits) (hp : t.predP h.gp = false) :
    bits.any (fun k => t.guardBit h k) = true := by
  have := (List.mem_filter.1 ht).2
  simpa [Thread.active, hp] using this

/-- What a lane of an arithmetic instruction does, element by element. -/
theorem aluLane_elems (e : Env) (h : Hd) (r : VReg) (two : Bool) (a b c : Opd) (f : AluFn) (pd : Option PredFn) (t : Thread) :
    aluLane e h r two a b c f pd t =
      (match pd with
       | none => laneElems e h r two f.w f.n (fun k => (f.elem (e.srcs a b c) k).val)
           ((upTo f.n).foldl (fun (x : FFlags) k => if e.t.gov h f.w k then x ||| (f.elem (e.srcs a b c) k).flags else x) 0)
           (e.srcs a b c).p t
       | some q => (laneElems e h r two f.w f.n (fun k => (f.elem (e.srcs a b c) k).val)
           ((upTo f.n).foldl (fun (x : FFlags) k => if e.t.gov h f.w k then x ||| (f.elem (e.srcs a b c) k).flags else x) 0)
           (e.srcs a b c).p t).setPred q.p (if q.f (e.srcs a b c) then (if two then 0xFF else 0x0F) else 0x00) (e.srcs a b c).p) := by
  have hold : e.read 3 (.v r two) =
      (if two then (e.t.rd64 (4 * e.c + 3) r).toNat else (e.t.rd (4 * e.c + 3) r).toNat,
       if two then e.t.rdP64 (4 * e.c + 3) r else e.t.rdP (4 * e.c + 3) r) := by
    cases two <;> rfl
  have hw : ∀ x : Bool, cmpWrite (if two then 64 else 32) 1 (fun _ => true) (fun _ => x) 0 =
      (if x then (if two then 0xFF else 0x0F) else 0x00) := by
    intro x; cases two <;> cases x <;> decide
  have hv : merged f.w f.n (e.t.gov h f.w) (fun k => (f.elem (e.srcs a b c) k).val)
      (if e.t.partial? h f.w f.n then (e.read 3 (.v r two)).1 else 0) =
      merged f.w f.n (e.t.gov h f.w) (fun k => (f.elem (e.srcs a b c) k).val) (e.read 3 (.v r two)).1 := by
    unfold Thread.partial?
    cases hg : (upTo f.n).all (e.t.gov h f.w) with
    | true => exact merged_all hg _ _ _
    | false => simp
  unfold aluLane laneElems
  simp only [AluFn.run_val, AluFn.run_flags, hw]
  rw [hold] at hv ⊢
  simp only at hv ⊢
  rw [hv]
  rfl

/-- The governing bits of one element of any width the machine has. -/
theorem laneElems_one (e : Env) (h : Hd) (r : VReg) (two : Bool) (w : Nat) (val : Nat → Nat) (fl : FFlags) (p : Bool) (t : Thread)
    (hg : e.t.gov h w 0 = true) : laneElems e h r two w 1 val fl p t = laneOne h r two (val 0 % 2 ^ w) fl p t := by
  simp [laneElems, laneOne, merged, upTo, hg]

/-- Reducing a result to its width does not change the registers written. -/
theorem aluWords_mod (two : Bool) (x : Nat) : aluWords two (x % 2 ^ (if two then 64 else 32)) = aluWords two x := by
  cases two
  · simp only [aluWords, Bool.false_eq_true, if_false, List.cons.injEq, and_true]
    apply BitVec.eq_of_toNat_eq
    simp
  · simp only [aluWords, if_true, List.cons.injEq, and_true]
    constructor
    · apply BitVec.eq_of_toNat_eq
      simp only [BitVec.toNat_ofNat]
      omega
    · apply BitVec.eq_of_toNat_eq
      simp only [BitVec.toNat_ofNat]
      omega

/-- A vector form of an arithmetic instruction completes with the change of one lane. -/
theorem alu_runs (i : Instr) (h : Hd) (r : VReg) (two : Bool) (a b c : Opd) (f : AluFn) (pd : Option PredFn)
    (ok : Dev → Thread → Prop) (F : Dev → Thread → Thread)
    (hx : ∀ s : State, exec i s = onDev s (fun x => x.alu i h (.v r) two a b c f pd))
    (hm : ∀ e t, ok e t → (f.run ((e.env t).srcs a b c) (t.gov h f.w) 0).mark = false)
    (hf : ∀ e : Dev, ∀ t ∈ e.acting h (govBits f.w f.n), e.Passes i h false t → ok e t →
      aluLane (e.env t) h r two a b c f pd t = F e t) :
    LaneRuns i h (govBits f.w f.n) false ok F := by
  refine LaneRuns.of (fun act d =>
      match d.faultIn i act (fun t => aluMark (d.env t) h a b c f) with
      | some x => d.failGroup h act x
      | none => (d.mapUids (act.map Thread.uid) (fun t => aluLane (d.env t) h r two a b c f pd t)).done h)
    (fun e t => aluLane (e.env t) h r two a b c f pd t) hx ?_ ?_ hf
  · intro e t; exact (keeps_aluLane _ _ _ _ _ _ _ _ _ _).uid
  · intro e he
    have : e.faultIn i (e.acting h (govBits f.w f.n)) (fun t => aluMark (e.env t) h a b c f) = none := by
      apply Dev.faultIn_none
      intro t ht
      simp only [aluMark, flt_eq_none]
      exact hm e t (he t ht).2
    simp only [this]

/-! ### Integers -/

theorem ty_signed_width (ty : Ty) : 0 < ty.width := by cases ty <;> decide

theorem num_eq (ty : Ty) (x k : Nat) :
    elemInt ty.signed ty.width (elemOf ty.width k x) = elemNum ty x k := by
  unfold elemNum elemInt elemOf
  have hw := ty_signed_width ty
  simp only [BitVec.toInt_eq_toNat_cond, BitVec.toNat_ofNat]
  have h2 : 2 ^ ty.width = 2 * 2 ^ (ty.width - 1) := by
    conv_lhs => rw [show ty.width = (ty.width - 1) + 1 by omega, pow_succ]
    ring
  cases ty.signed
  · simp
  · simp only [Bool.true_and, decide_eq_true_eq, if_true]
    generalize hz : x / 2 ^ (ty.width * k) % 2 ^ ty.width = z
    by_cases hc : 2 ^ (ty.width - 1) ≤ z
    · rw [if_pos hc, if_neg (by omega)]; push_cast; rfl
    · rw [if_neg hc, if_pos (by omega)]

theorem wrap_eq (w : Nat) (x : Int) : wrapInt w x = (BitVec.ofInt w x).toNat := by
  simp [wrapInt, BitVec.toNat_ofInt]

theorem ov_val (v : Ov) (ty : Ty) (x : Int) : (applyOv v ty.signed ty.width x).val = putNum ty v x := by
  cases v <;> simp [applyOv, putNum, wrap_eq, satInt, intLo, intHi]

theorem ov_mark (v : Ov) (ty : Ty) (x : Int) (h : v = .trap → Fits ty x) : (applyOv v ty.signed ty.width x).mark = false := by
  cases v <;> simp [applyOv, outside, intLo, intHi]
  have := h rfl
  unfold Fits at this
  cases hs : ty.signed <;> simp [hs] at this ⊢ <;> omega

theorem ov_flags (v : Ov) (ty : Ty) (x : Int) : (applyOv v ty.signed ty.width x).flags = 0 := by
  cases v <;> rfl

theorem fold_zero (l : List Nat) (g : Nat → Bool) (f : Nat → FFlags) (hf : ∀ k, f k = 0) :
    l.foldl (fun (x : FFlags) k => if g k then x ||| f k else x) 0 = 0 := by
  induction l with
  | nil => rfl
  | cons k r ih => simp [hf]

theorem int_runs (i : Instr) (h : Hd) (ty : Ty) (v : Ov) (r : VReg) (a b c : Opd) (f g : Int → Int → Int → Int) (pd : Option PReg)
    (cy : Nat → Nat → Bool) (hfg : ∀ x y z, g x y z = f x y z)
    (hx : ∀ s : State, exec i s = onDev s (fun x => x.alu i h (.v r) ty.wide a b c (AluFn.int ty v g)
      (pd.map (fun p => { p := p, f := fun s => cy s.a s.b })))) :
    IntRuns i h ty v r a b c f pd cy := by
  obtain rfl : g = f := by funext x y z; exact hfg x y z
  unfold IntRuns
  refine alu_runs i h r ty.wide a b c (AluFn.int ty v g) _ _ _ hx ?_ ?_
  · intro e t hok
    rw [AluFn.run_mark, List.any_eq_false]
    intro k hk
    have hk' : k < ty.count := by simpa [AluFn.int, upTo] using hk
    simp only [Bool.and_eq_true, not_and, Bool.not_eq_true]
    intro hg
    apply ov_mark
    intro hv
    simp only [num_eq]
    exact hok hv k hk' hg
  · intro e t _ _ _
    rw [aluLane_elems]
    rw [fold_zero (upTo (AluFn.int ty v g).n) (fun k => (e.env t).t.gov h (AluFn.int ty v g).w k)
      (fun k => ((AluFn.int ty v g).elem ((e.env t).srcs a b c) k).flags) (fun k => ov_flags _ _ _)]
    have hval : (fun k => ((AluFn.int ty v g).elem ((e.env t).srcs a b c) k).val) =
        fun k => putNum ty v (g (elemNum ty ((e.env t).srcs a b c).a k) (elemNum ty ((e.env t).srcs a b c).b k)
          (elemNum ty ((e.env t).srcs a b c).c k)) := by
      funext k
      simp only [AluFn.int, ov_val, num_eq]
    rw [hval]
    cases pd <;> rfl

/-! ### Raw results -/

theorem read_src_lt (e : Env) (pos : Nat) (w : Bool) (a : Src) : (e.read pos (opdOf w a)).1 < 2 ^ wideW w := by
  cases a with
  | v r =>
    cases w
    · simpa [Env.read, opdOf, wideW] using (e.t.rd (4 * e.c + pos) r).isLt
    · simpa [Env.read, opdOf, wideW] using (e.t.rd64 (4 * e.c + pos) r).isLt
  | s r =>
    unfold Env.read opdOf
    simp only
    cases e.g with
    | none => cases w <;> simp [wideW]
    | some g =>
      cases w
      · simpa [wideW] using (lo32 (g.sreg r)).isLt
      · simpa [wideW] using (g.sreg r).isLt

theorem read_srcI_lt (e : Env) (pos : Nat) (w sg : Bool) (a : SrcI) : (e.read pos (opdI w sg a)).1 < 2 ^ wideW w := by
  cases a with
  | v r => exact read_src_lt e pos w (.v r)
  | s r => exact read_src_lt e pos w (.s r)
  | imm x =>
    have := x.isLt
    unfold Env.read opdI
    cases w
    · simpa [wideW] using this
    · cases sg
      · simp [wideW]; omega
      · simpa [wideW] using (sext64 x).isLt

theorem raw_runs (i : Instr) (h : Hd) (two : Bool) (r : VReg) (a b c : Opd) (w : Nat) (f : Srcs → Nat) (g : Nat → Nat → Nat → Nat)
    (hw : w = wideW two) 
    (hfg : ∀ e : Env, aluWords two (f (e.srcs a b c)) = aluWords two (g (e.srcs a b c).a (e.srcs a b c).b (e.srcs a b c).c))
    (hx : ∀ s : State, exec i s = onDev s (fun x => x.alu i h (.v r) two a b c (AluFn.raw w f))) :
    RawRuns i h two r a b c g := by
  subst hw
  have hb : govBits (wideW two) 1 = [0] := by cases two <;> rfl
  unfold RawRuns
  have := alu_runs i h r two a b c (AluFn.raw (wideW two) f) none (fun _ _ => True) (fun e t =>
    let s := (e.env t).srcs a b c
    laneOne h r two (g s.a s.b s.c) 0 s.p t) hx ?_ ?_
  · simpa [AluFn.raw, hb] using this
  · intro e t _
    rw [AluFn.run_mark, List.any_eq_false]
    intro k _
    simp [AluFn.raw]
  · intro e t ht hp _
    rw [aluLane_elems]
    simp only
    have hg : (e.env t).t.gov h (AluFn.raw (wideW two) f).w 0 = true := by
      have := acting_guard ht hp.2.2.2
      simp only [AluFn.raw] at this ⊢
      rw [hb] at this
      have h0 : govBit (wideW two) 0 = 0 := by cases two <;> rfl
      simpa [Thread.gov, h0, Dev.env] using this
    have h1 := laneElems_one (e.env t) h r two (AluFn.raw (wideW two) f).w (fun k => ((AluFn.raw (wideW two) f).elem ((e.env t).srcs a b c) k).val)
      ((upTo (AluFn.raw (wideW two) f).n).foldl (fun (x : FFlags) k => if (e.env t).t.gov h (AluFn.raw (wideW two) f).w k then x ||| ((AluFn.raw (wideW two) f).elem ((e.env t).srcs a b c) k).flags else x) 0)
      ((e.env t).srcs a b c).p t hg
    refine Eq.trans h1 ?_
    have hfl : ((upTo (AluFn.raw (wideW two) f).n).foldl (fun (x : FFlags) k => if (e.env t).t.gov h (AluFn.raw (wideW two) f).w k then x ||| ((AluFn.raw (wideW two) f).elem ((e.env t).srcs a b c) k).flags else x) 0) = 0 := by
      simp [AluFn.raw, upTo]
    rw [hfl]
    unfold laneOne
    have hmod : aluWords two (f ((e.env t).srcs a b c) % 2 ^ wideW two) = aluWords two (f ((e.env t).srcs a b c)) := aluWords_mod two _
    have : (fun k => ((AluFn.raw (wideW two) f).elem ((e.env t).srcs a b c) k).val) 0 % 2 ^ (AluFn.raw (wideW two) f).w = f ((e.env t).srcs a b c) % 2 ^ wideW two := rfl
    rw [this, hmod, hfg]

theorem words_congr {two : Bool} {x y : Nat} (h : x % 2 ^ wideW two = y % 2 ^ wideW two) : aluWords two x = aluWords two y := by
  rw [← aluWords_mod two x, ← aluWords_mod two y]
  exact congrArg _ h

theorem shr_op {w a n : Nat} (ha : a < 2 ^ w) : shrOp w a n = (BitVec.ofNat w a >>> n).toNat := by
  unfold shrOp
  simp only [BitVec.toNat_ushiftRight, BitVec.toNat_ofNat, Nat.mod_eq_of_lt ha, Nat.shiftRight_eq_div_pow]
  split
  · rfl
  · rename_i hn
    symm
    apply Nat.div_eq_of_lt
    calc a < 2 ^ w := ha
      _ ≤ 2 ^ n := Nat.pow_le_pow_right (by decide) (by omega)

theorem shl_op {w a n : Nat} : shlOp w a n = (BitVec.ofNat w a <<< n).toNat := by
  unfold shlOp
  simp only [BitVec.toNat_shiftLeft, BitVec.toNat_ofNat, Nat.shiftLeft_eq]
  split
  · rw [Nat.mod_mul_mod]
  · rename_i hn
    symm
    apply Nat.mod_eq_zero_of_dvd
    exact Dvd.dvd.mul_left (Nat.pow_dvd_pow 2 (by omega)) _

theorem sar_op {w a n : Nat} (hw : 0 < w) (ha : a < 2 ^ w) : sarOp w a n = ((BitVec.ofNat w a).sshiftRight n).toNat := by
  unfold sarOp wrapInt
  rw [BitVec.sshiftRight_eq]
  have hi : elemInt true w a = (BitVec.ofNat w a).toInt := by
    unfold elemInt
    simp only [BitVec.toInt_eq_toNat_cond, BitVec.toNat_ofNat, Nat.mod_eq_of_lt ha]
    have h2 : 2 ^ w = 2 * 2 ^ (w - 1) := by
      conv_lhs => rw [show w = (w - 1) + 1 by omega, pow_succ]
      ring
    simp only [Bool.true_and, decide_eq_true_eq]
    by_cases hc : 2 ^ (w - 1) ≤ a
    · rw [if_pos hc, if_neg (by omega)]; push_cast; rfl
    · rw [if_neg hc, if_pos (by omega)]
  rw [hi]
  have hs : (BitVec.ofNat w a).toInt.shiftRight (min n w) = (BitVec.ofNat w a).toInt >>> n := by
    show (BitVec.ofNat w a).toInt >>> (min n w) = _
    by_cases hn : n ≤ w
    · rw [Nat.min_eq_left hn]
    · rw [Nat.min_eq_right (by omega)]
      rw [Int.shiftRight_eq_div_pow, Int.shiftRight_eq_div_pow]
      have hl := @BitVec.toInt_lt w (BitVec.ofNat w a)
      have hg := @BitVec.le_toInt w (BitVec.ofNat w a)
      generalize (BitVec.ofNat w a).toInt = z at hl hg
      have hp1 : (2:Int) ^ (w-1) ≤ 2 ^ w := by exact_mod_cast Nat.pow_le_pow_right (by decide) (by omega : w - 1 ≤ w)
      have hp2 : (2:Int) ^ (w-1) ≤ 2 ^ n := by exact_mod_cast Nat.pow_le_pow_right (by decide) (by omega : w - 1 ≤ n)
      push_cast
      by_cases hz : 0 ≤ z
      · rw [Int.ediv_eq_zero_of_lt hz (by omega), Int.ediv_eq_zero_of_lt hz (by omega)]
      · have e1 : z / 2 ^ w = -1 := by
          apply Int.ediv_eq_neg_one_of_neg_of_le <;> omega
        have e2 : z / 2 ^ n = -1 := by
          apply Int.ediv_eq_neg_one_of_neg_of_le <;> omega
        rw [e1, e2]
  rw [hs, BitVec.toNat_ofInt]
  norm_cast

theorem rol_op {w a n : Nat} (hw : 0 < w) (ha : a < 2 ^ w) : rolOp w a n = ((BitVec.ofNat w a).rotateLeft n).toNat := by
  unfold rolOp
  rw [BitVec.rotateLeft_def, BitVec.toNat_or, BitVec.toNat_shiftLeft, BitVec.toNat_ushiftRight, BitVec.toNat_ofNat, Nat.mod_eq_of_lt ha,
    Nat.shiftLeft_eq, Nat.shiftRight_eq_div_pow]
  have hm : n % w < w := Nat.mod_lt _ hw
  generalize n % w = m at hm
  have hlow : a / 2 ^ (w - m) < 2 ^ m := by
    apply Nat.div_lt_of_lt_mul
    rw [← pow_add, show w - m + m = w by omega]; exact ha
  have hdvd : a * 2 ^ m % 2 ^ w = (a % 2 ^ (w - m)) * 2 ^ m := by
    rw [show (2:Nat) ^ w = 2 ^ (w - m) * 2 ^ m by rw [← pow_add]; congr 1; omega]
    exact Nat.mul_mod_mul_right _ _ _
  rw [hdvd, ← Nat.shiftLeft_eq, Nat.shiftLeft_add_eq_or_of_lt hlow]

/-- The governing bit of a result of one element is bit 0. -/
theorem one_gov {two : Bool} {e : Dev} {h : Hd} {t : Thread} (ht : t ∈ e.acting h [0]) (hp : t.predP h.gp = false) :
    t.gov h (wideW two) 0 = true := by
  have := acting_guard ht hp
  have h0 : govBit (wideW two) 0 = 0 := by cases two <;> rfl
  simpa [Thread.gov, h0] using this

/-- A vector form with flags completes with its operation's result. -/
theorem fp_runs (i : Instr) (h : Hd) (two : Bool) (r : VReg) (a b c : Opd) (w : Nat) (f : Srcs → Nat × FFlags)
    (g : Nat → Nat → Nat → Nat × FFlags) (hw : w = wideW two)
    (hfg : ∀ s : Srcs, f s = g s.a s.b s.c)
    (hx : ∀ s : State, exec i s = onDev s (fun x => x.alu i h (.v r) two a b c (AluFn.one w f))) :
    FpRuns i h two r a b c g := by
  subst hw
  have hb : govBits (wideW two) 1 = [0] := by cases two <;> rfl
  unfold FpRuns
  have := alu_runs i h r two a b c (AluFn.one (wideW two) f) none (fun _ _ => True) (fun e t =>
    let s := (e.env t).srcs a b c
    let y := g s.a s.b s.c
    laneOne h r two y.1 y.2 s.p t) hx ?_ ?_
  · simpa [AluFn.one, hb] using this
  · intro e t _
    rw [AluFn.run_mark, List.any_eq_false]
    intro k _
    simp [AluFn.one]
  · intro e t ht hp _
    rw [aluLane_elems]
    simp only [AluFn.one] at ht ⊢
    rw [hb] at ht
    have hg : (e.env t).t.gov h (wideW two) 0 = true := one_gov ht hp.2.2.2
    rw [laneElems_one _ _ _ _ _ _ _ _ _ hg]
    have h1 : upTo 1 = [0] := rfl
    simp only [h1, List.foldl_cons, List.foldl_nil, hg, if_true, hfg]
    unfold laneOne
    rw [show aluWords two ((g ((e.env t).srcs a b c).a ((e.env t).srcs a b c).b ((e.env t).srcs a b c).c).1 % 2 ^ wideW two) = _ from
      aluWords_mod two _]
    simp

/-! ### Comparisons (R238, R244) -/

/-- A sum by a fold. -/
theorem foldl_add (l : List Nat) (f : Nat → Nat) (a : Nat) : l.foldl (fun x k => x + f k) a = a + (l.map f).sum := by
  induction l generalizing a with
  | nil => simp
  | cons k r ih => simp [ih, Nat.add_assoc]

/-- A written comparison, as its elements put together. -/
theorem cmp_write (w n : Nat) (gov f : Nat → Bool) (old : Byte) :
    cmpWrite w n gov f old = BitVec.ofNat 8 (merged (w / 8) n gov (fun k => if f k then 2 ^ (w / 8) - 1 else 0) old.toNat) := by
  unfold cmpWrite merged
  rw [foldl_add]
  congr 1
  simp only [Nat.zero_add]
  congr 1
  apply List.map_congr_left
  intro k _
  have hp : 0 < 2 ^ (w / 8) := Nat.pos_of_ne_zero (by simp)
  cases gov k <;> cases f k <;> simp [cmpBits, elemOf, Nat.mod_eq_of_lt (Nat.sub_lt hp Nat.one_pos)]

/-- No flag changes nothing. -/
theorem orFlags_zero (t : Thread) : t.orFlags 0 = t := by
  unfold Thread.orFlags
  simp

/-- A comparison into a predicate completes. -/
theorem compare_runs (i : Instr) (h : Hd) (p : PReg) (w n : Nat) (a b : Opd) (f : Srcs → Nat → Bool × FFlags)
    (hx : ∀ s : State, exec i s = onDev s (fun x => x.compare i h p w n a b f)) :
    LaneRuns i h (govBits w n) false (fun _ _ => True) (fun e t =>
      let s := (e.env t).srcs a b .none
      let all := (upTo n).all (t.gov h w)
      (t.setPred p (BitVec.ofNat 8 (merged (w / 8) n (t.gov h w) (fun k => if (f s k).1 then 2 ^ (w / 8) - 1 else 0) (t.pred p).toNat))
        (s.p || (!all && t.predP p))).orFlags ((upTo n).foldl (fun (x : FFlags) k => if t.gov h w k then x ||| (f s k).2 else x) 0)) := by
  refine LaneRuns.of (fun act d =>
    (d.mapUids (act.map Thread.uid) (fun t =>
      let e := d.env t
      let s := e.srcs a b .none
      let gov := t.gov h w
      let fl := (upTo n).foldl (fun (x : FFlags) k => if gov k then x ||| (f s k).2 else x) 0
      (t.setPred p (cmpWrite w n gov (fun k => (f s k).1) (t.pred p))
        (s.p || (t.partial? h w n && t.predP p))).orFlags fl)).done h) _ hx ?_ (fun e _ => rfl) ?_
  · intro e t
    simp
  · intro e t _ _ _
    simp only [cmp_write]
    rfl

end Sys2Proof.Machine
end

