-- ==== Sys2Proof/Laws/KV.lean ====
section
/-! SUPPORT. Reading after writing: keyed lists, cores, gangs. -/

namespace Sys2Proof.Machine

/-- A value written is read back. -/
@[simp] theorem KV.get?_set_self {α : Type} (l : List (Nat × α)) (k : Nat) (a : α) : KV.get? (KV.set l k a) k = some a := by
  induction l with
  | nil => simp [KV.set, KV.get?]
  | cons e r ih =>
    obtain ⟨i, b⟩ := e
    unfold KV.set
    split
    · simp [KV.get?]
    · split
      · simp [KV.get?]
      · simp [KV.get?, *]

/-- Writing one key leaves every other as it is. -/
theorem KV.get?_set_other {α : Type} (l : List (Nat × α)) (k j : Nat) (a : α) (h : j ≠ k) :
    KV.get? (KV.set l k a) j = KV.get? l j := by
  induction l with
  | nil => simp [KV.set, KV.get?, Ne.symm h]
  | cons e r ih =>
    obtain ⟨i, b⟩ := e
    unfold KV.set
    split
    · rename_i hi
      subst hi
      simp [KV.get?, Ne.symm h]
    · split
      · simp [KV.get?, Ne.symm h]
      · simp [KV.get?, ih]

@[simp] theorem KV.get_set_self {α : Type} (l : List (Nat × α)) (d : α) (k : Nat) (a : α) : KV.get (KV.set l k a) d k = a := by
  simp [KV.get]

theorem KV.get_set_other {α : Type} (l : List (Nat × α)) (d : α) (k j : Nat) (a : α) (h : j ≠ k) :
    KV.get (KV.set l k a) d j = KV.get l d j := by
  simp [KV.get, KV.get?_set_other _ _ _ _ h]

/-- A changed core reads as changed. -/
@[simp] theorem Dev.core_mapCore_self (d : Dev) (n : Nat) (f : Core → Core) : (d.mapCore n f).core n = f (d.core n) := by
  simp [Dev.mapCore, Dev.core]

theorem Dev.core_mapCore_other (d : Dev) (n m : Nat) (f : Core → Core) (h : m ≠ n) : (d.mapCore n f).core m = d.core m := by
  simp [Dev.mapCore, Dev.core, KV.get_set_other _ _ _ _ _ h]

/-- A changed gang reads as changed. -/
theorem Dev.gang?_mapGang_self (d : Dev) (n k : Nat) (f : Gang → Gang) : (d.mapGang n k f).gang? n k = (d.gang? n k).map f := by
  cases h : d.gang? n k with
  | none => simp [Dev.mapGang, h]
  | some g =>
    have : d.mapGang n k f = d.mapCore n (fun c => { c with gangs := KV.set c.gangs k (f g) }) := by unfold Dev.mapGang; rw [h]
    rw [this]
    unfold Dev.gang?
    simp

/-- Changing threads leaves the cores as they are. -/
@[simp] theorem Dev.core_mapThreads (d : Dev) (p : Thread → Bool) (f : Thread → Thread) (n : Nat) :
    (d.mapThreads p f).core n = d.core n := rfl
@[simp] theorem Dev.core_mapUids (d : Dev) (us : List Nat) (f : Thread → Thread) (n : Nat) : (d.mapUids us f).core n = d.core n := rfl
@[simp] theorem Dev.core_deliver (d : Dev) (u : Nat) (f : Thread → Thread) (n : Nat) : (d.deliver u f).core n = d.core n := rfl
@[simp] theorem Dev.core_tick (d : Dev) (n : Nat) : d.tick.core n = d.core n := rfl
@[simp] theorem Dev.gang?_mapUids (d : Dev) (us : List Nat) (f : Thread → Thread) (n k : Nat) :
    (d.mapUids us f).gang? n k = d.gang? n k := rfl
@[simp] theorem Dev.gang?_deliver (d : Dev) (u : Nat) (f : Thread → Thread) (n k : Nat) : (d.deliver u f).gang? n k = d.gang? n k := rfl
@[simp] theorem Dev.gang?_tick (d : Dev) (n k : Nat) : d.tick.gang? n k = d.gang? n k := rfl

end Sys2Proof.Machine
end

