-- ==== Sys2Proof/Laws/Logs.lean ====
section
/-! SUPPORT. What the logs of a re-run and the copies of a snapshot leave alone: a context that neither records nor re-runs, and a
device without a live snapshot. -/

namespace Sys2Proof.Machine

/-- A context that neither records inputs nor re-runs a log. -/
def Dev.quietLog (d : Dev) (slot : Nat) : Bool := !(d.recording slot) && !(((d.ctx? slot).map Ctx.rerun).getD false)

/-- Such a context logs no input. -/
theorem Dev.logInput_quiet {d : Dev} {slot : Nat} (h : d.quietLog slot = true) (key : Nat) (v : W64) : d.logInput slot key v = d := by
  simp only [Dev.quietLog, Bool.and_eq_true, Bool.not_eq_true'] at h
  unfold Dev.logInput
  cases hc : d.ctx? slot with
  | none => rfl
  | some c =>
    have hr : c.rerun = false := by simpa [hc] using h.2
    simp [hr, h.1]

/-- It logs no place. -/
theorem Dev.places_quiet {d : Dev} {slot : Nat} (h : d.quietLog slot = true) (ops : List (Nat × Nat)) : d.places slot ops = d := by
  have e : ops.foldl (fun d o => d.logInput slot (placeKey o.1 o.2) 0) d = d := by
    induction ops with
    | nil => rfl
    | cons o os ih => rw [List.foldl_cons, Dev.logInput_quiet h, ih]
  simp only [Dev.quietLog, Bool.and_eq_true, Bool.not_eq_true'] at h
  unfold Dev.places
  rw [e, h.2]
  simp

/-- Its threads take no place. -/
theorem Dev.placed_quiet {d : Dev} {act : List Thread} (h : d.quietLog ((act.head?.map Thread.ctx).getD 0) = true)
    (place : Thread → Option Nat) : d.placed act place = d := Dev.places_quiet h _

/-- It waits for no room in a log. -/
theorem Dev.logStalls_quiet {d : Dev} {slot : Nat} (h : d.quietLog slot = true) : d.logStalls slot = false := by
  simp only [Dev.quietLog, Bool.and_eq_true, Bool.not_eq_true'] at h
  simp [Dev.logStalls, h.1]

/-- It waits for no turn. -/
theorem Dev.early_quiet {d : Dev} {slot : Nat} (h : d.quietLog slot = true) (ops : List (Nat × Nat)) : d.early slot ops = false := by
  simp only [Dev.quietLog, Bool.and_eq_true, Bool.not_eq_true'] at h
  unfold Dev.early
  cases hc : d.ctx? slot with
  | none => rfl
  | some c =>
    have hr : c.rerun = false := by simpa [hc] using h.2
    simp [hr]

/-- Lanes of such contexts are in their turns. -/
theorem Dev.inTurn_quiet {d : Dev} {ts : List Thread} (h : ∀ t ∈ ts, d.quietLog t.ctx = true) (place : Thread → Option Nat) :
    d.InTurn ts place := fun t ht => ⟨fun _ => Dev.logStalls_quiet (h t ht), Dev.early_quiet (h t ht) _⟩

/-- Without a live snapshot no unit needs a copy. -/
theorem Dev.wroteUnits_quiet {d : Dev} (h : ∀ e ∈ d.ctxs, ∀ x ∈ e.2.snaps, x.live = false) (e : Dev) : d.wroteUnits e = [] := by
  unfold Dev.wroteUnits
  rw [List.flatMap_eq_nil_iff]
  intro x hx
  have : x.2.snaps.filter (fun s => s.live) = [] := by
    rw [List.filter_eq_nil_iff]
    intro s hs
    simp [h x hx s hs]
  simp [this]

end Sys2Proof.Machine
end

