-- ==== Sys2Proof/Laws/Mem.lean ====
section
/-! SUPPORT. The memory laws: every memory operation keeps the canonical form, a read after a write gives what was written,
and a write leaves every other address alone. -/

namespace Sys2Proof.Machine

/-- The canonical form above a bound, as a statement about the list. -/
theorem Memory.wfFrom_iff (lo : Option Nat) (m : Memory) :
    Memory.wfFrom lo m = true ↔
      m.Pairwise (fun x y => x.1 < y.1) ∧ (∀ c ∈ m, c.2 ≠ 0) ∧ (∀ c ∈ m, ∀ l ∈ lo, l < c.1) := by
  induction m generalizing lo with
  | nil => simp [Memory.wfFrom]
  | cons c r ih =>
    obtain ⟨k, v⟩ := c
    cases lo with
    | none => simp [Memory.wfFrom, ih]; tauto
    | some l =>
      simp only [Memory.wfFrom, ih, Bool.and_eq_true, decide_eq_true_eq, bne_iff_ne, List.pairwise_cons, List.mem_cons,
        forall_eq_or_imp, Option.mem_def, Option.some.injEq, forall_eq', ne_eq]
      constructor
      · rintro ⟨⟨h1, h2⟩, h3, h4, h5⟩
        exact ⟨⟨fun c hc => h5 c hc, h3⟩, ⟨h2, h4⟩, h1, fun c hc => h1.trans (h5 c hc)⟩
      · rintro ⟨⟨h1, h2⟩, ⟨h3, h4⟩, h5, h6⟩
        exact ⟨⟨h5, h3⟩, h2, h4, fun c hc => h1 c hc⟩

/-- The canonical form: addresses strictly rising, no zero byte listed. -/
theorem Memory.wf_iff (m : Memory) :
    m.wf = true ↔ m.Pairwise (fun x y => x.1 < y.1) ∧ ∀ c ∈ m, c.2 ≠ 0 := by
  simp [Memory.wf, Memory.wfFrom_iff]

theorem Memory.wf_nil : Memory.wf [] = true := rfl

/-- The rest of a canonical list is canonical and lies above its head. -/
theorem Memory.wf_cons (k : Nat) (v : Byte) (r : Memory) :
    Memory.wf ((k, v) :: r) = true ↔ v ≠ 0 ∧ (∀ c ∈ r, k < c.1) ∧ Memory.wf r = true := by
  simp only [Memory.wf_iff, List.pairwise_cons, List.mem_cons, forall_eq_or_imp]
  constructor
  · rintro ⟨⟨h1, h2⟩, h3, h4⟩; exact ⟨h3, fun c hc => h1 c hc, h2, h4⟩
  · rintro ⟨h1, h2, h3, h4⟩; exact ⟨⟨fun c hc => h2 c hc, h3⟩, h1, h4⟩

/-- An address below every listed one reads as zero. -/
theorem Memory.get_below (m : Memory) (a : Nat) (h : ∀ c ∈ m, a < c.1) : Memory.get m a = 0 := by
  cases m with
  | nil => rfl
  | cons c r =>
    obtain ⟨k, v⟩ := c
    have : a < k := h (k, v) (by simp)
    simp [Memory.get, this, Nat.ne_of_gt this]

/-- The addresses after a write are those before and the one written. -/
theorem Memory.mem_set {m : Memory} {a : Nat} {b : Byte} {c : Host.Cell} (h : c ∈ Memory.set m a b) :
    c ∈ m ∨ (c = (a, b) ∧ b ≠ 0) := by
  induction m with
  | nil =>
    simp only [Memory.set, Memory.consByte] at h
    split at h
    · simp at h
    · simp at h; exact .inr ⟨h, by assumption⟩
  | cons e r ih =>
    obtain ⟨k, v⟩ := e
    simp only [Memory.set, Memory.consByte] at h
    split at h
    · split at h
      · exact .inl (List.mem_cons_of_mem _ h)
      · rcases List.mem_cons.1 h with h | h
        · exact .inr ⟨h, by assumption⟩
        · exact .inl (List.mem_cons_of_mem _ h)
    · split at h
      · split at h
        · exact .inl h
        · rcases List.mem_cons.1 h with h | h
          · exact .inr ⟨h, by assumption⟩
          · exact .inl h
      · rcases List.mem_cons.1 h with h | h
        · exact .inl (by simp [h])
        · rcases ih h with h | h
          · exact .inl (List.mem_cons_of_mem _ h)
          · exact .inr h

/-- A write of one byte keeps the canonical form. -/
theorem Memory.wf_set {m : Memory} (h : m.wf = true) (a : Nat) (b : Byte) : (m.set a b).wf = true := by
  induction m with
  | nil =>
    simp only [Memory.set, Memory.consByte]
    split
    · rfl
    · rw [Memory.wf_cons]; exact ⟨by assumption, by simp, rfl⟩
  | cons e r ih =>
    obtain ⟨k, v⟩ := e
    obtain ⟨h1, h2, h3⟩ := (Memory.wf_cons k v r).1 h
    simp only [Memory.set, Memory.consByte]
    split
    · rename_i hk; subst hk
      split
      · exact h3
      · rw [Memory.wf_cons]; exact ⟨by assumption, h2, h3⟩
    · split
      · rename_i hk hl
        split
        · exact h
        · rw [Memory.wf_cons]
          refine ⟨by assumption, ?_, h⟩
          intro c hc
          rcases List.mem_cons.1 hc with rfl | hc
          · exact hl
          · exact hl.trans (h2 c hc)
      · rename_i hk hl
        rw [Memory.wf_cons]
        refine ⟨h1, ?_, ih h3⟩
        intro c hc
        rcases Memory.mem_set hc with hc | ⟨rfl, _⟩
        · exact h2 c hc
        · simp only; omega

/-- A read of the byte just written gives it. -/
theorem Memory.get_set_self {m : Memory} (h : m.wf = true) (a : Nat) (b : Byte) : (m.set a b).get a = b := by
  induction m with
  | nil =>
    simp only [Memory.set, Memory.consByte]
    split
    · rename_i hb; simp [Memory.get, hb]
    · simp [Memory.get]
  | cons e r ih =>
    obtain ⟨k, v⟩ := e
    obtain ⟨h1, h2, h3⟩ := (Memory.wf_cons k v r).1 h
    simp only [Memory.set, Memory.consByte]
    split
    · rename_i hk; subst hk
      split
      · rename_i hb; rw [hb]; exact Memory.get_below r _ h2
      · simp [Memory.get]
    · split
      · rename_i hk hl
        split
        · rename_i hb; simp [Memory.get, hk, hl, hb]
        · simp [Memory.get]
      · rename_i hk hl
        simp [Memory.get, hk, hl, ih h3]

/-- A write leaves every other address alone. -/
theorem Memory.get_set_other {m : Memory} (h : m.wf = true) {a x : Nat} (b : Byte) (hx : x ≠ a) : (m.set a b).get x = m.get x := by
  induction m with
  | nil =>
    simp only [Memory.set, Memory.consByte]
    split
    · rfl
    · simp [Memory.get, Ne.symm hx]
  | cons e r ih =>
    obtain ⟨k, v⟩ := e
    obtain ⟨h1, h2, h3⟩ := (Memory.wf_cons k v r).1 h
    simp only [Memory.set, Memory.consByte]
    split
    · rename_i hk; subst hk
      split
      · simp only [Memory.get, Ne.symm hx, if_false]
        split
        · rename_i hl; exact Memory.get_below r x (fun c hc => hl.trans (h2 c hc))
        · rfl
      · simp [Memory.get, Ne.symm hx]
    · split
      · rename_i hk hl
        split
        · rfl
        · rw [Memory.get]
          simp only [Ne.symm hx, if_false]
          split
          · rename_i hxa
            rw [Memory.get]
            simp [show k ≠ x by omega, show x < k by omega]
          · rfl
      · simp [Memory.get, ih h3]

/-- A store of several bytes keeps the canonical form. -/
theorem Memory.wf_setBytes (bs : List Byte) : ∀ {m : Memory}, m.wf = true → ∀ a : Nat, (m.setBytes a bs).wf = true := by
  induction bs with
  | nil => intro m h a; exact h
  | cons b r ih => intro m h a; exact ih (Memory.wf_set h a b) (a + 1)

theorem Memory.wf_setLE {m : Memory} (h : m.wf = true) (a n x : Nat) : (m.setLE a n x).wf = true :=
  Memory.wf_setBytes _ h a

/-- A store leaves every byte outside its own alone. -/
theorem Memory.get_setBytes_out (bs : List Byte) : ∀ {m : Memory}, m.wf = true → ∀ (a x : Nat),
    (x < a ∨ a + bs.length ≤ x) → (m.setBytes a bs).get x = m.get x := by
  induction bs with
  | nil => intro m _ a x _; rfl
  | cons b r ih =>
    intro m h a x hx
    have h1 := ih (Memory.wf_set h a b) (a + 1) x (by simp at hx; omega)
    exact h1.trans (Memory.get_set_other h b (by simp at hx; omega))

/-- A read of a byte just stored gives it. -/
theorem Memory.get_setBytes_in (bs : List Byte) : ∀ {m : Memory}, m.wf = true → ∀ (a k : Nat) (hk : k < bs.length),
    (m.setBytes a bs).get (a + k) = bs[k] := by
  induction bs with
  | nil => intro m _ a k hk; simp at hk
  | cons b r ih =>
    intro m h a k hk
    cases k with
    | zero =>
      have := Memory.get_setBytes_out r (Memory.wf_set h a b) (a + 1) a (.inl (by omega))
      simpa [Memory.setBytes, Memory.get_set_self h] using this
    | succ k =>
      have := ih (Memory.wf_set h a b) (a + 1) k (by simpa using hk)
      simpa [Memory.setBytes, Nat.add_assoc, Nat.add_comm 1 k] using this

theorem Memory.wf_filter {m : Memory} (h : m.wf = true) (p : Host.Cell → Bool) : Memory.wf (m.filter p) = true := by
  rw [Memory.wf_iff] at *
  exact ⟨h.1.filter p, fun c hc => h.2 c (List.mem_filter.1 hc).1⟩

theorem Memory.wf_zero {m : Memory} (h : m.wf = true) (a n : Nat) : (m.zero a n).wf = true := Memory.wf_filter h _

/-- A slice is canonical. -/
theorem Memory.wf_slice {m : Memory} (h : m.wf = true) (a n : Nat) : (m.slice a n).wf = true := by
  rw [Memory.wf_iff] at *
  unfold Memory.slice
  refine ⟨?_, ?_⟩
  · rw [List.pairwise_map]
    refine (h.1.filter _).imp_of_mem ?_
    intro x y hx hy hxy
    have h1 := (List.mem_filter.1 hx).2
    have h2 := (List.mem_filter.1 hy).2
    simp at h1 h2
    simp only
    omega
  · intro c hc
    obtain ⟨e, he, rfl⟩ := List.mem_map.1 hc
    exact h.2 e (List.mem_filter.1 he).1

/-- A splice of canonical lists is canonical. -/
theorem Memory.wf_splice {m s : Memory} (h : m.wf = true) (hs : s.wf = true) (a n : Nat) : (m.splice a n s).wf = true := by
  have h0 := Memory.wf_slice hs 0 n
  have hin : ∀ c ∈ s.slice 0 n, c.1 < n := by
    intro c hc
    obtain ⟨e, he, rfl⟩ := List.mem_map.1 hc
    have := (List.mem_filter.1 he).2
    simp at this
    simpa using this
  rw [Memory.wf_iff] at *
  unfold Memory.splice
  refine ⟨?_, ?_⟩
  · rw [List.pairwise_append, List.pairwise_append, List.pairwise_map]
    refine ⟨⟨h.1.filter _, h0.1.imp (by intro x y hxy; simp only; omega), ?_⟩, h.1.filter _, ?_⟩
    · intro x hx y hy
      obtain ⟨e, _, rfl⟩ := List.mem_map.1 hy
      have := (List.mem_filter.1 hx).2
      simp at this
      simp only
      omega
    · intro x hx y hy
      have h2 := (List.mem_filter.1 hy).2
      simp at h2
      rcases List.mem_append.1 hx with hx | hx
      · have h1 := (List.mem_filter.1 hx).2
        simp at h1
        omega
      · obtain ⟨e, he, rfl⟩ := List.mem_map.1 hx
        have := hin e he
        simp only
        omega
  · intro c hc
    rcases List.mem_append.1 hc with hc | hc
    · rcases List.mem_append.1 hc with hc | hc
      · exact h.2 c (List.mem_filter.1 hc).1
      · obtain ⟨e, he, rfl⟩ := List.mem_map.1 hc
        exact h0.2 e he
    · exact h.2 c (List.mem_filter.1 hc).1

/-! ### Bytes of numbers -/

@[simp] theorem leBytes_length (n x : Nat) : (leBytes n x).length = n := by simp [leBytes]

/-- The number of some bytes is below the number of their values. -/
theorem leOf_lt (bs : List Byte) : leOf bs < 256 ^ bs.length := by
  induction bs with
  | nil => simp [leOf]
  | cons b r ih =>
    have := b.isLt
    simp only [leOf, List.length_cons, Nat.pow_succ]
    omega

/-- The bytes of a number give it back, modulo their range. -/
theorem leOf_leBytes (n x : Nat) : leOf (leBytes n x) = x % 256 ^ n := by
  induction n generalizing x with
  | zero => simp [leBytes, leOf, Nat.mod_one]
  | succ n ih =>
    have hr : leBytes (n + 1) x = BitVec.ofNat 8 x :: leBytes n (x / 256) := by
      simp only [leBytes, upTo, List.range_succ_eq_map, List.map_cons, List.map_map, Nat.pow_zero, Nat.div_one]
      congr 1
      apply List.map_congr_left
      intro k _
      simp [Function.comp, Nat.pow_succ, Nat.div_div_eq_div_mul, Nat.mul_comm]
    rw [hr, leOf, ih, Nat.pow_succ, Nat.mul_comm (256 ^ n) 256, Nat.mod_mul]
    simp

/-- The bytes read after a store of a number are those of the number. -/
theorem Memory.getLE_setLE {m : Memory} (h : m.wf = true) (a n x : Nat) : (m.setLE a n x).getLE a n = x % 256 ^ n := by
  have : (m.setLE a n x).getBytes a n = leBytes n x := by
    apply List.ext_getElem
    · simp [Memory.getBytes]
    · intro k h1 h2
      have hk : k < n := by simpa using h2
      simp only [Memory.getBytes, Memory.setLE, List.getElem_map, List.getElem_range]
      exact Memory.get_setBytes_in _ h a k (by simpa using hk)
  rw [Memory.getLE, this, leOf_leBytes]

end Sys2Proof.Machine
end

