-- ==== Sys2Proof/Tests/Slice0.lean ====
section
/-! SUPPORT. Tests of the model's parts on small states, with results from the spec's own examples and tables, and for every
statement of the certificates a state and operands that meet its hypotheses. -/

namespace Sys2Proof.Tests

open Sys2Proof Sys2Proof.Machine

set_option Elab.async false

/-! ### Well-formed terms: one ill-formed term for each check -/

/-- A header without guard or hints. -/
def hd : Hd := ⟨false, 0, .none, 0, 0⟩
/-- A header with LAH = 1. -/
def hdLah : Hd := { hd with lah := 1 }
/-- A header with RU for operand A. -/
def hdRu : Hd := { hd with ru := 4 }

theorem test_wf_integer : ∀ i ∈ [
    Instr.iadd hd .i32 .wrap (.s 1) (.s 2) (.imm 0) none, .iadd hd .i32 .wrap (.v 1) (.s 2) (.imm 0) none,
    .iadd hd .i32 .wrap (.s 1) (.v 2) (.s 3) none, .iadd hd .i16 .wrap (.v 1) (.v 2) (.v 3) (some 1),
    .iadd hd .i32 .sat (.v 1) (.v 2) (.v 3) (some 1), .iadd hd .i32 .wrap (.v 1) (.v 2) (.imm 3) (some 1),
    .imul hd .i16 .wrap (.v 1) (.v 2) (.v 3), .imulh hd .n8 (.v 1) (.v 2) (.v 3), .imad hd .i8 .wrap (.v 1) (.v 2) (.v 3) (.v 4),
    .imad hd .i32 .trap (.v 1) (.v 2) (.v 3) (.v 4), .imad hd .i32 .wrap (.s 1) (.s 2) (.s 3) (.v 4), .iabs hd .n32 .wrap (.v 1) (.v 2),
    .iabs hd .i32 .wrap (.s 1) (.v 2), .shl hd false (.v 1) (.v 2) (.imm 256), .bfx hd .i8 (.v 1) (.v 2) (.imm 0 1),
    .bfx hd .i32 (.s 1) (.s 2) (.reg (.v 3)), .bfi hd false (.s 1) (.s 2) (.v 3) (.imm 0 1), .sel hd false (.s 1) (.v 2) (.s 3) false 1,
    .iclamp hd .i16 (.v 1) (.v 2) (.v 3) (.v 4), .salu hd .shl 1 2 (.imm 256)], i.wf = false := by decide +kernel

theorem test_wf_float_and_lanes : ∀ i ∈ [
    Instr.ffma hd false false (.s 1) (.s 2) (.s 3) (.v 4), .fscale hd 1 (.s 2) (.imm 0), .fclass hd 1 (.v 2) none 1,
    .hadd2 hd false 1 2 (.s 3), .fcvt hd .fromF16 .rz 1 (.v 2), .icvt hd .i16 .rz 1 (.v 2), .xbflyTr hd 16 3,
    .fadd hdLah (.v 1) (.v 2) (.v 3), .fadd hdRu (.s 1) (.s 2) (.s 3)], i.wf = false := by decide +kernel

theorem test_wf_memory_and_engines : ∀ i ∈ [
    Instr.ld hd false .b32 true 1 ⟨.v 2, 0⟩, .lda hd .b64 true 1 ⟨.v 2, 0⟩, .lda hd .b128 false 1 ⟨.v 2, 0⟩, .stl hd .b128 ⟨.v 2, 0⟩ 4,
    .sld hd .b128 true 1 ⟨.v 2, 0⟩, .xcopy hd 4 (.group 0), .xcopy hd 4 (.group 12), .xwait hd 1 (.s 63), .fput hd 0 4 0,
    .fget hd 1 2 0], i.wf = false := by decide +kernel

theorem test_wf_matrix_and_system : ∀ i ∈ [
    Instr.mldw hd .bf16 false 62, .mstream hd .bf16 false 0 0, .mst hd .f32 0 62, .mlda hd .f32 0 0, .mgrp hd .bf16 false 0 61,
    .mqry hd 0, .norma hd false 62 1, .normb hd false 1 0, .nprod hd 0 1, .aliasT hd 0 1, .sampmm hd false 0 58 1, .svrd hd 63,
    .svrdW hd 0, .awupd hd false 8 4 6, .sgdm hd false 8 4 3, .gscale hd 1 2 0, .gscaleF hd 0 1, .sysr hd (.s 0) 0x000,
    .sysr hd (.one 1) 0x02B, .sysr hd (.one 1) 0x003, .eqtailRead hd (.s 0), .sysw hd (.one 1) 0x001, .sysw hd (.one 1) 0x000,
    .marginRegWrite hd (.one 1) 544], i.wf = false := by decide +kernel

theorem test_wf_pairs : ∀ w ∈ [
    (⟨false, 0, .none, ⟨0, .add, 1, 2, 3⟩, ⟨0, .mov, 4, 5, 0⟩⟩ : PairWord), ⟨false, 0, .none, ⟨0, .mov, 1, 2, 3⟩, ⟨1, .mov, 4, 5, 0⟩⟩,
    ⟨false, 0, .none, ⟨0, .add, 1, 2, 3⟩, ⟨1, .add, 4, 5, 6⟩⟩, ⟨false, 0, .none, ⟨0, .ffma, 1, 2, 2⟩, ⟨1, .hfma2F16, 4, 5, 5⟩⟩],
    (Instr.pair w).wf = false := by decide +kernel

/-! ### Words of the spec's encodings -/

/-- The word of three 32-bit words, the highest first. -/
def w3 (a b c : W32) : Nat := (a ++ b ++ c).toNat

/-- Words that the spec writes out: R72, R44 (LD), R137, R169, R194, R256, R271, R278, R299. -/
theorem test_decode_written_words :
    decodeTableWord 96 (w3 0x01000000 0x0047FFFF 0xFF400000) = some (.bra ⟨true, 1, .none, 0, 0⟩ 0xFFFFFFD0) ∧
    decodeTableWord 96 (w3 0x70000802 0x00004000 0x00408000) = some (.ld { hd with lah := 2 } false .b32 false 4 ⟨.v 2, 16⟩) ∧
    decodeTableWord 96 (w3 0x74C00802 0x04004000 0x00000000) = some (.atom hd .ar .add false 4 ⟨.v 2, 0⟩ 8) ∧
    decodeTableWord 96 (w3 0x90040404 0x00000000 0x20000000) = some (.rowact hd 2 (.s 4) 0x800) ∧
    decodeTableWord 96 (w3 0xA8002808 0x00000000 0x000C0000) = some (.fput hd 20 8 3) ∧
    decodeTableWord 96 (w3 0x4304140B 0x06001A00 0x00000000) = some (.ffma hd true false (.v 10) (.v 11) (.v 12) (.v 13)) ∧
    decodeTableWord 96 (w3 0x63082000 0x00000000 0x00400000) = some (.xbflyTr hd 16 16) ∧
    decodeTableWord 96 (w3 0xB2100408 0x00000000 0x00000000) = some (.mstream hd .bf16 true 2 8) ∧
    decodeTableWord 96 (w3 0xC804100C 0x08000000 0x00000000) = some (.awupd hd true 8 12 16) := by decide +kernel

/-- Words that R320 to R329, R387, R410, R437, R449 and R458 write out. -/
theorem test_decode_program_words :
    decodeTableWord 96 (w3 0xA4102008 0 0) = some (.crsNorm hd 16 (.group 8)) ∧
    decodeTableWord 96 (w3 0x7B04000F 0x07028000 0xA1400000) = some (.barv hd ⟨.v 15, 0x2850⟩ (some (.v 14))) ∧
    decodeTableWord 96 (w3 0xD0000E00 0x00000800 0) = some (.sysr hd (.one 7) 0x020) ∧
    decodeTableWord 96 (w3 0xD2000000 0 0x00140000) = some (.trap hd 5) ∧
    decodeTableWord 96 (w3 0xD2040000 0 0x00140000) = some (.trapBrk hd 5) ∧
    decodeTableWord 96 (w3 0xD3040000 0 0) = some (.eretNext hd) ∧
    decodeTableWord 96 (w3 0xD6000404 0x02800000 0) = some (.margin hd 2 4 5) ∧
    decodeTableWord 96 (w3 0xD7040206 0 0) = some (.scanAbort hd 1 6) ∧
    decodeTableWord 96 (w3 0xD9040400 0 0) = some (.snap hd 2 true) ∧
    decodeTableWord 96 (w3 0xDD040204 0x03000000 0) = some (.ctxldImg hd 1 4 6) ∧
    decodeTableWord 96 (w3 0xA2042814 0 0x400) = some (.xqry { hd with yh := .spin } 20 (.s 20)) := by decide +kernel

/-- A format-G word from its fields (R34), each written at its width: OPC, MOD, D, A, B, guard, X, hints and reserved bits. -/
def word (opc : BitVec 8) (mod : BitVec 6) (d a b : BitVec 9) (g : BitVec 5) (x : BitVec 32) (hints : BitVec 18) : Nat :=
  (opc ++ mod ++ d ++ a ++ b ++ g ++ x ++ hints).toNat

/-- Words put together from R52 and the tables of R128, R239, R244, R266, R306 and R341. -/
theorem test_decode_fields :
    decodeTableWord 96 (word 0x05 0 0 0 0 0 0 0) = some (.exit hd) ∧
    decodeTableWord 96 (word 0x35 0 2 4 5 0 2 0) = some (.icmp hd .i32 2 (.v 4) (.v 5) .lt) ∧
    decodeTableWord 96 (word 0x60 0 3 1 2 0 0xC0 0) = some (.plop hd 3 1 2 0 0xC0) ∧
    decodeTableWord 96 (word 0x7A 0 0 6 7 0 0xA0000000 0) = some (.binit hd false ⟨.v 6, 0⟩ 7) ∧
    decodeTableWord 96 (word 0xC2 0 1 2 0 0 0 0) = some (.nprod hd 1 2) ∧
    decodeTableWord 96 (word 0xD4 0 4 6 0 0 0 0) = some (.xlate hd 4 6) := by decide +kernel

/-- Words the tables leave unassigned or whose reserved bits are set (R53): OPC 0x10, IADD with V = 3, NOP with a D field. -/
theorem test_decode_refuses :
    decode (BitVec.ofNat 96 (word 0x10 0 0 0 0 0 0 0)) = .error .illegalOpcode ∧
    decode (BitVec.ofNat 96 (word 0x20 3 4 5 6 0 0 0)) = .error .illegalOpcode ∧
    decode (BitVec.ofNat 96 (word 0x00 0 1 0 0 0 0 0)) = .error .reservedBits := ⟨rfl, rfl, rfl⟩

/-! ### Single steps -/

/-- The module with one user thread, registers set, whose next instruction is a word. -/
def ready (w : Nat) (rs : List (Nat × W32)) : State :=
  let s := State.reset.withFetchWord 96 w
  { s with dev := { s.dev with threads := s.dev.threads.map (fun t => { t with regs := rs.foldl (fun l r => l.set r.1 r.2) t.regs }) } }

/-- The device after one step. -/
def after (w : Nat) (rs : List (Nat × W32)) : Dev :=
  match step (ready w rs) with
  | .next t => t.dev
  | _ => State.reset.dev

/-- A register of its thread after one step. -/
def regAfter (w : Nat) (rs : List (Nat × W32)) (n : Nat) : Option W32 := (after w rs).threads.head?.bind (fun t => t.regs[n]?)

/-- R240: the sum −2^31 − 1 saturates to −2^31; the word is that of R239. -/
theorem test_iadd_sat : regAfter (w3 0x20840805 0x0003FFFF 0xFFFC0000) [(5, 0x80000000)] 4 = some 0x80000000 := by decide +kernel

/-- R249: the example of PRMT.CTL. -/
theorem test_prmt_ctl : regAfter (word 0x3B 5 4 5 6 0 (7#9 ++ 0#23) 0) [(5, 0x04030281), (7, 0x18211000)] 4 = some 0xFF40FF81 := by
  decide +kernel

/-- R256: −(2 × 3) + 1 = −5; the word is that of R256. -/
theorem test_ffma_nab :
    regAfter (w3 0x4304140B 0x06001A00 0) [(11, 0x40000000), (12, 0x40400000), (13, 0x3F800000)] 10 = some 0xC0A00000 := by
  decide +kernel

/-- R230: the seed of 1 / 3 has the significand 5,461. -/
theorem test_frcp_seed : regAfter (word 0x4B 0 4 5 0 0 0 0) [(5, 0x40400000)] 4 = some 0x3EAAA800 := by decide +kernel

/-- R71: a branch of +20 at 0 goes to 0 + 12 + 20. -/
theorem test_bra : (after (word 0x01 0 0 0 0 0 20 0) []).threads.map Thread.pc = [32] := by decide +kernel

/-- R135, R5: a word stored at 0x10010 lies there little-endian. -/
theorem test_st :
    (after (word 0x72 0 0 2 4 0 0x10000010 0) [(2, 0x10000), (4, 0x01020304)]).mem.getBytes (0x10040000000 + 0x10010) 4 = [4, 3, 2, 1] := by
  decide +kernel

/-- R137: ATOM.ADD.AR writes the old value and adds; the word is that of R137. -/
theorem test_atom : regAfter (w3 0x74C00802 0x04004000 0) [(2, 0x10000), (4, 9), (8, 7)] 4 = some 0 ∧
    (after (w3 0x74C00802 0x04004000 0) [(2, 0x10000), (8, 7)]).mem.getLE (0x10040000000 + 0x10000) 4 = 7 := by decide +kernel

/-- R15: a thread of 512 registers has v511. -/
theorem test_mov_last : regAfter (word 0x37 4 511 3 0 0 0 0) [(3, 77)] 511 = some 77 := by decide +kernel

/-- R390: ERET at user level raises PRIVILEGE; without a handler the thread ends (R370). -/
theorem test_eret_user : (after (w3 0xD3040000 0 0) []).threads = [] := by decide +kernel

/-- R466: the first step after reset completes bring-up step 1. -/
theorem test_bringup : (match step State.reset with | .next t => t.host.step | _ => 9) = 1 := by decide +kernel

/-! ### States that meet the hypotheses of the statements -/

/-- One thread at system level, with its first registers. -/
def thr (rs : List W32) : Thread :=
  let t := Thread.start fetchLaunch (fetchLaunch.bindRec 0) 0 0 0 0 0 0 none false
  { t with level := .system, hwm := 4096, regs := rs ++ List.replicate 64 0, regPsn := List.replicate (rs.length + 64) false }

/-- A module on which that thread's issue group, alone on core 0, is about to execute. -/
def one (rs : List W32) : State :=
  let s := State.reset.withFetchWord 96 0
  { s with dev := { s.dev with cur := .group 0 [0] 0, threads := [thr rs] } }

/-- The acting threads of an instruction pass its checks, and there is one. -/
def Ready (s : State) (i : Instr) (bits : List Nat) (gangOp : Bool) (ok : Dev → Thread → Prop) : Prop :=
  s.dev.AllPass i hd bits gangOp ok ∧ (s.dev.opened i hd).acting hd bits ≠ []

/-- The same, where nothing but the checks of R54 is asked. -/
def Plain (i : Instr) (bits : List Nat) : Prop := Ready (one []) i bits false (fun _ _ => True)

theorem witness_IntegerArithmetic :
    (∀ i ∈ [Instr.iadd hd .i32 .wrap (.v 1) (.v 2) (.v 3) (some 1), .isub hd .i64 .wrap (.v 2) (.v 4) (.v 6) none,
      .imul hd .n32 .sat (.v 1) (.v 2) (.imm 3), .imulh hd .i32 (.v 1) (.v 2) (.v 3), .imad hd .i32 .wrap (.v 1) (.v 2) (.v 3) (.v 4),
      .imin hd .n8 (.v 1) (.v 2) (.v 3), .imax hd .i16 (.v 1) (.v 2) (.v 3), .iabs hd .i8 .sat (.v 1) (.v 2),
      .iclamp hd .i32 (.v 1) (.v 2) (.v 3) (.v 4)], Plain i [0, 1, 2, 3]) ∧
    Ready (one [0, 0, 0x7FFFFFFE, 1]) (.iadd hd .i32 .trap (.v 1) (.v 2) (.v 3) none) [0] false
      (fun e t => Fits .i32 (elemNum .i32 ((e.env t).srcs (.v 2 false) (.v 3 false) .none).a 0 +
        elemNum .i32 ((e.env t).srcs (.v 2 false) (.v 3 false) .none).b 0)) := by
  unfold Plain Ready Dev.AllPass Dev.Passes Fits
  decide +kernel

theorem witness_BitOperations : ∀ i ∈ [
    Instr.and hd false (.v 1) (.v 2) (.v 3), .or hd true (.v 2) (.v 4) (.v 6), .xor hd false (.v 1) (.v 2) (.imm 3),
    .andn hd false (.v 1) (.v 2) (.v 3), .shl hd false (.v 1) (.v 2) (.imm 255), .shr hd true (.v 2) (.v 4) (.imm 64),
    .sar hd false (.v 1) (.v 2) (.v 3), .rol hd false (.v 1) (.v 2) (.v 3), .popc hd true (.v 1) (.v 2), .clz hd false (.v 1) (.v 2),
    .brev hd false (.v 1) (.v 2), .mov hd true (.v 2) (.v 4), .bfx hd .i32 (.v 1) (.v 2) (.imm 31 127),
    .bfi hd true (.v 2) (.v 4) (.v 6) (.reg (.v 8))], Plain i [0] := by
  unfold Plain Ready Dev.AllPass Dev.Passes
  decide +kernel

theorem witness_CompareAndSelect :
    Plain (.icmp hd .i16 1 (.v 2) (.v 3) .lt) [0, 2] ∧ Plain (.sel hd false (.v 1) (.v 2) (.v 3) true 1) [0] := by
  unfold Plain Ready Dev.AllPass Dev.Passes
  decide +kernel

theorem witness_MovesAndPermutes : ∀ i ∈ [
    Instr.movi hd .i64 2 5, .lea hd true 2 (.v 4) (.v 6) 7, .idot4 hd true false 1 2 3 4, .prmt hd 1 2 3 0xFFF, .prmtCtl hd 1 2 3 4],
    Plain i [0] := by
  unfold Plain Ready Dev.AllPass Dev.Passes
  decide +kernel

theorem witness_FloatResults : ∀ i ∈ [
    Instr.fadd hd (.v 1) (.v 2) (.v 3), .fsub hd (.v 1) (.v 2) (.imm 3), .fmul hd (.v 1) (.v 2) (.v 3),
    .ffma hd true true (.v 1) (.v 2) (.v 3) (.v 4), .fmin hd (.v 1) (.v 2) (.v 3), .fmax hd (.v 1) (.v 2) (.v 3), .frnd hd .rz 1 (.v 2),
    .icvt hd .f32i32 .rn 1 (.v 2), .frcp hd 1 2, .frsq hd 1 2, .fsqrt hd 1 2, .fdiv hd 1 2 3, .fexp2 hd 1 2, .flog2 hd 1 2,
    .fsin hd 1 2, .fcos hd 1 2, .ftanh hd 1 2, .hdot2 hd true 1 2 3 4, .fscale hd 1 (.v 2) (.v 3)], Plain i [0] := by
  unfold Plain Ready Dev.AllPass Dev.Passes
  decide +kernel

theorem witness_FloatElements :
    (∀ i ∈ [Instr.hadd2 hd false 1 2 (.v 3), .hmul2 hd true 1 2 (.v 3), .hfma2 hd false 1 2 3 4], Plain i [0, 2]) ∧
    Plain (.fcmp hd .f32 1 (.v 2) (.v 3) .un) [0] ∧ Plain (.fclass hd 1 (.v 2) (some 1) 0x3FF) [0] ∧
    Ready (one [0, 0, 0x4F000000]) (.fcvt hd (.n32 true) .rn 1 (.v 2)) [0] false
      (fun e t => (fcvtElem (.n32 true) .rn ((e.env t).srcs (.v 2 false) (fcvtB (.n32 true)) .none)).mark = false) := by
  unfold Plain Ready Dev.AllPass Dev.Passes
  decide +kernel

theorem witness_FlagsDrawsPredicates :
    Ready (one []) (.fflagTrap hd 31) [0] false (fun _ t => t.flags &&& 31 = 0) ∧
    (one []).dev.OutPass (.rngd hd true 1) hd false (fun _ t => [t.rngcnt.toNat]) (fun _ t => t.rngcnt ≠ BitVec.allOnes 32) ∧
    ∀ i ∈ [Instr.fflagClr hd 31, .fflagRd hd 1, .rngs hd false 2 4 (.v 6), .plop hd 1 2 3 4 0xC0, .pmov hd (.toV 1 2), .pmov hd (.fromV 1 2),
      .pmov hd (.imm 1 2)], Plain i [0] := by
  unfold Plain Ready Dev.OutPass Dev.AllPass Dev.Passes
  decide +kernel

/-- The same module after a call, with a link on the return stack. -/
def called (a : W64) : State := { one [] with dev := { (one []).dev with threads := [{ thr [] with rstack := [a] }] } }

theorem witness_ControlTransfers :
    (∀ i ∈ [Instr.nop hd, .yield hd, .sleep hd 5, .sleepAbs hd (.v 2)], Plain i [0]) ∧
    Ready (one []) (.fence hd) [0] false (fun e t => e.owes t = false) ∧
    Ready (one []) (.bra hd 0xFFFFFFF4) [0] false
      (fun _ t => (t.pc + 12 + sext64 0xFFFFFFF4).toNat % 4 = 0 ∧ localTarget (t.pc + 12 + sext64 0xFFFFFFF4) = true) ∧
    Ready (one []) (.call hd (.reg 2 8)) [0] false
      (fun e t => ((e.env t).addr (.v 2)).2 = false ∧ t.rstack.length < 16 ∧
        (((e.env t).addr (.v 2)).1 + sext64 8).toNat % 4 = 0 ∧ localTarget (((e.env t).addr (.v 2)).1 + sext64 8) = true) ∧
    (Ready (called 12) (.ret hd) [0] false (fun _ t => t.rstack ≠ [] ∧ (t.rstack.headD 0).toNat % 4 = 0 ∧ localTarget (t.rstack.headD 0) = true)) ∧
    ∀ i ∈ [Instr.brx hd (.v 2) 8, .call hd (.label 0), .callLink hd 2 (.label 0), .callLink hd 2 (.reg 4 0), .retLink hd 2],
      Ready (one []) i [0] false (fun e t => ((e.env t).addr (.v 2)).2 = false ∧ t.rstack.length < 16 ∧
        ((e.env t).addr (.v 2)).1.toNat % 4 = 0 ∧ localTarget ((e.env t).addr (.v 2)).1 = true) := by
  unfold Plain Ready Dev.AllPass Dev.Passes
  refine ⟨?_, ?_, ?_, ?_, ?_, ?_⟩ <;> decide +kernel

/-! ### Gangs -/

/-- A gang of size 2 with the thread at rank 0, and some gang scalars. -/
def gang (ss : List (Nat × W64)) : Gang :=
  { key := 5, ctx := 0, lid := 0, home := 0, size := 2, remap := [some 0, none], sregs := ss.foldl (fun l s => l.set s.1 s.2) (List.replicate 64 0),
    sregPsn := List.replicate 64 false, mxcnt := 0, svar := ⟨[0, 0, 0, 0], 0, 0⟩, rdv := none, bindings := [], freed := false, upsets := [] }

/-- A core whose gang holds the tiles and both plane stores, loaded, and an alias table of one entry. -/
def core (g : Gang) : Core :=
  { Core.reset with
    gangs := [(0, g)], tiles := List.replicate 8 { Tile.free with owner := some 0 }, planeOwner := some 0,
    planes := List.replicate 2 { Plane.zero with loaded := 0xFF }, alias_ := [⟨0, 0, 0, 0, false⟩] }

/-- The module with that gang, its thread's issue group about to execute. -/
def ganged (g : Gang) (rs : List W32) : State := { one rs with dev := { (one rs).dev with cores := [(0, core g)] } }

/-- A rendezvous that has completed, about to execute. -/
def met (i : Instr) (ss : List (Nat × W64)) : State :=
  let s := ganged { gang ss with rdv := some ⟨0, i, [(0, 0)], [0], 0⟩ } []
  { s with dev := { s.dev with cur := .complete 0 0 } }

/-- The participants at that rendezvous. -/
def metOf (i : Instr) (ss : List (Nat × W64)) : Meet := ⟨0, 0, { gang ss with rdv := some ⟨0, i, [(0, 0)], [0], 0⟩ }, [(0, thr [])]⟩

theorem meets_at (i : Instr) (ss : List (Nat × W64)) : (met i ss).dev.MeetsAt i hd (metOf i ss) ∧ (metOf i ss).true? hd ≠ [] := by
  refine ⟨⟨rfl, rfl, ?_, ?_, ?_⟩, ?_⟩
  · intro v hv; cases hv; rfl
  · intro p hp; simp only [metOf, List.mem_singleton] at hp; subst hp; rfl
  · intro _; rfl
  · intro h; cases h

theorem witness_GangScalarArithmetic :
    let i := Instr.iadd hd .i32 .trap (.s 1) (.s 2) (.s 3) none
    let m := metOf i [(2, 0x7FFFFFFE), (3, 1)]
    (met i [(2, 0x7FFFFFFE), (3, 1)]).dev.MeetsAt i hd m ∧ m.true? hd ≠ [] ∧
      Fits .i32 (elemNum .i32 (m.srcs (met i []).dev.tick hd (.s 2 false) (.s 3 false) .none).a 0 +
        elemNum .i32 (m.srcs (met i []).dev.tick hd (.s 2 false) (.s 3 false) .none).b 0) := by
  refine ⟨(meets_at _ _).1, (meets_at _ _).2, ?_⟩
  unfold Fits
  decide +kernel

theorem witness_GangScalarMoves : ∃ (s : State) (m : Meet) (i : Instr), s.dev.MeetsAt i hd m ∧ m.true? hd ≠ [] := ⟨_, _, _, meets_at (.smovHi hd 1 5) []⟩

theorem witness_RendezvousOpens :
    let s := ganged { gang [] with remap := [some 0, some 1] } []
    let t := thr []
    let g : Gang := { gang [] with remap := [some 0, some 1] }
    s.dev.cur = .group t.core [t.uid] 0 ∧ s.dev.members = [t] ∧ t.shadow = false ∧ s.dev.gangOf? t = some (0, g) ∧
      s.dev.gang? t.core 0 = some g ∧ g.rdv = none ∧ (∃ u ∈ g.members, u ≠ t.uid) ∧
      ∀ i ∈ [Instr.smov hd 1 (.imm 5), .voteMask hd 2 1, .voteCount hd 1 1, .voteTest hd 1 2 .every, .xbfly hd false 1 2 1, .xbflyTr hd 16 1,
        .xshfl hd true 2 4 (.rot 1), .xbcast hd false 1 2 0, .xred hd .addF32 1 2, .xscan hd .addN64 true 2 4, .svrd hd 1],
        levelOf i ≤ t.level.num ∧ ∀ n ∈ namedOf i, n.regBad t.regs.length = false := by
  decide +kernel

theorem witness_PairedOperations :
    (let w : PairWord := ⟨false, 2, .none, ⟨0, .fadd, 1, 2, 3⟩, ⟨1, .mov, 0, 1, 0⟩⟩
     pairSel w = false ∧ Ready (one []) (.pair w) (pairGov w.op0.code ++ pairGov w.op1.code) false (fun _ _ => True)) ∧
    (let w : PairWord := ⟨false, 2, .none, ⟨0, .sel, 1, 2, 3⟩, ⟨1, .mov, 0, 1, 0⟩⟩
     pairSel w = true ∧ ∀ t ∈ ((one []).dev.opened (.pair w) (pairHd w)).members,
       ((one []).dev.opened (.pair w) (pairHd w)).Passes (.pair w) (pairHd w) false t) := by
  unfold Ready Dev.AllPass Dev.Passes
  decide +kernel

theorem witness_ExitEndsThreads :
    Ready (one []) (.exit hd) [0] false (fun e t => e.owes t = false) ∧ ∃ (d : Dev) (us : List Nat), ∃ u ∈ us, (d.thread? u).isSome = true := by
  refine ⟨?_, (one []).dev, [0], 0, by decide, by decide +kernel⟩
  unfold Ready Dev.AllPass Dev.Passes
  decide +kernel

theorem witness_JoinServesLanes :
    (∀ i ∈ [Instr.join hd 1 4 3, .joinRank hd 1 4 6 3, .joinT hd 1 4 3, .joinRankT hd 1 4 6 3],
      Ready (one []) i [0] false (fun e t => t.poisonRun ((e.env t).run 0 (.v 4) 2) = none ∧ ((e.env t).read 1 (.v 6 false)).2 = false)) ∧
    (let e := (one []).dev.opened (.join hd 1 4 3) hd
     ∀ t ∈ primaries (e.acting hd [0]), e.quietLog t.ctx = true ∧
       ∃ k g r, e.join1 t (BitVec.ofNat 64 ((e.env t).read 0 (.v 4 true)).1) none 3 false = .joins k g r) := by
  constructor
  · unfold Ready Dev.AllPass Dev.Passes
    decide +kernel
  · intro e t ht
    have : t ∈ [(thr [])] := ht
    simp only [List.mem_singleton] at this
    subst this
    exact ⟨rfl, _, _, _, rfl⟩

theorem witness_LeaveAndGangInfo :
    Ready (ganged (gang []) []) (.leave hd) [0] true (fun e t => e.quietLog t.ctx = true) ∧ Ready (ganged (gang []) []) (.ginfo hd 4) [0] false (fun _ _ => True) ∧
    Ready (one []) (.ginfo hd 4) [0] false (fun _ _ => True) := by
  unfold Ready Dev.AllPass Dev.Passes
  decide +kernel

theorem witness_Votes : ∃ (s : State) (m : Meet) (i : Instr), s.dev.MeetsAt i hd m ∧ m.true? hd ≠ [] := ⟨_, _, _, meets_at (.voteMask hd 2 1) []⟩

theorem witness_Exchanges : ∃ (s : State) (m : Meet) (i : Instr), s.dev.MeetsAt i hd m ∧ m.true? hd ≠ [] := ⟨_, _, _, meets_at (.xbfly hd false 1 2 63) []⟩

theorem witness_ReductionsAndScans : ∃ (s : State) (m : Meet) (i : Instr), s.dev.MeetsAt i hd m ∧ m.true? hd ≠ [] := ⟨_, _, _, meets_at (.xscan hd .addF32 true 1 2) []⟩

theorem witness_OptimiserUpdates :
    (∀ i ∈ [Instr.awupd hd true 8 12 16, .sgdm hd false 8 12 2, .gscale hd 1 2 63], Ready (ganged (gang []) []) i [0] true (fun _ _ => True)) ∧
    ∃ (s : State) (m : Meet) (i : Instr), s.dev.MeetsAt i hd m ∧ m.true? hd ≠ [] := by
  refine ⟨?_, _, _, _, meets_at (.gscaleF hd 19 20) []⟩
  unfold Ready Dev.AllPass Dev.Passes
  decide +kernel

/-- The checks of R283 pass for an instruction with its gang scalars. -/
def Accepted (i : Instr) (ss : List (Nat × W64)) (rs : List SReg) (plans : Dev → Meet → List W64 → List MPlan) : Prop :=
  let d := (met i ss).dev.tick
  let m := metOf i ss
  (∀ r ∈ rs, m.gang.spsn r = false) ∧
    ∀ p ∈ plans d m (rs.map m.gang.sreg), d.planFlt i m p = none ∧ ∀ t ∈ m.true? hd, d.spansFlt m.gang t p = none

/-- Dimensions of 1 with a depth of 1, and without; a row in the stash. -/
def dims1 : W64 := 0x100010001
def dims2 : W64 := 0x10001
def inStash : W64 := 0x100000000

/-- An instruction that needs tiles, or the planes, alone. -/
def needs (ts : List Nat) (planes : Bool) : Dev → Meet → List W64 → List MPlan := fun _ _ _ => [{ MPlan.none with tiles := ts, planes := planes }]

theorem witness_MatrixAcceptance :
    (∃ (s : State) (m : Meet) (i : Instr), s.dev.MeetsAt i hd m ∧ m.true? hd ≠ []) ∧
    (Accepted (.mldw hd .bf16 false 8) [(9, 0x1000100010001), (10, inStash)] (sRun 8 3) (fun _ _ ops => [mldwPlan .bf16 false ops]) ∧
     Accepted (.mswap hd) [] [] (needs [] true) ∧
     Accepted (.mstream hd .bf16 true 7 8) [(9, dims1), (10, inStash)] (sRun 8 3) (fun _ _ ops => [mstreamPlan .bf16 7 ops]) ∧
     Accepted (.mclr hd 0xFF) [] [] (needs ((upTo 8).filter (fun k => (0xFF : Byte).getLsbD k)) false) ∧
     Accepted (.mst hd .f32 7 8) [(9, dims2), (10, inStash)] (sRun 8 3) (fun _ _ ops => [mstPlan .f32 7 ops true]) ∧
     Accepted (.mstReg hd .f32 32 7) [] [] (needs [7] false) ∧
     Accepted (.mlda hd .bf16 0 8) [(9, dims2), (10, inStash)] (sRun 8 3) (fun _ _ ops => [mstPlan .bf16 0 ops false]) ∧
     Accepted (.mgrp hd .bf16 true 0 8) [(9, dims2), (10, inStash)] (sRun 8 4)
       (fun d m ops => [mgrpHead 0 ops, mgrpBody .bf16 0 ops (d.groupTable m.gang ops)]) ∧
     Accepted (.mgive hd 0x1FF) [] [] (needs (upTo 8) true) ∧ Accepted (.macc hd false 0 7) [] [] (needs [0, 7] false) ∧
     Accepted (.mscl hd 0 63) [] [63] (needs [0] false) ∧
     Accepted (.norma hd false 8 12) [(9, dims2), (10, inStash), (12, 0x100)] (sRun 8 3 ++ [12]) (fun _ _ ops => [normPlan false ops]) ∧
     Accepted (.normb hd false 8 12) [(9, dims2), (10, inStash), (12, 0x100)] (sRun 8 3 ++ [12]) (fun _ _ ops => [normPlan true ops]) ∧
     Accepted (.nprod hd 1 8) [(8, 0x10000000000), (9, 0x100000200)] (sRun 8 2) (fun _ _ ops => [nprodPlan ops]) ∧
     Accepted (.aliasT hd 8 9) [(8, inStash)] [8, 9] (fun _ _ ops => [aliasPlan ops]) ∧
     Accepted (.sampmm hd false 0 8 20) [(9, inStash), (11, inStash), (12, dims1), (13, 0x20001)] (sRun 8 7 ++ [20]) (fun d m ops =>
       let x := d.ahead m.core m.idx m.gang
       [sampPlan 0 ops x.probe.1 x.probe.2 x.size])) := by
  refine ⟨⟨_, _, _, meets_at (.mswap hd) []⟩, ?_⟩
  unfold Accepted
  refine ⟨?_, ?_, ?_, ?_, ?_, ?_, ?_, ?_, ?_, ?_, ?_, ?_, ?_, ?_, ?_, ?_⟩ <;> decide +kernel

theorem witness_MatrixRegisterLoad :
    (∃ (s : State) (m : Meet) (i : Instr), s.dev.MeetsAt i hd m ∧ m.true? hd ≠ []) ∧
    (let i := Instr.mldaReg hd .f32 0 32
     (met i []).dev.tick.threads.all (fun x => !x.shadow) = true ∧ (metOf i []).parts.all (fun x => !x.2.shadow) = true ∧
     (met i []).dev.tick.planFlt i (metOf i []) { MPlan.none with tiles := [0] } = none) :=
  ⟨⟨_, _, _, meets_at (.mldaReg hd .f32 0 32) []⟩, by decide +kernel⟩

theorem witness_MatrixQueries : ∃ (s : State) (m : Meet) (i : Instr), s.dev.MeetsAt i hd m ∧ m.true? hd ≠ [] := ⟨_, _, _, meets_at (.mqry hd 63) []⟩

theorem witness_FabricTransfers :
    (∃ (s : State) (m : Meet) (i : Instr), s.dev.MeetsAt i hd m ∧ m.true? hd ≠ []) ∧
    (let ss : List (Nat × W64) := [(8, 0), (9, 0xFF00000000010000), (10, 0x400000004)]
     let i := Instr.fput hd 20 8 0
     let m := metOf i ss
     let sub := (m.at 0).bind (fun t => (met i ss).dev.tick.subOf t .put ((upTo 4).map (fun n => m.gang.sreg (8 + BitVec.ofNat 6 n))))
     (∀ n < 4, m.gang.spsn (8 + BitVec.ofNat 6 n) = false) ∧ sub.isSome = true ∧
       (sub.all (fun s => (met i ss).dev.tick.fxferFlt s (dieOf m.core) = none)) = true) ∧
    (let i := Instr.fsig hd (.v 4 6)
     (one []).dev.OutPass i hd false (fun d t => let o := (d.env t).fsigOps (.v 4 6); [o.1.toNat, o.2.1])
       (fun d t => d.fsigFlt t (.v 4 6) = none ∧ d.owes t = false ∧ d.quietLog t.ctx = true) ∧
     let e := (one []).dev.opened i hd
     ((primaries (e.acting hd [0])).filter (fun t => endpointVm ((e.env t).fsigOps (.v 4 6)).1 ≠ ((e.ctx? t.ctx).map Ctx.vm).getD 0)).length = 0) := by
  refine ⟨⟨_, _, _, meets_at (.fput hd 20 8 0) []⟩, ?_, ?_⟩
  · decide +kernel
  · unfold Dev.OutPass Dev.AllPass Dev.Passes
    decide +kernel

/-! ### Memory, stash, barriers and rows -/

/-- The checks of an instruction whose effect leaves the core pass, with every pair agreeing. -/
def Out (s : State) (i : Instr) (gangOp : Bool) (key : Dev → Thread → List Nat) (ok : Dev → Thread → Prop) : Prop :=
  s.dev.OutPass i hd gangOp key ok

/-- What `MemFree` asks, for one thread whose access stays on this module. -/
def freeOf (d : Dev) (m : MemOp) (t : Thread) : Bool :=
  !(d.owes t) && !((d.core t.core).owesStores t.gangUid) && !(d.matrixHolds t m.want.wr (d.laneSpot t m) m.want.n) &&
    decide ((d.laneSpot t m).mark m.want.n ≤ t.hwm) && !(d.stalls t (d.laneSpot t m)) && t.asked.isNone && (d.askOf m t).isNone &&
    (d.busLines m [t]).isEmpty && decide (d.ottNeed t.core m [t] ≤ (d.claimGrants t.core [t.uid]).ottFree t.core) &&
    ((d.claimGrants t.core [t.uid]).ottWaiters t.core).isEmpty && d.quietLog t.ctx

theorem memFree_of (d : Dev) (m : MemOp) (t : Thread) (h : freeOf d m t = true) : d.MemFree m [t] := by
  simp only [freeOf, Bool.and_eq_true, Bool.not_eq_true', decide_eq_true_eq, Option.isNone_iff_eq_none, List.isEmpty_iff] at h
  obtain ⟨⟨⟨⟨⟨⟨⟨⟨⟨⟨h1, h2⟩, h3⟩, h4⟩, h5⟩, h6⟩, h7⟩, h8⟩, h9⟩, h10⟩, h11⟩ := h
  refine ⟨fun _ => ?_, fun _ => ?_, ?_, ?_, fun _ => ?_, Dev.inTurn_quiet (by simpa using h11) _, .inl ⟨?_, h8, .inr ⟨h9, .inr h10⟩⟩⟩ <;>
    simpa using by first | assumption | exact ⟨h6, h7⟩

/-- A memory instruction passes its checks and can complete at once. -/
def MemReady (rs : List W32) (i : Instr) (m : MemOp) : Prop :=
  Out (one rs) i false (fun d t => ((d.env t).memAddr (m.sp = 0) m.mem).1 :: m.data (d.env t)) (fun d t => d.memFlt t m.sp m.mem m.want = none) ∧
    primaries (((one rs).dev.opened i hd).acting hd [0]) = [thr rs] ∧ freeOf ((one rs).dev.opened i hd) m (thr rs) = true

theorem witness_LoadsAndStores :
    let m : MemRef := ⟨.v 2, 0⟩
    MemReady [0, 0, 0x10FFF0] (.ld hd false .b128 false 4 m) (loadOp hd 0 false .b128 false 4 m) ∧
    MemReady [] (.ld hd true .b8 true 4 m) (loadOp hd 1 false .b8 true 4 m) ∧
    MemReady [0, 0, 0x10FFF8] (.lda hd .b64 false 4 m) (loadOp hd 0 true .b64 false 4 m) ∧
    MemReady [0, 0, 0xFF0] (.sld hd .b128 false 4 m) (loadOp hd 2 false .b128 false 4 m) ∧
    MemReady [0, 0, 0x10FFFF] (.st hd false .b8 m 4) (storeOp 0 false .b8 m 4) ∧
    MemReady [] (.st hd true .b16 m 4) (storeOp 1 false .b16 m 4) ∧
    MemReady [0, 0, 0x10000] (.stl hd .b32 m 4) (storeOp 0 true .b32 m 4) ∧
    MemReady [0, 0, 0xFFC] (.sst hd .b32 m 4) (storeOp 2 false .b32 m 4) := by
  unfold MemReady Out Dev.OutPass Dev.AllPass Dev.Passes
  refine ⟨?_, ?_, ?_, ?_, ?_, ?_, ?_, ?_⟩ <;> decide +kernel

theorem witness_StoresReachMemory :
    (let m : MemRef := ⟨.v 2, 0⟩
     MemReady [0, 0, 0x10000] (.st hd false .b64 m 4) (storeOp 0 false .b64 m 4) ∧ ∃ s', exec (.st hd false .b64 m 4) (one [0, 0, 0x10000]) = .next s') ∧
    (let s := one [0, 0, 0x10000]
     let e := s.dev.opened (.st hd false .b64 ⟨.v 2, 0⟩ 4) hd
     s.dev.mem.wf = true ∧ e.flips = [] ∧ e.caches.olds = [] ∧ ∀ t ∈ primaries (e.acting hd [0]), e.replyOf t = none) ∧
    (let i := Instr.st hd false .b32 ⟨.v 2, 0⟩ 4
     MemReady [0, 0, 0x10000] i (storeOp 0 false .b32 ⟨.v 2, 0⟩ 4) ∧
     ((one [0, 0, 0x10000]).dev.opened i hd).laneSpot (thr [0, 0, 0x10000]) (storeOp 0 false .b32 ⟨.v 2, 0⟩ 4) = .phys 0x10040010000 ∧
     ∃ s', exec i (one [0, 0, 0x10000]) = .next s') := by
  refine ⟨⟨?_, _, rfl⟩, by decide +kernel, ?_, by decide +kernel, _, rfl⟩ <;>
  · unfold MemReady Out Dev.OutPass Dev.AllPass Dev.Passes
    decide +kernel

/-- A store of word 5, of the bytes `b`, by thread 7, whose value before stays readable (R116). -/
def stored (c : Caches) (rel : Bool) (b : List Byte) : Caches := c.wrote { Writer.threads [7] with rel := rel } 5 [0] (b, false) true

/-- Caches after two such stores. -/
def twice : Caches := stored (stored Caches.empty false [0]) false [1]

theorem witness_LoadsReturnAllowedValues :
    (∀ o ∈ twice.olds, o.num < twice.next) ∧ (∃ c : Caches, ∃ w x, c.before? w 5 = some x) ∧
    ((∃ o ∈ twice.choices [.thread 2] 5, o.bytes = [0]) ∧ ∃ o ∈ twice.choices [.thread 2] 5, o.bytes = [1]) ∧
    (∃ o ∈ ((twice.leave [.thread 3] .fence).take [.thread 2] .fence).choices [.thread 2] 5, o.bytes = [0]) ∧
    (∃ o ∈ (twice.passTo [.thread 3] (.thread 2)).choices [.thread 2] 5, o.bytes = [1]) ∧
    ∃ o ∈ twice.choices [.thread 2] 5, ∃ p ∈ (twice.saw [.thread 2] 5 (some o)).choices [.thread 2] 5, o.num ≤ p.num := by
  refine ⟨by decide, ⟨twice, .threads [2], ?_⟩, by decide, by decide, by decide, by decide⟩
  exact ⟨_, rfl⟩

/-- R124, MP: the new flag and the old data; with a release and an acquire between them the old data is gone. -/
theorem test_message_passing :
    ((stored Caches.empty false [0]).choices [.thread 2] 5).map OldWord.bytes = [[0]] ∧
    (((stored Caches.empty false [0]).leave [.thread 7] .fence).take [.thread 2] .fence).choices [.thread 2] 5 = [] := by decide

/-- R114: a thread sees its own store at once. -/
theorem test_own_store_seen : (stored Caches.empty false [0]).choices [.thread 7] 5 = [] := by decide

theorem witness_Atomics :
    let m : MemRef := ⟨.v 2, 0⟩
    MemReady [0, 0, 0x10FFFC] (.atom hd .ar .add false 4 m 6) (rmwOp hd .ar false 4 m 6 (fun _ old x => atomRmw .add 32 old x) (fun _ => [])
      (fun _ off x tag => .atomReq off false .add (BitVec.ofNat 64 x.1) x.2 tag) (fun _ => none)) ∧
    MemReady [0, 0, 0x10FFF8] (.cas hd .rlx true 4 m 6) (rmwOp hd .rlx true 4 m 6 (fun e old x => casRmw (e.read 2 (.v 4 true)).1 old x)
      (fun e => [(e.read 2 (.v 4 true)).1]) (fun _ off x tag => .casReq off true 0 (BitVec.ofNat 64 x.1) x.2 tag) (fun _ => none)) ∧
    MemReady [0, 0, 0x10000] (.atomf hd .rel .add 4 m 6) (rmwOp hd .rel false 4 m 6 (fun _ old x => atomfRmw .add old x) (fun _ => [])
      (fun _ off x tag => .atomfReq off .add (BitVec.ofNat 32 x.1) x.2 tag)
      (fun e => some (.add, BitVec.ofNat 32 (e.read 1 (.v 6 false)).1, (e.read 1 (.v 6 false)).2))) ∧
    MemReady [0, 0, 0x10000] (.fatom hd .rlx .add false m 6)
      { sp := 0, mem := m, want := wantOf .b32 true true, rel := false, acq := false, data := fun e => [(e.read 1 (.v 6 false)).1]
        fill := fun _ _ _ => none, far := fun _ _ _ => none, late := fun _ _ _ _ => noLate, post := fun _ _ _ => none, act := fun d _ _ => d } := by
  unfold MemReady Out Dev.OutPass Dev.AllPass Dev.Passes
  refine ⟨?_, ?_, ?_, ?_⟩ <;> decide +kernel

/-- The module whose chunk has a barrier object at stash offset 0: its 128 bits. -/
def barred (o : Nat) (rs : List W32) : State :=
  let s := ganged (gang []) rs
  { s with dev := { s.dev with chunks := s.dev.chunks.map (fun c => { c with stash := Memory.setLE [] 0 16 o }) } }

/-- The lanes of a serial instruction, as its one thread finds the device. -/
def Serial (s : State) (i : Instr) (gangOp : Bool) (key : Dev → Thread → List Nat) (base free ok : Dev → Thread → Prop) : Prop :=
  Out s i gangOp key base ∧ ∀ t ∈ primaries ((s.dev.opened i hd).acting hd [0]), free (s.dev.opened i hd) t ∧ ok (s.dev.opened i hd) t ∧
    (s.dev.opened i hd).quietLog t.ctx = true

theorem serial_one {s : State} {i : Instr} {g : Bool} {key : Dev → Thread → List Nat} {base free ok : Dev → Thread → Prop} (t : Thread)
    (ht : primaries ((s.dev.opened i hd).acting hd [0]) = [t]) (h : Serial s i g key base free ok) (act : Dev → Thread → Dev) :
    SerialOk ok act (s.dev.opened i hd) (primaries ((s.dev.opened i hd).acting hd [0])) := by
  rw [ht]
  exact ⟨(h.2 t (by rw [ht]; exact List.mem_singleton.2 rfl)).2.1, trivial⟩

/-- Its lanes are in their turns. -/
theorem serial_turn {s : State} {i : Instr} {g : Bool} {key : Dev → Thread → List Nat} {base free ok : Dev → Thread → Prop}
    (h : Serial s i g key base free ok) (place : Thread → Option Nat) :
    (s.dev.opened i hd).InTurn (primaries ((s.dev.opened i hd).acting hd [0])) place :=
  Dev.inTurn_quiet (fun t ht => (h.2 t ht).2.2) place

theorem witness_StashMap :
    let f := SmapForm.v 2 4
    Serial (one [0, 0, 0x10000, 0, 0xFC0]) (.smap hd 15 true 0 f) false
      (fun d t => [((d.env t).smapOps f).1, ((d.env t).smapOps f).2.1]) (fun d t => t.poisonRun ((d.env t).smapRun f) = none)
      (fun d t => d.owesEntry t 15 = false ∧ d.matrixHolds t true (.stash ((d.env t).smapOps f).2.1) 64 = false)
      (fun d t => d.smapFlt t 15 true 64 ((d.env t).smapOps f).1 ((d.env t).smapOps f).2.1 = none) ∧
    ∀ i ∈ [Instr.sunmap hd 15, .sflush hd 0], Ready (one []) i [0] false (fun e t => e.owesEntry t 15 = false ∧ e.owesEntry t 0 = false) := by
  unfold Serial Out Ready Dev.OutPass Dev.AllPass Dev.Passes
  decide +kernel

theorem witness_BarrierOperations :
    let m : MemRef := ⟨.v 2, 0⟩
    let runs := fun (o : Nat) (i : Instr) (g : Bool) (ok : Dev → Thread → ObjLoc → Prop) =>
      Serial (barred o []) i g (fun d t => [d.objOff t m]) (fun d t => d.barFlt t m = none)
        (fun d t => d.owes t = false ∧ d.matrixHolds t true (.stash (d.objOff t m)) 16 = false) (fun d t => ok d t (d.objLoc t (d.objOff t m)))
    runs 0 (.binit hd true m 4) true (fun d t l => d.binitFlt t true l 4095 = none) ∧
    runs 1 (.barv hd m none) false (fun d _ l => d.objBad l = false ∧ (d.obj l).thrT ≠ 0 ∧ (d.obj l).thrC ≠ (d.obj l).thrT ∧ (d.obj l).byT ≤ byteMax) ∧
    runs 0 (.bexp hd m (.v 4)) false (fun d t l => d.objBad l = false ∧ (d.obj l).byT + (d.env t).count (.v 4) ≤ byteMax) ∧
    runs 0 (.bexpMax hd m (.v 4)) false (fun d t l => d.objBad l = false ∧ (d.env t).count (.v 4) ≤ byteMax) ∧
    runs 0 (.baddb hd m (.v 4)) false (fun d _ l => d.objBad l = false) ∧
    runs 4095 (.bdrop hd m) false (fun d _ l => d.objBad l = false ∧ (d.obj l).thrT ≠ 0 ∧ (d.obj l).thrC ≠ (d.obj l).thrT) := by
  unfold Serial Out Dev.OutPass Dev.AllPass Dev.Passes
  refine ⟨?_, ?_, ?_, ?_, ?_, ?_⟩ <;> decide +kernel

theorem witness_BarrierSettles :
    (∃ l : Obj, (l.thrT = 0 ∧ l.byT = 0) ∨ l.thrC ≠ l.thrT ∨ l.byC < l.byT) ∧
    (∃ l : Obj, ¬(l.thrT = 0 ∧ l.byT = 0) ∧ l.thrC = l.thrT ∧ l.byT < l.byC) ∧
    (∃ (d : Dev) (l : ObjLoc) (x : Obj) (t : Thread), (∀ c ∈ d.chunks, c.stash.wf = true) ∧ ¬(x.thrT = 0 ∧ x.byT = 0) ∧ x.thrC = x.thrT ∧ x.byC = x.byT ∧
      (d.objChunk? l).isSome = true ∧ x.thrT < 4096 ∧ x.gang < 64 ∧ t ∈ d.threads ∧ t.ctx = l.ctx ∧ t.lid = l.lid ∧ t.chunk = l.chunk ∧
      t.wait = .barrier 1 l.off false none ∧ (1 : PReg) ≠ 0 ∧ (1 : PReg).toNat < t.preds.length) := by
  refine ⟨⟨Obj.ofNat 0, by decide⟩, ⟨{ Obj.ofNat 1 with thrC := 1, byC := 1 }, by decide⟩, ?_⟩
  refine ⟨{ (one []).dev with threads := [{ thr [] with wait := .barrier 1 0 false none }] }, (one []).dev.objLoc (thr []) 0,
    { Obj.ofNat 1 with thrC := 1 }, { thr [] with wait := .barrier 1 0 false none }, ?_⟩
  decide +kernel

theorem witness_BarrierWaits :
    let m : MemRef := ⟨.v 2, 0⟩
    ∀ i ∈ [Instr.bwait hd 1 m (.imm false), .btest hd 1 m (.reg (.v 4)), .bwaitt hd 1 m true (.v 6)],
      Serial (barred 1 []) i false (fun d t => [d.objOff t m]) (fun d t => d.barFlt t m = none)
        (fun d t => d.matrixHolds t false (.stash (d.objOff t m)) 16 = false) (fun d t => d.objBad (d.objLoc t (d.objOff t m)) = false) := by
  unfold Serial Out Dev.OutPass Dev.AllPass Dev.Passes
  decide +kernel

/-- The module with a row of core 0's column in a ROW range at virtual 0x40000000, and slot 0 of its gang in a state. -/
def rowed (st : SlotState) (rs : List W32) : State :=
  let s := ganged (gang []) rs
  let r : Range := { base := 0x40000000, len := 0x1000, rd := true, wr := true, row := true, inherited := false }
  let slot : RowSlot := { RowSlot.empty with state := st, va := 0x40000000, rd := true, wr := true, close := 1000000 }
  { s with dev := { s.dev with
      mem := s.dev.mem.setLE (fetchRoot + 0x10008) 8 0x3F
      launches := s.dev.launches.map (fun l => { l with ranges := l.ranges ++ [r] })
      cores := [(0, { core (gang []) with slots := (List.replicate 8 RowSlot.empty).set 0 slot })] } }

theorem witness_RowSlots :
    let va := fun (e : Dev) (t : Thread) => ((e.env t).rowAddr true (.v 2) 0).1
    let mine := fun (k : Nat) (d : Dev) (t : Thread) => d.slotTaken t k = false
    Serial (rowed .empty [0, 0, 0x40000000]) (.rowact hd 0 (.v 2) 0) true (fun d t => [va d t])
      (fun d t => d.rowBaseFlt t true (.v 2) = none) (fun d t => d.matrixHolds t false (.phys (d.rowPa t (va d t))) 2048 = false)
      (fun d t => d.rowactFlt t 0 (va d t) = none) ∧
    Serial (rowed .ready []) (.rowpre hd 0) true (fun _ _ => []) (fun _ _ => True) (fun d t => d.slotBusy t.core 0 = false) (mine 0) ∧
    Serial (rowed .opening []) (.rowqry hd 4 7) true (fun _ _ => []) (fun _ _ => True) (fun d t => d.logStalls t.ctx = false) (mine 7) ∧
    ∀ st ∈ [SlotState.opening, .ready, .lost], Serial (rowed st []) (.rowwt hd 1 0) true (fun _ _ => []) (fun _ _ => True) (fun _ _ => True)
      (fun d t => mine 0 d t ∧ (d.slot t.core 0).state ≠ .empty) := by
  unfold Serial Out Dev.OutPass Dev.AllPass Dev.Passes
  refine ⟨?_, ?_, ?_, ?_⟩ <;> decide +kernel

theorem witness_RowTransfers :
    let so := fun (d : Dev) (t : Thread) => ((d.env t).rowAddr false (.v 2) 0).1
    let ready := fun (d : Dev) (t : Thread) (wr : Bool) => d.slotFlt t 0 = none ∧ (if wr then (d.slot t.core 0).wr else (d.slot t.core 0).rd) = true
    Serial (rowed .ready []) (.rowconW hd 0 7) true (fun _ _ => []) (fun _ _ => True) (fun _ _ => True)
      (fun d t => ready d t false ∧ d.planesOf t = some (d.gangNo t)) ∧
    Serial (rowed .ready []) (.rowconV hd 8 0) true (fun _ _ => []) (fun _ _ => True) (fun _ _ => True) (fun d t => ready d t false) ∧
    Serial (rowed .ready [0, 0, 0x800]) (.rowconS hd 0 (.v 2) 0) true (fun d t => [so d t]) (fun d t => d.rowBaseFlt t false (.v 2) = none)
      (fun d t => d.matrixHolds t true (.stash (so d t)) 2048 = false) (fun d t => ready d t false ∧ d.rowStashFlt t (so d t) true = none) ∧
    Serial (rowed .ready [0, 0, 0x800]) (.rowput hd 0 (.v 2) 0) true (fun d t => [so d t, (d.rowData t (so d t)).1.getLE 0 2048])
      (fun d t => d.rowBaseFlt t false (.v 2) = none)
      (fun d t => d.matrixHolds t false (.stash (so d t)) 2048 = false ∧ d.matrixHolds t true (.phys (d.slot t.core 0).pa) 2048 = false)
      (fun d t => ready d t true ∧ d.rowStashFlt t (so d t) false = none) ∧
    Serial (rowed .ready []) (.rowputV hd 0 8) true (fun d t => [leOf (d.rowPart t 8).2.1]) (fun _ _ => True)
      (fun d t => d.matrixHolds t true (.phys ((d.slot t.core 0).pa + 32 * (d.rank? t).getD 0)) 32 = false)
      (fun d t => ready d t true) := by
  unfold Serial Out Dev.OutPass Dev.AllPass Dev.Passes
  refine ⟨?_, ?_, ?_, ?_, ?_⟩ <;> decide +kernel

/-! ### Tasks, jobs and system registers -/

theorem witness_PostQueuesTasks :
    let s := one [0, 0, 0, 0, 0x0, 0, 0x10000, 0, 0, 0, 0x200000, 0]
    s.dev.OutPass (.post hd 4 8) hd false (fun d t => [(d.postBits t 4 8).1])
      (fun e t => e.postFlt (.post hd 4 8) t 4 8 = none ∧ e.owes t = false) ∧
    ∀ n < 4, (s.dev.die n).tasks.length + 1 ≤ 65536 := by
  unfold Dev.OutPass Dev.AllPass Dev.Passes
  refine ⟨?_, ?_⟩ <;> decide +kernel

/-- A submission is accepted in the thread's lane. -/
def accepted (s : State) (i : Instr) (k : JobKind) (c : CardSrc) : Bool :=
  let e := s.dev.opened i hd
  (primaries (e.acting hd [0])).all (fun t => match e.submitLane t k 4 (e.cardOf t c) with | .ok _ => true | .error _ => false)

/-- A job card of a copy, and of a collective, in s8 to s15. -/
def copyCard : State := ganged (gang [(9, 0x10000), (10, 0x1000000000004), (14, 0x8000), (15, 0x8000)]) []
def collCard : State := ganged (gang [(8, 0x10000), (9, 0x12000), (10, 1), (14, 0x8000), (15, 0x8000)]) []

theorem witness_JobSubmission :
    let c := CardSrc.group 8
    let pass := fun (s : State) (i : Instr) (k : JobKind) => (Out s i false (fun d t => 0 :: (d.cardOf t c).1.map BitVec.toNat) (fun d t => d.cardFlt t c = none) ∧
      (∀ t ∈ primaries ((s.dev.opened i hd).acting hd [0]), (s.dev.opened i hd).owes t = false ∧ (s.dev.opened i hd).logStalls t.ctx = false)) ∧ accepted s i k c = true
    pass copyCard (.xcopy hd 4 c) .copy ∧ pass collCard (.crs hd 4 c) (.crs false) ∧
    pass collCard (.crsNorm hd 4 c) (.crs true) ∧ pass collCard (.cag hd 4 c) .cag ∧ pass collCard (.car hd 4 c) .car ∧ pass collCard (.cbc hd 4 c) .cbc := by
  unfold Out Dev.OutPass Dev.AllPass Dev.Passes
  refine ⟨?_, ?_, ?_, ?_, ?_, ?_⟩ <;> decide +kernel

/-- A module on whose die 0 a copy of the thread's context is queued under handle 0. -/
def jobbed (rs : List W32) : State :=
  let s := ganged (gang [(9, 0x10000), (10, 0x1000000000004), (14, 0x8000), (15, 0x8000)]) rs
  match s.dev.submitLane (thr rs) .copy 4 (s.dev.cardOf (thr rs) (.group 8)) with
  | .ok x => { s with dev := x.2.2 }
  | .error _ => s

/-- A module on which the job of handle 0 has ended. -/
def ended (st : JobState) : State := { one [] with dev := (one []).dev.mapDie 0 (fun x => { x with retired := [(0, 0, st)] }) }

theorem witness_EnqueueAppends : ∃ (d : Dev) (die : Nat), die < d.dies.length ∧ (d.die die).jobs ≠ [] :=
  ⟨(jobbed []).dev, 0, by decide +kernel⟩

theorem witness_JobHandles :
    let key := fun (d : Dev) (t : Thread) => [((d.env t).handle (.v 4)).2.1.toNat]
    let waits := fun (s : State) => s.dev.OutPass (.xwait hd 1 (.v 4)) hd false key (fun d t =>
      (match d.jobState t ((d.env t).handle (.v 4)).2.1 with
        | some st => !st.live || decide (d.cyc t.ctx < ((d.env t).handle (.v 4)).1)
        | none => false) = true)
    waits (ended .completed) ∧ waits (ended .failed) ∧ waits (jobbed [0, 0, 0, 0, 5]) ∧
    (∀ s ∈ [ended .withdrawn, jobbed []],
      s.dev.OutPass (.xqry hd 4 (.v 4)) hd false key (fun d t =>
        (d.jobState t ((d.env t).handle (.v 4)).2.1).isSome = true ∧ d.logStalls t.ctx = false)) ∧
    (jobbed []).dev.OutPass (.xcancel hd 1 (.v 4)) hd false key (fun d t => (d.cancellable t ((d.env t).handle (.v 4)).2.1).isSome = true) ∧
    (one []).dev.OutPass (.xcancel hd 1 (.v 4)) hd false key (fun d t => d.cancellable t ((d.env t).handle (.v 4)).2.1 = none) := by
  unfold Dev.OutPass Dev.AllPass Dev.Passes
  refine ⟨?_, ?_, ?_, ?_, ?_, ?_⟩ <;> decide +kernel

theorem witness_SystemRegisterReads :
    (∃ (s : State) (m : Meet) (i : Instr), s.dev.MeetsAt i hd m ∧ m.true? hd ≠ []) ∧
    (ownScope 0x024 = true ∧ Plain (.sysr hd (.pair 4) 0x024) [0]) ∧
    (ownScope 0x02B = false ∧ (one []).dev.OutPass (.eqtailRead hd (.one 4)) hd (gangScope 0x02B) (fun _ _ => []) (fun _ _ => True)) ∧
    (one []).dev.OutPass (.sysr hd (.one 4) 0) hd (gangScope 0) (fun _ _ => []) (fun d t => d.logStalls t.ctx = false) ∧
    ((ganged (gang []) []).dev.OutPass (.sysr hd (.one 4) 0x017) hd (gangScope 0x017) (fun _ _ => []) (fun _ _ => True)) ∧
    ∃ c, (one []).dev.ctx? (thr []).ctx = some c := by
  refine ⟨⟨_, _, _, meets_at (.sysr hd (.s 4) 0) []⟩, ?_, ?_, ?_, ?_, ⟨_, rfl⟩⟩
  all_goals (try unfold Plain Ready); (try unfold Dev.OutPass); unfold Dev.AllPass Dev.Passes; decide +kernel

theorem witness_SystemRegisterWrites :
    ∀ i ∈ [Instr.sysw hd (.one 4) 0, .sysw hd (.one 4) 0x3FF, .cyccmpWrite hd (.pair 4), .eqheadWrite hd (.one 4), .eqRingWrite hd (.pair 4) true,
        .partmodeWrite hd (.one 4) 7, .lcmapWrite hd (.one 4) 511, .fmtrangeWrite hd (.pair 4) 63 true, .marginRegWrite hd (.pair 4) 543],
      (one []).dev.OutPass i hd false (fun d t => [((d.env t).sysVal (.pair 4)).1.toNat])
        (fun d t => t.poisonRun ((d.env t).sysRun (.pair 4)) = none ∧ t.poisonRun ((d.env t).sysRun (.one 4)) = none ∧
          d.owes t = false) := by
  unfold Dev.OutPass Dev.AllPass Dev.Passes
  decide +kernel

theorem witness_GangRegisterWrites :
    (∃ (s : State) (m : Meet) (i : Instr), s.dev.MeetsAt i hd m ∧ m.true? hd ≠ []) ∧
    let m := metOf (.svarWrite hd (.one 4) 3) []
    let s := met (.svarWrite hd (.one 4) 3) []
    (s.dev.tick.core m.core).svarBusy m.idx = false ∧
      (∀ t ∈ m.true? hd, t.poisonRun (Env.sysRun { c := s.dev.tick.ctr, t := t, g := some m.gang } (.one 4)) = none) ∧
      ∀ y ∈ s.dev.tick.threads, y.shadow = false := by
  refine ⟨⟨_, _, _, meets_at (.sysw hd (.one 4) 0x011) []⟩, ?_⟩
  decide +kernel

/-- A user thread of a context that has a trap handler; and one in it. -/
def trapping (t : Thread) : State :=
  { one [] with dev := ({ (one []).dev with threads := [t] }).mapCtx 0 (fun c => { c with regs := { c.regs with tvec := 0x400 } }) }

theorem witness_TrapsTaken : ∀ i ∈ [Instr.trap hd 7, .trapBrk hd 7],
    Plain i [0] ∧ ∃ t, ((trapping { thr [] with level := .user }).dev.AllPass i hd [0] false (fun _ _ => True) ∧
      ((trapping { thr [] with level := .user }).dev.opened i hd).acting hd [0] = [t]) ∧
      ((trapping { thr [] with level := .user }).dev.opened i hd).pairsOf [t] = [t] ∧ t.endsOnTrap (((trapping { thr [] with level := .user }).dev.opened i hd).tvec t) = false := by
  simp only [List.mem_cons, List.not_mem_nil, or_false, forall_eq_or_imp, forall_eq]
  unfold Plain Ready Dev.AllPass Dev.Passes
  refine ⟨⟨by decide +kernel, { thr [] with level := .user, latches := latchesOf (.trap hd 7) }, ?_⟩,
    by decide +kernel, { thr [] with level := .user, latches := latchesOf (.trapBrk hd 7) }, ?_⟩ <;> decide +kernel

theorem witness_TrapReturn :
    (∀ x ∈ [(Instr.eret hd, 0), (Instr.eretNext hd, 12)], ∃ s : State, Ready s x.1 [0] false
      (fun _ t => t.inTrap = true ∧ (t.epc + x.2).toNat % 4 = 0 ∧ localTarget (t.epc + x.2) = true)) ∧
    ∃ t : Thread, (one []).dev.AllPass (.eret hd) hd [0] false (fun _ _ => True) ∧
      ((one []).dev.opened (.eret hd) hd).acting hd [0] = [t] ∧ ((one []).dev.opened (.eret hd) hd).pairsOf [t] = [t] ∧
      t.shadow = false ∧ t.inTrap = false := by
  unfold Ready Dev.AllPass Dev.Passes
  refine ⟨?_, { thr [] with latches := latchesOf (.eret hd) }, by decide +kernel⟩
  simp only [List.mem_cons, List.not_mem_nil, or_false, forall_eq_or_imp, forall_eq]
  exact ⟨⟨trapping { thr [] with inTrap := true, epc := 0x20, level := .context }, by decide +kernel⟩,
    ⟨trapping { thr [] with inTrap := true, epc := 0x20, level := .context }, by decide +kernel⟩⟩

theorem witness_TranslationQueries :
    Plain (.xlate hd 4 8) [0] ∧ Ready (one []) (.xlateCtx hd 4 8 10) [0] false (fun e t => ((e.env t).read 1 (.v 10 false)).1 < 64) ∧
    Plain (.leaseq hd 4 8) [0] := by
  unfold Plain Ready Dev.AllPass Dev.Passes
  refine ⟨?_, ?_, ?_⟩ <;> decide +kernel

theorem witness_Maintenance :
    ∀ i ∈ [Instr.margin hd 1 4 5, .scan hd 1 4, .scanAbort hd 1 4, .quar hd 1 4, .haltc hd 1 4, .haltcRel hd 1 4, .marginRd hd 6 4],
      (one []).dev.OutPass i hd false (fun d t => [((d.env t).read 0 (.v 4 false)).1]) (fun _ _ => True) := by
  unfold Dev.OutPass Dev.AllPass Dev.Passes
  decide +kernel

/-- The module with its context changed, about to execute. -/
def inCtx (rs : List W32) (f : Ctx → Ctx) : State := { one rs with dev := (one rs).dev.mapCtx 0 f }

/-- A context in a phase; one with a snapshot key and areas; one whose snapshot of epoch 1 lives. -/
def phased (p : CtxPhase) : Ctx → Ctx := fun c => { c with phase := p }
def keyed : Ctx → Ctx := fun c => { c with snapKey := some 1, areas := [some 0x10000000000, some 0x10000001000] }
def snapping : Ctx → Ctx := fun c =>
  { keyed c with
    regs := { c.regs with epoch := 1 }
    snaps := [Snap.idle, { Snap.idle with epoch := 1, state := .streaming, live := true, markers := [], todo := [.granule 0] }] }

/-- The saved image of that context. -/
def savedCtx : Ctx → Ctx := fun c => { c with phase := .saved, saved := some ((one []).dev.capture 0 c) }

theorem witness_SnapshotInstructions :
    let starts := fun (s : State) (i : Instr) => Ready s i [0] false (fun _ _ => True)
    (let s := inCtx [] snapping
     starts s (.snap hd 1 true) ∧ ∀ c, s.dev.ctx? 0 = some c → c.snapKey.isSome = true ∧
       (c.snaps[1]?).bind (fun s => if s.live then some s.epoch else none) = some c.regs.epoch) ∧
    (let s := inCtx [] keyed
     starts s (.snap hd 1 true) ∧ ∀ c, s.dev.ctx? 0 = some c → c.snapKey.isSome = true ∧
       (c.snaps[1]?).bind (fun s => if s.live then some s.epoch else none) = none ∧ (c.areas[1]?.getD none).isSome = true ∧
       (c.regs.epoch + 1) % 65536 = nextEpoch c.regs.epoch true) ∧
    (∀ i ∈ [Instr.snapq hd 4 true, .snapqW hd 4 false, .ctxsv hd 1 4, .ctxld hd 1 4, .ctxldImg hd 1 4 6], starts (one []) i) ∧
    (∀ p ∈ [CtxPhase.running, .draining 9, .recording 0 1 none, .saved], starts (inCtx [] (phased p)) (.ctxsv hd 1 4)) ∧
    starts (one [0, 0, 0, 0, 64]) (.ctxsv hd 1 4) ∧
    (∀ c, (inCtx [] savedCtx).dev.ctx? 0 = some c → c.phase = .saved ∧ c.saved.isSome = true ∧ c.noResume = false) := by
  unfold Ready Dev.AllPass Dev.Passes
  refine ⟨?_, ?_, ?_, ?_, ?_, ?_⟩ <;> decide +kernel

/-! ### States in which the events take place -/

/-- The module with its thread changed; with a physical core changed; with core 0 changed. -/
def dT (t : Thread) : Dev := { (one []).dev with threads := [t] }
def dP (p : Nat) (f : Phys → Phys) : Dev := (one []).dev.mapPhys p f
def dC (f : Core → Core) : Dev := { (one []).dev with cores := [(0, f (core (gang [])))] }
/-- The module late in a run. -/
def late (n : Nat) (d : Dev) : Dev := { d with pcyc := n }

/-- A pending result that writes v4, of a read, with what it still covers. -/
def pend (cover : Nat) (u : Option Unread) : Late := { regs := [⟨4, 0, false, 0⟩], cover := cover, unread := u, guess := false, acq := false, va := none }
/-- The read of another module's bytes under tag 5, and the access that has its reply. -/
def farRead : Unread := .far 5 0 4 false none
def answered : OttAcc :=
  { ctx := 0, uid := 0, lane := 0, tag := 5, vm := 1, seq := 0, off := 0, len := 4, posted := false, wr := false, ask := none, origin := ⟨0, 0, 0, 0, .user, 0, 0, 0⟩,
    was := 0, acked := none, reply := .data [1, 2, 3, 4] [] }

theorem witness_ThreadEvents :
    let t0 := thr []
    ((dT { t0 with wait := .sleep 0 }).thread? 0 = some { t0 with wait := .sleep 0 } ∧ (0 : W64) ≤ (dT t0).cyc 0) ∧
    (let t := { t0 with wait := .barrier 1 0 true (some 0) }; (dT t).thread? 0 = some t ∧ (0 : W64) ≤ (dT t).cyc 0) ∧
    (let t := { t0 with spin := 1 }; let d := late 1 (dT t); d.thread? 0 = some t ∧ t.spin ≠ 0 ∧ t.spin ≤ d.pcyc) ∧
    (let t := { t0 with spin := 9 }; let d := dT t
     d.thread? 0 = some t ∧ d.pcyc < t.spin ∧ d.turn ≤ t.core ∧ t.idle = true ∧ d.ctxIssues t.ctx = true ∧ d.readyOn t.core = []) ∧
    ((late 2048 (dT t0)).readyOn 0).find? (fun x => x.uid == 0) = some t0 ∧ 2048 ≤ (late 2048 (dT t0)).pcyc - t0.since ∧
    (let t := { t0 with late := [pend 2 (some farRead)] }
     let d : Dev := { dT t with cores := [(0, { Core.reset with ott := [{ idx := 1, granted := none, accs := [answered], here := none }] })] }
     d.thread? 0 = some t ∧ d.tick.lateFilled t = some (pend 2 (some farRead), answered)) ∧
    (let t := { t0 with late := [pend 0 (some (.stash 0 4 false))] }
     (dT t).thread? 0 = some t ∧ (dT t).tick.lateFilled t = none ∧ t.lateHere = some (pend 0 (some (.stash 0 4 false)))) ∧
    (let t := { t0 with late := [pend 0 none] }
     (dT t).thread? 0 = some t ∧ (dT t).tick.lateFilled t = none ∧ t.lateHere = none ∧
       t.late.find? (fun y => y.cover = 0 && y.unread.isNone) = some (pend 0 none) ∧ t.uid = 0) ∧
    (let t := { t0 with late := [pend 1 (some (.stash 0 4 false))] }
     (dT t).thread? 0 = some t ∧ (dT t).tick.lateFilled t = none ∧ t.lateHere = none ∧ t.lateLands = none ∧ (dT t).tick.lateMay t = true) ∧
    ∀ m ∈ [4096, 8192], let t := { t0 with wait := .grow m }
     let d := (dT t).mapCtx 0 (fun c => { c with privMap := [((0, 0, 0), 0x11000000)] })
     d.thread? 0 = some t ∧ (d.growMap t m).isSome = true := by
  refine ⟨?_, ?_, ?_, ?_, ?_, ?_, ?_, ?_, ?_, ?_, ?_⟩ <;> decide +kernel

/-- A context whose CYCCMP has come, armed by the thread. -/
def ringing : Ctx → Ctx := fun c => { c with regs := { c.regs with cyc := 7, cyccmp := 7, armer := some 0 } }

theorem witness_ThreadEvents_traps :
    let rings := fun (d : Dev) => ∀ c, d.ctx? 0 = some c → c.regs.cyccmp ≠ 0 ∧ c.regs.cyccmp ≤ c.regs.cyc ∧ c.regs.armer = some 0
    let free := fun (d : Dev) (t : Thread) => d.thread? 0 = some t ∧ d.threads.filter (fun x => x.uid == t.gangUid || (x.shadow && x.partner == some t.gangUid)) = [t] ∧
      t.inTrap = false ∧ d.atBoundary t = true ∧ t.shadow = false ∧ t.readyAt d.pcyc = true
    (rings (inCtx [] ringing).dev ∧ ((inCtx [] ringing).dev.thread? 0).isSome = true) ∧
    (rings { (inCtx [] ringing).dev with threads := [] }) ∧
    (let t := { thr [] with pending := some ⟨cTimer, Detail.zero⟩ }; free (dT t) t ∧ t.pending.isSome = true) ∧
    (let t := { thr [] with timerDue := some 7 }; free (dT t) t ∧ t.pending = none) := by
  decide +kernel

theorem witness_MarginEvents :
    let t0 := thr []
    let here := fun (d : Dev) (t : Thread) => ((d.thread? 0).map (fun y => (d.thread? y.gangUid).getD y) = some t ∧ d.physOf t.core = 0)
    (here (dT t0) t0 ∧ (dT t0).reported t0 = [0] ∧ ∀ i, (dT t0).atPc t0 = some i → sideUnit i = false) ∧
    (∀ i ∈ [Instr.baddb hd ⟨.v 2, 0⟩ (.v 4), .barv hd ⟨.v 2, 0⟩ none],
     let d := fetchDev State.reset.dev ((encode i).getD 0)
     (d.thread? 0).any (fun t => d.reported t == [0] && t.wait == .none && d.atPc t == some i && sideUnit i && d.physOf t.core == 0) = true) ∧
    (let t := { t0 with wait := .matrix 3 }; here (dT t) t ∧ (dT t).reported t = []) ∧
    (let t := { t0 with wait := .rendezvous }; here (dT t) t ∧ (dT t).reported t = [] ∧ ∀ n, t.wait ≠ .matrix n) ∧
    (let d := late 1200 (dP 3 (fun p => { p with tgt := 5 })); (d.phys? 3).cur ≠ (d.phys? 3).tgt ∧ (d.phys? 3).lastStep + 1200 ≤ d.pcyc) ∧
    (let d := late 12000000 (one []).dev; d.foehnSets 0 = true ∧ (d.phys? 0).tgt < (d.phys? 0).ceil ∧
      (d.phys? 0).calmSince + 12000000 ≤ d.pcyc ∧ (d.phys? 0).lastRaise = none) ∧
    (∀ st ∈ [2, 4], let d := late 9 (dP 3 (fun p => { p with state := 3, prior := st, scanEnd := 9 })); (d.phys? 3).state = 3 ∧ (d.phys? 3).prior = st ∧
      (d.phys? 3).scanEnd ≠ 0 ∧ (d.phys? 3).scanEnd ≤ d.pcyc ∧ (0 : W64) = KV.get d.scansig 0 3 ∧ (1 : W64) ≠ KV.get d.scansig 0 3) ∧
    (let d := dP 3 (fun p => { p with state := 3, scanEnd := 0 }); (d.phys? 3).state = 3 ∧ (d.phys? 3).scanEnd = 0) ∧
    (let d : Dev := { (one []).dev with fills := [⟨16, 0, none, false⟩] }; d.nextFill 0 = some ⟨16, 0, none, false⟩) ∧
    ∀ fl ∈ [[], [(0, 1), (0, 2)]], let d : Dev := { dP 16 (fun p => { p with state := 5, flips := fl }) with fills := [⟨16, 0, some 0, true⟩] }
     d.fills.find? (fun g => g.spare == 16) = some ⟨16, 0, some 0, true⟩ ∧ (d.phys? 16).scanEnd = 0 ∧ (d.phys? 16).state = 5 ∧
       d.spareBad 16 = !fl.isEmpty := by
  refine ⟨?_, ?_, ?_, ⟨by decide +kernel, by decide +kernel, fun n h => by cases h⟩, ?_, ?_, ?_, ?_, ?_, ?_⟩
  · refine ⟨by decide +kernel, by decide +kernel, fun i h => ?_⟩
    have e : (dT (thr [])).atPc (thr []) = some (.nop hd) := by rfl
    rw [e] at h; cases h; rfl
  all_goals decide +kernel

/-- A transfer of slot 0, queued. -/
def moving : Transfer :=
  { id := 1, prio := 2, slot := 0, ctx := 0, gang := 0, kind := .toPlane 0, uids := [0], passed := 0, att := 0, after := 0, beats := none,
    second := 0, swaps := [] }

/-- A matrix instruction that waits for a place, and one in the queue. -/
def waiting : MatrixJob :=
  { ticket := 1, instr := .mclr hd 1, gang := 0, ctx := 0, lid := 0, home := 0, pc := 0, ops := [], table := [], spans := [], given := [], active := [(0, 0)],
    parts := [(0, 0)], step := 0, ovf := 0, inv := 0, nonfin := 0, fin := false, wrote := false, marks := [] }

/-- The module with a slot of core 0 in a state, whose closing time has come. -/
def closing (st : SlotState) : Dev :=
  let d := (rowed st []).dev
  d.mapCore 0 (fun c => { c with slots := c.slots.map (fun s => { s with close := 0 }) })

theorem witness_ColumnEvents :
    (let d := (rowed .opening []).dev; (d.slot 0 0).state = .opening ∧ (d.slot 0 0).ready ≤ d.cyc (d.slot 0 0).ctx ∧
      ∀ c t, d.ctx? (d.slot 0 0).ctx = some c → c.phase ≠ .saving t) ∧
    (let d := late 30 ((rowed .opening []).dev.mapCore 0 (fun c => { c with slots := c.slots.map (fun s => { s with ready := 18 }) }) |>.mapCtx 0
        (fun c => { c with phase := .saving 0 }))
     (d.slot 0 0).kept = false ∧ (d.ctx? 0).any (fun c => c.phase == .saving 0 && decide (c.regs.cyc < (d.slot 0 0).ready) &&
       decide ((d.slot 0 0).ready.toNat ≤ c.regs.cyc.toNat + (d.pcyc - 0))) = true) ∧
    (∀ st ∈ [SlotState.opening, .ready], let d := closing st
     (d.slot 0 0).state = st ∧ (d.slot 0 0).close ≤ d.cyc (d.slot 0 0).ctx ∧ ∀ x ∈ (d.core 0).bus, x.slot ≠ 0) ∧
    (let d := late 18 (dC (fun c => c.mapBank 5 (fun b => { b with preEnd := 18 })))
     ((d.core 0).bank 5).preEnd ≠ 0 ∧ ((d.core 0).bank 5).preEnd ≤ d.pcyc) ∧
    (let d := late 4020 (dC (fun c => { c with refresh := [(7, 240)] }))
     KV.get? (d.core 0).refresh 7 = some 240 ∧ 240 - 120 + 3900 ≤ d.pcyc) ∧
    (let d := late 620 (dC (fun c => { c with refresh := [(7, 240)] }))
     KV.get? (d.core 0).refresh 6 = none ∧ ∀ r ∈ (d.core 0).refresh, 120 ≤ (d.pcyc + 3900 - (r.2 - 120) % 3900) % 3900 ∧
       (d.pcyc + 3900 - (r.2 - 120) % 3900) % 3900 ≤ 3780) ∧
    (let d := dC (fun c => { c with bus := [moving] })
     (d.core 0).crossing = none ∧ grantOf Transfer.prio Transfer.passed ((d.core 0).bus.filter (d.mayCross 0)) = some moving) ∧
    (∀ k ∈ [TransferKind.line 0 false none, .toPlane 0], let b := { moving with beats := some 0, kind := k }
     let d := late 8 (dC (fun c => { c with bus := [b] }))
     (d.core 0).crossing = some (b, 0) ∧ 8 ≤ d.pcyc ∧ b.att = 0 ∧
       (d.phys? (d.physOf 0)).failing (b.data (d.slot 0 b.slot)).1 false = []) ∧
    (let b := { moving with beats := some 0 }
     let d := (late 8 (dC (fun c => { c with bus := [b] }))).mapPhys 0 (fun p => { p with stuck := [⟨5, true⟩] })
     (d.core 0).crossing = some (b, 0) ∧ b.att < 2 ∧ (d.phys? (d.physOf 0)).failing (b.data (d.slot 0 b.slot)).1 false ≠ []) ∧
    (let b := { moving with att := 3 }; (dC (fun c => { c with bus := [b] }) |>.core 0).bus.find? (fun x => x.att = 3) = some b) := by
  refine ⟨⟨by decide +kernel, by decide +kernel, fun c t h => ?_⟩, ?_, ?_, ?_, ?_, ?_, ?_, ?_, ?_, ?_⟩
  · have e : ((rowed .opening []).dev.ctx? ((rowed .opening []).dev.slot 0 0).ctx).map Ctx.phase = some .running := by decide +kernel
    rw [h] at e
    simp only [Option.map_some, Option.some.injEq] at e
    rw [e]; exact fun h => by cases h
  all_goals decide +kernel

/-- A module with a job of a kind under handle 0, changed. -/
def dJ (k : JobKind) (f : Job → Job) : Dev := (jobbed []).dev.mapJob 0 0 (fun j => f { j with kind := k })

/-- The job of that handle meets a condition; the job that the engine grants does. -/
def has (d : Dev) (p : Job → Bool) : Bool := (d.job? 0 0).any p
def grants (d : Dev) (p : Job → Bool) : Bool := (d.grantedJob 0).any (fun j => j.handle == 0 && p j)

/-- A piece of a segment of a job that is on its way to vm 1. -/
def aPiece : Piece := ⟨0, true, 1, 0, 0, 0, 0, 4, none⟩

theorem witness_EngineEvents :
    grants (dJ .copy id) (fun j => !j.kind.coll && !j.toEmit && j.todo ≠ []) = true ∧
    grants (dJ .copy (fun j => { j with card := [0, 0x10000, 0x1000000000004, 0, 0x180000, 0, 0, 0], done := [0] })) (fun j => !j.kind.coll && j.toEmit) = true ∧
    grants (dJ .car (fun j => { j with matched := true, members := [0] })) (fun j => j.kind.coll && decide (j.progress < j.resultLen)) = true ∧
    grants (dJ (.crs true) (fun j => { j with matched := true, members := [0], progress := j.resultLen })) (fun j => j.kind.coll && decide (j.resultLen ≤ j.progress)) = true ∧
    (∀ p ∈ [[], [aPiece]], has (dJ .copy (fun j => { j with pend := p })) (fun j => j.failing.isNone && j.pend == p && !j.kind.coll) = true) ∧
    has (dJ .copy (fun j => { j with failing := some (cGcmTagFail, Detail.zero) })) (fun j => j.failing.isSome && j.pend == []) = true ∧
    (let d := (dJ .copy (fun j => { j with card := [0, 0x10000, 0x1000000000004, 0, 0x140000, 0, 0, 0], done := [0] })).mapCtx 0
       (fun c => { c with keys := [(1, 7)] })
     has d (fun j => j.crypt = 1 && j.todo = [] && j.pend = [] && !j.emitted && j.failing.isNone && (d.gcmOf j).isSome) = true) ∧
    (let t := { thr [] with wait := .job 1 0 0 4 false false }; let d := { (jobbed []).dev with threads := [t] }
     d.thread? 0 = some t ∧ d.missed t = true) ∧
    (let d := dJ (.crs false) (fun j => { j with members := [0, 1] })
     has d (fun j => d.collReady (d.die 0) j && !j.matched && (j.members.filter (fun v => v ≠ 0)) = [1] && { j.cardKey with op := 3 } != j.cardKey) = true) ∧
    (let d := dJ .car (fun j => { j with members := [0], matched := true })
     has d (fun j => d.collReady (d.die 0) j && j.matched) = true) ∧
    (has (dJ .cag (fun j => { j with card := [0, 0, 0, 0, 7 * 2 ^ 29, 0, 0, 0] })) (fun j => j.kind.coll && decide (j.retries < bitsOf (cardBits j.card) 285 3)) = true) ∧
    (has (dJ .cag (fun j => { j with retries := 7 })) (fun j => j.kind.coll && decide (bitsOf (cardBits j.card) 285 3 ≤ j.retries)) = true) := by
  refine ⟨?_, ?_, ?_, ?_, ?_, ?_, ?_, ?_, ?_, ?_, ?_, ?_⟩ <;> decide +kernel

/-- A context of two modules, this being vm 0; its state meets a condition. -/
def two : Ctx → Ctx := fun c => { c with members := [0, 1] }
def ctxHas (s : State) (p : Ctx → Bool) : Bool := (s.dev.ctx? 0).any p

/-- A store that vm 1 sends, and one of the context that waits for its acknowledgement. -/
def aPacket : Packet := ⟨0, 1, 0, 0, 0, 0, none, .rlx, .store 0 [1] []⟩
def unacked (n : Nat) : Ctx → Ctx := fun c => (two c).mapChan 1 (fun y =>
  { y with sent := [{ pkt := aPacket, last := 0, tries := n, origin := none, job := none, lane := 0 }] })

theorem witness_FabricEvents :
    let ahead := fun (c : Ctx) (sq vm : Nat) => decide ((sq + 2 ^ 32 - (c.chan vm).recvSeq) % 2 ^ 32 < 1024)
    (ctxHas (inCtx [] two) (fun c => c.vm == 0 && c.others.contains 1 && c.phase ≠ .empty && c.opened aPacket == some aPacket &&
      aPacket.src == 1 && aPacket.dst == c.vm && ahead c 0 1 && ahead c 1023 1 && !ahead c 1024 1)) = true ∧
    ctxHas (inCtx [] (fun c => { two c with conf := true })) (fun c => c.opened aPacket == none) = true ∧
    (∀ n ∈ [0, 7], ctxHas (inCtx [] (unacked n)) (fun c => (c.chan 1).sent.any (fun q => q.pkt.seq == 0 && decide (q.last + 6000 ≤ 6000) && q.tries == n))
      = true) ∧
    (ctxHas (inCtx [] two) (fun c => ahead c 3 1 && !((c.chan 1).gaps.contains 3)) = true) ∧
    (∀ l ∈ [none, some { line := 3, uids := [0], till := 0 }], let x : OttEntry := ⟨5, none, [], l⟩; let d := dC (fun c => { c with ott := [x] })
     (d.core 0).ott.find? (fun y => y.idx == 5) = some x ∧ ∀ y, x.here = some y → y.till ≤ d.pcyc) ∧
    (ctxHas (inCtx [] two) (fun c => !(c.haltSeen.contains 1)) = true) ∧
    (ctxHas (inCtx [] (fun c => { two c with phase := .restoring [] })) (fun c => c.phase == .restoring []) = true) ∧
    (ctxHas (inCtx [] snapping) (fun c => c.liveSnap 1 == some 1 && (c.snaps[1]?).any (fun s => !(s.notices.contains 1)) &&
      c.liveSnap 2 == none && newer 2 c.regs.epoch) = true) := by
  refine ⟨?_, ?_, ?_, ?_, ?_, ?_, ?_, ?_⟩ <;> decide +kernel

/-- The module whose launch is in a state, with no chunk bound; and a record of one user thread with four registers. -/
def launched (st : LaunchState) : State :=
  { one [] with dev := { (one []).dev with chunks := [], threads := [], cores := [], launches := [{ fetchLaunch with state := st, ranges := [], started := [] }] } }
def aRecord : BitVec 512 := BitVec.ofNat 512 (4 * 2 ^ 96)

/-- A bind record of chunk 0 that waits in slot 0 of core 511. -/
def bindWaits (r : BindRec) : Dev := { (launched .ready).dev with cores := [(511, { Core.reset with binds := [some r, none, none, none] })] }

theorem witness_LaunchEvents :
    (ctxHas (one []) (fun c => c.phase ≠ .empty && ((one []).dev.recordFlt c aRecord.toNat [] true).isNone &&
      ((one []).dev.recordFlt c 0 [] true).isSome && c.part == 0) = true) ∧
    ((one []).host.linkUp = true ∧ (one []).host.ready = true ∧ ((one []).dev.mode 0).getLsbD 8 = false ∧
      (({ (one []).dev with partmode := [(5, 0x100)] } : Dev).mode 5).getLsbD 8 = true) ∧
    (let s := launched .queued
     ctxHas s (fun c => c.phase == .running && ((s.dev.launch? 0 0).any (fun l => l.state == .queued && l.lid == 0 &&
       ((s.dev.mapLaunch 0 0 (fun l => { l with state := .leasing })).leaseFlt 0 c l).isNone))) = true) ∧
    (let s := launched .leasing
     ctxHas s (fun c => (s.dev.launch? 0 0).any (fun l => (s.dev.leaseFlt 0 c l).isNone && s.dev.allResident c l && !(s.dev.rowBlocked 0 c l) &&
       (s.dev.leaseFlt 0 { c with code := (0, 2 ^ 50) } l).isSome)) = true) ∧
    (let s := { launched .ready with dev := { (launched .ready).dev with mem := (launched .ready).dev.mem.setLE (fetchRoot + 0x10000) 8 (fetchCode + 0x1F) } }
     ctxHas s (fun c => (s.dev.leaf? c 0).any (fun y => !y.p)) = true ∧ ∀ l ∈ s.dev.launches, l.ctx = 0 → l.state ≠ .leasing) ∧
    (let s := launched .ready
     ctxHas s (fun c => (s.dev.launch? 0 0).any (fun l => c.binds l && (s.dev.recordFor c l 0 511).isSome)) = true ∧
       (s.dev.core 511).waitSlot 0 0 0 = none ∧ (s.dev.core 511).freeBind = some 0) ∧
    (∀ n ∈ [512, 513], let r := { fetchLaunch.bindRec 0 with regsN := n, cnt := 2047 - 2047 * (513 - n) }
     ((bindWaits r).core 511).waitSlot 0 0 0 = some (0, r) ∧ (bindWaits r).bindsNow 511 r = decide (n = 512)) ∧
    (let t : Task := { ctx := 0, poster := 0, entry := 0, addr := 0, arg := 0, nthr := 1, regsN := 4, prio := 3, ctxl := false }
     ((one []).dev.mapDie 3 (fun x => { x with tasks := [t] })).nextTask 3 = some (0, t)) := by
  refine ⟨?_, ?_, ?_, ?_, ?_, ?_, ?_, ?_⟩ <;> decide +kernel

theorem witness_PreemptionEvents :
    (∃ l ∈ (rowed .ready []).dev.launches, l.ctx = 0 ∧ (rowed .ready []).dev.skipsDrain { l with pers := true } = true) ∧
    (∀ p ∈ [CtxPhase.running, .recording 0 1 none], ctxHas (inCtx [] (phased p)) (fun c => c.phase == p) = true ∧
      ¬ ∃ l ∈ (inCtx [] (phased p)).dev.launches, l.ctx = 0 ∧ (inCtx [] (phased p)).dev.skipsDrain l = true) ∧
    (let s := inCtx [] (phased (.draining 0))
     ctxHas s (fun c => c.phase == .draining 0 && decide (0 ≤ c.regs.cyc.toNat)) = true ∧ (∃ x ∈ s.dev.chunks, x.ctx = 0) ∧
       ∀ x ∈ ({ s.dev with chunks := [] } : Dev).chunks, x.ctx ≠ 0) ∧
    (let s := inCtx [] (phased (.saving 0)); ctxHas s (fun c => c.phase == .saving 0 && s.dev.quiet 0 c && c.others == []) = true ∧
      s.dev.saveBad 0 = [] ∧ 72000 ≤ (late 72000 s.dev).pcyc) ∧
    (ctxHas (inCtx [] (phased .exhausted)) (fun c => c.phase == .exhausted) = true) ∧
    (let s := inCtx [] savedCtx
     ctxHas s (fun c => c.phase == .saved && !c.noResume && s.dev.refilled c &&
       c.saved.any (fun x => ((s.dev.strand 0 x).1.placeImage 0 (s.dev.strand 0 x).2 []).isSome)) = true) ∧
    (let v : Rendezvous := ⟨0, .leave hd, [(0, 0)], [0], 0⟩
     let d := (ganged { gang [] with rdv := some v } []).dev.mapCtx 0 (fun c => { c with regs := { c.regs with cyc := 2 ^ 24 } })
     ((d.gang? 0 0).bind Gang.rdv).any (fun r => r == v && decide (r.opened.toNat + 2 ^ 24 ≤ (d.cyc 0).toNat) &&
       (r.arrived.filterMap d.thread?).head? == some (thr [])) = true) := by
  refine ⟨?_, ?_, ?_, ?_, ?_, ?_, ?_⟩ <;> decide +kernel

/-- A context whose snapshot of epoch 1 lives, changed; its part, complete but for its image. -/
def snapWith (f : Snap → Snap) : Ctx → Ctx := fun c => { snapping c with snaps := (snapping c).snaps.map (fun s => if s.live then f s else s) }
def finished : Snap → Snap := fun s => { s with todo := [], section_ := some ((one []).dev.capture 0 fetchCtx) }

theorem witness_SnapshotEvents :
    (let s := inCtx [] (fun c => { keyed c with phase := .recording 0 1 none })
     ctxHas s (fun c => c.phase == .recording 0 1 none && c.regs.epoch != 1) = true ∧
       ∀ x ∈ s.dev.cores, (∀ t ∈ x.2.bus, t.ctx ≠ 0) ∧ ∀ r ∈ x.2.slots, r.ctx = 0 → r.state ≠ .opening) ∧
    (ctxHas (inCtx [] (fun c => { snapping c with phase := .recording 0 1 (some 9) })) (fun c => c.phase == .recording 0 1 (some 9) && c.regs.epoch == 1)
      = true) ∧
    (let s := inCtx [] snapping
     ctxHas s (fun c => c.needsCopy (.granule 0) && !c.needsCopy (.granule 1)) = true ∧ s.dev.staging < stagingCap) ∧
    ((inCtx [] (snapWith (fun s => { s with staged := [⟨3, .granule 0, 2, 0⟩] }))).dev.boraNext = some (0, ⟨3, .granule 0, 2, 0⟩)) ∧
    (let s := inCtx [] (snapWith (fun s => { s with staged := [⟨3, .granule 0, 2, 0⟩] }))
     let d : Dev := { s.dev with partmode := [(0, 16)] }
     (d.ctx? 0).any (fun c => d.hostStream c && c.snaps.any (fun x => x.staged ≠ [])) = true) ∧
    (let t := { thr [] with wait := .staging 0 }; (dT t).thread? 0 = some t ∧ (dT t).staging < stagingCap ∧ ((dT t).ctx? t.ctx).isSome = true) ∧
    (let s := inCtx [] (fun c => { savedCtx c with phase := .restoring [] })
     ctxHas s (fun c => s.dev.mayRestore 0 c &&
       c.saved.any (fun x => ((s.dev.strand 0 x).1.placeRestored 0 c (s.dev.strand 0 x).2 []).isSome)) = true) ∧
    (ctxHas (inCtx [] (fun c => { c with rerun := true })) (fun c => c.rerun && c.rlog == [] && c.phase.issues) = true) := by
  refine ⟨?_, ?_, ?_, ?_, ?_, ?_, ?_, ?_⟩ <;> decide +kernel

/-- The part can be completed where its image leaves for the host, and not where its area is no memory. -/
theorem witness_SnapshotEvents_part :
    let d := (inCtx [] (snapWith finished)).dev
    ∀ at_ ∈ [none, some 0x20000000000], (d.ctx? 0).any (fun c => ((c.liveSnap 1).bind (fun k => c.snaps[k]?)).any (fun s =>
      c.partDone s && !s.sentNotice && (c.imageOf s 0 at_).any (fun x => d.canWrite x == at_.isNone))) = true := by
  decide +kernel

/-- Staging is full: the copies of one snapshot hold n granules, and a write has waited too long. -/
def fullOf (n : Nat) : Dev :=
  { (inCtx [] (snapWith (fun s => { s with staged := (List.range n).map (fun k => ⟨k, .granule k, 2, 0⟩) }))).dev with
    stalled := some 0, pcyc := 24000 }

theorem eraseDups_nodup {l : List Nat} (h : l.Nodup) : l.eraseDups = l := by
  induction l with
  | nil => rfl
  | cons a l ih =>
    rw [List.nodup_cons] at h
    have e : l.filter (fun b => !b == a) = l := by
      rw [List.filter_eq_self]
      intro b hb
      have : b ≠ a := fun e => h.1 (e ▸ hb)
      simp [this]
    rw [List.eraseDups_cons, e, ih h.2]

theorem fullOf_oldest (n : Nat) : (fullOf n).oldestSnap = some (0, 1) := by rfl

theorem fullOf_staging (n : Nat) : (fullOf n).staging = n := by
  have h : (fullOf n).staging = (([].append (((List.range n).map (fun k => (⟨k, .granule k, 2, 0⟩ : Staged))).map Staged.num ++ [])).eraseDups).length + 0 + 0 + 0 := by
    have : ∀ x : Nat, x + ((0 + 4095) / 4096 + ((0 + 4095) / 4096 + 0)) + (16 * 0 + 4095) / 4096 + 0 = x + 0 + 0 + 0 := fun _ => rfl
    exact this _
  have e : (Staged.num ∘ fun k => (⟨k, .granule k, 2, 0⟩ : Staged)) = id := rfl
  rw [h, List.append_nil, List.map_map, e, List.map_id]
  show (List.range n).eraseDups.length = n
  rw [eraseDups_nodup List.nodup_range, List.length_range]

theorem witness_SnapshotEvents_full : (fullOf stagingCap).oldestSnap = some (0, 1) ∧ (fullOf stagingCap).stagingLate = true := by
  refine ⟨fullOf_oldest _, ?_⟩
  have h := fullOf_staging stagingCap
  have g : ∀ n, (fullOf n).stalled = some 0 ∧ (fullOf n).pcyc = 24000 := fun n => ⟨rfl, rfl⟩
  simp only [Dev.stagingLate, h, (g _).1, (g _).2]
  simp

/-- A host side after bring-up, with the responder's negotiation done and one session, of partition 2. -/
def up (done : Bool) : HostSide := { (one []).host with spdm := 3, sessions := [⟨7, 2, done⟩] }

theorem witness_HostEvents :
    (∀ n ∈ [2, 7], ({ State.reset.host with step := n } : HostSide).ready = false ∧ ({ State.reset.host with step := n } : HostSide).imgfail = false) ∧
    ((up true).linkUp = true ∧ (up true).ready = true ∧ 3 ≤ (up true).step ∧ 3 ≤ (up true).spdm) ∧
    (∃ y ∈ (up true).sessions, y.finished = true ∧ y.part = 2 ∧ y.id = 7) ∧ (∃ y ∈ (up false).sessions, y.finished = false ∧ y.id = 7) ∧
    (∀ y ∈ (up false).sessions, y.id ≠ 8) ∧
    (({ (one []).dev with partmode := [(5, 0x100)] } : Dev).mode 5).getLsbD 8 = true ∧
    State.reset.host.step < 3 ∧
    (one []).dev.barOk 0x40000000 2 = true ∧ (one []).dev.barOk 0xC000000000 2 = false ∧
    (∀ n ∈ [0, 1, 2], 3 ≤ ({ up true with spdm := n }).step ∧ ({ up true with spdm := n }).spdm = n) ∧
    (up true).xmss + 4096 < 1048576 ∧ 1048576 ≤ ({ up true with xmss := 1048576 } : HostSide).xmss ∧
    (let s := inCtx [] (fun c => { two c with conf := true, part := 2 })
     let d : Dev := { s.dev with partmode := [(2, 0x100)] }
     (up true).sessionPart 7 = some 2 ∧ (d.ctx? 0).any (fun c => c.conf && !(d.unlocked c) && c.others.contains 1 && c.part == 2 && (d.mode c.part).getLsbD 7 == false) = true) ∧
    (let d : Dev := { (one []).dev with owners := [(0x11000000, 0)] }
     (tier3Port 0x110000000000).isSome = true ∧ d.ownerOf 0x110000000000 = some 0) := by
  refine ⟨?_, ?_, ?_, ?_, ?_, ?_, ?_, ?_, ?_, ?_, ?_, ?_, ?_, ?_⟩ <;> decide +kernel

theorem witness_ResetValues : ({ State.reset.host with step := 1, imgfail := true, failimg := 255 } : HostSide).step < 16 := by decide

theorem witness_EncodeDecode :
    (Instr.iadd hd .i32 .sat (.v 4) (.v 5) (.imm 0xFFFFFFFF) none).wf = true ∧ (Instr.iadd hd .i32 .sat (.v 4) (.v 5) (.imm 0xFFFFFFFF) none).hd?.isSome = true ∧
    decode 0x20840805_0003FFFF_FFFC0000 = .ok (.iadd hd .i32 .sat (.v 4) (.v 5) (.imm 0xFFFFFFFF) none) ∧
    (∃ w, decode 0xF1400820_65000200_40000000 = .ok (.pair w) ∧ (Instr.pair w).wf = true) := by
  refine ⟨by decide +kernel, by decide +kernel, rfl, _, rfl, by decide +kernel⟩

theorem witness_StepKeepsInvariant : (one []).host.Inv := by
  constructor <;> decide

theorem witness_StepRunsDecoded :
    (State.reset.host.ready = false ∧ State.reset.host.imgfail = false) ∧ ((ready 0 []).host.ready = true ∧ (ready 0 []).dev.keepNext = none) ∧
    (let d : Dev := { (ready 0 []).dev with agenda := [(0, .nop hd)] }
     d.keepNext = none ∧ d.dueNext = none ∧ ∀ e ∈ d.agenda, e.1 ≤ d.pcyc) ∧
    (let d := late 18 (dC (fun c => c.mapBank 5 (fun b => { b with preEnd := 18 }))); d.keepNext = none ∧ d.dueEvents ≠ []) ∧
    ∀ w ∈ [0x008400000000000000000000, 0xFF0000000000000000000000], let d := (ready w []).dev
     d.keepNext = none ∧ d.agendaNext = none ∧ d.dueNext = none ∧ d.meetNext = none ∧ d.freeNext = none ∧
     (d.nextIssue.any (fun x => x.1 == 0 && x.2.group.all (fun t => t.ctx == 0 && t.pc.toNat % 4 == 0 && windowOf t.pc == .local_ 0) &&
       !x.2.group.isEmpty) = true) ∧
     (d.ctx? 0).any (fun c => c.code == (0, 0x10000) && ((d.leaf? c 0).any (fun l => l.x && d.ownerOk l 0)) &&
       ((d.leaf? c 11).any (fun l => l.x && d.ownerOk l 0))) = true := by
  refine ⟨by decide, ⟨by decide, rfl⟩, ⟨rfl, rfl, by decide⟩, ⟨rfl, by decide +kernel⟩, ?_⟩
  simp only [List.mem_cons, List.not_mem_nil, or_false, forall_eq_or_imp, forall_eq]
  refine ⟨⟨rfl, rfl, ?_, rfl, ?_, ?_, ?_⟩, ⟨rfl, rfl, ?_, rfl, ?_, ?_, ?_⟩⟩
  all_goals rfl

end Sys2Proof.Tests
end

/-! SUPPORT. The system registers: SYSR and SYSW (spec/01 R20 to R30, spec/09 R234, spec/18 R372, R382 to R388, spec/19 R397, R408). -/

namespace Sys2Proof.Machine

/-! ### What every instruction shares -/

/-- Where the test holds of none of an instruction's threads, nobody waits. -/
theorem Dev.unless_of_none {d : Dev} {act : List Thread} {p : Thread → Bool} (w : Wait) (body : Dev → Dev)
    (hp : ∀ t ∈ act, p t = false) : d.unless act p w body = body d := by
  have hany : act.any p = false := by simpa using hp
  simp [Dev.unless, hany]

/-- A release by threads that owe no access does not wait (R116). -/
theorem Dev.afterRelease_of_none {d : Dev} {act : List Thread} (body : Dev → Dev) (hp : ∀ t ∈ act, d.owes t = false) :
    d.afterRelease act body = body d :=
  Dev.unless_of_none _ body hp

/-- The threads that act for their pairs are among those they act for. -/
theorem mem_of_mem_primaries {ts : List Thread} {t : Thread} (ht : t ∈ primaries ts) : t ∈ ts := List.mem_of_mem_filter ht

/-! ### SYSR -/

theorem exec_sysr (h : Hd) (f : SysForm) (n : Srn) (s : State) :
    exec (.sysr h f n) s = onDev s (fun d => d.sysrIn (fun d _ => d) (.sysr h f n) h f n.toNat) := rfl

/-- SYSR of EQTAIL is an acquire of what the device has written (R384). -/
theorem exec_eqtailRead (h : Hd) (f : SysForm) (s : State) :
    exec (.eqtailRead h f) s = onDev s (fun d => d.sysrIn (fun d ts => d.learns ts .device) (.eqtailRead h f) h f 0x02B) := rfl

section
variable {order : Dev → List Thread → Dev} {i : Instr} {h : Hd} {n : Nat}

/-- SYSR into a gang scalar writes it when the rendezvous completes, whatever LAH says (the model's choice, log 14). -/
theorem sysr_gangScalar_runs {r : SReg} (hx : ∀ s : State, exec i s = onDev s (fun d => d.sysrIn order i h (.s r) n)) :
    MeetRuns i h (fun _ _ => True) (fun d m act =>
      match act with
      | [] => d.meetDone h m
      | t :: _ =>
        ((order (d.sysGet t n).2 act).mapGang m.core m.idx (fun g => g.setS r (d.sysGet t n).1 false)).meetDone h m) := by
  refine MeetRuns.of _ hx (fun d m _ => ?_)
  cases m.true? h <;> rfl

/-- Into vector registers, a register of the thread's own scope is read in every lane, those of a pair each for itself (log 45). -/
theorem Dev.sysrIn_ownScope {f : SysForm} (hf : ∀ r, f ≠ .s r) (ho : ownScope n = true) (d : Dev) :
    d.sysrIn order i h f n = d.lanes i h [0] (gangScope n) (fun act d =>
      (d.mapUids (act.map Thread.uid) (fun t => t.wrRes h (sysDest f) (sysWords f (d.sysRead t n)) false)).done h) := by
  cases f with
  | s r => exact absurd rfl (hf r)
  | one r => exact if_pos ho
  | pair r => exact if_pos ho

/-- Any other register is obtained once for a pair. -/
theorem Dev.sysrIn_otherScope {f : SysForm} (hf : ∀ r, f ≠ .s r) (ho : ownScope n = false) (d : Dev) :
    d.sysrIn order i h f n = d.lanesOut i h (gangScope n) (fun _ _ => []) (fun _ _ => none) (fun act d =>
      d.unless act (fun t => n == 0 && d.logStalls t.ctx) (.staging d.pcyc) (fun d =>
        (act.foldl (fun (d : Dev) t =>
          (d.sysGet t n).2.deliver t.uid (fun y => y.wrRes h (sysDest f) (sysWords f (d.sysGet t n).1) false)) (order d act)).done h)) := by
  cases f with
  | s r => exact absurd rfl (hf r)
  | one r => exact if_neg (by simp [ho])
  | pair r => exact if_neg (by simp [ho])

/-- SYSR into vector registers completes, of a register of either scope; of CYC, where no log of its context stalls (R443). -/
theorem sysr_vector_runs {f : SysForm} (hx : ∀ s : State, exec i s = onDev s (fun d => d.sysrIn order i h f n))
    (hf : ∀ r, f ≠ .s r) :
    if ownScope n then
      LaneRuns i h [0] (gangScope n) (fun _ _ => True) (fun e t => t.wrRes h (sysDest f) (sysWords f (e.sysRead t n)) false)
    else
      OutRuns i h (gangScope n) (fun _ _ => []) (fun d t => n = 0 → d.logStalls t.ctx = false) (fun e ts =>
        (ts.foldl (fun d t =>
          (d.sysGet t n).2.deliver t.uid (fun y => y.wrRes h (sysDest f) (sysWords f (d.sysGet t n).1) false)) (order e ts)).done h) := by
  split
  · next ho =>
    simp only [Dev.sysrIn_ownScope hf ho] at hx
    exact LaneRuns.of _ _ hx (fun _ t => (t.keeps_wrRes ..).uid) (fun _ _ => rfl) (fun _ _ _ _ _ => rfl)
  · next ho =>
    simp only [Dev.sysrIn_otherScope hf (Bool.eq_false_iff.2 ho)] at hx
    refine OutRuns.of _ _ hx (fun _ _ _ => rfl) (fun e hp => Dev.unless_of_none _ _ (fun t ht => ?_))
    have hroom := (hp t (mem_of_mem_primaries ht)).2
    simpa using hroom

end

/-! ### SYSW -/

/-- A SYSW whose lanes read no poison writes the values of the lanes that act for their pairs, in ascending lane order. -/
theorem sysw_runs {i : Instr} {h : Hd} {f : SysForm} (eff : Dev → Thread → W64 → Dev)
    (hx : ∀ s : State, exec i s = onDev s (fun d => d.sysw i h f eff)) :
    OutRuns i h false (fun d t => [((d.env t).sysVal f).1.toNat]) (fun d t => t.poisonRun ((d.env t).sysRun f) = none)
      (fun e ts => (ts.foldl (fun d t => eff d t ((e.env t).sysVal f).1) e).done h) :=
  OutRuns.of _ _ hx (fun _ _ hc => hc) (fun _ _ => rfl)

/-- Only MXCNT, a gang's register, is written by another way than lane by lane (R388). -/
theorem exec_sysw_perLane (h : Hd) (f : SysForm) {n : Srn} (hn : n.toNat ≠ 0x011) (s : State) :
    exec (.sysw h f n) s = onDev s (fun d => d.sysw (.sysw h f n) h f (fun d t v => d.sysPut t n.toNat v)) := by
  show execSysw h f n s = _
  simp [execSysw, hn]

/-- SYSW of EQHEAD by threads that owe no access: they release to the device, then each moves EQHEAD (R384). -/
theorem eqheadWrite_runs (h : Hd) (f : SysForm) :
    OutRuns (.eqheadWrite h f) h false (fun d t => [((d.env t).sysVal f).1.toNat])
      (fun d t => t.poisonRun ((d.env t).sysRun f) = none ∧ d.owes t = false)
      (fun e ts => (ts.foldl (fun d t => d.setEqhead t.ctx (lo32 ((e.env t).sysVal f).1)) (e.passTo ts .device)).done h) := by
  refine OutRuns.of _ _ (fun _ => rfl) (fun _ _ hc => hc.1) (fun e hp => ?_)
  exact Dev.afterRelease_of_none _ (fun t ht => (hp t (mem_of_mem_primaries ht)).2.2)

/-! ### The two statements -/

/-- Settles O38, by the form of the destination and the scope of the register. That a register of the thread's own scope is read in
each lane of a pair and any other once is the model's reading (log 45); that a gang scalar is written at the completion of the rendezvous
whatever LAH says is its choice (log 14). -/
theorem systemRegisterReads : Obligations.SystemRegisterReads := by
  refine ⟨fun h f => ?_, fun d t c hc => ?_⟩
  · have plain := fun n => exec_sysr h f n
    have acquire := exec_eqtailRead h f
    cases f with
    | s r =>
      have runs := fun n => sysr_gangScalar_runs (plain n)
      have runsEqtail := sysr_gangScalar_runs acquire
      exact ⟨runs, runsEqtail⟩
    | one r =>
      have runs := fun n => sysr_vector_runs (plain n) nofun
      have runsEqtail := sysr_vector_runs acquire nofun
      exact ⟨runs, runsEqtail⟩
    | pair r =>
      have runs := fun n => sysr_vector_runs (plain n) nofun
      have runsEqtail := sysr_vector_runs acquire nofun
      exact ⟨runs, runsEqtail⟩
  · simp only [Dev.sysRead, hc, Option.map_some, Option.getD_some, zext64, and_self]

/-- Settles O39: each register's rule is the effect of one lane of the shared SYSW; only EQHEAD has a driver of its own, for its release. -/
theorem systemRegisterWrites : Obligations.SystemRegisterWrites := by
  intro h f n size hi k3 k9 k6 k10
  refine ⟨fun hn => ?_, ?_, eqheadWrite_runs h f, ?_, ?_, ?_, ?_, ?_⟩
  · exact sysw_runs (fun d t v => d.sysPut t n.toNat v) (exec_sysw_perLane h f hn)
  · exact sysw_runs (fun d t v => d.mapRegs t (fun r => { r with cyccmp := v, armer := if v = 0 then none else some t.uid })) (fun _ => rfl)
  · exact sysw_runs (fun d t v => d.setRing t.ctx size v) (fun _ => rfl)
  · exact sysw_runs (fun d _ v => d.setMode k3.toNat v) (fun _ => rfl)
  · exact sysw_runs (fun d _ v => d.writeLcmap k9.toNat v) (fun _ => rfl)
  · exact sysw_runs (fun d _ v => d.setFmt k6.toNat hi v) (fun _ => rfl)
  · exact sysw_runs (fun d _ v => d.writeMargin k10.toNat v) (fun _ => rfl)

end Sys2Proof.Machine


/-! SUPPORT. The encoding: the fields of a word and their layouts, the decoder on the fields of each block of opcodes, and the round trip
of decoder and encoder (spec/02 R32 to R53, spec/10 R235 to R259). Widths of appended words stay sums of their parts' widths (`-Nat.reduceAdd`),
so that the library's rules on a part of an appended word apply. -/

namespace Sys2Proof
open BitVec

/-! ### Parts of an appended word -/

theorem getLsbD_append_of_le {n m k : Nat} {a : BitVec n} {b : BitVec m} (h : m ≤ k) : (a ++ b).getLsbD k = a.getLsbD (k - m) := by
  simp [getLsbD_append, Nat.not_lt.2 h]

theorem getLsbD_append_of_lt {n m k : Nat} {a : BitVec n} {b : BitVec m} (h : k < m) : (a ++ b).getLsbD k = b.getLsbD k := by
  simp [getLsbD_append, h]

/-- The fields of a packed word are those packed (R34). -/
@[simp] theorem Fields.unpack_pack (f : Fields) : Fields.unpack f.pack = f := by
  simp [Fields.unpack, Fields.pack, -Nat.reduceAdd, extractLsb'_append_eq_of_le, extractLsb'_append_eq_of_add_le,
    getLsbD_append_of_le, getLsbD_append_of_lt, -getLsbD_eq_getElem]

/-! ### Operands (R35, R39) -/

@[simp] theorem yieldOf_bits (y : Yield) : yieldOf (yieldBits y) = y := by cases y <;> rfl
@[simp] theorem sOf_sNum (r : SReg) : sOf (sNum r) = r := extractLsb'_append_eq_right
@[simp] theorem pOf_pNum (r : PReg) : pOf (pNum r) = r := extractLsb'_append_eq_right
@[simp] theorem tOf_tNum (r : BitVec 3) : tOf (tNum r) = r := extractLsb'_append_eq_right
@[simp] theorem srcOf_isS_num (a : Src) : srcOf a.isS a.num = a := by cases a <;> simp [srcOf, Src.isS, Src.num]
@[simp] theorem dstOf_isS_num (d : Dst) : dstOf d.isS d.num = d := by cases d <;> simp [dstOf, Dst.isS, Dst.num]
@[simp] theorem tyOf_bits (ty : Ty) : tyOf ty.bits = ty := by cases ty <;> rfl
@[simp] theorem ovOf_bits (v : Ov) : ovOf v.bits = some v := by cases v <;> rfl
@[simp] theorem condOf_bits (c : Cond) : condOf c.bits = c := by cases c <;> rfl
@[simp] theorem fcondOf_bits (c : FCond) : fcondOf c.bits = c := by cases c <;> rfl
@[simp] theorem voteCondOf_bits (c : VoteCond) : voteCondOf c.bits = c := by cases c <;> rfl
@[simp] theorem rmOf_bits (rm : Rm) : rmOf rm.bits = rm := by cases rm <;> rfl
@[simp] theorem mtyOf_bits (ty : MTy) : mtyOf ty.bits = some ty := by cases ty <;> rfl
@[simp] theorem cvOf_bits (cv : Cv) : cvOf cv.bits = cv := by cases cv <;> rfl
@[simp] theorem saluOpOf_bits (op : SaluOp) : saluOpOf op.bits = some op := by cases op <;> rfl
@[simp] theorem redOpOf_bits (op : RedOp) : redOpOf op.bits = some op := by cases op <;> rfl
@[simp] theorem icvtOf_bits (c : IcvtCode) : icvtOf c.bits = some c := by cases c <;> rfl
@[simp] theorem fcvtOf_bits (c : FcvtCode) : fcvtOf c.bits c.src = some c := by
  cases c with
  | i32 t | n32 t | i64 t | n64 t => cases t <;> rfl
  | _ => rfl
@[simp] theorem atomOpOf_bits (op : AtomOp) : atomOpOf op.bits = some op := by
  cases op with
  | min s | max s => cases s <;> rfl
  | _ => rfl
@[simp] theorem fatomOpOf_bits (op : FatomOp) : fatomOpOf op.bits = some op := by
  cases op with
  | min s | max s => cases s <;> rfl
  | _ => rfl
@[simp] theorem atomfOpOf_bits (op : AtomfOp) : atomfOpOf op.bits = some op := by cases op <;> rfl
@[simp] theorem pairCodeOf_bits (c : PairCode) : pairCodeOf c.bits = some c := by cases c <;> rfl
@[simp] theorem sysFormOf_mod_num (f : SysForm) : sysFormOf f.mod f.num = some f := by
  cases f <;> simp [sysFormOf, SysForm.mod, SysForm.num]
@[simp] theorem Src.isS_v (r : VReg) : (Src.v r).isS = false := rfl
@[simp] theorem Src.isS_s (r : SReg) : (Src.s r).isS = true := rfl
@[simp] theorem Src.num_v (r : VReg) : (Src.v r).num = r := rfl
@[simp] theorem Src.num_s (r : SReg) : (Src.s r).num = sNum r := rfl
@[simp] theorem srcOf_false (n : BitVec 9) : srcOf false n = .v n := rfl
@[simp] theorem srcOf_true_sNum (r : SReg) : srcOf true (sNum r) = .s r := by simp [srcOf]

/-! ### X layouts -/

section
variable (h : Hd) (opc : BitVec 8) (mod : BitVec 6) (d a b : BitVec 9) (x : BitVec 32)

@[simp] theorem fieldsOf_opc : (fieldsOf h opc mod d a b x).opc = opc := rfl
@[simp] theorem fieldsOf_mod : (fieldsOf h opc mod d a b x).mod = mod := rfl
@[simp] theorem fieldsOf_d : (fieldsOf h opc mod d a b x).d = d := rfl
@[simp] theorem fieldsOf_a : (fieldsOf h opc mod d a b x).a = a := rfl
@[simp] theorem fieldsOf_b : (fieldsOf h opc mod d a b x).b = b := rfl
@[simp] theorem fieldsOf_x : (fieldsOf h opc mod d a b x).x = x := rfl
@[simp] theorem fieldsOf_hd : (fieldsOf h opc mod d a b x).hd = h := by simp [Fields.hd, fieldsOf]

end

section
variable (h : Hd) (opc : BitVec 8) (mod : BitVec 6) (d a b : BitVec 9)
variable (c : BitVec 9) (ak bk ck dk : Bool) (pd : BitVec 4) (pdv : Bool) (sub : BitVec 14)

@[simp] theorem fieldsOf_xReg_c : (fieldsOf h opc mod d a b (xReg c ak bk ck dk pd pdv sub)).c = c := by
  simp [Fields.c, xReg, -Nat.reduceAdd, extractLsb'_append_eq_of_le]
@[simp] theorem fieldsOf_xReg_ak : (fieldsOf h opc mod d a b (xReg c ak bk ck dk pd pdv sub)).ak = ak := by
  simp [Fields.ak, xReg, -Nat.reduceAdd, getLsbD_append_of_le, getLsbD_append_of_lt, -getLsbD_eq_getElem]
@[simp] theorem fieldsOf_xReg_bk : (fieldsOf h opc mod d a b (xReg c ak bk ck dk pd pdv sub)).bk = bk := by
  simp [Fields.bk, xReg, -Nat.reduceAdd, getLsbD_append_of_le, getLsbD_append_of_lt, -getLsbD_eq_getElem]
@[simp] theorem fieldsOf_xReg_ck : (fieldsOf h opc mod d a b (xReg c ak bk ck dk pd pdv sub)).ck = ck := by
  simp [Fields.ck, xReg, -Nat.reduceAdd, getLsbD_append_of_le, getLsbD_append_of_lt, -getLsbD_eq_getElem]
@[simp] theorem fieldsOf_xReg_dk : (fieldsOf h opc mod d a b (xReg c ak bk ck dk pd pdv sub)).dk = dk := by
  simp [Fields.dk, xReg, -Nat.reduceAdd, getLsbD_append_of_le, getLsbD_append_of_lt, -getLsbD_eq_getElem]
@[simp] theorem fieldsOf_xReg_pd : (fieldsOf h opc mod d a b (xReg c ak bk ck dk pd pdv sub)).pd = pd := by
  simp [Fields.pd, xReg, -Nat.reduceAdd, extractLsb'_append_eq_of_le, extractLsb'_append_eq_of_add_le]
@[simp] theorem fieldsOf_xReg_pdv : (fieldsOf h opc mod d a b (xReg c ak bk ck dk pd pdv sub)).pdv = pdv := by
  simp [Fields.pdv, xReg, -Nat.reduceAdd, getLsbD_append_of_le, getLsbD_append_of_lt, -getLsbD_eq_getElem]
@[simp] theorem fieldsOf_xReg_sub : (fieldsOf h opc mod d a b (xReg c ak bk ck dk pd pdv sub)).sub = sub :=
  extractLsb'_append_eq_right

end

section
variable (h : Hd) (opc : BitVec 8) (mod : BitVec 6) (d a b : BitVec 9) (sp : BitVec 2) (sz : Sz) (sx : Bool) (m : MemRef)

@[simp] theorem fieldsOf_xM_sp : (fieldsOf h opc mod d a b (xM sp sz sx m)).sp = sp := by
  simp [Fields.sp, xM, xMem, -Nat.reduceAdd, extractLsb'_append_eq_of_le]
@[simp] theorem fieldsOf_xM_sx : (fieldsOf h opc mod d a b (xM sp sz sx m)).sx = sx := by
  simp [Fields.sx, xM, xMem, -Nat.reduceAdd, getLsbD_append_of_le, getLsbD_append_of_lt, -getLsbD_eq_getElem]
@[simp] theorem fieldsOf_xM_sz : (fieldsOf h opc mod d a b (xM sp sz sx m)).sz = sz := by
  have hsz : (xM sp sz sx m).extractLsb' 27 3 = sz.bits := by
    simp [xM, xMem, -Nat.reduceAdd, extractLsb'_append_eq_of_le, extractLsb'_append_eq_of_add_le]
  unfold Fields.sz
  rw [fieldsOf_x, hsz]
  cases sz <;> rfl
@[simp] theorem fieldsOf_xM_mem : (fieldsOf h opc mod d m.base.num b (xM sp sz sx m)).mem = m := by
  have hoff : (xM sp sz sx m).extractLsb' 0 24 = m.off := extractLsb'_append_eq_right
  have hk : (xM sp sz sx m).getLsbD 26 = m.base.isS := by
    simp [xM, xMem, -Nat.reduceAdd, getLsbD_append_of_le, getLsbD_append_of_lt, -getLsbD_eq_getElem]
  simp only [Fields.mem, Fields.off, fieldsOf_x, fieldsOf_a, hoff, hk, srcOf_isS_num]
@[simp] theorem fieldsOf_xM_wide (w : Bool) : (fieldsOf h opc mod d a b (xM sp (wideSz w) sx m)).wide = w := by
  cases w <;> simp [Fields.wide, wideSz]

end

/-- A rank in X (R40, R250, R270). -/
theorem x_rank (n : BitVec 6) : extractLsb' (n := 32) 0 6 (0#26 ++ n) = n := extractLsb'_append_eq_right

/-- Position and length of a field in SUB (R243). -/
theorem field_sub_pos (p : BitVec 6) (l : BitVec 7) : (Field.imm p l).sub.extractLsb' 0 6 = p := extractLsb'_append_eq_right
theorem field_sub_len (p : BitVec 6) (l : BitVec 7) : (Field.imm p l).sub.extractLsb' 6 7 = l := by
  simp [Field.sub, -Nat.reduceAdd, extractLsb'_append_eq_of_le, extractLsb'_append_eq_of_add_le]

/-! ### MOD -/

section
variable (h : Hd) (opc : BitVec 8) (d a b : BitVec 9) (x : BitVec 32)

@[simp] theorem fieldsOf_mod1? (k : Bool) : (fieldsOf h opc (mod1 k) d a b x).mod1? = some k := by cases k <;> rfl
@[simp] theorem fieldsOf_modI_mi (i : Bool) (ty : BitVec 3) (v : BitVec 2) : (fieldsOf h opc (modI i ty v) d a b x).mi = i := by
  simp [Fields.mi, modI, -Nat.reduceAdd, getLsbD_append_of_le, -getLsbD_eq_getElem]
@[simp] theorem fieldsOf_modI_mty (i : Bool) (ty : BitVec 3) (v : BitVec 2) : (fieldsOf h opc (modI i ty v) d a b x).mty = ty := by
  simp [Fields.mty, modI, -Nat.reduceAdd, extractLsb'_append_eq_of_le, extractLsb'_append_eq_of_add_le]
@[simp] theorem fieldsOf_modI_mv (i : Bool) (ty : BitVec 3) (v : BitVec 2) : (fieldsOf h opc (modI i ty v) d a b x).mv = v :=
  extractLsb'_append_eq_right
@[simp] theorem fieldsOf_ord (o : Ord) (k : BitVec 4) : (fieldsOf h opc (o.bits ++ k) d a b x).ord = o := by
  have hk : (o.bits ++ k).extractLsb' 4 2 = o.bits := extractLsb'_append_eq_left
  unfold Fields.ord
  rw [fieldsOf_mod, hk]
  cases o <;> rfl
@[simp] theorem fieldsOf_parity? (k : Parity) : (fieldsOf h opc k.mod d a k.num x).parity? = some k := by
  cases k with
  | imm k => cases k <;> rfl
  | reg r => cases r <;> simp [Fields.parity?, Parity.mod, Parity.num, Src.num]
/-- MOD of a card form less the opcode's own part. -/
@[simp] theorem fieldsOf_card? (k : BitVec 6) (c : CardSrc) : (fieldsOf h opc k d c.numA c.numB c.x).card? c.mod.toNat = some c := by
  cases c with
  | group r => simp [Fields.card?, CardSrc.mod, CardSrc.numA]
  | stash r o => cases r <;> simp [Fields.card?, CardSrc.mod, CardSrc.numB, CardSrc.x, Src.num]

end

@[simp] theorem fieldsOf_mod1?_zero {h : Hd} {opc : BitVec 8} {d a b : BitVec 9} {x : BitVec 32} :
    (fieldsOf h opc 0#6 d a b x).mod1? = some false := rfl
@[simp] theorem fieldsOf_mod1?_one {h : Hd} {opc : BitVec 8} {d a b : BitVec 9} {x : BitVec 32} :
    (fieldsOf h opc 1#6 d a b x).mod1? = some true := rfl

/-! ### MOD of the integer class (R235, R236, R239) -/

/-- A field of MOD passes a table's check. -/
theorem modIn_modI {h : Hd} {opc : BitVec 8} {i im : Bool} {ty : BitVec 3} {v : BitVec 2} {d a b : BitVec 9} {x : BitVec 32}
    {tys : List Nat} {n : Nat} (hi : im = true ∨ i = false) (ht : ty.toNat ∈ tys) (hv : v.toNat ≤ n) :
    (fieldsOf h opc (modI i ty v) d a b x).modIn im tys n = true := by
  simp [Fields.modIn, ht, hv, hi]

theorem Ty.bits_mem_all (ty : Ty) : ty.bits.toNat ∈ [0, 1, 2, 3, 4, 5, 6, 7] := by cases ty <;> decide
theorem Ty.bits_mem_scalar {ty : Ty} (hs : ty.scalar = true) : ty.bits.toNat ∈ [0, 1, 2, 3] := by
  cases ty <;> simp_all [Ty.scalar, Ty.bits]
theorem Ty.bits_mem_signed {ty : Ty} (hs : ty.signed = true) : ty.bits.toNat ∈ [0, 2, 4, 6] := by
  cases ty <;> simp_all [Ty.signed, Ty.bits]
theorem wideTy_mem_raw (w : Bool) : (wideTy w).toNat ∈ [1, 3] := by cases w <;> decide
theorem Ov.bits_le (v : Ov) : v.bits.toNat ≤ 2 := by cases v <;> decide
@[simp] theorem fieldsOf_modI_wideTyB {h : Hd} {opc : BitVec 8} {i w : Bool} {v : BitVec 2} {d a b : BitVec 9} {x : BitVec 32} :
    (fieldsOf h opc (modI i (wideTy w) v) d a b x).wideTyB = w := by
  rw [Fields.wideTyB, fieldsOf_modI_mty]
  cases w <;> rfl

/-- A row of the integer class with V is read as the table says (R239). -/
theorem alu2_of {f : Fields} {ok : Bool} {k : Ov → Instr} {v : Ov} (hok : ok = true) (hv : f.mv = v.bits) :
    f.alu2 ok k = some (k v) := by
  simp [Fields.alu2, hok, hv]

/-! ### Two-source forms (R235, R237) -/

section
variable {h : Hd} {opc : BitVec 8} {mod : BitVec 6} {d : Dst} {a : Src} {b : SrcI} {pd : Option PReg}

theorem aluFields_mi {n k l : BitVec 9} {x : BitVec 32} (hm : mod.getLsbD 5 = b.isImm) : (fieldsOf h opc mod n k l x).mi = b.isImm := hm

theorem aluFields_dD (hm : mod.getLsbD 5 = b.isImm) (hok : aluOk d a b = true) :
    (fieldsOf h opc mod d.num a.num b.num (xAlu d a b pd)).dD = d := by
  rw [Fields.dD, aluFields_mi hm]
  cases b with
  | imm x => cases d <;> simp_all [aluOk, SrcI.isImm, Dst.isS, Dst.num]
  | v r | s r => simp [SrcI.isImm, xAlu]

theorem aluFields_aA (hm : mod.getLsbD 5 = b.isImm) (hok : aluOk d a b = true) :
    (fieldsOf h opc mod d.num a.num b.num (xAlu d a b pd)).aA = a := by
  rw [Fields.aA, aluFields_mi hm]
  cases b with
  | imm x => cases a <;> simp_all [aluOk, SrcI.isImm, Src.isV, Src.num]
  | v r | s r => simp [SrcI.isImm, xAlu]

theorem aluFields_bB (hm : mod.getLsbD 5 = b.isImm) : (fieldsOf h opc mod d.num a.num b.num (xAlu d a b pd)).bB = b := by
  rw [Fields.bB, aluFields_mi hm]
  cases b with
  | imm x => simp [SrcI.isImm, xAlu]
  | v r | s r => simp [SrcI.isImm, xAlu, SrcI.isS, SrcI.num, srcIOf]

theorem aluFields_pdO (hm : mod.getLsbD 5 = b.isImm) (hpd : pd.isSome = true → b.isImm = false) :
    (fieldsOf h opc mod d.num a.num b.num (xAlu d a b pd)).pdO = pd := by
  rw [Fields.pdO, aluFields_mi hm]
  cases b with
  | imm x => cases pd <;> simp_all [SrcI.isImm]
  | v r | s r => cases pd <;> simp [SrcI.isImm, xAlu]

end

section
variable {h : Hd} {opc : BitVec 8} {ty : BitVec 3} {v : BitVec 2} {d : Dst} {a : Src} {b : SrcI} {pd : Option PReg}

@[simp] theorem encAlu_hd : (encAlu h opc ty v d a b pd).hd = h := fieldsOf_hd ..
@[simp] theorem encAlu_mty : (encAlu h opc ty v d a b pd).mty = ty := fieldsOf_modI_mty ..
@[simp] theorem encAlu_mv : (encAlu h opc ty v d a b pd).mv = v := fieldsOf_modI_mv ..
@[simp] theorem encAlu_wideTyB {w : Bool} : (encAlu h opc (wideTy w) v d a b pd).wideTyB = w := by
  rw [Fields.wideTyB, encAlu_mty]
  cases w <;> rfl
theorem encAlu_modIn {tys : List Nat} {n : Nat} (ht : ty.toNat ∈ tys) (hv : v.toNat ≤ n) :
    (encAlu h opc ty v d a b pd).modIn true tys n = true := modIn_modI (.inl rfl) ht hv
@[simp] theorem encAlu_dD (hok : aluOk d a b = true) : (encAlu h opc ty v d a b pd).dD = d :=
  aluFields_dD (fieldsOf_modI_mi h opc 0 0 0 0 b.isImm ty v) hok
@[simp] theorem encAlu_aA (hok : aluOk d a b = true) : (encAlu h opc ty v d a b pd).aA = a :=
  aluFields_aA (fieldsOf_modI_mi h opc 0 0 0 0 b.isImm ty v) hok
@[simp] theorem encAlu_bB : (encAlu h opc ty v d a b pd).bB = b :=
  aluFields_bB (fieldsOf_modI_mi h opc 0 0 0 0 b.isImm ty v)
theorem encAlu_pdO (hpd : pd.isSome = true → b.isImm = false) : (encAlu h opc ty v d a b pd).pdO = pd :=
  aluFields_pdO (fieldsOf_modI_mi h opc 0 0 0 0 b.isImm ty v) hpd

end

section
variable {h : Hd} {opc : BitVec 8} {low : Bool} {d : Dst} {a : Src} {b : SrcI}

theorem encF_imm (i low : Bool) : (BitVec.ofBool i ++ (0 : BitVec 4) ++ BitVec.ofBool low : BitVec 6).getLsbD 5 = i := by
  cases i <;> cases low <;> rfl
@[simp] theorem encF_hd : (encF h opc low d a b).hd = h := fieldsOf_hd ..
@[simp] theorem encF_dD (hok : aluOk d a b = true) : (encF h opc low d a b).dD = d := aluFields_dD (encF_imm ..) hok
@[simp] theorem encF_aA (hok : aluOk d a b = true) : (encF h opc low d a b).aA = a := aluFields_aA (encF_imm ..) hok
@[simp] theorem encF_bB : (encF h opc low d a b).bB = b := aluFields_bB (encF_imm ..)
@[simp] theorem encF_d : (encF h opc low d a b).d = d.num := rfl
@[simp] theorem encF_a : (encF h opc low d a b).a = a.num := rfl
@[simp] theorem encF_low : (encF h opc low d a b).mod[0] = low := by
  show (BitVec.ofBool b.isImm ++ (0 : BitVec 4) ++ BitVec.ofBool low : BitVec 6)[0] = low
  cases b.isImm <;> cases low <;> rfl
@[simp] theorem encF_fpMod_zero : (encF h opc false d a b).fpMod 0 = true := by
  unfold encF Fields.fpMod
  rw [fieldsOf_mod]
  cases b.isImm <;> rfl
@[simp] theorem encF_fpMod_one : (encF h opc low d a b).fpMod 1 = true := by
  unfold encF Fields.fpMod
  rw [fieldsOf_mod]
  cases b.isImm <;> cases low <;> rfl

end

/-! ### Conversions, cards and element types (R194, R258, R278) -/

section
variable {h : Hd} {opc : BitVec 8} {code : BitVec 4} {rm : Rm} {d a b : BitVec 9} {x : BitVec 32}

theorem cvtFields_code : (code ++ rm.bits).extractLsb' 2 4 = code := extractLsb'_append_eq_left
theorem cvtFields_mv : (fieldsOf h opc (code ++ rm.bits) d a b x).mv = rm.bits := extractLsb'_append_eq_right
/-- A conversion that is exact has rm = 0 (R258). -/
theorem cvt_rn {e : Bool} (hok : (!e || rm == .rn) = true) : e = true → rm.bits = 0 := by
  intro he
  have hrm : rm = .rn := by simpa [he] using hok
  rw [hrm]; rfl

end

theorem CardSrc.mod_toNat_lt (c : CardSrc) : c.mod.toNat < 4 := by
  cases c with
  | group r => simp [CardSrc.mod]
  | stash r o => cases r <;> simp [CardSrc.mod]

/-- A card leaves bit 2 of MOD free: it tells the two forms of CRS apart. -/
theorem CardSrc.mod_add_four (c : CardSrc) : (c.mod + 4#6).toNat = c.mod.toNat + 4 := by
  have hlt := c.mod_toNat_lt
  rw [BitVec.toNat_add]
  exact Nat.mod_eq_of_lt (by simp; omega)

section
variable {h : Hd} {opc : BitVec 8} {d a b : BitVec 9} {x : BitVec 32}

theorem modT_lt (ty : MTy) (k : Bool) : (modT ty k).toNat < 8 := by cases ty <;> cases k <;> decide
theorem modT_bit (ty : MTy) (k : Bool) : (modT ty k)[2] = k := by cases ty <;> cases k <;> rfl
@[simp] theorem fieldsOf_modT_mv (ty : MTy) (k : Bool) : (fieldsOf h opc (modT ty k) d a b x).mv = ty.bits := extractLsb'_append_eq_right
theorem modC_lt (cv : Cv) : (modC cv false).toNat < 4 := by cases cv <;> decide
theorem modC_reg (cv : Cv) : ¬ (modC cv true).toNat < 4 ∧ (modC cv true).toNat < 8 := by cases cv <;> decide
@[simp] theorem fieldsOf_modC_mv (cv : Cv) (k : Bool) : (fieldsOf h opc (modC cv k) d a b x).mv = cv.bits := extractLsb'_append_eq_right
@[simp] theorem fieldsOf_xSys_srn (mod : BitVec 6) (n : Srn) : (fieldsOf h opc mod d a b (xSys n)).srn = n := extractLsb'_append_eq_left

end

/-! ### The numbers of system registers (R20, R41, R386) -/

theorem srn_toNat {n : Nat} (hn : n < 0x1000) : (BitVec.ofNat 12 n).toNat = n := by
  rw [BitVec.toNat_ofNat]; exact Nat.mod_eq_of_lt hn

section
variable (h : Hd) (f : SysForm)

theorem syswOf_svar (n : BitVec 2) : syswOf h f (BitVec.ofNat 12 (0x014 + n.toNat)) = .svarWrite h f n := by
  have hn := n.isLt
  simp only [syswOf, srn_toNat (show 0x014 + n.toNat < 0x1000 by omega)]
  repeat rw [if_neg (by omega)]
  rw [if_pos (by omega)]
  simp
theorem syswOf_fmtrange (n : BitVec 6) (hi : Bool) :
    syswOf h f (BitVec.ofNat 12 (0x100 + 2 * n.toNat + (if hi then 1 else 0))) = .fmtrangeWrite h f n hi := by
  have hn := n.isLt
  obtain ⟨k, hk, hhi⟩ : ∃ k, (if hi then 1 else 0) = k ∧ hi = decide (k % 2 = 1) ∧ k < 2 := by cases hi <;> simp
  obtain ⟨hhi, hk2⟩ := hhi
  have hhalf : (0x100 + 2 * n.toNat + k - 0x100) / 2 = n.toNat := by omega
  have hlow : (BitVec.ofNat 12 (0x100 + 2 * n.toNat + k)).getLsbD 0 = hi := by
    rw [BitVec.getLsbD_ofNat, hhi, Nat.testBit_zero]
    simp
    omega
  rw [hk]
  simp only [syswOf, hlow, srn_toNat (show 0x100 + 2 * n.toNat + k < 0x1000 by omega)]
  repeat rw [if_neg (by omega)]
  rw [if_pos (by omega), hhalf]
  simp
theorem syswOf_marginReg (n : BitVec 10) (hn : n.toNat < 544) : syswOf h f (BitVec.ofNat 12 (0x400 + n.toNat)) = .marginRegWrite h f n := by
  simp only [syswOf, srn_toNat (show 0x400 + n.toNat < 0x1000 by omega)]
  repeat rw [if_neg (by omega)]
  rw [if_pos (by omega)]
  simp
theorem syswOf_lcmap (n : BitVec 9) : syswOf h f (BitVec.ofNat 12 (0x800 + n.toNat)) = .lcmapWrite h f n := by
  have hn := n.isLt
  simp only [syswOf, srn_toNat (show 0x800 + n.toNat < 0x1000 by omega)]
  repeat rw [if_neg (by omega)]
  rw [if_pos (by omega)]
  simp
theorem syswOf_partmode (n : BitVec 3) : syswOf h f (BitVec.ofNat 12 (0xD00 + n.toNat)) = .partmodeWrite h f n := by
  have hn := n.isLt
  simp only [syswOf, srn_toNat (show 0xD00 + n.toNat < 0x1000 by omega)]
  repeat rw [if_neg (by omega)]
  rw [if_pos (by omega)]
  simp
theorem syswOf_other {n : Srn} (hn : srnOwnWrite n = false) : syswOf h f n = .sysw h f n := by
  simp only [srnOwnWrite, Bool.or_eq_false_iff, beq_eq_false_iff_ne, Bool.and_eq_false_iff, decide_eq_false_iff_not] at hn
  simp only [syswOf]
  repeat rw [if_neg (by omega)]

end

/-! ### Blocks of opcodes (R52) -/

/-- The block of sixteen opcodes that an instruction's row lies in (R52). -/
def Instr.block : Instr → Nat
  | .nop .. | .bra .. | .brx .. | .call .. | .callLink .. | .ret .. | .retLink .. | .exit .. | .yield .. | .sleep .. | .sleepAbs ..
  | .join .. | .joinRank .. | .joinT .. | .joinRankT .. | .leave .. | .ginfo .. | .post .. => 0x0
  | .iadd .. | .isub .. | .imul .. | .imulh .. | .imad .. | .imin .. | .imax .. | .iabs .. | .and .. | .or .. | .xor .. | .andn .. | .shl ..
  | .shr .. | .sar .. | .rol .. => 0x2
  | .popc .. | .clz .. | .brev .. | .bfx .. | .bfi .. | .icmp .. | .sel .. | .mov .. | .movi .. | .lea .. | .idot4 .. | .prmt ..
  | .prmtCtl .. | .smov .. | .smovHi .. | .salu .. | .iclamp .. => 0x3
  | .fadd .. | .fsub .. | .fmul .. | .ffma .. | .fmin .. | .fmax .. | .fcmp .. | .fclass .. | .frnd .. | .fcvt .. | .icvt .. | .frcp ..
  | .frsq .. | .fsqrt .. | .fdiv .. | .fexp2 .. => 0x4
  | .flog2 .. | .fsin .. | .fcos .. | .ftanh .. | .hadd2 .. | .hmul2 .. | .hfma2 .. | .hdot2 .. | .fscale .. | .fflagTrap .. | .fflagClr ..
  | .fflagRd .. | .rngd .. | .rngs .. => 0x5
  | .plop .. | .pmov .. | .voteMask .. | .voteCount .. | .voteTest .. | .xbfly .. | .xbflyTr .. | .xshfl .. | .xbcast .. | .xred ..
  | .xscan .. => 0x6
  | .ld .. | .lda .. | .st .. | .stl .. | .atom .. | .cas .. | .fence .. | .smap .. | .sunmap .. | .sflush .. | .binit .. | .barv ..
  | .bexp .. | .bexpMax .. | .bwait .. | .btest .. | .bwaitt .. => 0x7
  | .bdrop .. | .baddb .. | .sld .. | .sst .. | .atomf .. => 0x8
  | .rowact .. | .rowconW .. | .rowconS .. | .rowconV .. | .rowput .. | .rowputV .. | .rowpre .. | .rowqry .. | .rowwt .. => 0x9
  | .xcopy .. | .xwait .. | .xqry .. | .xcancel .. | .crs .. | .crsNorm .. | .cag .. | .car .. | .cbc .. | .fput .. | .fget .. | .fatom ..
  | .fsig .. => 0xA
  | .mldw .. | .mswap .. | .mstream .. | .mclr .. | .mst .. | .mstReg .. | .mlda .. | .mldaReg .. | .mgrp .. | .mqry .. | .mtake ..
  | .mgive .. | .macc .. | .mscl .. => 0xB
  | .norma .. | .normb .. | .nprod .. | .aliasT .. | .sampmm .. | .svrd .. | .svrdW .. | .svset .. | .awupd .. | .sgdm .. | .gscale ..
  | .gscaleF .. => 0xC
  | .sysr .. | .sysw .. | .trap .. | .trapBrk .. | .eret .. | .eretNext .. | .xlate .. | .xlateCtx .. | .leaseq .. | .margin ..
  | .marginRd .. | .scan .. | .scanAbort .. | .quar .. | .snap .. | .snapq .. | .snapqW .. | .haltc .. | .haltcRel .. | .ctxsv ..
  | .ctxld .. | .ctxldImg .. | .cyccmpWrite .. | .eqheadWrite .. | .eqRingWrite .. | .eqtailRead .. | .partmodeWrite .. | .lcmapWrite ..
  | .fmtrangeWrite .. | .marginRegWrite .. | .svarWrite .. => 0xD
  | _ => 0x10

section
variable (h : Hd) (opc : BitVec 8)
@[simp] theorem encAlu_opc (ty : BitVec 3) (v : BitVec 2) (d : Dst) (a : Src) (b : SrcI) (pd : Option PReg) :
    (encAlu h opc ty v d a b pd).opc = opc := rfl
@[simp] theorem encAlu1_opc (ty : BitVec 3) (v : BitVec 2) (d : Dst) (a : Src) : (encAlu1 h opc ty v d a).opc = opc := rfl
@[simp] theorem encF_opc (low : Bool) (d : Dst) (a : Src) (b : SrcI) : (encF h opc low d a b).opc = opc := rfl
@[simp] theorem enc3_opc (mod : BitVec 6) (d : Dst) (a b c : Src) : (enc3 h opc mod d a b c).opc = opc := rfl
@[simp] theorem encSf_opc (d a : VReg) : (encSf h opc d a).opc = opc := rfl
@[simp] theorem encM_opc (mod : BitVec 6) (d b : BitVec 9) (sp : BitVec 2) (sz : Sz) (sx : Bool) (m : MemRef) :
    (encM h opc mod d b sp sz sx m).opc = opc := rfl
@[simp] theorem encCard_opc (k : BitVec 6) (d : VReg) (c : CardSrc) : (encCard h opc k d c).opc = opc := rfl
@[simp] theorem encHandle_opc (d : BitVec 9) (a : Src) : (encHandle h opc d a).opc = opc := rfl
@[simp] theorem encSysr_opc (f : SysForm) (n : Srn) : (encSysr h f n).opc = 0xD0 := rfl
@[simp] theorem encSysw_opc (f : SysForm) (n : Nat) : (encSysw h f n).opc = 0xD1 := rfl
end

/-- The opcode of an instruction's fields lies in its block. -/
theorem encodeG_block {i : Instr} {f : Fields} (he : encodeG i = some f) : f.opc.toNat / 16 = i.block := by
  cases i
  case call h t | callLink h d t => cases t <;> cases he <;> (rw [fieldsOf_opc]; rfl)
  case smov h d x => cases x <;> cases he <;> (rw [fieldsOf_opc]; rfl)
  case salu h op d a b => cases b <;> cases he <;> (rw [fieldsOf_opc]; rfl)
  case pmov h x => cases x <;> cases he <;> (rw [fieldsOf_opc]; rfl)
  case xshfl h w d a m => cases m <;> cases he <;> (rw [fieldsOf_opc]; rfl)
  case smap h e w l x => cases x <;> cases he <;> (rw [fieldsOf_opc]; rfl)
  case barv h m n => cases n <;> cases he <;> (rw [encM_opc]; rfl)
  case fsig h x => cases x <;> cases he <;> (rw [fieldsOf_opc]; rfl)
  all_goals cases he
  all_goals simp only [fieldsOf_opc, encAlu_opc, encAlu1_opc, encF_opc, enc3_opc, encSf_opc, encM_opc, encCard_opc, encHandle_opc,
    encSysr_opc, encSysw_opc]
  all_goals rfl

/-- What has no block has no fields. -/
theorem encodeG_of_noBlock {i : Instr} (hi : i.block = 0x10) : encodeG i = none := by
  cases i <;> cases hi <;> rfl

theorem block_assigned (i : Instr) :
    [0x0, 0x2, 0x3, 0x4, 0x5, 0x6, 0x7, 0x8, 0x9, 0xA, 0xB, 0xC, 0xD, 0x10].contains i.block = true := by
  cases i <;> rfl

/-- The opcode of an instruction's fields lies in one of the assigned blocks. -/
theorem opc_assigned {i : Instr} {f : Fields} (he : encodeG i = some f) :
    f.opc.toNat / 16 ∈ [0x0, 0x2, 0x3, 0x4, 0x5, 0x6, 0x7, 0x8, 0x9, 0xA, 0xB, 0xC, 0xD] := by
  have hne : i.block ≠ 0x10 := fun h => by simp [encodeG_of_noBlock h] at he
  have hin := block_assigned i
  rw [encodeG_block he]
  simpa [hne] using hin

/-! ### The decoder on each block -/

theorem parse0_of_encodeG {i : Instr} {f : Fields} (he : encodeG i = some f) (hi : i.block = 0x0) : parse0 f f.hd = some i := by
  cases i <;> cases hi
  case call h t | callLink h d t => cases t <;> cases he <;> simp [parse0]
  case sleepAbs h a => cases a <;> cases he <;> simp [parse0, Src.isS, Src.num]
  all_goals cases he
  all_goals simp [parse0, -Nat.reduceAdd, extractLsb'_append_eq_right]

theorem parse2_of_encodeG {i : Instr} {f : Fields} (hok : i.opsOk = true) (he : encodeG i = some f) (hi : i.block = 0x2) :
    parse2 f f.hd = some i := by
  cases i <;> cases hi
  all_goals cases he
  case iadd h ty v d a b pd | isub h ty v d a b pd =>
    obtain ⟨halu, hpd⟩ := Bool.and_eq_true_iff.1 hok
    have hpd : pd.isSome = true → b.isImm = false := by cases pd <;> simp_all [pdOk]
    simp [parse2, alu2_of (v := v), encAlu_modIn, halu, encAlu_pdO hpd, ty.bits_mem_all, v.bits_le]
  case imul h ty v d a b =>
    obtain ⟨hty, halu⟩ := Bool.and_eq_true_iff.1 hok
    simp [parse2, alu2_of (v := v), encAlu_modIn, halu, ty.bits_mem_scalar hty, v.bits_le]
  case imulh h ty d a b =>
    obtain ⟨hty, halu⟩ := Bool.and_eq_true_iff.1 hok
    simp [parse2, encAlu_modIn, halu, ty.bits_mem_scalar hty]
  case imad h ty v d a b c =>
    obtain ⟨hhead, -⟩ := Bool.and_eq_true_iff.1 hok
    obtain ⟨hty, hv⟩ := Bool.and_eq_true_iff.1 hhead
    have hv : v.bits.toNat ≤ 1 := by cases v <;> simp_all [Ov.bits]
    simp [parse2, enc3, alu2_of (v := v), modIn_modI, ty.bits_mem_scalar hty, hv]
  case imin h ty d a b | imax h ty d a b =>
    have halu : aluOk d a b = true := hok
    simp [parse2, encAlu_modIn, halu, ty.bits_mem_all]
  case iabs h ty v d a =>
    obtain ⟨hty, -⟩ := Bool.and_eq_true_iff.1 hok
    simp [parse2, encAlu1, alu2_of (v := v), modIn_modI, ty.bits_mem_signed hty, v.bits_le]
  case and h w d a b | or h w d a b | xor h w d a b | andn h w d a b =>
    have halu : aluOk d a b = true := hok
    simp [parse2, encAlu_modIn (wideTy_mem_raw w), halu]
  case sar h w d a b =>
    obtain ⟨halu, -⟩ := Bool.and_eq_true_iff.1 hok
    cases w <;> simp [parse2, encAlu_modIn, halu]
  case shl h w d a b | shr h w d a b | rol h w d a b =>
    obtain ⟨halu, -⟩ := Bool.and_eq_true_iff.1 hok
    simp [parse2, encAlu_modIn (wideTy_mem_raw w), halu]

theorem parse3_of_encodeG {i : Instr} {f : Fields} (hok : i.opsOk = true) (he : encodeG i = some f) (hi : i.block = 0x3) :
    parse3 f f.hd = some i := by
  cases i <;> cases hi
  case popc h w d a | clz h w d a | brev h w d a | mov h w d a =>
    cases he
    simp [parse3, encAlu1, modIn_modI (.inr rfl) (wideTy_mem_raw w)]
  case bfx h ty d a x =>
    cases he
    obtain ⟨hhead, -⟩ := Bool.and_eq_true_iff.1 hok
    obtain ⟨hty, -⟩ := Bool.and_eq_true_iff.1 hhead
    cases x with
    | imm p l => simp [parse3, modIn_modI, ty.bits_mem_scalar hty, Field.v, Field.num, Field.isS, field_sub_pos, field_sub_len]
    | reg r => simp [parse3, modIn_modI, ty.bits_mem_scalar hty, Field.v, Field.num, Field.isS]
  case bfi h w d a b x =>
    cases he
    cases x with
    | imm p l => simp [parse3, modIn_modI (.inr rfl) (wideTy_mem_raw w), Field.v, Field.num, Field.isS, field_sub_pos, field_sub_len]
    | reg r => simp [parse3, modIn_modI (.inr rfl) (wideTy_mem_raw w), Field.v, Field.num, Field.isS]
  case icmp h ty d a b c =>
    cases he
    simp [parse3, xAB, modIn_modI, ty.bits_mem_all]
  case sel h w d a b n p =>
    cases he
    simp [parse3, modIn_modI (.inr rfl) (wideTy_mem_raw w), -Nat.reduceAdd, extractLsb'_append_eq_right, getLsbD_append_of_le,
      getLsbD_append_of_lt, -getLsbD_eq_getElem]
  case movi h k d x => cases k <;> cases he <;> simp [parse3]
  case lea h sg d a b sh => cases sg <;> cases he <;> simp [parse3, xAB, -Nat.reduceAdd, extractLsb'_append_eq_right]
  case idot4 h as bs d a b c => cases as <;> cases bs <;> cases he <;> simp [parse3]
  case prmt h d a b s => cases he; simp [parse3, Fields.sub, -Nat.reduceAdd, extractLsb'_extractLsb'_of_le, extractLsb'_append_eq_right]
  case prmtCtl h d a b c => cases he; simp [parse3]
  case smov h d x => cases x <;> cases he <;> simp [parse3, -Nat.reduceAdd, extractLsb'_append_eq_right]
  case smovHi h d x => cases he; simp [parse3]
  case salu h op d a b =>
    cases b <;> cases he <;> simp [parse3, Fields.mi, -Nat.reduceAdd, extractLsb'_append_eq_right, getLsbD_append_of_le,
      -getLsbD_eq_getElem]
  case iclamp h ty d a b c =>
    cases he
    obtain ⟨hty, -⟩ := Bool.and_eq_true_iff.1 hok
    simp [parse3, enc3, modIn_modI, ty.bits_mem_scalar hty]

theorem parse4_of_encodeG {i : Instr} {f : Fields} (hok : i.opsOk = true) (he : encodeG i = some f) (hi : i.block = 0x4) :
    parse4 f f.hd = some i := by
  cases i <;> cases hi
  case fadd h d a b | fsub h d a b | fmul h d a b | fmin h d a b | fmax h d a b =>
    cases he
    have halu : aluOk d a b = true := hok
    simp [parse4, halu]
  case ffma h nab nc d a b c => cases nab <;> cases nc <;> cases he <;> simp [parse4, enc3]
  case fcmp h fmt d a b c => cases fmt <;> cases he <;> simp [parse4, xAB]
  case fclass h d a pd m => cases pd <;> cases he <;> simp [parse4, -Nat.reduceAdd, extractLsb'_append_eq_right]
  case frnd h rm d a => cases rm <;> cases he <;> simp [parse4, xA, Rm.bits, Fields.mv, rmOf]
  case fcvt h c rm d a =>
    cases he
    simpa [parse4, xAB, cvtFields_code, cvtFields_mv] using cvt_rn (e := c.exact) hok
  case icvt h c rm d a =>
    cases he
    simpa [parse4, xA, cvtFields_code, cvtFields_mv] using cvt_rn (e := c.exact) hok
  all_goals cases he
  all_goals simp [parse4, encSf]

theorem parse5_of_encodeG {i : Instr} {f : Fields} (hok : i.opsOk = true) (he : encodeG i = some f) (hi : i.block = 0x5) :
    parse5 f f.hd = some i := by
  cases i <;> cases hi
  all_goals cases he
  case hadd2 h bf d a b | hmul2 h bf d a b => simp [parse5, Dst.num, Src.num]
  case hfma2 h bf d a b c | hdot2 h bf d a b c => simp [parse5, enc3, Dst.num, Src.num]
  case fscale h d a b =>
    have ha : (!b.isImm || a.isV) = true := hok
    have halu : aluOk (.v d) a b = true := by simpa [aluOk, Dst.isS] using ha
    simp [parse5, halu, Dst.num]
  case rngs h k d a key => simp [parse5, xAB]
  all_goals simp [parse5, encSf, -Nat.reduceAdd, extractLsb'_append_eq_right]

theorem parse6_of_encodeG {i : Instr} {f : Fields} (he : encodeG i = some f) (hi : i.block = 0x6) : parse6 f f.hd = some i := by
  cases i <;> cases hi
  case plop h d a b c t => cases he; simp [parse6, -Nat.reduceAdd, extractLsb'_append_eq_right]
  case pmov h x => cases x <;> cases he <;> simp [parse6, -Nat.reduceAdd, extractLsb'_append_eq_right]
  case xbfly h w d a n => cases w <;> cases he <;> simp [parse6, -Nat.reduceAdd, extractLsb'_append_eq_right]
  case xshfl h w d a m => cases m <;> cases w <;> cases he <;> simp [parse6, x_rank]
  case xbcast h w d a n => cases w <;> cases he <;> simp [parse6, -Nat.reduceAdd, extractLsb'_append_eq_right]
  case xred h op d a => cases op <;> cases he <;> simp [parse6, RedOp.bits, redOpOf]
  case xscan h op ex d a => cases op <;> cases ex <;> cases he <;> simp [parse6, RedOp.bits, redOpOf]
  all_goals cases he
  all_goals simp [parse6, -Nat.reduceAdd, extractLsb'_append_eq_right]

theorem parse7_of_encodeG {i : Instr} {f : Fields} (he : encodeG i = some f) (hi : i.block = 0x7) : parse7 f f.hd = some i := by
  cases i <;> cases hi
  case ld h p sz sx d m | st h p sz m b => cases p <;> cases he <;> simp [parse7, encM]
  case smap h e w l x =>
    cases x <;> cases he <;> simp [parse7, -Nat.reduceAdd, extractLsb'_append_eq_of_le,
      extractLsb'_append_eq_of_add_le, getLsbD_append_of_le, getLsbD_append_of_lt, -getLsbD_eq_getElem]
  case barv h m n =>
    cases n with
    | none => cases he; simp [parse7, encM]
    | some r => cases r <;> cases he <;> simp [parse7, encM]
  case bexp h m n | bexpMax h m n => cases n <;> cases he <;> simp [parse7, encM, mod1]
  case bwait h d m k | btest h d m k => cases he; simp [parse7, encM]
  case bwaitt h d m k dl => cases k <;> cases dl <;> cases he <;> simp [parse7, encM]
  all_goals cases he
  all_goals simp [parse7, encM, -Nat.reduceAdd, extractLsb'_append_eq_right]

theorem parse8_of_encodeG {i : Instr} {f : Fields} (he : encodeG i = some f) (hi : i.block = 0x8) : parse8 f f.hd = some i := by
  cases i <;> cases hi
  all_goals cases he
  all_goals simp [parse8, encM, -Nat.reduceAdd, extractLsb'_append_eq_right]

theorem parse9_of_encodeG {i : Instr} {f : Fields} (he : encodeG i = some f) (hi : i.block = 0x9) : parse9 f f.hd = some i := by
  cases i <;> cases hi
  case rowconS h a b o | rowput h a b o => cases b <;> cases he <;> simp [parse9, mod1]
  all_goals cases he
  all_goals simp [parse9, -Nat.reduceAdd, extractLsb'_append_eq_right]

theorem parseA_of_encodeG {i : Instr} {f : Fields} (he : encodeG i = some f) (hi : i.block = 0xA) : parseA f f.hd = some i := by
  cases i <;> cases hi
  case crs h d c => cases he; simp [parseA, encCard, c.mod_toNat_lt]
  case crsNorm h d c => cases he; simp [parseA, encCard, c.mod_add_four, -BitVec.toNat_add]
  case fsig h x => cases x <;> cases he <;> simp [parseA]
  all_goals cases he
  all_goals simp [parseA, encCard, encHandle, encM, -Nat.reduceAdd, extractLsb'_append_eq_right]

theorem parseB_of_encodeG {i : Instr} {f : Fields} (he : encodeG i = some f) (hi : i.block = 0xB) : parseB f f.hd = some i := by
  cases i <;> cases hi
  all_goals cases he
  case mldw h ty k a | mstream h ty k d a | mgrp h ty k d a => simp [parseB, modT_lt, modT_bit]
  case mst h cv a b | mlda h cv d a => simp [parseB, modC_lt]
  case mstReg h cv d a | mldaReg h cv d a => simp [parseB, modC_reg]
  all_goals simp [parseB, -Nat.reduceAdd, extractLsb'_append_eq_right]

theorem parseC_of_encodeG {i : Instr} {f : Fields} (he : encodeG i = some f) (hi : i.block = 0xC) : parseC f f.hd = some i := by
  cases i <;> cases hi
  all_goals cases he
  all_goals simp [parseC, -Nat.reduceAdd, extractLsb'_append_eq_of_le, extractLsb'_append_eq_of_add_le]

theorem parseD_of_encodeG {i : Instr} {f : Fields} (hok : i.opsOk = true) (he : encodeG i = some f) (hi : i.block = 0xD) :
    parseD f f.hd = some i := by
  cases i <;> cases hi
  case snapq h d k | snapqW h d k => cases k <;> cases he <;> simp [parseD, mod1]
  all_goals cases he
  case sysr h f n =>
    obtain ⟨hhead, -⟩ := Bool.and_eq_true_iff.1 hok
    obtain ⟨-, hn⟩ := Bool.and_eq_true_iff.1 hhead
    have hn : n.toNat ≠ 0x02B := by simpa using hn
    simp [parseD, encSysr, sysrOf, hn]
  case sysw h f n =>
    obtain ⟨hown, -⟩ := Bool.and_eq_true_iff.1 hok
    simp [parseD, encSysw, syswOf_other h f (by simpa using hown)]
  case eqtailRead h f => simp [parseD, encSysr, sysrOf]
  case cyccmpWrite h f | eqheadWrite h f => simp [parseD, encSysw, syswOf]
  case eqRingWrite h f size => cases size <;> simp [parseD, encSysw, syswOf]
  case svarWrite h f n => simp [parseD, encSysw, syswOf_svar]
  case fmtrangeWrite h f n hi => simp [parseD, encSysw, syswOf_fmtrange]
  case marginRegWrite h f n => simp [parseD, encSysw, syswOf_marginReg h f n (of_decide_eq_true hok)]
  case lcmapWrite h f n => simp [parseD, encSysw, syswOf_lcmap]
  case partmodeWrite h f n => simp [parseD, encSysw, syswOf_partmode]
  all_goals simp [parseD]

/-- The fields that encode a well-formed instruction are read back as the instruction (R34, R52). -/
theorem parseG_of_encodeG {i : Instr} {f : Fields} (hok : i.opsOk = true) (he : encodeG i = some f) : parseG f = some i := by
  have hb := encodeG_block he
  unfold parseG
  split
  · next hf => exact parse0_of_encodeG he (hb.symm.trans hf)
  · next hf => exact parse2_of_encodeG hok he (hb.symm.trans hf)
  · next hf => exact parse3_of_encodeG hok he (hb.symm.trans hf)
  · next hf => exact parse4_of_encodeG hok he (hb.symm.trans hf)
  · next hf => exact parse5_of_encodeG hok he (hb.symm.trans hf)
  · next hf => exact parse6_of_encodeG he (hb.symm.trans hf)
  · next hf => exact parse7_of_encodeG he (hb.symm.trans hf)
  · next hf => exact parse8_of_encodeG he (hb.symm.trans hf)
  · next hf => exact parse9_of_encodeG he (hb.symm.trans hf)
  · next hf => exact parseA_of_encodeG he (hb.symm.trans hf)
  · next hf => exact parseB_of_encodeG he (hb.symm.trans hf)
  · next hf => exact parseC_of_encodeG he (hb.symm.trans hf)
  · next hf => exact parseD_of_encodeG hok he (hb.symm.trans hf)
  · have hin := opc_assigned he
    simp_all

/-! ### Words -/

theorem encode_of_encodeG {i : Instr} {f : Fields} (he : encodeG i = some f) : encode i = some f.pack := by
  unfold encode
  split
  · cases he
  · rw [he]; rfl

/-- An instruction with a header has fields (R34). -/
theorem encodeG_of_hd {i : Instr} (hh : i.hd?.isSome = true) : ∃ f, encodeG i = some f := by
  cases i
  case call h t | callLink h d t => cases t <;> exact ⟨_, rfl⟩
  case smov h d x => cases x <;> exact ⟨_, rfl⟩
  case salu h op d a b => cases b <;> exact ⟨_, rfl⟩
  case pmov h x => cases x <;> exact ⟨_, rfl⟩
  case xshfl h w d a m => cases m <;> exact ⟨_, rfl⟩
  case smap h e w l x => cases x <;> exact ⟨_, rfl⟩
  case barv h m n => cases n <;> exact ⟨_, rfl⟩
  case fsig h x => cases x <;> exact ⟨_, rfl⟩
  all_goals cases hh
  all_goals exact ⟨_, rfl⟩

/-- A well-formed SYSR or SYSW names a register that it may (R21). -/
theorem srnBad_of_opsOk {i : Instr} (hok : i.opsOk = true) : i.srnBad = false := by
  cases i
  case sysr h f n =>
    obtain ⟨-, hn⟩ := Bool.and_eq_true_iff.1 hok
    simp [Instr.srnBad, hn]
  case sysw h f n =>
    obtain ⟨-, hn⟩ := Bool.and_eq_true_iff.1 hok
    simp [Instr.srnBad, hn]
  all_goals rfl

theorem Fields.pack_high (f : Fields) : f.pack.extractLsb' 92 4 = f.opc.extractLsb' 4 4 := by
  simp [Fields.pack, -Nat.reduceAdd, extractLsb'_append_eq_of_le]

/-- No instruction of format G has the top bits of format P (R32). -/
theorem pack_not_pair {i : Instr} {f : Fields} (he : encodeG i = some f) : f.pack.extractLsb' 92 4 ≠ 0xF := by
  intro hp
  have hnib : f.opc.toNat / 16 % 16 = 15 := by
    simpa [Nat.shiftRight_eq_div_pow] using congrArg BitVec.toNat (f.pack_high.symm.trans hp)
  have hin := opc_assigned he
  have hmax : f.opc.toNat / 16 = 15 := by omega
  rw [hmax] at hin
  exact absurd hin (by decide)

/-- A pair is read back from its word (R47). -/
theorem parsePair_pack (w : PairWord) : parsePair w.pack = some w := by
  simp [parsePair, PairWord.pack, -Nat.reduceAdd, extractLsb'_append_eq_of_le, extractLsb'_append_eq_of_add_le,
    getLsbD_append_of_le, getLsbD_append_of_lt, -getLsbD_eq_getElem]

theorem PairWord.pack_high (w : PairWord) : w.pack.extractLsb' 92 4 = 0xF := by
  simp [PairWord.pack, -Nat.reduceAdd, extractLsb'_append_eq_of_le]

/-- A pair is well formed exactly if its fields are (R48, R49). -/
theorem wf_pair (p : PairWord) : (Instr.pair p).wf = (p.op0.ok && p.op1.ok && p.ruleOk) := rfl

/-- A format-P word decodes to the well-formed pair whose word it is, and to nothing else (R47 to R50). -/
theorem decodePair_eq_ok_iff {w : W96} {i : Instr} :
    decodePair w = .ok i ↔ ∃ p : PairWord, i = .pair p ∧ p.pack = w ∧ (Instr.pair p).wf = true := by
  unfold decodePair
  constructor
  · intro hd
    split at hd
    · cases hd
    · next p hp =>
      split_ifs at hd with hbad hrule
      cases hd
      exact ⟨p, rfl, by simp_all [wf_pair]⟩
  · rintro ⟨p, rfl, rfl, hw⟩
    rw [parsePair_pack]
    simp_all [wf_pair]

/-- A format-G word decodes to an instruction only if the instruction is well formed and the word is its word (R53). -/
theorem decodeG_eq_ok {w : W96} {i : Instr} (hd : decodeG w = .ok i) : i.wf = true ∧ encode i = some w := by
  unfold decodeG at hd
  split at hd
  · cases hd
  · split_ifs at hd with hbad hok
    cases hd
    obtain ⟨he, hw⟩ : encode i = some w ∧ i.wf = true := by simpa using hok
    exact ⟨hw, he⟩

theorem opsOk_of_wf {i : Instr} (hw : i.wf = true) : i.opsOk = true := by
  unfold Instr.wf at hw
  simp_all

/-- The word of a well-formed format-G instruction decodes to it. -/
theorem decodeG_pack {i : Instr} {f : Fields} (hw : i.wf = true) (he : encodeG i = some f) : decodeG f.pack = .ok i := by
  have hok := opsOk_of_wf hw
  simp [decodeG, parseG_of_encodeG hok he, srnBad_of_opsOk hok, encode_of_encodeG he, hw]

/-- A word decodes exactly to the well-formed instruction whose word it is. -/
theorem decode_eq_ok_iff {w : W96} {i : Instr} : decode w = .ok i ↔ i.wf = true ∧ encode i = some w := by
  constructor
  · intro hd
    rw [decode] at hd
    split_ifs at hd with hp
    · obtain ⟨p, rfl, rfl, hw⟩ := decodePair_eq_ok_iff.1 hd
      exact ⟨hw, rfl⟩
    · exact decodeG_eq_ok hd
  · rintro ⟨hw, he⟩
    unfold encode at he
    split at he
    · next p =>
      cases he
      rw [decode, if_pos p.pack_high]
      exact decodePair_eq_ok_iff.2 ⟨p, rfl, rfl, hw⟩
    · obtain ⟨f, hf, rfl⟩ := Option.map_eq_some_iff.1 he
      rw [decode, if_neg (pack_not_pair hf)]
      exact decodeG_pack hw hf

/-- Settles O58: an instruction with a header and a pair have words, and a word decodes to the well-formed instruction whose word it is. -/
theorem encodeDecode : Obligations.EncodeDecode := by
  refine ⟨fun i hw hword => ?_, fun w i hd => decode_eq_ok_iff.1 hd⟩
  have henc : ∃ w, encode i = some w := by
    rcases hword with ⟨p, rfl⟩ | hh
    · exact ⟨p.pack, rfl⟩
    · obtain ⟨f, hf⟩ := encodeG_of_hd hh
      exact ⟨f.pack, encode_of_encodeG hf⟩
  obtain ⟨w, he⟩ := henc
  exact ⟨w, he, decode_eq_ok_iff.2 ⟨hw, he⟩⟩

/-- Settles O57: each is the word of the well-formed instruction beside it. -/
theorem specWordsDecode : Obligations.SpecWordsDecode := by
  simp only [Obligations.SpecWordsDecode, decode_eq_ok_iff]
  refine ⟨⟨?_, ?_⟩, ⟨?_, ?_⟩, ⟨?_, ?_⟩, ⟨?_, ?_⟩, ⟨?_, ?_⟩, ?_, ?_⟩
  all_goals rfl

end Sys2Proof

/-! SUPPORT. What a step runs: the branches of `step`, the fetch, and the copies for the live snapshots (R32, R53, R54, R65,
R420, R466). -/

namespace Sys2Proof.Machine

/-! ### The branches of a step -/

theorem step_of_booting {s : State} (hr : s.host.ready = false) (hf : s.host.imgfail = false) : step s = exec .moduleReset s := by
  simp [step, HostSide.booting, hr, hf]

theorem HostSide.booting_of_up {h : HostSide} (hup : h.ready = true ∨ h.imgfail = true) : h.booting = false := by
  rcases hup with hr | hf
  · simp [HostSide.booting, hr]
  · simp [HostSide.booting, hf]

theorem step_of_next_run {s : State} {i : Instr} {d : Dev} (hup : s.host.ready = true ∨ s.host.imgfail = true)
    (hn : s.dev.next = .run i d) : step s = withCopies d (exec i { s with dev := d }) := by
  simp [step, HostSide.booting_of_up hup, hn]

theorem step_of_next_goOn {s : State} {d : Dev} (hup : s.host.ready = true ∨ s.host.imgfail = true)
    (hn : s.dev.next = .goOn d) : step s = .next { s with dev := d } := by
  simp [step, HostSide.booting_of_up hup, hn]

/-! ### The order of what one cycle brings -/

theorem Dev.dueNext_of_cons {d : Dev} {i : Instr} {r : List Instr} (hdue : d.dueEvents = i :: r) :
    d.dueNext = some (.run i { d with cur := .none }) := by
  simp [Dev.dueNext, hdue]

theorem Dev.agendaNext_of_cons {d : Dev} {n : Nat} {i : Instr} {r : List (Nat × Instr)} (hag : d.agenda = (n, i) :: r)
    (hn : n ≤ d.pcyc) : d.agendaNext = some (.run i { d with agenda := r, cur := .none }) := by
  simp [Dev.agendaNext, hag, hn]

section
variable {d : Dev} {x : Next}

theorem Dev.next_of_due (hk : d.keepNext = none) (hx : d.dueNext = some x) : d.next = x := by
  simp [Dev.next, hk, hx]

theorem Dev.next_of_agenda (hk : d.keepNext = none) (hd : d.dueNext = none) (hx : d.agendaNext = some x) : d.next = x := by
  simp [Dev.next, hk, hd, hx]

theorem Dev.next_of_issue (hk : d.keepNext = none) (hd : d.dueNext = none) (ha : d.agendaNext = none) (hm : d.meetNext = none)
    (hf : d.freeNext = none) (hx : d.issueNext = some x) : d.next = x := by
  simp [Dev.next, hk, hd, ha, hm, hf, hx]

end

/-! ### Fetch (R32, R33, R92) -/

section
variable (d : Dev) (core : Nat) (us : List Nat) (pc : W64) (tb : List IssueEntry)

@[simp] theorem Dev.begin_ctx? (k : Nat) : (d.begin core us pc tb).ctx? k = d.ctx? k := rfl
@[simp] theorem Dev.begin_leaf? (c : Ctx) (off : Nat) : (d.begin core us pc tb).leaf? c off = d.leaf? c off := rfl
@[simp] theorem Dev.begin_ownerOk (l : Leaf) (k : Nat) : (d.begin core us pc tb).ownerOk l k = d.ownerOk l k := rfl
@[simp] theorem Dev.begin_fetch (k : Nat) (a : W64) : (d.begin core us pc tb).fetch k a = d.fetch k a := rfl

end

/-- Where a context's leased code holds twelve bytes in pages that it owns and may execute, a fetch finds the word they make, as they
were at the last lease. -/
theorem Dev.fetch_of_leased {d : Dev} {slot off : Nat} {pc : W64} {c : Ctx} {l m : Leaf} (hc : d.ctx? slot = some c)
    (ha : pc.toNat % 4 = 0) (hw : windowOf pc = .local_ off) (hlo : c.code.1 ≤ off) (hhi : off + 12 ≤ c.code.1 + c.code.2)
    (hl : d.leaf? c off = some l) (hm : d.leaf? c (off + 11) = some m) (hlx : l.x = true) (hmx : m.x = true)
    (hlo' : d.ownerOk l slot = true) (hmo : d.ownerOk m slot = true) :
    d.fetch slot pc = .word (wordOfBytes (c.fetchMem.getBytes off 12)) := by
  simp [Dev.fetch, covers, *]

/-! ### Issue (R53, R54, R65) -/

section
variable {d : Dev} {core : Nat} {x : Chosen} {t : Thread} {ts : List Thread} {w : W96}

theorem Dev.issueNext_of_decode_ok {i : Instr} (hx : d.nextIssue = some (core, x)) (hg : x.group = t :: ts)
    (hf : d.fetch t.ctx t.pc = .word w) (hi : decode w = .ok i) :
    d.issueNext = some (.run i ((d.begin core ((t :: ts).map Thread.uid) t.pc x.table).parity i (wordGuard w).2)) := by
  simp only [Dev.issueNext, hx, hg, Dev.begin_fetch, hf, hi]

theorem Dev.issueNext_of_decode_error {f : DecodeFault} (hx : d.nextIssue = some (core, x)) (hg : x.group = t :: ts)
    (hf : d.fetch t.ctx t.pc = .word w) (hi : decode w = .error f) :
    d.issueNext = some (.goOn ((d.begin core ((t :: ts).map Thread.uid) t.pc x.table).encodingFault w f)) := by
  simp only [Dev.issueNext, hx, hg, Dev.begin_fetch, hf, hi]

end

/-! ### The copies for live snapshots (R420) -/

theorem Dev.wroteUnits_of_noLive {d : Dev} (hlive : ∀ e ∈ d.ctxs, ∀ x ∈ e.2.snaps, x.live = false) (e : Dev) :
    d.wroteUnits e = [] := by
  refine List.flatMap_eq_nil_iff.2 fun y hy => ?_
  have hnone : y.2.snaps.filter (fun s => s.live) = [] := List.filter_eq_nil_iff.2 fun s hs => by simp [hlive y hy s hs]
  simp [hnone]

theorem Dev.copied_of_noLive {d : Dev} (hlive : ∀ e ∈ d.ctxs, ∀ x ∈ e.2.snaps, x.live = false) (e : Dev) : d.copied e = e := by
  simp [Dev.copied, Dev.wroteUnits_of_noLive hlive]

theorem withCopies_of_noLive {d : Dev} (hlive : ∀ e ∈ d.ctxs, ∀ x ∈ e.2.snaps, x.live = false)
    (o : Host.Outcome State Fault Refusal) : withCopies d o = o := by
  cases o with
  | next t => simp [withCopies, Dev.copied_of_noLive hlive]
  | fault f => rfl
  | refused r => rfl

/-- Settles O56: the branches of the step in their order, and the fetch of a word that the leased code holds. The order of what one
cycle brings (log 7) and the parity errors (log 72) are the model's choices. -/
theorem stepRunsDecoded : Obligations.StepRunsDecoded := by
  refine ⟨fun s => step_of_booting, fun d o hlive => withCopies_of_noLive hlive o, fun s hup hk => ⟨fun i r hdue => ?_, fun hd => ⟨?_, ?_⟩⟩⟩
  · exact step_of_next_run hup (Dev.next_of_due hk (Dev.dueNext_of_cons hdue))
  · intro n i r hag hn
    exact step_of_next_run hup (Dev.next_of_agenda hk hd (Dev.agendaNext_of_cons hag hn))
  · intro ha hm hf core x t ts c off l m hx hg hc hal hw hlo hhi hl hl' hlx hmx hlo' hmo
    have hfetch := Dev.fetch_of_leased hc hal hw hlo hhi hl hl' hlx hmx hlo' hmo
    refine ⟨fun i hi => ?_, fun f hi => ?_⟩
    · exact step_of_next_run hup (Dev.next_of_issue hk hd ha hm hf (Dev.issueNext_of_decode_ok hx hg hfetch hi))
    · exact step_of_next_goOn hup (Dev.next_of_issue hk hd ha hm hf (Dev.issueNext_of_decode_error hx hg hfetch hi))

end Sys2Proof.Machine

/-! SUPPORT. What time brings to a thread: one lemma per case of the operations on sleeps, hints, late results, growing memory, the
timer and pending traps (R44, R46, R63, R65, R78, R107, R108, R145, R159, R371, R372). -/

namespace Sys2Proof.Machine

/-- An event that acts on the device alone does to it what its operation does. -/
theorem DevRuns.of_onDev {i : Instr} {pre : Dev → Prop} {f g : Dev → Dev} (hx : ∀ s, exec i s = onDev s g)
    (hg : ∀ d, pre d → g d = f d) : DevRuns i pre f := by
  intro s hs
  rw [hx, onDev, hg s.dev hs]

@[simp] theorem Dev.tick_thread? (d : Dev) (u : Nat) : d.tick.thread? u = d.thread? u := rfl

section
variable {d : Dev} {u : Nat} {t : Thread}

/-! ### Sleeps and timeouts (R78, R159) -/

theorem Dev.sleepWake_of_over {dl : W64} (ht : d.thread? u = some t) (hw : t.wait = .sleep dl) (hdl : dl ≤ d.cyc t.ctx) :
    d.sleepWake u = d.mapThread u (fun x => x.woken d.pcyc) := by
  simp [Dev.sleepWake, ht, Dev.sleepOver, hw, hdl]

theorem Dev.bwaitTimeout_of_over {p : PReg} {o : Nat} {k : Bool} {dl : W64} (ht : d.thread? u = some t)
    (hw : t.wait = .barrier p o k (some dl)) (hdl : dl ≤ d.cyc t.ctx) :
    d.bwaitTimeout u = (d.logInput t.ctx (logKey 4 t.logId) (d.cyc t.ctx)).mapThread u
      (fun x => (x.setPred p 0x00 false).woken d.pcyc) := by
  simp [Dev.bwaitTimeout, ht, hw, hdl]

/-! ### Issue hints (R46, R63) -/

theorem Dev.spinOver_iff : d.spinOver t = true ↔
    t.spin ≠ 0 ∧ (t.spin ≤ d.pcyc ∨ (d.turn ≤ t.core ∧ t.idle = true ∧ d.ctxIssues t.ctx = true ∧ d.readyOn t.core = [])) := by
  simp [Dev.spinOver, and_assoc]

theorem Dev.endSpin_of_over (ht : d.thread? u = some t) (ho : d.spinOver t = true) :
    d.endSpin u = d.deliver t.gangUid (fun x => { x with spin := 0, since := max x.since (d.pcyc + 1) }) := by
  simp [Dev.endSpin, ht, ho]

/-- A thread that is ready and of the age of 2,048 makes its core issue its group (R65). -/
theorem exec_agedIssue {s : State} {core : Nat} (hf : (s.dev.readyOn core).find? (fun x => x.uid == u) = some t)
    (hage : 2048 ≤ t.age s.dev.pcyc) :
    exec (.agedIssue core u) s = .next { s with
      dev := s.dev.mapCore core (fun x => { x with avoid := [], table := enterAged (s.dev.tableNow core) t s.dev.pcyc }) } := by
  show execAgedIssue core u s = _
  simp [execAgedIssue, onDev, hf, hage]

/-! ### Late results and late reads (R44, R107, R108) -/

theorem exec_lookaheadResult {s : State} (ht : s.dev.thread? u = some t) :
    exec (.lookaheadResult u) s = .next { s with dev := s.dev.tick.lateStep t } := by
  show execLookaheadResult u s = _
  simp [execLookaheadResult, onDev, ht]

theorem Dev.lateStep_of_filled {l : Late} {a : OttAcc} (hf : d.lateFilled t = some (l, a)) : d.lateStep t = d.fillFar t l a := by
  simp [Dev.lateStep, hf]

theorem Dev.lateStep_of_here {l : Late} {r : Unread} (hf : d.lateFilled t = none) (hh : t.lateHere = some l)
    (hr : l.unread = some r) : d.lateStep t = d.perform t r := by
  simp [Dev.lateStep, hf, hh, hr]

theorem Dev.lateStep_of_lands {l : Late} (hf : d.lateFilled t = none) (hh : t.lateHere = none) (hl : t.lateLands = some l) :
    d.lateStep t = d.mapThread t.uid (fun x => { x.landOne l with since := d.pcyc + 1 }) := by
  simp [Dev.lateStep, hf, hh, hl]

/-- A late read of this module is one that still has to be performed. -/
theorem Thread.unread_of_mem_unreads {l : Late} (hl : l ∈ t.unreads) : ∃ r, l.unread = some r := by
  have hhere := (List.mem_filter.1 hl).2
  cases hu : l.unread with
  | none => simp [hu] at hhere
  | some r => exact ⟨r, rfl⟩

/-- Where nothing waits for a late read, one of the thread's late reads is performed, whichever the model's choice is. -/
theorem Dev.lateStep_of_may (hf : d.lateFilled t = none) (hh : t.lateHere = none) (hl : t.lateLands = none)
    (hm : d.lateMay t = true) : ∃ l ∈ t.unreads, ∃ r, l.unread = some r ∧ d.lateStep t = d.perform t r := by
  have hne : t.unreads ≠ [] := by simp_all [Dev.lateMay]
  have hlt : Config.pick d.ctr % t.unreads.length < t.unreads.length := Nat.mod_lt _ (List.length_pos_iff.2 hne)
  have hmem := List.getElem_mem hlt
  obtain ⟨r, hr⟩ := Thread.unread_of_mem_unreads hmem
  exact ⟨_, hmem, r, hr, by simp [Dev.lateStep, hf, hh, hl, hm, List.getElem?_eq_getElem hlt, hr]⟩

/-! ### The growth of a lane's own memory (R145) -/

theorem Thread.needs_of_grow {m : Nat} (hw : t.wait = .grow m) : t.needs = some m := by
  simp [Thread.needs, hw]

/-- The lanes of a thread's instruction that wait for a mark of their own memory (R145). -/
def Dev.growPeers (d : Dev) (t : Thread) : List Thread :=
  d.threads.filter (fun x => x.ctx == t.ctx && x.core == t.core && x.pc == t.pc && x.needs.isSome)

theorem Dev.grow_of_map {m : Nat} {f : Dev} (ht : d.thread? u = some t) (hw : t.wait = .grow m) (hf : d.growMap t m = some f) :
    let e := f.deliver t.gangUid (fun x => { x with hwm := max x.hwm m })
    d.grow u =
      if ∀ x ∈ e.growPeers t, x.needs.getD 0 ≤ x.hwm then
        e.mapUids ((e.growPeers t).map Thread.uid) (fun x => { x with wait := .none, since := d.pcyc + 1 })
      else e := by
  simp only [Dev.grow, ht, Thread.needs_of_grow hw, hf, Option.bind_some, Option.map_some, List.all_eq_true, decide_eq_true_eq]
  rfl

/-! ### The timer (R372) -/

section
variable {slot : Nat} {c : Ctx}

theorem Ctx.timerOver_iff : c.timerOver = true ↔ c.regs.cyccmp ≠ 0 ∧ c.regs.cyccmp ≤ c.regs.cyc := by
  simp [Ctx.timerOver]

/-- CYCCMP of a context is zero, and no thread has armed it. -/
def Dev.timerOff (d : Dev) (slot : Nat) : Dev :=
  d.mapCtx slot (fun c => { c with regs := { c.regs with cyccmp := 0, armer := none } })

theorem Dev.timer_of_armer (hc : d.ctx? slot = some c) (ho : c.timerOver = true) (ha : c.regs.armer = some u)
    (ht : d.thread? u = some t) :
    d.timer slot = (d.timerOff slot).deliver t.gangUid (fun x => { x with timerDue := some c.regs.cyccmp }) := by
  simp [Dev.timer, Dev.timerOff, hc, ho, ha, ht]

theorem Dev.timer_of_armerGone (hc : d.ctx? slot = some c) (ho : c.timerOver = true) (ha : c.regs.armer = some u)
    (ht : d.thread? u = none) : d.timer slot = (d.timerOff slot).timerRecord slot c.regs.cyccmp := by
  simp [Dev.timer, Dev.timerOff, hc, ho, ha, ht]

end

/-! ### Traps at a boundary (R371, R372) -/

theorem Dev.takePending_of_pending {p : PendingTrap} (ht : d.thread? u = some t) (hp : t.pending = some p) (hi : t.inTrap = false) :
    d.takePending u = (d.mapThread u (fun x => { x with pending := none, skid := 0 })).enter t p.cause p.detail t.pc := by
  simp [Dev.takePending, ht, hp, hi]

theorem Dev.takeTimer_of_due {v : W64} (ht : d.thread? u = some t) (hv : t.timerDue = some v) (hi : t.inTrap = false) :
    d.takeTimer u =
      let ends := t.endsOnTrap (d.tvec t)
      ((d.mapThread u (fun x => { x with timerDue := none })).record
        ⟨cTimer, if ends then 4 else 2, false, !ends, d.whoOf t, 0, [t.lane], cycDetail v 0, 0⟩).enter t cTimer (cycDetail v 0) t.pc := by
  simp [Dev.takeTimer, ht, hv, hi]

theorem Dev.trapWaits_of_pending (hi : t.inTrap = false) (hb : d.atBoundary t = true) (hp : t.pending.isSome = true) :
    d.trapWaits t = true := by
  simp [Dev.trapWaits, hi, hb, hp]

theorem Dev.trapWaits_of_timer (hi : t.inTrap = false) (hb : d.atBoundary t = true) (hv : t.timerDue.isSome = true)
    (hr : t.readyAt d.pcyc = true) : d.trapWaits t = true := by
  simp [Dev.trapWaits, hi, hb, hv, hr]

section
variable (ht : d.thread? u = some t)
  (hown : d.threads.filter (fun x => x.uid == t.gangUid || (x.shadow && x.partner == some t.gangUid)) = [t])
include ht hown

/-- A thread that no other follows takes its pending trap, also where TIMER is due. -/
theorem Dev.takeTrap_of_pending (hw : d.trapWaits t = true) (hp : t.pending.isSome = true) : d.takeTrap u = d.takePending t.uid := by
  simp [Dev.takeTrap, ht, hown, hw, hp]

theorem Dev.takeTrap_of_timer (hw : d.trapWaits t = true) (hp : t.pending = none) (hs : t.shadow = false) :
    d.takeTrap u = d.takeTimer t.uid := by
  simp [Dev.takeTrap, ht, hown, hw, hp, hs]

end

end

/-- Settles O46: each event finds its thread and takes the case of its operation that the hypotheses name. The choice of the late read
(log 26), and that a pending trap is taken before a timer that is due (log 33), are the model's. -/
theorem threadEvents : Obligations.ThreadEvents := by
  intro u core slot t c
  refine ⟨?sleep, ?bwait, ?spin, ?aged, ?filled, ?here, ?lands, ?may, ?grow, ?timer, ?timerGone, ?pending, ?timerTaken⟩
  case sleep =>
    exact fun dl => .of_onDev (fun _ => rfl) fun d ⟨ht, hw, hdl⟩ => Dev.sleepWake_of_over ht hw hdl
  case bwait =>
    exact fun p o k dl => .of_onDev (fun _ => rfl) fun d ⟨ht, hw, hdl⟩ => Dev.bwaitTimeout_of_over ht hw hdl
  case spin =>
    exact .of_onDev (fun _ => rfl) fun d ⟨ht, ho⟩ => Dev.endSpin_of_over ht (Dev.spinOver_iff.2 ho)
  case aged =>
    exact fun s ⟨hf, hage⟩ => exec_agedIssue hf hage
  case filled =>
    intro l a s ⟨ht, hf⟩
    rw [exec_lookaheadResult ht, Dev.lateStep_of_filled hf]
  case here =>
    intro l r s ⟨ht, hf, hh, hr⟩
    rw [exec_lookaheadResult ht, Dev.lateStep_of_here hf hh hr]
  case lands =>
    intro l s ⟨ht, hf, hh, hl, hu⟩
    rw [exec_lookaheadResult ht, Dev.lateStep_of_lands hf hh hl, hu]
    rfl
  case may =>
    intro s ht hf hh hl hm
    obtain ⟨l, hmem, r, hr, hstep⟩ := Dev.lateStep_of_may hf hh hl hm
    exact ⟨l, hmem, r, hr, by rw [exec_lookaheadResult ht, hstep]⟩
  case grow =>
    exact fun m f => .of_onDev (fun _ => rfl) fun d ⟨ht, hw, hf⟩ => Dev.grow_of_map ht hw hf
  case timer =>
    exact .of_onDev (fun _ => rfl) fun d ⟨⟨hc, hne, hle, ha⟩, ht⟩ => Dev.timer_of_armer hc (Ctx.timerOver_iff.2 ⟨hne, hle⟩) ha ht
  case timerGone =>
    exact .of_onDev (fun _ => rfl) fun d ⟨⟨hc, hne, hle, ha⟩, ht⟩ => Dev.timer_of_armerGone hc (Ctx.timerOver_iff.2 ⟨hne, hle⟩) ha ht
  case pending =>
    refine fun p => .of_onDev (g := fun d => d.takeTrap u) (fun _ => rfl) fun d ⟨ht, hown, hi, hb, hu, hp⟩ => ?_
    have hsome : t.pending.isSome = true := by simp [hp]
    rw [Dev.takeTrap_of_pending ht hown (Dev.trapWaits_of_pending hi hb hsome) hsome, hu]
    exact Dev.takePending_of_pending ht hp hi
  case timerTaken =>
    refine fun v => .of_onDev (g := fun d => d.takeTrap u) (fun _ => rfl) fun d ⟨ht, hown, hi, hb, hr, hu, hs, hp, hv⟩ => ?_
    have hw := Dev.trapWaits_of_timer hi hb (by simp [hv]) hr
    rw [Dev.takeTrap_of_timer ht hown hw hp hs, hu]
    exact Dev.takeTimer_of_due ht hv hi

end Sys2Proof.Machine

/-! SUPPORT. Pairs: what both operations make of a lane, without a select in the acting threads, with one in every thread of the group
(R51). -/

namespace Sys2Proof.Machine

/-- The writes of both operations of a pair in one lane, of operands as the device holds them before either. -/
def pairLane (w : PairWord) (e : Dev) (t : Thread) : Thread :=
  applyWrite (applyWrite t (pairWrite (e.env t) w 0 w.op0)) (pairWrite (e.env t) w 1 w.op1)

@[simp] theorem applyWrite_uid (t : Thread) (x : Option (VReg × W32 × Bool × FFlags)) : (applyWrite t x).uid = t.uid := by
  cases x with
  | none => rfl
  | some x => rfl

theorem pairLane_uid (w : PairWord) (e : Dev) (t : Thread) : (pairLane w e t).uid = t.uid := by simp [pairLane]

/-! ### A whole group -/

theorem Dev.mem_members {d : Dev} {t : Thread} : t ∈ d.members ↔ t ∈ d.threads ∧ d.group.contains t.uid = true := by
  unfold Dev.members Dev.threadsOf
  rw [mem_sortBy, List.mem_filter]

/-- What becomes of a thread where all of a group are changed by `f` and go on. -/
def Dev.groupMap (d : Dev) (h : Hd) (f : Thread → Thread) (t : Thread) : Thread :=
  if d.group.contains t.uid then (f t).gone h d.pcyc else t

theorem Dev.groupMap_of_mem {d : Dev} {h : Hd} {f : Thread → Thread} {t : Thread} (ht : t ∈ d.members) :
    d.groupMap h f t = (f t).gone h d.pcyc := if_pos (Dev.mem_members.1 ht).2

theorem Dev.groupMap_of_not_group {d : Dev} {h : Hd} {f : Thread → Thread} {t : Thread} (hg : d.group.contains t.uid = false) :
    d.groupMap h f t = t := if_neg (by rw [hg]; exact Bool.false_ne_true)

/-- Changing all threads of the group and retiring it. -/
theorem Dev.done_members (e : Dev) (h : Hd) {f : Thread → Thread} (hu : ∀ t, (f t).uid = t.uid) :
    (e.mapUids (e.members.map Thread.uid) f).done h = { e with threads := e.threads.map (e.groupMap h f) } := by
  have hsub : ∀ u, (e.members.map Thread.uid).contains u = true → e.group.contains u = true := by
    intro u hm
    obtain ⟨t, ht, rfl⟩ := List.mem_map.1 (List.contains_iff_mem.1 hm)
    exact (Dev.mem_members.1 ht).2
  rw [Dev.done_eq e _ h f hsub hu]
  congr 1
  refine List.map_congr_left fun t ht => ?_
  unfold Dev.groupMap
  split
  · next hg =>
    have hm : (e.members.map Thread.uid).contains t.uid = true :=
      List.contains_iff_mem.2 (List.mem_map_of_mem (Dev.mem_members.2 ⟨ht, hg⟩))
    rw [if_pos hm]
  · rfl

/-! ### The two kinds of pairs -/

/-- A pair with a select whose checks pass acts in every thread of its group. -/
theorem exec_pair_of_sel {w : PairWord} {s : State} (hsel : pairSel w = true)
    (hp : ∀ t ∈ (s.dev.opened (.pair w) (pairHd w)).members,
      (s.dev.opened (.pair w) (pairHd w)).Passes (.pair w) (pairHd w) false t) :
    let e := s.dev.opened (.pair w) (pairHd w)
    exec (.pair w) s = .next { s with dev := (e.mapUids (e.members.map Thread.uid) (pairLane w e)).done (pairHd w) } := by
  have hf : (s.dev.opened (.pair w) (pairHd w)).faultIn (.pair w) (s.dev.opened (.pair w) (pairHd w)).members
      ((s.dev.opened (.pair w) (pairHd w)).guardFlt (.pair w) (pairHd w) false) = none :=
    Dev.faultIn_none (fun t ht => (hp t ht).guardFlt)
  show execPair w s = _
  simp only [Dev.opened] at hf ⊢
  simp only [execPair, onDev, hsel, if_true, Dev.confirmed_group, Dev.prefer_group, Dev.tick_group, hf]
  rfl

theorem pair_of_sel {w : PairWord} {s : State} (hsel : pairSel w = true)
    (hp : ∀ t ∈ (s.dev.opened (.pair w) (pairHd w)).members,
      (s.dev.opened (.pair w) (pairHd w)).Passes (.pair w) (pairHd w) false t) :
    let e := s.dev.opened (.pair w) (pairHd w)
    exec (.pair w) s = .next { s with dev := s.dev.after (.pair w) (pairHd w) (e.groupMap (pairHd w) (pairLane w e)) } := by
  intro e
  rw [exec_pair_of_sel hsel hp, Dev.done_members _ _ (pairLane_uid w _)]
  rfl

/-- A pair without a select is a per-lane instruction under its guard. -/
theorem pair_laneRuns {w : PairWord} (hsel : pairSel w = false) :
    LaneRuns (.pair w) (pairHd w) (pairGov w.op0.code ++ pairGov w.op1.code) false (fun _ _ => True) (pairLane w) := by
  refine LaneRuns.of (fun act d => (d.mapUids (act.map Thread.uid) (pairLane w d)).done (pairHd w)) (pairLane w) (fun s => ?_)
    (pairLane_uid w) (fun _ _ => rfl) (fun _ _ _ _ _ => rfl)
  show execPair w s = _
  simp only [execPair, onDev, hsel]
  rfl

/-- Settles O12: the writes of both operations are of the device before either; with a select they are made in all threads of the
group, else in those that act. -/
theorem pairedOperations : Obligations.PairedOperations := by
  intro w F
  split
  · next hsel =>
    intro s hp
    refine ⟨_, pair_of_sel hsel hp, fun t ht => ?_, fun t hg => ?_⟩
    · rw [Dev.groupMap_of_mem ht, Dev.opened_pcyc]
      rfl
    · exact Dev.groupMap_of_not_group (by rwa [Dev.opened_group])
  · next hsel => exact pair_laneRuns (by simpa using hsel)

end Sys2Proof.Machine

/-! SUPPORT. Control: transfers, YIELD, SLEEP and FENCE (R71 to R78, R141). -/

namespace Sys2Proof.Machine

/-! ### The group of a per-lane instruction -/

@[simp] theorem Thread.gone_uid (t : Thread) (h : Hd) (now : Nat) : (t.gone h now).uid = t.uid := by
  simp [Thread.gone, Thread.retire]

/-- The uids of some threads contain one where one of the threads has it. -/
theorem contains_map_uid (ts : List Thread) (u : Nat) : (ts.map Thread.uid).contains u = ts.any (fun t => t.uid == u) := by
  induction ts with
  | nil => rfl
  | cons t r ih => rw [List.map_cons, List.contains_cons, List.any_cons, ih, Bool.beq_comm]

section
variable {d : Dev} {i : Instr} {h : Hd} {bits : List Nat}

theorem Dev.mem_group_of_acting {u : Nat} (hu : u ∈ ((d.opened i h).acting h bits).map Thread.uid) : u ∈ d.group := by
  obtain ⟨t, ht, rfl⟩ := List.mem_map.1 hu
  simpa using Dev.acting_group ht

/-- Where every thread of a device is changed as `laneMap` says, the device is as after the instruction. -/
theorem Dev.after_of_threads {e : Dev} {F : Thread → Thread} (hd : e = { d.opened i h with threads := e.threads })
    (ht : e.threads = (d.opened i h).threads.map (d.laneMap i h bits F)) : e = d.after i h (d.laneMap i h bits F) := by
  rw [hd, ht]
  rfl

/-- The threads of the group that do not act retire, and those that act are changed by `F`. -/
theorem Dev.retireOthers_after (F : Thread → Thread) :
    let e := d.opened i h
    let us := (e.acting h bits).map Thread.uid
    (e.retire (e.group.filter (fun u => !(us.contains u))) h.yh).mapUids us F = d.after i h (d.laneMap i h bits F) := by
  intro e us
  refine Dev.after_of_threads rfl ?_
  simp only [Dev.mapUids, Dev.mapThreads, Dev.retire, List.map_map]
  refine List.map_congr_left fun t _ => ?_
  change (fun x => if us.contains x.uid then F x else x)
      (if (e.group.filter (fun u => !(us.contains u))).contains t.uid then t.gone h e.pcyc else t) =
    if d.group.contains t.uid then if us.contains t.uid then F t else t.gone h d.pcyc else t
  simp only [List.contains_iff_mem, List.mem_filter, Bool.not_eq_true', ← Bool.not_eq_true]
  rw [Dev.opened_group, Dev.opened_pcyc]
  by_cases hact : t.uid ∈ us
  · have hg : t.uid ∈ d.group := Dev.mem_group_of_acting hact
    simp [hact, hg]
  · by_cases hg : t.uid ∈ d.group <;> simp [hact, hg]

/-- The group retires, and then the threads that acted are changed by `F`. -/
theorem Dev.done_mapUids_after (F : Thread → Thread) :
    ((d.opened i h).done h).mapUids (((d.opened i h).acting h bits).map Thread.uid) F =
      d.after i h (d.laneMap i h bits (fun t => F (t.gone h d.pcyc))) := by
  refine Dev.after_of_threads rfl ?_
  simp only [Dev.mapUids, Dev.mapThreads, Dev.done, Dev.retire, List.map_map]
  refine List.map_congr_left fun t _ => ?_
  change (fun x => if (((d.opened i h).acting h bits).map Thread.uid).contains x.uid then F x else x)
      (if (d.opened i h).group.contains t.uid then t.gone h (d.opened i h).pcyc else t) = d.laneMap i h bits _ t
  rw [Dev.opened_group, Dev.opened_pcyc, Dev.laneMap]
  simp only [List.contains_iff_mem]
  by_cases hg : t.uid ∈ d.group
  · simp only [hg, if_true, Thread.gone_uid]
  · have hact : t.uid ∉ ((d.opened i h).acting h bits).map Thread.uid := fun hu => hg (Dev.mem_group_of_acting hu)
    simp only [hg, hact, if_false]

end

/-! ### Transfers (R33, R73 to R75) -/

theorem Thread.poisonRun_eq_none {t : Thread} {l : List (Nat × Nat × Bool)} (hl : ∀ x ∈ l, x.2.2 = false) : t.poisonRun l = none := by
  have hf : l.find? (fun x => x.2.2) = none := by simpa using hl
  simp [Thread.poisonRun, hf]

/-- An address that is not poisoned has no poisoned register. -/
theorem Dev.srcPoison_of_clean {d : Dev} {t : Thread} {x : Src} (hx : ((d.env t).addr x).2 = false) : d.srcPoison t x = none := by
  refine Thread.poisonRun_eq_none ?_
  have h2 : upTo 2 = [0, 1] := rfl
  have h1 : upTo 1 = [0] := rfl
  cases x with
  | v r => simpa [Env.addr, Env.read, opdOf, Thread.rdP64, Env.addrRun, Env.run, h2] using hx
  | s r => simpa [Env.addr, Env.read, opdOf, Env.addrRun, Env.run, h1] using hx

theorem targetFlt_of_local {ord lane : Nat} {x : W64} (ha : x.toNat % 4 = 0) (hl : localTarget x = true) :
    targetFlt ord lane x = none := by
  simp [targetFlt, ha, hl]

/-- A transfer completes where its own checks pass, but for those of the target. -/
theorem TransferRuns.of {i : Instr} {h : Hd} {ok : Dev → Thread → Prop} {F : Dev → Thread → Thread} {tgt : Dev → Thread → W64}
    (chk : Dev → Thread → Option Flt)
    (hx : ∀ s : State, exec i s = onDev s (fun d => d.lanesChk i h false chk (fun act d => d.transfer h act F tgt)))
    (hc : ∀ e t, ok e t → (∀ n, targetFlt n t.lane (tgt e t) = none) → chk e t = none) : TransferRuns i h ok F tgt := by
  refine LaneEnds.of _ hx (fun d hp _ => ?_)
  have hchk : (d.opened i h).faultIn i ((d.opened i h).acting h [0]) (chk (d.opened i h)) = none :=
    Dev.faultIn_none (fun t ht => by
      obtain ⟨_, hok, ha, hl⟩ := hp t ht
      exact hc _ t hok (fun _ => targetFlt_of_local ha hl))
  simp only [hchk, Dev.transfer, ← contains_map_uid]
  exact Dev.retireOthers_after _

/-- A branch to a target in a register. -/
theorem brx_runs (h : Hd) (b : Src) (imm : W32) :
    TransferRuns (.brx h b imm) h (fun e t => ((e.env t).addr b).2 = false) (fun _ t => t)
      (fun e t => ((e.env t).addr b).1 + sext64 imm) :=
  .of _ (fun _ => rfl) (fun e t hclean ht => by
    have htgt : targetFlt 1 t.lane ((e.env t).regTarget b imm).1 = none := ht 1
    simp [Dev.srcPoison_of_clean hclean, htgt])

/-- A call's target is not poisoned: a label never is. -/
def Dev.calleeClean (d : Dev) (t : Thread) : CallTgt → Prop
  | .label _ => True
  | .reg a _ => ((d.env t).addr (.v a)).2 = false

theorem Dev.callPoison_of_clean {e : Dev} {t : Thread} {c : CallTgt} (hc : e.calleeClean t c) : e.callPoison t c = none := by
  cases c with
  | label imm => rfl
  | reg a imm => exact Dev.srcPoison_of_clean hc

theorem call_runs (h : Hd) (c : CallTgt) :
    TransferRuns (.call h c) h (fun e t => e.calleeClean t c ∧ t.rstack.length < 16)
      (fun _ t => { t with rstack := (t.pc + 12) :: t.rstack }) (fun e t => e.callTarget t c) :=
  .of _ (fun _ => rfl) (fun e t ⟨hclean, hdepth⟩ ht => by simp [Dev.callPoison_of_clean hclean, ht 1, hdepth])

theorem callLink_runs (h : Hd) (r : VReg) (c : CallTgt) :
    TransferRuns (.callLink h r c) h (fun e t => e.calleeClean t c) (fun _ t => t.wr64 r (t.pc + 12) false)
      (fun e t => e.callTarget t c) :=
  .of _ (fun _ => rfl) (fun e t hclean ht => by simp [Dev.callPoison_of_clean hclean, ht 1])

theorem ret_runs (h : Hd) :
    TransferRuns (.ret h) h (fun _ t => t.rstack ≠ []) (fun _ t => { t with rstack := t.rstack.tail })
      (fun _ t => t.rstack.headD 0) := by
  have hx : ∀ s : State, exec (.ret h) s = onDev s (fun d => d.lanesChk (.ret h) h false
      (fun _ t => firstFlt [flt t.rstack.isEmpty 1 cCallDepth (depthDetail t), targetFlt 2 t.lane t.top])
      (fun act d => d.transfer h act (fun _ t => { t with rstack := t.rstack.tail }) (fun _ t => t.top))) := fun s => by
    simp only [← List.drop_one]
    rfl
  exact .of _ hx (fun e t hne ht => by
    have htop : targetFlt 2 t.lane t.top = none := ht 2
    simp [hne, htop])

theorem retLink_runs (h : Hd) (a : VReg) :
    TransferRuns (.retLink h a) h (fun e t => ((e.env t).addr (.v a)).2 = false) (fun _ t => t)
      (fun e t => ((e.env t).addr (.v a)).1) :=
  .of _ (fun _ => rfl) (fun e t hclean ht => by simp [Dev.srcPoison_of_clean hclean, ht 1])

/-! ### NOP, YIELD, SLEEP and FENCE (R77, R78, R141) -/

theorem Dev.mapUids_id (d : Dev) (us : List Nat) : d.mapUids us (fun t => t) = d := by simp [Dev.mapUids, Dev.mapThreads]

theorem yield_ends (h : Hd) :
    LaneEnds (.yield h) h [0] false (fun _ _ => True) (fun e t => { t.gone h e.pcyc with since := e.pcyc + 1 }) :=
  LaneEnds.of _ (fun _ => rfl) (fun d _ _ => by
    rw [Dev.done_mapUids_after, Dev.opened_pcyc])

/-- Threads sleep to their deadlines; one whose deadline CYC has reached goes on. -/
theorem sleepUntil_ends {i : Instr} {h : Hd} (dl : Dev → Thread → W64)
    (hx : ∀ s : State, exec i s = onDev s (fun d => d.lanes i h [0] false (fun act d => d.sleepUntil h act dl))) :
    LaneEnds i h [0] false (fun _ _ => True) (fun e t =>
      if e.cyc t.ctx < dl e t then { (t.hint h.yh e.pcyc) with wait := .sleep (dl e t), since := e.pcyc } else t.gone h e.pcyc) :=
  LaneEnds.of _ hx (fun _ _ _ => Dev.retireOthers_after _)

/-- Where none of an instruction's threads is one to wait, the body runs. -/
theorem Dev.unlessOwn_of_none {d : Dev} {act : List Thread} {p : Thread → Bool} (w : Wait) (body : Dev → Dev)
    (hp : ∀ t ∈ act, p t = false) : d.unlessOwn act p w body = body d := by
  have hnone : act.filter p = [] := List.filter_eq_nil_iff.2 (fun t ht => by simp [hp t ht])
  simp [Dev.unlessOwn, hnone]

/-- FENCE once its threads owe no access (that it may be guarded is log 46). -/
theorem fence_done {h : Hd} {s : State} (hp : s.dev.AllPass (.fence h) h [0] false (fun e t => e.owes t = false)) :
    let e := s.dev.opened (.fence h) h
    exec (.fence h) s =
      .next { s with dev := (if e.acting h [0] = [] then e else e.fences (primaries (e.acting h [0]))).done h } := by
  intro e
  change execFence h s = _
  rw [execFence, onDev, Dev.lanes_ok _ _ _ _ _ _ (fun t ht => (hp t ht).1),
    Dev.unlessOwn_of_none _ _ (fun t ht => (hp t (mem_of_mem_primaries ht)).2)]
  split <;> rfl

/-- Settles O8: each transfer is the shared one with its own target and link; YIELD, SLEEP and FENCE are drivers of their own. -/
theorem controlTransfers : Obligations.ControlTransfers := by
  intro h imm a b r clean at_ push
  have nop : LaneRuns (.nop h) h [0] false (fun _ _ => True) (fun _ t => t) :=
    LaneRuns.of (fun _ d => d.done h) (fun _ t => t) (fun _ => rfl) (fun _ _ => rfl) (fun e _ => by rw [Dev.mapUids_id]) (fun _ _ _ _ _ => rfl)
  have bra : TransferRuns (.bra h imm) h (fun _ _ => True) (fun _ t => t) (fun _ t => t.pc + 12 + sext64 imm) :=
    .of _ (fun _ => rfl) (fun _ _ _ ht => ht 1)
  refine ⟨nop, yield_ends h, fun s hp => fence_done hp, bra, brx_runs h b imm, ?_, call_runs h (.reg a imm),
    callLink_runs h r (.label imm), callLink_runs h r (.reg a imm), ret_runs h, retLink_runs h a, ?_, ?_⟩
  · have hcall := call_runs h (.label imm)
    simp only [Dev.calleeClean, true_and] at hcall
    exact hcall
  · exact sleepUntil_ends (fun e t => e.cyc t.ctx + zext64 imm) (fun _ => rfl)
  · exact sleepUntil_ends (fun e t => ((e.env t).addr b).1) (fun _ => rfl)

end Sys2Proof.Machine

/-! SUPPORT. Arithmetic into a gang scalar (R69, R237, R240, R253, R254). -/

namespace Sys2Proof.Machine

/-! ### The shared driver -/

/-- What a participant of a gang-wide arithmetic instruction gets (that PD goes to each participant is the model's choice, log 47). -/
def aluPart (f : AluFn) (two : Bool) (pd : Option PredFn) (s : Srcs) (x : Thread) : Thread :=
  let y := x.orFlags (f.run s (fun _ => true) 0).flags
  match pd with
  | none => y
  | some q => y.setPred q.p (cmpWrite (if two then 64 else 32) 1 (fun _ => true) (fun _ => q.f s) 0) s.p

/-- An arithmetic instruction into a gang scalar completes with its operation's value, flags and predicate. -/
theorem aluGang_runs {i : Instr} {h : Hd} {r : SReg} {two : Bool} {a b c : Opd} {f : AluFn} {pd : Option PredFn}
    {ok : Srcs → Prop} {val : Srcs → Nat × FFlags} {put : Srcs → Thread → Thread}
    (hx : ∀ s : State, exec i s = onDev s (fun d => d.alu i h (.s r) two a b c f pd))
    (hm : ∀ s, ok s → (f.run s (fun _ => true) 0).mark = false)
    (hv : ∀ s, (f.run s (fun _ => true) 0).val = (val s).1)
    (hp : ∀ s x, aluPart f two pd s x = put s (x.orFlags (val s).2)) : ScalarRuns i h r a b c ok val put := by
  refine MeetRuns.of _ hx (fun d m hok => ?_)
  cases hact : m.true? h with
  | nil => rfl
  | cons t ts =>
    have hs : m.srcs d h a b c = Env.srcs { c := d.ctr, t := t, g := some m.gang } a b c := by
      simp only [Meet.srcs, hact]
    have hmark := hm _ (hok (by simp [hact]))
    rw [hs] at hmark ⊢
    simp only [Dev.meetWrites, List.cons_ne_nil, if_false, ← hv, ← hp]
    exact if_neg (by rw [hmark]; exact Bool.false_ne_true)

/-- The gang-wide form of an integer instruction narrows the exact result of each element as V says. -/
theorem intScalar_runs {i : Instr} {h : Hd} {ty : Ty} {v : Ov} {r : SReg} {a b c : Opd} {f g : Int → Int → Int → Int}
    {pd : Option PReg} {cy : Nat → Nat → Bool} (hfg : ∀ x y z, g x y z = f x y z)
    (hx : ∀ s : State, exec i s = onDev s (fun d => d.alu i h (.s r) ty.wide a b c (AluFn.int ty v g)
      (pd.map (fun p => { p := p, f := fun s => cy s.a s.b })))) :
    IntScalar i h ty v r a b c f pd cy := by
  obtain rfl : g = f := by funext x y z; exact hfg x y z
  have hflags : ∀ s, ((AluFn.int ty v g).run s (fun _ => true) 0).flags = 0 := fun s => by
    rw [AluFn.run_flags]
    exact fold_zero _ _ _ (fun _ => ov_flags _ _ _)
  unfold IntScalar
  refine aluGang_runs hx (fun s hok => ?_) (fun s => ?_) (fun s x => ?_)
  · rw [AluFn.run_mark, List.any_eq_false]
    intro k hk
    have hk' : k < ty.count := by simpa [AluFn.int, upTo] using hk
    have hmark := ov_mark v ty _ (fun hv => hok hv k hk')
    simpa [AluFn.int, num_eq] using hmark
  · rw [AluFn.run_val]
    simp only [AluFn.int, ov_val, num_eq]
  · cases pd with
    | none => simp [aluPart, hflags, putPD]
    | some p =>
      have hbits : ∀ y : Bool, cmpWrite (if ty.wide then 64 else 32) 1 (fun _ => true) (fun _ => y) 0 =
          (if y then (if ty.wide then 0xFF else 0x0F) else 0x00) := by
        intro y
        cases ty.wide <;> cases y <;> decide
      simp only [aluPart, Option.map_some, hflags, hbits, putPD]

/-- The gang-wide form of a binary32 instruction. -/
theorem fpScalar_runs {i : Instr} {h : Hd} {r : SReg} {a b c : Opd} {f : Srcs → Nat × FFlags} {g : Nat → Nat → Nat → Nat × FFlags}
    (hfg : ∀ s : Srcs, f s = g s.a s.b s.c)
    (hx : ∀ s : State, exec i s = onDev s (fun d => d.alu i h (.s r) false a b c (AluFn.one 32 f))) : FpScalar i h r a b c g := by
  refine aluGang_runs hx (fun s _ => ?_) (fun s => ?_) (fun s x => ?_)
  · rw [AluFn.run_mark, List.any_eq_false]
    simp [AluFn.one]
  · rw [AluFn.run_val]
    simp [AluFn.one, merged, upTo, hfg]
  · simp [aluPart, AluFn.run_flags, AluFn.one, upTo, hfg]

/-- Settles O9: every form is the shared gang-wide arithmetic with its own operation. That PD is written in
each participant is the model's choice (log 47). -/
theorem gangScalarArithmetic : Obligations.GangScalarArithmetic := by
  refine ⟨fun h ty v r a b c y pd => ?integer, fun h r a b c y => ?binary32⟩
  case integer =>
    have shift : ∀ x y : Int, (x * y).shiftRight ty.width = x * y / 2 ^ ty.width := fun x y => Int.shiftRight_eq_div_pow _ _
    have natAbs : ∀ x : Int, (x.natAbs : Int) = max x (-x) := fun x => by omega
    have same {f : Int → Int → Int → Int} : ∀ x y z, f x y z = f x y z := fun _ _ _ => rfl
    exact ⟨intScalar_runs same (fun _ => rfl), intScalar_runs same (fun _ => rfl), intScalar_runs same (fun _ => rfl),
      intScalar_runs (fun x y _ => shift x y) (fun _ => rfl), intScalar_runs same (fun _ => rfl),
      intScalar_runs same (fun _ => rfl), intScalar_runs same (fun _ => rfl), intScalar_runs (fun x _ _ => natAbs x) (fun _ => rfl),
      intScalar_runs same (fun _ => rfl)⟩
  case binary32 =>
    exact ⟨fpScalar_runs (fun _ => rfl) (fun _ => rfl), fpScalar_runs (fun _ => rfl) (fun _ => rfl),
      fpScalar_runs (fun _ => rfl) (fun _ => rfl), fun nab nc => fpScalar_runs (fun _ => rfl) (fun _ => rfl),
      fpScalar_runs (fun _ => rfl) (fun _ => rfl), fpScalar_runs (fun _ => rfl) (fun _ => rfl)⟩

end Sys2Proof.Machine

/-! SUPPORT. The first member that arrives at a rendezvous (R69). -/

namespace Sys2Proof.Machine

/-- A rendezvous that another participant has yet to reach is not complete. -/
theorem Rendezvous.not_complete {v : Rendezvous} {p : Nat × Nat} (hp : p ∈ v.parts) (hn : p.1 ∉ v.arrived) : v.complete = false := by
  unfold Rendezvous.complete
  rw [List.all_eq_false]
  exact ⟨p, hp, by simpa using hn⟩

/-- A member that finds no open rendezvous opens one and waits there. -/
theorem Dev.arrive_of_closed {d : Dev} {i : Instr} {t : Thread} {k : Nat} {g : Gang} (hgang : d.gangOf? t = some (k, g))
    (hrdv : g.rdv = none) :
    d.arrive i t = (d.deliver t.uid (fun x => { x with wait := .rendezvous })).mapGang t.core k
      (fun g => g.open t.pc i [t.uid] (d.cyc t.ctx)) := by
  simp only [Dev.arrive, hgang, hrdv]

/-- A gang whose rendezvous is not complete does not execute. -/
theorem Dev.meetIf_of_incomplete {d : Dev} {h : Hd} {cmp : Bool} {core k : Nat} {body : Meet → List Thread → Dev → Dev} {g : Gang}
    {v : Rendezvous} (hg : d.gang? core k = some g) (hv : g.rdv = some v) (hc : v.complete = false) :
    d.meetIf h cmp core k body = d := by
  simp [Dev.meetIf, hg, hv, hc]

/-- The rendezvous that one member opens waits for every other one. -/
theorem Gang.open_waits {g : Gang} {pc : W64} {i : Instr} {u : Nat} {now : W64}
    (hother : ∃ w ∈ g.members, w ≠ u ∧ (g.rankOf w).isSome = true) :
    ∃ v, (g.open pc i [u] now).rdv = some v ∧ v.complete = false := by
  obtain ⟨w, hw, hne, hrank⟩ := hother
  obtain ⟨r, hr⟩ := Option.isSome_iff_exists.1 hrank
  refine ⟨_, rfl, Rendezvous.not_complete (p := (w, r)) ?_ (by simpa using hne)⟩
  exact List.mem_filterMap.2 ⟨w, hw, by simp [hr]⟩

/-- The only thread of a group opens its gang's rendezvous. -/
theorem ArrivalRuns.of {i : Instr} {h : Hd} {body : Meet → List Thread → Dev → Dev}
    (hx : ∀ s : State, exec i s = onDev s (fun d => d.gangWide i h body)) : ArrivalRuns i := by
  intro s t k pc g hcur e hone hsh hgang hg hrdv hother hlev hregs f
  have hcore : e.cur = .group t.core [t.uid] pc := by simp [e, hcur]
  have hfault : e.faultIn i ([t].filter (fun t => t.active h [0])) (e.preFlt i true) = none :=
    Dev.faultIn_none (fun u hu => by
      obtain rfl : u = t := by simpa using List.mem_of_mem_filter hu
      exact Dev.preFlt_none hlev hregs (fun _ => by simp [hgang]))
  have harrive := Dev.arrive_of_closed (d := e.mapUids [t.uid] (fun x => { x with latches := [] })) (i := i) hgang hrdv
  obtain ⟨v, hv, hwaits⟩ := Gang.open_waits (pc := t.pc) (i := i) (now := e.cyc t.ctx) hother
  have hopen : (f.mapGang t.core k (fun g => g.open t.pc i [t.uid] (e.cyc t.ctx))).gang? t.core k =
      some (g.open t.pc i [t.uid] (e.cyc t.ctx)) := by
    rw [Dev.gang?_mapGang_self, Dev.gang?_deliver, Dev.gang?_mapUids, hg]
    rfl
  have hnot := Dev.meetIf_of_incomplete (h := h) (cmp := comparesGuards i) (body := body) hopen hv hwaits
  rw [hx, onDev]
  congr 2
  have hin : [t].filter (fun t => (e.gangOf? t).isSome) = [t] := by simp [hgang]
  have hout : [t].filter (fun t => (e.gangOf? t).isNone) = [] := by simp [hgang]
  have hnone : e.retire [] h.yh = e := Dev.mapUids_nil _ _
  have hprim : primaries [t] = [t] := by simp [primaries, hsh]
  unfold Dev.gangWide
  simp only [show s.dev.tick.confirmed i true = e from rfl, hcore, hone, hfault, hin, hout, List.map_nil, List.map_cons, hnone, hprim,
    List.foldl_cons, List.foldl_nil, List.filterMap_cons, List.filterMap_nil, hgang, harrive]
  exact hnot

/-- Settles O11: each of them is the shared gang-wide operation. -/
theorem rendezvousOpens : Obligations.RendezvousOpens := by
  intro h s x p q c r a w ex n md op
  exact ⟨.of (fun _ => rfl), .of (fun _ => rfl), .of (fun _ => rfl), .of (fun _ => rfl), .of (fun _ => rfl), .of (fun _ => rfl),
    .of (fun _ => rfl), .of (fun _ => rfl), .of (fun _ => rfl), .of (fun _ => rfl), .of (fun _ => rfl)⟩

end Sys2Proof.Machine

/-! SUPPORT. JOIN and its lanes, served one after another (R79, R80). -/

namespace Sys2Proof.Machine

/-! ### Checks and turns of an instruction whose effect leaves the core -/

/-- Threads whose operations have places neither wait for room in a log nor for their turns. -/
theorem Dev.inTurn_of {d : Dev} {ts : List Thread} {place : Thread → Option Nat} (body : Dev → Dev) (ht : d.InTurn ts place) :
    d.inTurn ts place body = body d := by
  have hroom : ∀ t ∈ ts, ((place t).isSome && d.logStalls t.ctx) = false := fun t hm => by
    have hstall := (ht t hm).1
    rw [Bool.and_eq_false_imp]
    exact hstall
  rw [Dev.inTurn, Dev.unless_of_none _ _ hroom, Dev.unless_of_none _ _ (fun t hm => (ht t hm).2)]

/-- An instruction that passes its checks also passes weaker ones. -/
theorem Dev.OutPass.mono {d : Dev} {i : Instr} {h : Hd} {g : Bool} {key : Dev → Thread → List Nat} {ok ok' : Dev → Thread → Prop}
    (hp : d.OutPass i h g key ok) (hok : ∀ e t, ok e t → ok' e t) : d.OutPass i h g key ok' := by
  obtain ⟨hpass, hne, hmis⟩ := hp
  exact ⟨fun t ht => ⟨(hpass t ht).1, hok _ t (hpass t ht).2⟩, hne, hmis⟩

/-! ### The lanes of JOIN -/

/-- The key that a lane of JOIN names. -/
def Dev.joinKey (e : Dev) (a : VReg) (t : Thread) : W64 := BitVec.ofNat 64 ((e.env t).read 0 (.v a true)).1

/-- The rank that it asks for, if it asks for one. -/
def Dev.joinWant (e : Dev) (b : Option VReg) (t : Thread) : Option Nat := b.map (fun b => ((e.env t).read 1 (.v b false)).1)

/-- The place of its operation in the order of its gang (R443). -/
def Dev.joinPlace (e : Dev) (a : VReg) (t : Thread) : Option Nat := some (gangPlace (e.joinKey a t))

/-- What a pair of lanes is compared by. -/
def Dev.joinPair (a : VReg) (b : Option VReg) (e : Dev) (t : Thread) : List Nat :=
  [0, ((e.env t).read 0 (.v a true)).1] ++ (e.joinWant b t).toList

/-- The registers that a lane of JOIN reads are not poisoned. -/
def Dev.joinClean (a : VReg) (b : Option VReg) (e : Dev) (t : Thread) : Prop :=
  t.poisonRun ((e.env t).run 0 (.v a) 2) = none ∧ ∀ b', b = some b' → ((e.env t).read 1 (.v b' false)).2 = false

/-- One lane's JOIN, its key and rank as the thread reads them in `e`. -/
def Dev.joinOut (e : Dev) (a : VReg) (b : Option VReg) (size : BitVec 3) (clash : Bool) (d : Dev) (t : Thread) : Joined :=
  d.join1 t (e.joinKey a t) (e.joinWant b t) size.toNat clash

/-- What one lane's JOIN leaves where it does not trap. -/
def Dev.joinAct (e : Dev) (p : PReg) (a : VReg) (b : Option VReg) (size : BitVec 3) (clash : Bool) (d : Dev) (t : Thread) : Dev :=
  match e.joinOut a b size clash d t with
  | .joins k g r =>
    (d.mapCore t.core (fun c => { c with gangs := KV.set c.gangs k { g with remap := g.remap.set r (some t.uid) } })).deliver t.uid
      (fun t => t.setPred p 0xFF false)
  | _ => d.deliver t.uid (fun t => t.setPred p 0x00 false)

/-- One lane of JOIN in the driver's fold, which collects the faults of the lanes. -/
def Dev.joinStep (e : Dev) (p : PReg) (a : VReg) (b : Option VReg) (size : BitVec 3) (clash : Bool) (x : Dev × List (Thread × Flt))
    (t : Thread) : Dev × List (Thread × Flt) :=
  match x.1.joinLane p t (e.joinKey a t) (e.joinWant b t) size.toNat clash with
  | (d', none) => (d', x.2)
  | (_, some f) => (x.1, x.2 ++ [(t, f)])

section
variable {e : Dev} {p : PReg} {a : VReg} {b : Option VReg} {size : BitVec 3} {clash : Bool}

theorem Dev.joinStep_of_noTrap {d : Dev} {t : Thread} {fs : List (Thread × Flt)} (hok : ∀ c, e.joinOut a b size clash d t ≠ .traps c) :
    e.joinStep p a b size clash (d, fs) t = (e.joinAct p a b size clash d t, fs) := by
  unfold Dev.joinOut at hok
  simp only [Dev.joinStep, Dev.joinLane, Dev.joinAct, Dev.joinOut]
  cases hout : d.join1 t _ _ _ _ with
  | fails => rfl
  | traps c => exact absurd hout (hok c)
  | joins k g r => rfl

theorem Dev.foldl_joinStep {ts : List Thread} {d : Dev} {fs : List (Thread × Flt)}
    (hok : SerialOk (fun d t => ∀ c, e.joinOut a b size clash d t ≠ .traps c) (e.joinAct p a b size clash) d ts) :
    ts.foldl (e.joinStep p a b size clash) (d, fs) = (ts.foldl (e.joinAct p a b size clash) d, fs) := by
  induction ts generalizing d with
  | nil => rfl
  | cons t ts ih =>
    rw [List.foldl_cons, List.foldl_cons, Dev.joinStep_of_noTrap hok.1, ih hok.2]

end

/-- The checks of one lane of JOIN: its key and its rank are not poisoned. -/
def Dev.joinChk (a : VReg) (b : Option VReg) (d : Dev) (t : Thread) : Option Flt :=
  firstFlt [t.poisonRun ((d.env t).run 0 (.v a) 2),
    match b with
    | some b => t.poisonFlt ((d.env t).read 1 (.v b false)).2 b.toNat 0
    | none => none]

theorem Dev.joinChk_of_clean {a : VReg} {b : Option VReg} {d : Dev} {t : Thread} (hc : d.joinClean a b t) : d.joinChk a b t = none := by
  obtain ⟨hkey, hrank⟩ := hc
  cases b with
  | none => simp [Dev.joinChk, hkey]
  | some b' => simp [Dev.joinChk, hkey, Thread.poisonFlt, hrank b' rfl]

/-- What JOIN does once its lanes have their places: the fold's device, or the fault of a lane that traps. -/
def Dev.joinEnd (h : Hd) (act : List Thread) (d : Dev) (x : Dev × List (Thread × Flt)) : Dev :=
  match pickFail x.2 with
  | some f => d.failGroup h act f
  | none => x.1.done h

theorem Dev.join_eq (d : Dev) (i : Instr) (h : Hd) (p : PReg) (a : VReg) (b : Option VReg) (size : BitVec 3) (clash : Bool) :
    d.join i h p a b size clash = d.lanesOut i h false (Dev.joinPair a b) (Dev.joinChk a b) (fun act e =>
      e.inTurn act (e.joinPlace a) (fun d =>
        d.joinEnd h act (act.foldl (e.joinStep p a b size clash) (d.placed act (e.joinPlace a), [])))) := rfl

/-- JOIN serves its lanes in ascending order, where none traps. -/
theorem exec_join_of_serial {i : Instr} {h : Hd} {p : PReg} {a : VReg} {b : Option VReg} {size : BitVec 3} {clash : Bool}
    (hx : ∀ s, exec i s = onDev s (fun d => d.join i h p a b size clash)) {s : State}
    (hp : s.dev.OutPass i h false (Dev.joinPair a b) (Dev.joinClean a b)) :
    let e := s.dev.opened i h
    let ts := primaries (e.acting h [0])
    e.InTurn ts (e.joinPlace a) →
    SerialOk (fun d t => ∀ c, e.joinOut a b size clash d t ≠ .traps c) (e.joinAct p a b size clash)
      (e.placed ts (e.joinPlace a)) ts →
    exec i s = .next { s with dev := (ts.foldl (e.joinAct p a b size clash) (e.placed ts (e.joinPlace a))).done h } := by
  intro e ts hturn hok
  rw [hx, onDev, Dev.join_eq, Dev.lanesOut_ok _ _ _ _ _ _ _ (hp.mono (fun _ _ => Dev.joinChk_of_clean)), Dev.inTurn_of _ hturn,
    Dev.foldl_joinStep hok]
  rfl

/-- Settles O14: where no lane traps, the driver's fold collects no fault. -/
theorem joinServesLanes : Obligations.JoinServesLanes := by
  intro h p a b size
  exact ⟨fun _ => exec_join_of_serial (fun _ => rfl), fun _ => exec_join_of_serial (fun _ => rfl),
    fun _ => exec_join_of_serial (fun _ => rfl), fun _ => exec_join_of_serial (fun _ => rfl)⟩

end Sys2Proof.Machine

/-! SUPPORT. LEAVE, GINFO and POST (R81 to R84). -/

namespace Sys2Proof.Machine

/-! ### LEAVE and GINFO (R81, R82) -/

theorem exec_leave {h : Hd} {s : State} (hp : s.dev.OutPass (.leave h) h true (fun _ _ => []) (fun _ _ => True)) :
    let e := s.dev.opened (.leave h) h
    let ts := primaries (e.acting h [0])
    e.InTurn ts e.leavePlace →
    exec (.leave h) s = .next { s with dev := (ts.foldl (fun d t => d.leaveGang t) (e.placed ts e.leavePlace)).done h } := by
  intro e ts hturn
  change execLeave h s = _
  rw [execLeave, onDev, Dev.lanesOut_ok _ _ _ _ _ _ _ (hp.mono (fun _ _ _ => rfl)), Dev.inTurn_of _ hturn]

/-- Outside a gang GINFO reports rank all ones and no members. -/
theorem Dev.ginfoWords_of_none {d : Dev} {t : Thread} (hg : d.gangOf? t = none) :
    d.ginfoWords t = [BitVec.allOnes 32, 0, 0, 0] := by
  simp only [Dev.ginfoWords, hg]

/-- The mask of the ranks that hold a member is reported in two halves. -/
theorem Dev.ginfoWords_of_gang {d : Dev} {t : Thread} {k : Nat} {g : Gang} (hg : d.gangOf? t = some (k, g)) :
    d.ginfoWords t = [BitVec.ofNat 32 ((g.rankOf t.gangUid).getD 0), BitVec.ofNat 32 g.size, lo32 (BitVec.ofNat 64 g.mask),
      hi32 (BitVec.ofNat 64 g.mask)] := by
  have hlo : lo32 (BitVec.ofNat 64 g.mask) = BitVec.ofNat 32 g.mask := by
    apply BitVec.eq_of_toNat_eq
    simp only [lo32, BitVec.extractLsb'_toNat, BitVec.toNat_ofNat]
    omega
  have hhi : hi32 (BitVec.ofNat 64 g.mask) = BitVec.ofNat 32 (g.mask / 2 ^ 32) := by
    apply BitVec.eq_of_toNat_eq
    simp only [hi32, BitVec.extractLsb'_toNat, BitVec.toNat_ofNat]
    omega
  simp only [Dev.ginfoWords, hg, hlo, hhi]

/-- A lane's words do not depend on what the lanes before it got. -/
theorem Dev.foldl_ginfo {e d : Dev} {r : VReg} {ts : List Thread} (hd : d.ginfoWords = e.ginfoWords) :
    ts.foldl (fun d t => d.deliver t.uid (fun x => x.wrs r (d.ginfoWords t) false)) d =
      ts.foldl (fun d t => d.deliver t.uid (fun x => x.wrs r (e.ginfoWords t) false)) d := by
  induction ts generalizing d with
  | nil => rfl
  | cons t ts ih =>
    rw [List.foldl_cons, List.foldl_cons, hd]
    exact ih hd

theorem exec_ginfo {h : Hd} {r : VReg} {s : State} (hp : s.dev.AllPass (.ginfo h r) h [0] false (fun _ _ => True)) :
    let e := s.dev.opened (.ginfo h r) h
    exec (.ginfo h r) s = .next { s with dev := ((primaries (e.acting h [0])).foldl
      (fun d t => d.deliver t.uid (fun x => x.wrs r (e.ginfoWords t) false)) e).done h } := by
  intro e
  change execGinfo h r s = _
  rw [execGinfo, onDev, Dev.lanes_ok _ _ _ _ _ _ (fun t ht => (hp t ht).1)]
  split
  · next hnone =>
    simp only [e, hnone]
    rfl
  · rw [← Dev.foldl_ginfo rfl]
    rfl

/-- Settles O15: LEAVE serves its lanes in order, and no lane of GINFO changes what another reads. -/
theorem leaveAndGangInfo : Obligations.LeaveAndGangInfo := by
  refine ⟨fun h s hp => exec_leave hp, fun h r s hp => ?_⟩
  intro e words
  have hwords : e.ginfoWords = words := by
    funext t
    cases hg : e.gangOf? t with
    | none => simp only [words, hg, Dev.ginfoWords_of_none hg]
    | some x => simp only [words, hg, Dev.ginfoWords_of_gang hg]
  rw [← hwords]
  exact exec_ginfo hp

/-! ### POST (R83, R84) -/

/-- The record that a lane posts, with the die that queues it. -/
def Dev.postRec (d : Dev) (a b : VReg) (t : Thread) : Task × Nat :=
  let k := taskOf t (d.postBits t a b).1
  (k, d.postDie t k.addr)

/-- Where the queue of each die has room for the records that go to it, no queue is full. -/
theorem Dev.postTasks_fit {d : Dev} {ts : List Thread} {a b : VReg}
    (hroom : ∀ n < 4, ((ts.map (d.postRec a b)).filter (fun k => k.2 == n)).length + (d.die n).tasks.length ≤ 65536) :
    (upTo 4).find? (fun n => decide (d.taskRoom n < ((d.postTasks ts a b).filter (fun k => k.2.2 == n)).length)) = none := by
  rw [List.find?_eq_none]
  intro n hn
  have hn4 : n < 4 := by simpa [upTo] using hn
  have hcount : ((d.postTasks ts a b).filter (fun k => k.2.2 == n)).length =
      ((ts.map (d.postRec a b)).filter (fun k => k.2 == n)).length := by
    simp only [Dev.postTasks, List.filter_map, List.length_map]
    rfl
  have hfit := hroom n hn4
  rw [hcount, Dev.taskRoom, decide_eq_true_eq]
  omega

/-- POST whose checks pass waits for nothing where its threads owe no access and no queue is full. -/
theorem exec_post {h : Hd} {a b : VReg} {s : State}
    (hp : s.dev.OutPass (.post h a b) h false (fun d t => [bitsOf (d.postBits t a b).1 64 64, (d.postBits t a b).1])
      (fun e t => e.postFlt (.post h a b) t a b = none ∧ e.owes t = false)) :
    let e := s.dev.opened (.post h a b) h
    let ts := primaries (e.acting h [0])
    (∀ n < 4, ((ts.map (e.postRec a b)).filter (fun k => k.2 == n)).length + (e.die n).tasks.length ≤ 65536) →
    exec (.post h a b) s = .next { s with dev := ((ts.map (e.postRec a b)).foldl
      (fun d k => d.mapDie k.2 (fun x => { x with tasks := x.tasks ++ [k.1] })) (e.passTo ts .host)).done h } := by
  intro e ts hroom
  have hpass := hp.mono (ok' := fun d t => d.postFlt (.post h a b) t a b = none) (fun _ _ hok => hok.1)
  have howes : ∀ t ∈ ts, e.owes t = false := fun t ht => (hp.1 t (mem_of_mem_primaries ht)).2.2
  have hfit := Dev.postTasks_fit (d := s.dev.opened (.post h a b) h)
    (ts := primaries ((s.dev.opened (.post h a b) h).acting h [0])) hroom
  change execPost h a b s = _
  simp only [execPost, onDev]
  rw [Dev.lanesOut_ok _ _ _ _ _ _ _ hpass]
  simp only [hfit]
  rw [Dev.afterRelease_of_none _ howes, Dev.postTasks, List.foldl_map, List.foldl_map]
  rfl

/-- Settles O16. The order of a record's checks is the model's (log 49); the statement asks that none fails. -/
theorem postQueuesTasks : Obligations.PostQueuesTasks := fun _ _ _ _ hp hroom => exec_post hp hroom

end Sys2Proof.Machine

/-! SUPPORT. Which threads the machine holds: what the operations around a thread that ends keep of it, and EXIT (R76, R368). -/

namespace Sys2Proof.Machine

/-- The threads of the machine, by uid. -/
def Dev.uids (d : Dev) : List Nat := d.threads.map Thread.uid

theorem Dev.uids_congr {d e : Dev} (h : d.threads = e.threads) : d.uids = e.uids := congrArg (List.map Thread.uid) h

theorem Dev.uids_mapThreads (d : Dev) (p : Thread → Bool) {f : Thread → Thread} (hf : ∀ t, (f t).uid = t.uid) :
    (d.mapThreads p f).uids = d.uids := by
  unfold Dev.uids
  rw [Dev.mapThreads_threads, List.map_map]
  refine List.map_congr_left fun t _ => ?_
  simp only [Function.comp_apply]
  split
  · exact hf t
  · rfl

/-- What each step of a fold keeps, the fold keeps. -/
theorem Dev.foldl_keeps {α β : Type} {g : Dev → β} {f : Dev → α → Dev} (hf : ∀ d a, g (f d a) = g d) (l : List α) (d : Dev) :
    g (l.foldl f d) = g d := by
  induction l generalizing d with
  | nil => rfl
  | cons a l ih => rw [List.foldl_cons, ih, hf]

/-! ### Memory and error records keep the threads -/

@[simp] theorem Dev.cowIn_threads (d : Dev) (slot : Nat) (u : UnitId) (prio : Nat) : (d.cowIn slot u prio).threads = d.threads := by
  unfold Dev.cowIn
  split
  · rfl
  · split
    · exact Dev.mapCtx_threads _ _ _
    · split
      · rfl
      · exact Dev.mapCtx_threads _ _ _

@[simp] theorem Dev.cow_threads (d : Dev) (u : UnitId) (prio : Nat) : (d.cow u prio).threads = d.threads :=
  Dev.foldl_keeps (g := Dev.threads) (fun d e => by split <;> simp) _ _

@[simp] theorem Dev.store_threads (d : Dev) (hidden : List Nat) (pa : Nat) (bs : List Byte) (psn : Bool) :
    (d.store hidden pa bs psn).threads = d.threads := by
  unfold Dev.store
  split
  · rfl
  · refine Dev.foldl_keeps (g := Dev.threads) (fun d k => ?_) _ d
    rfl

@[simp] theorem Dev.writePhys_threads (d : Dev) (w : Writer) (pa : Nat) (bs : List Byte) (psn : Bool) :
    (d.writePhys w pa bs psn).threads = d.threads :=
  (Dev.store_threads _ _ _ _ _).trans (Dev.foldl_keeps (g := Dev.threads) (fun d _ => Dev.cow_threads d _ _) _ _)

@[simp] theorem Dev.putRecord_threads (d : Dev) (slot : Nat) (c : Ctx) (r : Rec) : (d.putRecord slot c r).threads = d.threads := by
  unfold Dev.putRecord
  rw [Dev.mapCtx_threads]
  split
  · exact Dev.writePhys_threads _ _ _ _ _
  · rfl

@[simp] theorem Dev.flushDropped_threads (d : Dev) (slot : Nat) : (d.flushDropped slot).threads = d.threads := by
  unfold Dev.flushDropped
  split
  · rfl
  · split <;> simp

@[simp] theorem Dev.ctxRecord_threads (d : Dev) (slot : Nat) (r : Rec) : (d.ctxRecord slot r).threads = d.threads := by
  unfold Dev.ctxRecord
  simp only
  split
  · exact Dev.flushDropped_threads _ _
  · split <;> simp

@[simp] theorem Dev.record_threads (d : Dev) (r : Rec) : (d.record r).threads = d.threads := by
  unfold Dev.record
  split
  · rfl
  · exact Dev.ctxRecord_threads _ _ _

@[simp] theorem Dev.note_threads (d : Dev) (who : Who) (c : Cause) (x : Detail) : (d.note who c x).threads = d.threads :=
  Dev.record_threads _ _

@[simp] theorem Dev.timerLost_threads (d : Dev) (t : Thread) : (d.timerLost t).threads = d.threads := by
  unfold Dev.timerLost
  split
  · split
    · rfl
    · exact Dev.record_threads _ _
  · rfl

@[simp] theorem Dev.endFars_threads (d : Dev) (core u : Nat) : (d.endFars core u).threads = d.threads := by
  unfold Dev.endFars
  split <;> simp

@[simp] theorem Dev.dropPriv_threads (d : Dev) (t : Thread) : (d.dropPriv t).threads = d.threads := by
  unfold Dev.dropPriv
  simp only
  split
  · rfl
  · split
    · rfl
    · refine Eq.trans (Dev.foldl_keeps (g := Dev.threads) (fun d e => ?_) _ _) (Dev.mapCtx_threads _ _ _)
      rfl

@[simp] theorem Dev.passHome_threads (d : Dev) (core ctx lid chunk : Nat) : (d.passHome core ctx lid chunk).threads = d.threads :=
  Dev.foldl_keeps (g := Dev.threads) (fun d e => by
    split
    · split <;> simp
    · rfl) _ _

@[simp] theorem Dev.haltCheck_threads (d : Dev) (core : Nat) : (d.haltCheck core).threads = d.threads := by
  unfold Dev.haltCheck
  simp only
  split <;> rfl

@[simp] theorem Dev.chunkGone_threads (d : Dev) (c : Chunk) : (d.chunkGone c).threads = d.threads := by
  unfold Dev.chunkGone
  simp only
  rw [Dev.haltCheck_threads]
  split
  · split <;> rfl
  · rfl

/-! ### Barrier objects, row slots and gangs keep which threads there are -/

@[simp] theorem Thread.woken_uid (t : Thread) (now : Nat) : (t.woken now).uid = t.uid := rfl

@[simp] theorem Dev.mapBinding_threads (d : Dev) (l : ObjLoc) (f : Binding → Option Binding) : (d.mapBinding l f).threads = d.threads := by
  unfold Dev.mapBinding
  split <;> rfl

theorem Dev.wakeBarrier_uids (d : Dev) (l : ObjLoc) (err : Bool) : (d.wakeBarrier l err).uids = d.uids := by
  unfold Dev.wakeBarrier
  refine (Dev.uids_mapThreads _ _ fun t => ?_).trans (Dev.uids_congr rfl)
  split
  · split <;> simp
  · rfl

theorem Dev.flipObj_uids (d : Dev) (l : ObjLoc) (o : Obj) : (d.flipObj l o).uids = d.uids := by
  unfold Dev.flipObj
  exact (Dev.wakeBarrier_uids _ _ _).trans (Dev.uids_congr (Dev.mapBinding_threads _ _ _))

theorem Dev.settle_uids (d : Dev) (l : ObjLoc) (o : Obj) (who : Who) : (d.settle l o who).uids = d.uids := by
  unfold Dev.settle
  split
  · rfl
  · split
    · split
      · exact Dev.flipObj_uids _ _ _
      · split
        · exact (Dev.uids_congr (Dev.note_threads _ _ _ _)).trans (Dev.flipObj_uids _ _ _)
        · rfl
    · rfl

theorem Dev.unbindRank_uids (d : Dev) (ctx : Nat) (b : Binding) (r : Nat) (who : Who) : (d.unbindRank ctx b r who).uids = d.uids := by
  unfold Dev.unbindRank
  simp only
  split
  · split
    · exact Dev.uids_congr (Dev.mapBinding_threads _ _ _)
    · split <;> exact (Dev.settle_uids _ _ _ _).trans (Dev.uids_congr (Dev.mapBinding_threads _ _ _))
  · rfl

theorem Dev.wakeRow_uids (d : Dev) (core slot act : Nat) (ready : Bool) : (d.wakeRow core slot act ready).uids = d.uids := by
  unfold Dev.wakeRow
  refine Dev.uids_mapThreads _ _ fun t => ?_
  split
  · split <;> simp
  · rfl

@[simp] theorem Dev.rewriteRow_threads (d : Dev) (pa : Nat) : (d.rewriteRow pa).threads = d.threads := by
  unfold Dev.rewriteRow
  split <;> rfl

theorem Dev.closeSlot_uids (d : Dev) (core k : Nat) : (d.closeSlot core k).uids = d.uids := by
  unfold Dev.closeSlot
  split
  · rfl
  · split
    · rfl
    · rfl
    · simp only
      split
      · exact (Dev.wakeRow_uids _ _ _ _ _).trans (Dev.uids_congr (Dev.rewriteRow_threads _ _))
      · exact Dev.uids_congr (Dev.rewriteRow_threads _ _)

theorem Dev.dropSlot_uids (d : Dev) (core k : Nat) : (d.dropSlot core k).uids = d.uids := by
  unfold Dev.dropSlot
  split
  · rfl
  · exact Dev.closeSlot_uids _ _ _

theorem Dev.releaseGang_uids (d : Dev) (core k : Nat) : (d.releaseGang core k).uids = d.uids := by
  unfold Dev.releaseGang
  refine (Dev.uids_congr (Dev.mapCore_threads _ _ _)).trans (Dev.foldl_keeps (g := Dev.uids) (fun d i => ?_) _ d)
  split
  · split
    · exact Dev.dropSlot_uids _ _ _
    · rfl
  · rfl

theorem Dev.unbindAll_uids (d : Dev) (g : Gang) : (d.unbindAll g).uids = d.uids := by
  unfold Dev.unbindAll
  refine Dev.foldl_keeps (g := Dev.uids) (fun d b => ?_) _ d
  rfl

theorem Dev.freeGang_uids (d : Dev) (core k : Nat) : (d.freeGang core k).uids = d.uids := by
  unfold Dev.freeGang
  split
  · rfl
  · next g _ =>
    have hfreed : ∀ f, ((d.unbindAll g).mapGang core k f).uids = d.uids := fun f =>
      (Dev.uids_congr (Dev.mapGang_threads _ _ _ _)).trans (Dev.unbindAll_uids d g)
    simp only
    split
    · exact hfreed _
    · exact (Dev.releaseGang_uids _ _ _).trans (hfreed _)

theorem Dev.reopen_uids (d : Dev) (core k : Nat) (v : Rendezvous) : (d.reopen core k v).uids = d.uids := by
  unfold Dev.reopen
  simp only
  split
  · rfl
  · split
    · exact Dev.uids_mapThreads _ _ fun _ => rfl
    · exact (Dev.uids_congr (Dev.mapGang_threads _ _ _ _)).trans (Dev.uids_mapThreads _ _ fun _ => rfl)

theorem Dev.closeEmpty_uids (d : Dev) (core k : Nat) (g : Gang) : (d.closeEmpty core k g).uids = d.uids := by
  unfold Dev.closeEmpty
  split
  · split
    · exact (Dev.reopen_uids _ _ _ _).trans (Dev.uids_congr (Dev.mapGang_threads _ _ _ _))
    · rfl
  · rfl

theorem Dev.leaveGang_uids (d : Dev) (t : Thread) : (d.leaveGang t).uids = d.uids := by
  unfold Dev.leaveGang
  split
  · rfl
  · next k _ =>
    split
    · rfl
    · next g _ =>
      simp only
      generalize hleft : Dev.mapGang _ _ _ _ = e
      have huids : e.uids = d.uids := by
        rw [← hleft]
        exact (Dev.uids_congr (Dev.mapGang_threads _ _ _ _)).trans
          (Dev.foldl_keeps (g := Dev.uids) (fun d b => Dev.unbindRank_uids _ _ _ _ _) _ d)
      split
      · exact huids
      · split
        · exact (Dev.freeGang_uids _ _ _).trans huids
        · exact (Dev.closeEmpty_uids _ _ _ _).trans huids

/-! ### Threads that end -/

theorem Dev.thread?_eq_none_iff {d : Dev} {u : Nat} : d.thread? u = none ↔ u ∉ d.uids := by
  simp [Dev.thread?, Dev.uids]

/-- Ending a thread takes its uid, and no other, off the die. -/
theorem Dev.endThread_uids (d : Dev) (u : Nat) : (d.endThread u).uids = d.uids.filter (fun v => v ≠ u) := by
  unfold Dev.endThread
  split
  · next hnone =>
    have hgone : u ∉ d.uids := Dev.thread?_eq_none_iff.1 hnone
    exact (List.filter_eq_self.2 fun v hv => by
      have hne : v ≠ u := fun h => hgone (h ▸ hv)
      simp [hne]).symm
  · next t _ =>
    have hkept : (((((d.timerLost t).leaveGang t).endFars t.core u).dropPriv t).passTo [t] .host).uids = d.uids := calc
      _ = ((d.timerLost t).leaveGang t).uids := Dev.uids_congr ((Dev.dropPriv_threads _ _).trans (Dev.endFars_threads _ _ _))
      _ = (d.timerLost t).uids := Dev.leaveGang_uids _ _
      _ = d.uids := Dev.uids_congr (Dev.timerLost_threads _ _)
    have hgone : ∀ e : Dev, e.threads = (((((d.timerLost t).leaveGang t).endFars t.core u).dropPriv t).passTo [t] .host).threads.filter
        (fun x => x.uid ≠ u) → e.uids = d.uids.filter (fun v => v ≠ u) := fun e he => by
      rw [← hkept, Dev.uids, he, Dev.uids, List.filter_map]
      rfl
    simp only
    split
    · exact hgone _ rfl
    · split
      · exact hgone _ ((Dev.chunkGone_threads _ _).trans (Dev.passHome_threads _ _ _ _ _))
      · exact hgone _ (Dev.passHome_threads _ _ _ _ _)

/-- Of the threads that end one by one, each is gone, and every other thread stays. -/
theorem Dev.endThreads_uids (d : Dev) (us : List Nat) : (d.endThreads us).uids = d.uids.filter (fun v => v ∉ us) := by
  induction us generalizing d with
  | nil => simp [Dev.endThreads]
  | cons u us ih =>
    have hrest := ih (d.endThread u)
    rw [Dev.endThread_uids, List.filter_filter] at hrest
    refine hrest.trans (List.filter_congr fun v _ => ?_)
    simp [Bool.and_comm]

/-! ### EXIT (R76, R368) -/

/-- The threads of a group that end with some of it: those that act, each with its shadow. -/
theorem Dev.pairsOf_primaries (d : Dev) (act : List Thread) :
    d.pairsOf (primaries act) =
      d.members.filter (fun t => act.any (fun a => !a.shadow && (a.uid == t.uid || some a.uid == t.partner))) := by
  simp only [Dev.pairsOf, primaries, List.any_filter]

theorem exec_exit {h : Hd} {s : State} (hp : s.dev.AllPass (.exit h) h [0] false (fun e t => e.owes t = false))
    (hne : (s.dev.opened (.exit h) h).acting h [0] ≠ []) :
    let e := s.dev.opened (.exit h) h
    let ends := e.pairsOf (primaries (e.acting h [0]))
    exec (.exit h) s = .next { s with dev :=
      (e.retire (e.group.filter (fun u => !(ends.any (fun t => t.uid == u)))) h.yh).endThreads (ends.map Thread.uid) } := by
  intro e ends
  change execExit h s = _
  rw [execExit, onDev, Dev.lanes_ok _ _ _ _ _ _ (fun t ht => (hp t ht).1), if_neg hne,
    Dev.unlessOwn_of_none _ _ (fun t ht => (hp t (mem_of_mem_primaries ht)).2)]

/-- Settles O13: none of the operations around the end of a thread makes another one. -/
theorem exitEndsThreads : Obligations.ExitEndsThreads := by
  refine ⟨fun h s hp => ?_, fun d us u hu => ?_⟩
  · intro e ends hne
    have hends : e.pairsOf (primaries (e.acting h [0])) = ends := Dev.pairsOf_primaries _ _
    rw [← hends]
    exact exec_exit hp hne
  · rw [Dev.thread?_eq_none_iff, Dev.endThreads_uids]
    simp [hu]

end Sys2Proof.Machine

/-! SUPPORT. Launch records, leases, binding and the task queue: one lemma per case of each operation (R85 to R94, R333, R459). -/

namespace Sys2Proof.Machine

section
variable {d : Dev} {slot lid : Nat} {c : Ctx}

/-! ### Launch records (R88, R459) -/

/-- The footprint entries that a launch record counts. -/
def recordFps (raw : BitVec 512) (fps : List (BitVec 128)) : List Nat := (fps.take (bitsOf raw.toNat 144 7)).map BitVec.toNat

section
variable {raw : BitVec 512} {fps : List (BitVec 128)} {who : Submitter}

theorem Dev.recordIn_of_passes (hc : d.ctx? slot = some c) (hph : c.phase ≠ .empty)
    (hf : d.recordFlt c raw.toNat (recordFps raw fps) (who == .driver) = none) :
    d.recordIn slot raw fps who = { (d.mapCtx slot (fun c => { c with nextLid := c.nextLid + 1 })) with
      launches := d.launches ++ [launchOf slot c.nextLid raw.toNat (recordFps raw fps) who] } := by
  unfold recordFps at hf ⊢
  simp only [Dev.recordIn, hc, hph, if_false, hf, Dev.addLaunch]

theorem Dev.recordIn_of_fails {x : Cause} {a : W64} (hc : d.ctx? slot = some c) (hph : c.phase ≠ .empty)
    (hf : d.recordFlt c raw.toNat (recordFps raw fps) (who == .driver) = some (x, a)) :
    d.recordIn slot raw fps who = d.reject slot (BitVec.ofNat 64 raw.toNat) none x a c.part := by
  unfold recordFps at hf
  simp only [Dev.recordIn, hc, hph, if_false, hf]

end

/-- A doorbell delivers the records of a ring up to its tail. -/
theorem Dev.doorbell_of_ctx {tail : Nat} (hc : d.ctx? slot = some c) :
    d.doorbell c.part slot tail =
      let n := min (tail - c.head) c.ring.length
      (c.ring.take n).foldl (fun d r => d.recordIn slot r.1 r.2 .driver)
        (d.mapCtx slot (fun c => { c with ring := c.ring.drop n, head := c.head + n })) := by
  simp [Dev.doorbell, hc]

section
variable {s : State} {part : Nat} {bell : Doorbell}

/-- The module answers a doorbell while its link is up and it is ready (log 112). -/
theorem exec_doorbell_of_open (hup : s.host.linkUp = true ∧ s.host.ready = true)
    (hopen : ¬((s.dev.mode part).getLsbD 8 = true ∧ bell.ide = false)) :
    exec (.doorbellWrite part slot bell) s = onDev s (fun d => d.doorbell part slot bell.tail) := by
  change execDoorbellWrite part slot bell s = _
  have hin : ((s.dev.mode part).getLsbD 8 && !bell.ide) = false := by
    rw [Bool.eq_false_iff]
    simpa only [ne_eq, Bool.and_eq_true, Bool.not_eq_true'] using hopen
  simp only [execDoorbellWrite, HostSide.up, hup, hin, Bool.and_self, Bool.false_eq_true, if_true, if_false]

/-- Outside the IDE stream of a locked partition a doorbell is unsupported (answer 3, logs 111 and 112). -/
theorem exec_doorbell_of_locked (hup : s.host.linkUp = true ∧ s.host.ready = true)
    (hlocked : (s.dev.mode part).getLsbD 8 = true ∧ bell.ide = false) :
    exec (.doorbellWrite part slot bell) s = .next { s with host := { s.host with answer := 3 } } := by
  change execDoorbellWrite part slot bell s = _
  simp [execDoorbellWrite, HostSide.up, hup, hlocked]

end

/-! ### Leases (R90, R333) -/

section
variable {l : Launch} (hc : d.ctx? slot = some c) (hl : d.launch? slot lid = some l) (hph : c.phase = .running)

theorem Dev.leaseCheck_of_passes (hf : d.leaseFlt slot c l = none) : d.leaseCheck slot c l = (d, true) := by
  simp only [Dev.leaseCheck, hf]

theorem Dev.leaseCheck_of_fails {x : Cause} {a : W64} (hf : d.leaseFlt slot c l = some (x, a)) :
    d.leaseCheck slot c l =
      ((d.reject slot l.entry (some l.lid) x a c.part).mapLaunch slot l.lid (fun l => { l with state := .ended }), false) := by
  simp only [Dev.leaseCheck, hf]

include hc hl hph

theorem Dev.leaseStart_of_passes (hst : l.state = .queued)
    (hf : (d.mapLaunch slot lid (fun l => { l with state := .leasing })).leaseFlt slot c l = none) :
    d.leaseStart slot lid = d.mapLaunch slot lid (fun l => { l with state := .leasing }) := by
  simp [Dev.leaseStart, hc, hl, hph, hst, Dev.leaseCheck_of_passes hf]

theorem Dev.leaseStart_of_fails {x : Cause} {a : W64} (hst : l.state = .queued) (hlid : l.lid = lid)
    (hf : (d.mapLaunch slot lid (fun l => { l with state := .leasing })).leaseFlt slot c l = some (x, a)) :
    d.leaseStart slot lid = ((d.mapLaunch slot lid (fun l => { l with state := .leasing })).reject slot l.entry (some l.lid) x a
      c.part).mapLaunch slot lid (fun l => { l with state := .ended }) := by
  simp [Dev.leaseStart, hc, hl, hph, hst, Dev.leaseCheck_of_fails hf, hlid]

theorem Dev.leaseHeld_of_passes (hst : l.state = .leasing) (hf : d.leaseFlt slot c l = none) (hres : d.allResident c l = true)
    (hrow : d.rowBlocked slot c l = false) :
    d.leaseHeld slot lid = ((d.dropRows c l).mapLaunch slot lid (fun l => { l with state := .ready })).fetchCode slot := by
  simp [Dev.leaseHeld, hc, hl, hph, hst, Dev.leaseCheck_of_passes hf, hres, hrow]

theorem Dev.leaseHeld_of_fails {x : Cause} {a : W64} (hst : l.state = .leasing) (hlid : l.lid = lid)
    (hf : d.leaseFlt slot c l = some (x, a)) :
    d.leaseHeld slot lid =
      (d.reject slot l.entry (some l.lid) x a c.part).mapLaunch slot lid (fun l => { l with state := .ended }) := by
  simp [Dev.leaseHeld, hc, hl, hph, hst, Dev.leaseCheck_of_fails hf, hlid]

end

theorem Dev.unsealPage_launches (d : Dev) (key : BitVec 256) (pa n : Nat) (bytes : List Byte) :
    (d.unsealPage key pa n bytes).launches = d.launches := by
  unfold Dev.unsealPage
  split <;> rfl

/-- A page becomes resident where no launch of its context waits for a lease. -/
theorem Dev.pageIn_of_absent {va : W64} {bytes : List Byte} {y : Leaf} (hc : d.ctx? slot = some c) (hy : d.leaf? c va.toNat = some y)
    (hp : y.p = false) (hw : ∀ l ∈ d.launches, l.ctx = slot → l.state ≠ .leasing) :
    d.pageIn slot va bytes =
      let size := 2 ^ (levelShift y.level).1
      let e := if y.conf ∧ y.owner = slot ∧ (d.mode c.part).getLsbD 1 = true then d.unsealPage c.memKey (y.pa - y.pa % size) size bytes else d
      e.setEntry y.at_ (y.entry.toNat + 32) := by
  have hnone : d.launches.filter (fun x => x.ctx == slot && x.state == .leasing) = [] := by
    rw [List.filter_eq_nil_iff]
    intro l hl hx
    obtain ⟨hctx, hst⟩ : l.ctx = slot ∧ l.state = .leasing := by simpa using hx
    exact hw l hl hctx hst
  have hkept : ∀ (p : Prop) [Decidable p] (n : Nat),
      ((if p then d.unsealPage c.memKey (y.pa - y.pa % n) n bytes else d).setEntry y.at_ (y.entry.toNat + 32)).launches =
        d.launches := fun p _ n => by
    split
    · exact Dev.unsealPage_launches _ _ _ _ _
    · rfl
  simp only [Dev.pageIn, hc, hy, hp, Dev.hostResidency, hkept, hnone, List.foldl_nil, Bool.false_eq_true, if_false,
    Bool.and_eq_true, decide_eq_true_eq, and_assoc]

/-! ### Binding (R93, R94) -/

section
variable {l : Launch} {chunk core k : Nat} {r : BindRec} (hc : d.ctx? slot = some c) (hl : d.launch? slot lid = some l)
include hc hl

theorem Dev.bind_of_recordFor (hw : (d.core core).waitSlot slot lid chunk = none) (hr : d.recordFor c l chunk core = some r)
    (hb : c.binds l = true) (hf : (d.core core).freeBind.isSome = true) :
    d.bind slot lid chunk core =
      ((d.putBind core r).mapLaunch slot lid (fun l =>
        { l with intents := l.intents.filter (fun i => ¬ (i.1 = core ∧ (BindRec.ofBits i.2 l.chunkSize).chunk = chunk)) })).bindWaiting
        slot lid r.chunk core := by
  simp [Dev.bind, hc, hl, hw, hr, hb, hf, beq_eq_decide]

theorem Dev.bind_of_fits (hw : (d.core core).waitSlot slot lid chunk = some (k, r)) (hn : d.bindsNow core r = true) :
    d.bind slot lid chunk core = d.bindChunk l r core k := by
  simp [Dev.bind, Dev.bindWaiting, hc, hl, hw, hn]

theorem Dev.bind_of_waits (hw : (d.core core).waitSlot slot lid chunk = some (k, r)) (hn : d.bindsNow core r = false) :
    d.bind slot lid chunk core = d := by
  simp [Dev.bind, Dev.bindWaiting, hc, hl, hw, hn]

end

/-- Under SCHED = 1 a bind record is noted where its core is of the partition, has a free slot and what the record asks for, and its
launch's lease is held (log 155). -/
theorem Dev.intent_of_launch {l : Launch} {core : Nat} {bits : BitVec 128} {ok : Bool} (hslot : bitsOf bits.toNat 8 6 = slot)
    (hlid : bitsOf bits.toNat 16 32 = lid) (hc : d.ctx? slot = some c) (hl : d.launch? slot lid = some l)
    (hok : (d.hostSched c.part && decide (d.partOf core = c.part) && l.state.holds && (d.core core).freeBind.isSome &&
      d.recFits core (BindRec.ofBits bits l.chunkSize)) = ok) :
    d.intent core bits =
      (if ok then d.mapLaunch slot lid (fun l => { l with intents := l.intents ++ [(core, bits)] }) else d, ok) := by
  simp only [Dev.intent, hslot, hlid, hc, hl, hok]
  cases ok <;> rfl

/-! ### The task queue (R85) -/

/-- The device when a task record has left its die's queue. -/
def Dev.untask (d : Dev) (k n : Nat) (t : Task) : Dev :=
  (d.logInput t.ctx (logKey 2 k) (BitVec.ofNat 64 n)).mapDie k (fun x => { x with tasks := x.tasks.eraseIdx n })

section
variable {k n : Nat} {t : Task} (ht : d.nextTask k = some (n, t))
include ht

theorem Dev.dequeue_of_gone (hc : (d.untask k n t).ctx? t.ctx = none) : d.dequeue k = d.untask k n t := by
  unfold Dev.untask at hc ⊢
  simp only [Dev.dequeue, ht, hc]

/-- A record of a context whose partition is unlocked is rejected as it is dequeued (log 107). -/
theorem Dev.dequeue_of_ctx (hc : (d.untask k n t).ctx? t.ctx = some c) :
    d.dequeue k =
      if (d.untask k n t).unlocked c then (d.untask k n t).reject t.ctx t.entry none cTdispUnlocked t.entry c.part
      else (d.untask k n t).addLaunch t.ctx (contLaunch t ((d.untask k n t).launch? t.ctx t.poster) k) := by
  unfold Dev.untask at hc ⊢
  simp only [Dev.dequeue, ht, hc]

end

end

/-- Settles O51: each event finds its context and its launch, and takes the case of its operation that the hypotheses name. The answers'
numbers (log 111), what a doorbell needs (log 112), the check of a dequeued record (log 107) and which bind records are refused (log 155)
are the model's choices. -/
theorem launchEvents : Obligations.LaunchEvents := by
  intro slot lid chunk core k part c l raw fps who page bell r is both fs flt turn refused rung locked
  refine ⟨?queued, fun x a => ?rejected, fun s hup hopen hc hpart => ?doorbell, fun s hup hl => exec_doorbell_of_locked hup hl,
    ?started, fun x a => ?startRefused, ?held, fun x a => ?heldRefused, fun y => ?resident, ?written, ?bound, ?waits, ?intent,
    fun i t => ?task⟩
  case queued => exact .of_onDev (fun _ => rfl) fun d ⟨hc, hph, hf⟩ => Dev.recordIn_of_passes hc hph hf
  case rejected => exact .of_onDev (fun _ => rfl) fun d ⟨hc, hph, hf⟩ => Dev.recordIn_of_fails hc hph hf
  case doorbell =>
    intro n d
    rw [exec_doorbell_of_open hup hopen, onDev, ← hpart, Dev.doorbell_of_ctx hc]
  case started =>
    exact .of_onDev (fun _ => rfl) fun d ⟨⟨hc, hl, hph⟩, hst, hf⟩ => Dev.leaseStart_of_passes hc hl hph hst hf
  case startRefused =>
    exact .of_onDev (fun _ => rfl) fun d ⟨⟨hc, hl, hph⟩, hst, hf, hlid⟩ => Dev.leaseStart_of_fails hc hl hph hst hlid hf
  case held =>
    exact .of_onDev (fun _ => rfl) fun d ⟨⟨hc, hl, hph⟩, hst, hf, hres, hrow⟩ => Dev.leaseHeld_of_passes hc hl hph hst hf hres hrow
  case heldRefused =>
    exact .of_onDev (fun _ => rfl) fun d ⟨⟨hc, hl, hph⟩, hst, hf, hlid⟩ => Dev.leaseHeld_of_fails hc hl hph hst hlid hf
  case resident => exact .of_onDev (fun _ => rfl) fun d ⟨hc, hy, hp, hw⟩ => Dev.pageIn_of_absent hc hy hp hw
  case written => exact .of_onDev (fun _ => rfl) fun d ⟨hc, hl, hw, hr, hb, hf⟩ => Dev.bind_of_recordFor hc hl hw hr hb hf
  case bound => exact .of_onDev (fun _ => rfl) fun d ⟨hc, hl, hw, hn⟩ => Dev.bind_of_fits hc hl hw hn
  case waits => exact .of_onDev (fun _ => rfl) fun d ⟨hc, hl, hw, hn⟩ => Dev.bind_of_waits hc hl hw hn
  case intent =>
    intro s head id_ rest bits hslot hlid hc hl ok
    change execBindIntent core head id_ rest s = _
    rw [execBindIntent, Dev.intent_of_launch (ok := ok) hslot hlid hc hl rfl]
    rfl
  case task =>
    refine .of_onDev (g := fun d => d.dequeue k) (fun _ => rfl) fun d ht => ?_
    cases hc : (d.untask k i t).ctx? t.ctx with
    | none =>
      rw [Dev.dequeue_of_gone ht hc]
      unfold Dev.untask at hc ⊢
      simp only [hc]
    | some c =>
      rw [Dev.dequeue_of_ctx ht hc]
      unfold Dev.untask at hc ⊢
      simp only [hc]

end Sys2Proof.Machine

/-! SUPPORT. Jobs and collectives: one lemma per case of each operation of an engine (R96, R191, R192, R196, R200 to R204, R355). -/

namespace Sys2Proof.Machine

section
variable {d : Dev} {k : Nat} {h : W32} {j : Job}

@[simp] theorem Dev.tick_ctx? (n : Nat) : d.tick.ctx? n = d.ctx? n := rfl

/-! ### Jobs of a queue -/

theorem Dev.handle_of_job? (hj : d.job? k h = some j) : j.handle = h := by
  simpa using List.find?_some hj

/-- A changed job that keeps its handle reads as changed. -/
theorem Dev.job?_mapJob {f : Job → Job} (hf : ∀ i, (f i).handle = i.handle) : (d.mapJob k h f).job? k h = (d.job? k h).map f := by
  have hjobs : ((d.mapJob k h f).die k).jobs = (d.die k).jobs.map (fun i => if i.handle = h then f i else i) := by
    simp only [Dev.mapJob, Dev.mapDie, Dev.die, mapAt, List.getElem?_modify_eq]
    cases d.dies[k]? <;> rfl
  have htest : ((fun i : Job => i.handle == h) ∘ fun i => if i.handle = h then f i else i) = fun i => i.handle == h := by
    funext i
    by_cases hi : i.handle = h <;> simp [hi, hf]
  rw [Dev.job?, hjobs, List.find?_map, htest]
  cases hj : (d.die k).jobs.find? (fun i => i.handle == h) with
  | none => simp [Dev.job?, hj]
  | some i => simp [Dev.job?, hj, Dev.handle_of_job? hj]

/-! ### The granted job (R96, R191, R354) -/

section
variable (hg : d.grantedJob k = some j) (hh : j.handle = h)
include hg hh

/-- The segment that a granted job performs is one of those not begun, whichever the model's choice is. -/
theorem Dev.jobSegment_of_todo (hc : j.kind.coll = false) (he : j.toEmit = false) (ht : j.todo ≠ []) :
    ∃ seg ∈ j.todo, d.jobSegment k h = (d.grantJob k j).tick.segment k j seg := by
  have hlt : Config.pick (d.grantJob k j).tick.ctr % j.todo.length < j.todo.length := Nat.mod_lt _ (List.length_pos_iff.2 ht)
  refine ⟨_, List.getElem_mem hlt, ?_⟩
  simp only [Dev.jobSegment, hg, hh, hc, he, ne_eq, not_true, Bool.false_eq_true, if_false, List.getElem?_eq_getElem hlt]

theorem Dev.jobSegment_of_toEmit (hc : j.kind.coll = false) (he : j.toEmit = true) :
    d.jobSegment k h = ((d.grantJob k j).tick.emitAll k j ((d.grantJob k j).tick.sealOut j)).endJob k h := by
  simp [Dev.jobSegment, hg, hh, hc, he]

variable {c : Ctx} (hk : j.kind.coll = true) (hc : (d.grantJob k j).ctx? j.ctx = some c)
include hk hc

theorem Dev.jobSegment_of_moves (hp : j.progress < j.resultLen) :
    d.jobSegment k h = ((d.grantJob k j).tick.mapJob k h (fun i => { i with state := .running })).dataStep k j c.vm := by
  simp [Dev.jobSegment, Dev.collGranted, hg, hh, hk, hc, hp]

theorem Dev.jobSegment_of_sums (hp : j.resultLen ≤ j.progress) :
    d.jobSegment k h = ((d.grantJob k j).tick.mapJob k h (fun i => { i with state := .running })).normStep k j c.vm := by
  simp [Dev.jobSegment, Dev.collGranted, hg, hh, hk, hc, Nat.not_lt.2 hp]

end

/-! ### Jobs that fail (R192) -/

theorem exec_jobFail {n : Nat} {x : Byte} {a : W64} (s : State) :
    exec (.jobFail k n x a) s =
      onDev s (fun d => (d.failJob k (BitVec.ofNat 32 n) x (jobDetail (BitVec.ofNat 32 n) a 3)).endJob k (BitVec.ofNat 32 n)) := rfl

section
variable (hj : d.job? k h = some j)
include hj

/-- A job that is no collective tells nobody that it fails. -/
theorem Dev.failJob_of_single {x : Cause} {z : Detail} (hf : j.failing = none) (hc : j.kind.coll = false) :
    d.failJob k h x z = d.mapJob k h (fun i => { i with failing := some (x, z) }) := by
  simp only [Dev.failJob, hj, hf, Dev.collNotice, hc, Option.isSome_none, Bool.false_and, Bool.false_eq_true, if_false]
  split <;> rfl

theorem Dev.failJob_of_failing {x : Cause} {z : Detail} (hf : j.failing.isSome = true) : d.failJob k h x z = d := by
  simp [Dev.failJob, hj, hf]

/-- A job with pieces on their way does not end. -/
theorem Dev.endJob_of_pend (hp : j.pend ≠ []) : d.endJob k h = d := by
  simp [Dev.endJob, hj, hp]

theorem Dev.endJob_of_failing {x : Cause} {z : Detail} (hp : j.pend = []) (hf : j.failing = some (x, z)) :
    d.endJob k h = d.abandonJob k j .failed x z := by
  simp [Dev.endJob, hj, hp, hf]

/-- The device in which a job has been told its failure has that job, failing. -/
theorem Dev.job?_told {x : Cause} {z : Detail} :
    (d.mapJob k h (fun i => { i with failing := some (x, z) })).job? k h = some { j with failing := some (x, z) } := by
  refine Eq.trans (Dev.job?_mapJob fun _ => rfl) ?_
  rw [hj, Option.map_some]

/-! ### Opens (R355) -/

section
variable {key : BitVec 256} {st ctr : Nat} (hc : j.crypt = 1) (ht : j.todo = []) (hp : j.pend = []) (he : j.emitted = false)
  (hf : j.failing = none) (hk : d.gcmOf j = some (key, st, ctr))
include hc ht hp he hf hk

theorem Dev.openCheck_of_tag {plain : List Byte} (hx : gcmOpen key st ctr ((j.staged.take (j.staged.length - 16)).map Prod.fst)
      ((j.staged.drop (j.staged.length - 16)).map Prod.fst) = some plain) :
    d.openCheck k h = (d.emitAll k j (plain.zip (j.staged.map Prod.snd))).endJob k h := by
  simp [Dev.openCheck, hj, hc, ht, hp, he, hf, hk, hx, -List.map_take, -List.map_drop]

theorem Dev.openCheck_of_badTag (hx : gcmOpen key st ctr ((j.staged.take (j.staged.length - 16)).map Prod.fst)
      ((j.staged.drop (j.staged.length - 16)).map Prod.fst) = none) :
    d.openCheck k h =
      ((d.emitAll k j (List.replicate (j.staged.length - 16) (0, false))).failJob k h cGcmTagFail (gcmDetail (cardBits j.card))).endJob
        k h := by
  simp [Dev.openCheck, hj, hc, ht, hp, he, hf, hk, hx, -List.map_take, -List.map_drop]

end

/-! ### Collectives (R200 to R204) -/

omit hj in
/-- No other member's card is missing from those that come with a step. -/
theorem any_notGiven_eq_false {others : List Nat} {peers : List (Nat × CardKey)} (hall : ∀ v ∈ others, ∃ e ∈ peers, e.1 = v) :
    others.any (fun v => !(peers.any (fun e => e.1 == v))) = false := by
  rw [List.any_eq_false]
  exact fun v hv => by simpa using hall v hv

section
variable {c : Ctx} {peers : List (Nat × CardKey)} {data : List (Nat × Buf)} {qs : List (Nat × W32 × Bool)}
  (hc : d.ctx? j.ctx = some c) (hr : d.collReady (d.die k) j = true)
include hc hr

section
variable {others : List Nat} (hm : j.matched = false) (ho : j.members.filter (fun v => v ≠ c.vm) = others)
include hm ho

theorem Dev.collStep_of_agree (hall : ∀ v ∈ others, (∃ e ∈ peers, e.1 = v) ∧ ∀ e ∈ peers, e.1 = v → e.2 = j.cardKey) :
    d.collStep k h peers data qs = d.mapJob k h (fun i => { i with matched := true, state := .running }) := by
  have hgiven := any_notGiven_eq_false fun v hv => (hall v hv).1
  have hsame : others.any (fun v => peers.any (fun e => e.1 == v && e.2 != j.cardKey)) = false := by
    rw [List.any_eq_false]
    intro v hv hany
    obtain ⟨e, he, hev⟩ := List.any_eq_true.1 hany
    obtain ⟨hev, hne⟩ : e.1 = v ∧ e.2 ≠ j.cardKey := by simpa using hev
    exact hne ((hall v hv).2 e he hev)
  simp only [Dev.collStep, hj, hc, hr, hm, ho, hgiven, hsame, Bool.not_true, Bool.not_false, Bool.false_eq_true, if_true, if_false]

theorem Dev.collStep_of_differ (hall : ∀ v ∈ others, ∃ e ∈ peers, e.1 = v)
    (hex : ∃ v ∈ others, ∃ e ∈ peers, e.1 = v ∧ e.2 ≠ j.cardKey) :
    d.collStep k h peers data qs = (d.failJob k h cJobCardInvalid (jobDetail h 0 3)).endJob k h := by
  have hgiven := any_notGiven_eq_false hall
  have hother : others.any (fun v => peers.any (fun e => e.1 == v && e.2 != j.cardKey)) = true := by
    obtain ⟨v, hv, e, he, hev, hne⟩ := hex
    exact List.any_eq_true.2 ⟨v, hv, List.any_eq_true.2 ⟨e, he, by simp [hev, hne]⟩⟩
  simp only [Dev.collStep, hj, hc, hr, hm, ho, hgiven, hother, Bool.not_true, Bool.not_false, Bool.false_eq_true, if_true, if_false]

end

/-- Once its cards match, a collective takes what the others give and performs a step where the engine grants it one. -/
theorem Dev.collStep_of_matched (hm : j.matched = true) :
    d.collStep k h peers data qs =
      (d.mapJob k h (fun i => { i with inbox := newest data i.inbox, inq := newest qs i.inq })).jobSegment k h := by
  simp [Dev.collStep, hj, hc, hr, hm]

end

section
variable (hk : j.kind.coll = true)
include hk

theorem Dev.collRetry_of_more (hr : j.retries < bitsOf (cardBits j.card) 285 3) :
    d.collRetry k h = d.mapJob k h (fun i => { i with retries := i.retries + 1 }) := by
  simp [Dev.collRetry, Dev.collAgain, hj, hk, hr, Dev.handle_of_job? hj]

theorem Dev.collRetry_of_spent (hr : bitsOf (cardBits j.card) 285 3 ≤ j.retries) :
    d.collRetry k h = (d.failJob k h cCollectiveRetryExhausted (jobDetail h 0 3)).endJob k h := by
  simp [Dev.collRetry, Dev.collAgain, hj, hk, Nat.not_lt.2 hr, Dev.handle_of_job? hj]

end

end

theorem exec_collectiveFailureNotice_of_coll {n : Nat} {s : State} (hj : s.dev.job? k (BitVec.ofNat 32 n) = some j)
    (hk : j.kind.coll = true) : exec (.collectiveFailureNotice k n) s = onDev s (fun d => d.memberLost k j) := by
  change execCollectiveFailureNotice k n s = _
  simp [execCollectiveFailureNotice, onDev, hj, hk]

/-- What is given stands before what other members gave earlier. -/
theorem newest_eq {α : Type} (new old : List (Nat × α)) :
    newest new old = new ++ old.filter (fun e => ∀ f ∈ new, f.1 ≠ e.1) := by
  rw [newest]
  congr 1
  refine List.filter_congr fun e _ => ?_
  rw [Bool.eq_iff_iff]
  simp

/-! ### Missed promises (R196) -/

theorem Dev.promiseMissed_of_missed {u : Nat} {t : Thread} {p : PReg} {x : W32} {n : W64} {r : VReg} {s q : Bool}
    (ht : d.thread? u = some t) (hw : t.wait = .job p x n r s q) (hm : d.missed t = true) :
    let us := (d.threads.filter (fun y => y.ctx == t.ctx && y.core == t.core && y.pc == t.pc && d.missed y)).map Thread.uid
    d.promiseMissed u = d.trap (d.threadsOf us) ⟨cPromiseMissed, promiseDetail x r s ((d.jobState t x).getD .queued), us⟩ := by
  simp [Dev.promiseMissed, ht, hw, hm]

end

/-- Settles O49: each event finds its job and takes the case of its operation that the hypotheses name. Which segment is performed is a
free choice; that the threads of one XWAIT miss their promise together (log 50), and that what the other members hold and give comes with
the step of a collective (log 62), are the model's choices. -/
theorem engineEvents : Obligations.EngineEvents := by
  intro k h u j c peers data qs hd is steps others lost granted takes
  refine ⟨fun s ⟨hg, hh⟩ hc he ht => ?segment, ?sealOut, ?moves, ?sums, fun x a => ?told, fun x a => ?fails, fun x a y z => ?ends,
    fun key st ctr => ?opens, fun t p x n r s q => ?missed, ?agree, ?differ, fun s t hs hm hn => ?takes, ?again, ?spent, ?lost⟩
  case segment =>
    obtain ⟨seg, hseg, heq⟩ := Dev.jobSegment_of_todo hg hh hc he ht
    exact ⟨seg, hseg, by rw [← heq]; rfl⟩
  case sealOut => exact .of_onDev (fun _ => rfl) fun d ⟨⟨hg, hh⟩, hc, he⟩ => Dev.jobSegment_of_toEmit hg hh hc he
  case moves => exact .of_onDev (fun _ => rfl) fun d ⟨⟨hg, hh⟩, hk, hp, hc⟩ => Dev.jobSegment_of_moves hg hh hk hc hp
  case sums => exact .of_onDev (fun _ => rfl) fun d ⟨⟨hg, hh⟩, hk, hp, hc⟩ => Dev.jobSegment_of_sums hg hh hk hc hp
  case told =>
    refine .of_onDev exec_jobFail fun d ⟨hj, hf, hp, hc⟩ => ?_
    rw [Dev.failJob_of_single hj hf hc, Dev.endJob_of_pend (Dev.job?_told hj) hp]
  case fails =>
    refine .of_onDev exec_jobFail fun d ⟨hj, hf, hp, hc⟩ => ?_
    rw [Dev.failJob_of_single hj hf hc, Dev.endJob_of_failing (Dev.job?_told hj) hp rfl]
  case ends =>
    refine .of_onDev exec_jobFail fun d ⟨hj, hf, hp⟩ => ?_
    rw [Dev.failJob_of_failing hj (by simp [hf]), Dev.endJob_of_failing hj hp hf]
  case opens =>
    refine .of_onDev (g := fun d => d.openCheck k hd) (fun _ => rfl) fun d ⟨hj, hc, ht, hp, he, hf, hk⟩ => ?_
    dsimp only
    split
    case h_1 plain hx => exact Dev.openCheck_of_tag hj hc ht hp he hf hk hx
    case h_2 hx => exact Dev.openCheck_of_badTag hj hc ht hp he hf hk hx
  case missed => exact .of_onDev (fun _ => rfl) fun d ⟨ht, hw, hm⟩ => Dev.promiseMissed_of_missed ht hw hm
  case agree => exact .of_onDev (fun _ => rfl) fun d ⟨⟨hj, hc, hr⟩, hm, hall⟩ => Dev.collStep_of_agree hj hc hr hm rfl hall
  case differ =>
    exact .of_onDev (fun _ => rfl) fun d ⟨⟨hj, hc, hr⟩, hm, hall, hex⟩ => Dev.collStep_of_differ hj hc hr hm rfl hall hex
  case takes =>
    obtain ⟨hj, hc, hr⟩ := hs
    have hgiven : s.dev.collStep k hd peers data qs = (takes s.dev).jobSegment k hd := by
      rw [Dev.collStep_of_matched hj hc hr hm]
      simp only [newest_eq, takes]
    rw [← hn]
    change Host.Outcome.next { s with dev := s.dev.collStep k hd peers data qs } = .next { s with dev := (takes s.dev).jobSegment k hd }
    rw [hgiven]
  case again => exact .of_onDev (fun _ => rfl) fun d ⟨hj, hk, hr⟩ => Dev.collRetry_of_more hj hk hr
  case spent => exact .of_onDev (fun _ => rfl) fun d ⟨hj, hk, hr⟩ => Dev.collRetry_of_spent hj hk hr
  case lost =>
    intro s ⟨hj, hk⟩
    rw [exec_collectiveFailureNotice_of_coll hj hk, onDev, Dev.memberLost, Dev.handle_of_job? hj]

end Sys2Proof.Machine

/-! SUPPORT. Pre-emption: one lemma per case of each operation (R98 to R100, R468). -/

namespace Sys2Proof.Machine

section
variable {d : Dev} {slot : Nat} {c : Ctx}

/-! ### The save begins (R98, R101, R442) -/

/-- The device when the launches of a context that run or drain are being saved. -/
def Dev.launchesHalt (d : Dev) (slot : Nat) : Dev :=
  { d with launches := d.launches.map (fun l =>
      if l.ctx = slot ∧ (l.state = .running ∨ l.state = .draining) then { l with state := .saving } else l) }

/-- The device when the launches of a context that run drain. -/
def Dev.launchesDrain (d : Dev) (slot : Nat) : Dev :=
  { d with launches := d.launches.map (fun l => if l.ctx = slot ∧ l.state = .running then { l with state := .draining } else l) }

theorem CtxPhase.issues_iff {p : CtxPhase} : p.issues = true ↔ p = .running ∨ ∃ n, p = .draining n := by
  cases p <;> simp [CtxPhase.issues]

section
variable (hc : d.ctx? slot = some c)
include hc

theorem Dev.startSave_of_issues (hp : c.phase.issues = true) :
    d.startSave slot =
      ((d.mapCtx slot (fun c => { c with phase := .saving d.pcyc, haltAt := c.regs.cyc })).launchesHalt slot).notices slot .halted := by
  simp [Dev.startSave, Dev.launchesHalt, hc, hp]

/-! ### Drains (R98) -/

theorem Dev.startDrain_of_straight (hp : c.phase = .running) (hs : ∃ l ∈ d.launches, l.ctx = slot ∧ d.skipsDrain l = true) :
    d.startDrain slot = d.startSave slot := by
  simp [Dev.startDrain, hc, hp, hs]

section
variable (hs : ¬ ∃ l ∈ d.launches, l.ctx = slot ∧ d.skipsDrain l = true)
include hs

theorem Dev.startDrain_of_running (hp : c.phase = .running) :
    d.startDrain slot = (d.mapCtx slot (fun x =>
      { x with phase := .draining (c.regs.cyc.toNat + d.drainTime c.part), haltAt := x.regs.cyc })).launchesDrain slot := by
  simp [Dev.startDrain, Dev.launchesDrain, hc, hp, hs]

theorem Dev.startDrain_of_recording {n e : Nat} (hp : c.phase = .recording n e none) :
    d.startDrain slot = (d.mapCtx slot (fun x =>
      { x with phase := .recording n e (some (c.regs.cyc.toNat + d.drainTime c.part)), haltAt := x.regs.cyc })).launchesDrain slot := by
  simp [Dev.startDrain, Dev.launchesDrain, hc, hp, hs]

end

theorem Dev.drainEnd_of_over {n : Nat} (hp : c.phase = .draining n) (hn : n ≤ c.regs.cyc.toNat) (hx : ∃ x ∈ d.chunks, x.ctx = slot) :
    d.drainEnd slot = (d.note (Who.nobody (some slot)) cDrainDeadline (cycDetail c.haltAt 1)).startSave slot := by
  simp [Dev.drainEnd, Dev.drainOver, Dev.hasChunks, hc, hp, hn, hx]

/-! ### The save ends (R98, R395) -/

section
variable {n : Nat} (hp : c.phase = .saving n) (hq : d.quiet slot c = true)
include hp hq

theorem Dev.finishSave_of_good (hb : d.saveBad slot = []) :
    let a := d.settleCtx slot
    let e := (a.evict slot).mapCtx slot (fun y => { y with phase := .saved, saved := some (a.capture slot ((a.ctx? slot).getD c)) })
    let f : Dev := { e with launches := e.launches.map (fun l => if l.ctx = slot ∧ l.state = .saving then { l with state := .saved } else l) }
    d.finishSave slot = f.note (Who.nobody (some slot)) cContextSaved (cycDetail c.haltAt 2) := by
  simp [Dev.finishSave, hc, hp, hq, hb]

theorem Dev.finishSave_of_bad (hb : d.saveBad slot ≠ []) :
    d.finishSave slot = ((d.saveBad slot).foldl (fun d w => d.eccNote none true (16 * w) 16) d).forceReset slot := by
  simp [Dev.finishSave, hc, hp, hq, hb]

end

theorem Dev.saveFails_of_late {n : Nat} (hp : c.phase = .saving n) (hn : n + 72000 ≤ d.pcyc)
    (ho : c.others = [] ∨ ∃ v ∈ c.others, c.haltSeen.contains v = false) : d.saveFails slot = d.forceReset slot := by
  have hl : d.saveLate c = true := by
    simp only [Dev.saveLate, hp, Ctx.allHalted]
    simpa [hn] using ho
  simp [Dev.saveFails, hc, hl]

/-! ### Resumption (R468) -/

section
variable {place : List (Nat × Nat)}

theorem Dev.resume_of_drained {n : Nat} (hp : c.phase = .draining n) (hx : ∀ x ∈ d.chunks, x.ctx ≠ slot) :
    d.resume slot place = d.goAgain slot := by
  have hnone : d.hasChunks slot = false := by simpa [Dev.hasChunks] using hx
  simp [Dev.resume, hc, hp, hnone]

theorem Dev.resume_of_exhausted (hp : c.phase = .exhausted) :
    d.resume slot place = (d.mapCtx slot (fun c => { c with rerun := false })).goAgain slot := by
  simp [Dev.resume, hc, hp]

theorem Dev.resume_of_placed {x : CtxImage} {e : Dev} (hp : c.phase = .saved) (hs : c.saved = some x) (hn : c.noResume = false)
    (hr : d.refilled c = true) (he : (d.strand slot x).1.placeImage slot (d.strand slot x).2 place = some e) :
    d.resume slot place = e.goAgain slot := by
  simp [Dev.resume, hc, hp, hs, hn, hr, he]

end

end

/-- An image that may not be resumed is discarded as soon as it is written, and its context reset (R395). -/
theorem Dev.saved_of_noResume {y : Ctx} (hy : (d.finishSave slot).ctx? slot = some y) (hn : y.phase = .saved ∧ y.noResume = true) :
    d.saved slot = (d.finishSave slot).forceReset slot := by
  simp [Dev.saved, hy, hn]

theorem Dev.saved_of_resumes (hn : ∀ y, (d.finishSave slot).ctx? slot = some y → ¬ (y.phase = .saved ∧ y.noResume = true)) :
    d.saved slot = d.finishSave slot := by
  cases hy : (d.finishSave slot).ctx? slot with
  | none => simp [Dev.saved, hy]
  | some y => simpa [Dev.saved, hy] using fun hp hr => absurd ⟨hp, hr⟩ (hn y hy)

/-! ### The watchdog (R100) -/

theorem Dev.watchdog_of_due {core k : Nat} {g : Gang} {v : Rendezvous} {t : Thread} (hg : d.gang? core k = some g) (hv : g.rdv = some v)
    (hdue : v.opened.toNat + 2 ^ 24 ≤ (d.cyc g.ctx).toNat) (ht : (v.arrived.filterMap d.thread?).head? = some t) :
    d.watchdog core k = d.endLaunchBy g.ctx g.lid { d.whoOf t with pc := v.pc } cWatchdog (cycDetail v.opened 0) := by
  simp only [Dev.watchdog, Dev.watchdogDue, hg, hv, hdue, ht, decide_true, if_true]

end

/-! ### A save that finds a bad unit (R98) -/

/-- A module whose context is being saved while shadow storage of the column of its core holds a word with two flipped bits. -/
def savingBadUnit : Dev :=
  { (fetchDev State.reset.dev 0).mapCtx 0 (fun c => { c with phase := .saving 0 }) with flips := [(0xFC0000, 0), (0xFC0000, 1)] }

/-- That state meets the hypotheses under which a save with a bad unit resets its context. -/
theorem savingBadUnit_resets :
    (savingBadUnit.ctx? 0).any (fun c => c.phase == .saving 0 && savingBadUnit.quiet 0 c) = true ∧ savingBadUnit.saveBad 0 ≠ [] ∧
      ∀ y, (((savingBadUnit.saveBad 0).foldl (fun d w => d.eccNote none true (16 * w) 16) savingBadUnit).forceReset 0).ctx? 0 = some y →
        y.phase ≠ .saved := by
  refine ⟨by decide +kernel, by decide +kernel, fun y hy => ?_⟩
  have hphase : ((((savingBadUnit.saveBad 0).foldl (fun d w => d.eccNote none true (16 * w) 16) savingBadUnit).forceReset 0).ctx?
      0).map Ctx.phase = some .empty := by decide +kernel
  rw [hy] at hphase
  simp [Option.some.inj hphase]

/-- Settles O52: each event finds its context in the phase that the hypotheses name, and takes that case of its operation. The level in
the detail of DRAIN_DEADLINE (log 84), the drain as a phase of its own and a resumption at any time (logs 89, 90), the launch that a
watchdog ends (log 37) and the phase of an exhausted re-run (log 97) are the model's choices. -/
theorem preemptionEvents : Obligations.PreemptionEvents := by
  intro slot core k c place is halts straight dl marks
  refine ⟨?straight, ?drain, fun n e => ?recording, fun n => ?deadline, ?save, fun n => ?saved, fun s n hc hp hq hb => ?badUnit,
    fun n => ?late, ?reset, fun n => ?drained, ?exhausted, fun s x e hc hp hs hn hr he => ?resumed, fun g v t => ?watchdog⟩
  case straight =>
    refine .of_onDev (g := fun d => d.startDrain slot) (fun _ => rfl) fun d ⟨hc, hp, hs⟩ => ?_
    exact (Dev.startDrain_of_straight hc hp hs).trans (Dev.startSave_of_issues hc (CtxPhase.issues_iff.2 (.inl hp)))
  case drain => exact .of_onDev (fun _ => rfl) fun d ⟨hc, hp, hs⟩ => Dev.startDrain_of_running hc hs hp
  case recording => exact .of_onDev (fun _ => rfl) fun d ⟨hc, hp, hs⟩ => Dev.startDrain_of_recording hc hs hp
  case deadline => exact .of_onDev (fun _ => rfl) fun d ⟨hc, hp, hn, hx⟩ => Dev.drainEnd_of_over hc hp hn hx
  case save => exact .of_onDev (fun _ => rfl) fun d ⟨hc, hp⟩ => Dev.startSave_of_issues hc (CtxPhase.issues_iff.2 hp)
  case saved =>
    refine .of_onDev (g := fun d => d.saved slot) (fun _ => rfl) fun d ⟨hc, hp, hq, hb⟩ => ?_
    have hsave := Dev.finishSave_of_good hc hp hq hb
    dsimp only at hsave ⊢
    rw [← hsave]
    split
    case h_1 y hy =>
      split
      case isTrue hn => exact Dev.saved_of_noResume hy hn
      case isFalse hn => exact Dev.saved_of_resumes fun z hz => Option.some.inj (hy.symm.trans hz) ▸ hn
    case h_2 hnone => exact Dev.saved_of_resumes fun z hz => absurd (hnone.symm.trans hz) (Option.some_ne_none z).symm
  case badUnit =>
    intro g hg
    have hsave := Dev.finishSave_of_bad hc hp hq hb
    have hkept : s.dev.saved slot = s.dev.finishSave slot :=
      Dev.saved_of_resumes (by rw [hsave]; exact fun y hy hn => hg y hy hn.1)
    rw [show exec (.contextSaved slot) s = onDev s (fun d => d.saved slot) from rfl, onDev, hkept, hsave]
  case late => exact .of_onDev (fun _ => rfl) fun d ⟨hc, hp, hn, ho⟩ => Dev.saveFails_of_late hc hp hn ho
  case reset => exact .of_onDev (fun _ => rfl) fun d _ => rfl
  case drained => exact .of_onDev (fun _ => rfl) fun d ⟨hc, hp, hx⟩ => Dev.resume_of_drained hc hp hx
  case exhausted => exact .of_onDev (fun _ => rfl) fun d ⟨hc, hp⟩ => Dev.resume_of_exhausted hc hp
  case resumed =>
    rw [show exec (.contextResume slot place) s = onDev s (fun d => d.resume slot place) from rfl, onDev,
      Dev.resume_of_placed hc hp hs hn hr he]
  case watchdog => exact .of_onDev (fun _ => rfl) fun d ⟨hg, hv, hdue, ht⟩ => Dev.watchdog_of_due hg hv hdue ht

end Sys2Proof.Machine

/-! SUPPORT. Snapshots: one lemma per case of each operation (R96, R420 to R422, R425, R428 to R430, R440, R444). -/

namespace Sys2Proof.Machine

/-- After a record step the context runs, or goes on with the drain that the step interrupted. -/
def CtxPhase.afterRecord : Option Nat → CtxPhase
  | some x => .draining x
  | none => .running

/-- An aborted snapshot keeps nothing of its part (R429). -/
def Snap.dropped (s : Snap) : Snap :=
  { s with state := .aborted, live := false, section_ := none, mem := [], psn := [], todo := [], staged := [], log := [], part := none, units := [] }

section
variable {d : Dev} {slot e : Nat} {c : Ctx}

/-- What a context becomes matters only for the context that is there. -/
theorem Dev.mapCtx_congr {f g : Ctx → Ctx} (hc : d.ctx? slot = some c) (hfg : f c = g c) : d.mapCtx slot f = d.mapCtx slot g := by
  simp [Dev.mapCtx, hc, hfg]

/-! ### The record step (R422, R424) -/

theorem Dev.recordReady_iff : d.recordReady slot = true ↔
    ∀ x ∈ d.cores, (∀ t ∈ x.2.bus, t.ctx ≠ slot) ∧ ∀ r ∈ x.2.slots, r.ctx = slot → r.state ≠ .opening := by
  simp only [Dev.recordReady, List.all_eq_true, Bool.and_eq_true, Bool.or_eq_true, decide_eq_true_eq, ne_eq]
  refine forall₂_congr fun x _ => and_congr_right fun _ => forall₂_congr fun r _ => ?_
  rw [or_comm, imp_iff_not_or]

section
variable (hc : d.ctx? slot = some c)
include hc

theorem Dev.recordStep_of_ready {n : Nat} {b : Option Nat} (hp : c.phase = .recording n e b) (he : c.regs.epoch ≠ e)
    (hr : d.recordReady slot = true) : d.recordStep slot e = d.recordPoint slot e := by
  simp [Dev.recordStep, hc, hp, he, hr]

theorem Dev.recordEnd_of_recorded {n : Nat} {b : Option Nat} (hp : c.phase = .recording n e b) (he : c.regs.epoch = e) :
    d.recordEnd slot = ((d.mapCtx slot (fun c => { c with phase := CtxPhase.afterRecord b })).sendMarkers slot e).drainChans slot := by
  cases b <;> simp [Dev.recordEnd, CtxPhase.afterRecord, hc, hp, he]

/-! ### Copies and the sweep (R420) -/

theorem Dev.copyUnit_of_needed {u : UnitId} {prio : Nat} (hn : c.needsCopy u = true) (hr : d.staging < stagingCap) :
    d.copyUnit slot u prio = d.cowIn slot u prio := by
  simp [Dev.copyUnit, hc, hn, hr]

theorem Dev.sweep_of_needed {u : UnitId} (hn : c.needsCopy u = true) : d.sweep slot u = d.copyUnit slot u 3 := by
  simp [Dev.sweep, hc, hn]

theorem Dev.sweep_of_notNeeded {u : UnitId} (hn : c.needsCopy u = false) :
    d.sweep slot u = d.mapCtx slot (fun c => { c with snaps := c.snaps.map (fun s => { s with todo := s.todo.filter (fun x => x ≠ u) }) }) := by
  simp [Dev.sweep, hc, hn]

/-! ### The host's stream (R430) -/

/-- The granule that the host acknowledges is one of those staged, whichever the model's choice is. -/
theorem Dev.hostAck_of_staged (hh : d.hostStream c = true) (hs : ∃ x ∈ c.snaps, x.staged ≠ []) :
    ∃ n, (∃ x ∈ c.snaps, ∃ y ∈ x.staged, y.num = n) ∧ d.hostAck slot = d.tick.freeGranule slot n := by
  have hmem : ∀ n, n ∈ ((c.snaps.flatMap Snap.staged).map Staged.num).eraseDups ↔ ∃ x ∈ c.snaps, ∃ y ∈ x.staged, y.num = n := fun n => by
    simp only [List.mem_eraseDups, List.mem_map, List.mem_flatMap]
    exact ⟨fun ⟨y, ⟨x, hx, hy⟩, hn⟩ => ⟨x, hx, y, hy, hn⟩, fun ⟨x, hx, y, hy, hn⟩ => ⟨y, ⟨x, hx, hy⟩, hn⟩⟩
  have hne : ((c.snaps.flatMap Snap.staged).map Staged.num).eraseDups ≠ [] := by
    obtain ⟨x, hx, hstaged⟩ := hs
    obtain ⟨y, hy⟩ := List.exists_mem_of_ne_nil _ hstaged
    exact List.ne_nil_of_mem ((hmem y.num).2 ⟨x, hx, y, hy, rfl⟩)
  have hlt := Nat.mod_lt (Config.pick d.ctr) (List.length_pos_iff.2 hne)
  refine ⟨_, (hmem _).1 (List.getElem_mem hlt), ?_⟩
  simp only [Dev.hostAck, hc, hh, if_true, List.getElem?_eq_getElem hlt]

/-! ### Parts and aborts (R428 to R430) -/

section
variable {s : Snap} {x : Image} (hs : (c.liveSnap e).bind (fun k => c.snaps[k]?) = some s) (hd : c.partDone s = true)
  (hn : s.sentNotice = false) (hx : c.imageOf s d.ctr (if d.hostStream c then none else c.areas[e % 2]?.getD none) = some x)
include hs hd hn hx

theorem Dev.partComplete_of_canWrite (hw : d.canWrite x = true) :
    d.partComplete slot e =
      (((d.tick.putImage x).mapCtx slot (fun c => c.mapSnap (e % 2) (fun s => { s with sentNotice := true, part := some x }))).notices slot
        (.completed e)).finishSnap slot e := by
  simp only [Dev.partComplete, hc, hs, hd, hn, hx, hw, Bool.not_true, Bool.not_false, Bool.and_true, Bool.false_eq_true, if_true, if_false]

theorem Dev.partComplete_of_notWritable (hw : d.canWrite x = false) : d.partComplete slot e = d.abortSnap slot e := by
  simp only [Dev.partComplete, hc, hs, hd, hn, hx, hw, Bool.not_false, Bool.and_true, if_true]

end

theorem Dev.abortSnap_of_live {n : Nat} (hl : c.liveSnap e = some n) :
    d.abortSnap slot e =
      (((d.mapCtx slot (fun c => c.mapSnap n Snap.dropped)).note (Who.nobody (some slot)) cSnapshotAborted (snapDetail e 0 0)).notices slot
        (.aborted e)).wakeSnap slot := by
  simp only [Dev.abortSnap, hc, hl]
  rfl

/-! ### Restores and re-runs (R440, R444) -/

theorem Dev.restore_of_placed {x : CtxImage} {f : Dev} {place : List (Nat × Nat)} (hs : c.saved = some x) (hm : d.mayRestore slot c = true)
    (hf : (d.strand slot x).1.placeRestored slot c (d.strand slot x).2 place = some f) :
    d.restore slot place =
      (((c.reload.map Image.log).getD []).foldl (fun d p => d.reinject slot p) (f.mapCtx slot (fun c => { c with reload := none }))).goAgain
        slot := by
  simp only [Dev.restore, hc, hs, hm, hf, if_true]

theorem Dev.rerunOver_of_spent (hr : c.rerun = true) (hl : c.rlog = []) (hp : c.phase.issues = true) :
    d.rerunOver slot = d.mapCtx slot (fun c => { c with phase := .exhausted, haltAt := c.regs.cyc }) :=
  Dev.mapCtx_congr hc (by simp [hr, hl, hp])

end

/-! ### Bora's stream (R96, R430) -/

/-- The device when copies that a grant passes over have counted it (R96). -/
def Dev.countPassed (d : Dev) (ns : List Nat) : Dev :=
  { d with ctxs := d.ctxs.map (fun (e : Nat × Ctx) => (e.1, { e.2 with snaps := e.2.snaps.map (fun s =>
      { s with staged := s.staged.map (fun y => if ns.contains y.num then { y with passed := y.passed + 1 } else y) }) })) }

theorem Dev.bora_of_next {x : Staged} (hn : d.boraNext = some (slot, x)) :
    d.bora slot = (d.countPassed ((passedBy (fun (e : Nat × Staged) => e.2.prio) d.boraQueue (slot, x)).map (fun e => e.2.num))).freeGranule
      slot x.num := by
  simp only [Dev.bora, hn, if_true]
  rfl

/-! ### Full staging (R421) -/

theorem Dev.stagingOver_of_room {u n : Nat} {t : Thread} (ht : d.thread? u = some t) (hw : t.wait = .staging n) (hr : d.staging < stagingCap)
    (hc : d.ctx? t.ctx = some c) :
    let ts := d.threads.filter (fun x => x.ctx == t.ctx && x.core == t.core && x.pc == t.pc && x.wait == .staging n)
    d.stagingOver u =
      (d.record { (Rec.plain (d.whoOf t) cSnapshotStagingFull (snapDetail c.regs.epoch 0 (d.pcyc - n))) with
        lanes := ts.map Thread.lane }).mapUids (ts.map Thread.uid) (fun x => { x with wait := .none, since := d.pcyc + 1 }) := by
  simp only [Dev.stagingOver, ht, Thread.stagedSince, hw, hr, hc, Option.bind_some, Option.map_some, Option.getD_some, if_true]
  rfl

theorem Dev.stagingAbort_of_late (ho : d.oldestSnap = some (slot, e)) (hl : d.stagingLate = true) :
    d.stagingAbort slot = (d.abortSnap slot e).unstall := by
  simp [Dev.stagingAbort, ho, hl]

end

/-- Settles O53: each event finds its context and its snapshot, and takes the case of its operation that the hypotheses name. Which granule
the host acknowledges is a free choice; that a re-run with its log exhausted is a phase without a CONTEXT_SAVED record (log 97), the waits
for staging (log 99), the one record of an abort (log 100) and the class of a copy for a write (log 143) are the model's choices. -/
theorem snapshotEvents : Obligations.SnapshotEvents := by
  intro slot e k u c place is room frees passes
  refine ⟨fun n b => ?record, fun n b => ?recordEnd, ?copy, ?sweep, ?skip, fun x => ?stream, fun s hc hh hs => ?hostAck, fun t n => ?staging,
    ?stagingAbort, fun s x => ?part, fun s x => ?noPart, fun n => ?abort, fun s x f hc hs hm hf => ?restore, ?rerun⟩
  case record =>
    exact .of_onDev (fun _ => rfl) fun d ⟨hc, hp, he, hr⟩ => Dev.recordStep_of_ready hc hp he (Dev.recordReady_iff.2 hr)
  case recordEnd =>
    refine .of_onDev (g := fun d => d.recordEnd slot) (fun _ => rfl) fun d ⟨hc, hp, he⟩ => ?_
    rw [Dev.recordEnd_of_recorded hc hp he]
    cases b <;> rfl
  case copy => exact .of_onDev (fun _ => rfl) fun d ⟨hc, hn, hr⟩ => Dev.copyUnit_of_needed hc hn hr
  case sweep =>
    exact .of_onDev (fun _ => rfl) fun d ⟨hc, hn, hr⟩ => (Dev.sweep_of_needed hc hn).trans (Dev.copyUnit_of_needed hc hn hr)
  case skip => exact .of_onDev (fun _ => rfl) fun d ⟨hc, hn⟩ => Dev.sweep_of_notNeeded hc hn
  case stream => exact .of_onDev (fun _ => rfl) fun d hn => Dev.bora_of_next hn
  case hostAck =>
    obtain ⟨n, hmem, hfree⟩ := Dev.hostAck_of_staged hc hh hs
    refine ⟨n, hmem, ?_⟩
    rw [show exec (.hostGranuleAck slot) s = onDev s (fun d => d.hostAck slot) from rfl, onDev, hfree]
    rfl
  case staging => exact .of_onDev (fun _ => rfl) fun d ⟨ht, hw, hr, hc⟩ => Dev.stagingOver_of_room ht hw hr hc
  case stagingAbort => exact .of_onDev (fun _ => rfl) fun d ⟨ho, hl⟩ => Dev.stagingAbort_of_late ho hl
  case part =>
    exact .of_onDev (fun _ => rfl) fun d ⟨hc, hs, hd, hn, hx, hw⟩ => Dev.partComplete_of_canWrite hc hs hd hn hx hw
  case noPart =>
    exact .of_onDev (fun _ => rfl) fun d ⟨hc, hs, hd, hn, hx, hw⟩ => Dev.partComplete_of_notWritable hc hs hd hn hx hw
  case abort =>
    refine .of_onDev (g := fun d => (d.abortSnap slot e).unstall) (fun _ => rfl) fun d ⟨hc, hl⟩ => ?_
    rw [Dev.abortSnap_of_live hc hl]
    rfl
  case restore =>
    rw [show exec (.restoreResume slot place) s = onDev s (fun d => d.restore slot place) from rfl, onDev,
      Dev.restore_of_placed hc hs hm hf]
  case rerun => exact .of_onDev (fun _ => rfl) fun d ⟨hc, hr, hl, hp⟩ => Dev.rerunOver_of_spent hc hr hl hp

end Sys2Proof.Machine


/-! SUPPORT. Earlier values of memory: what each operation on them keeps, and which of them a read may return (R107 to R118). -/

namespace Sys2Proof.Machine

/-! ### The numbers of earlier values -/

/-- Every earlier value has a number below that of the next write. -/
def Caches.Numbered (c : Caches) : Prop := ∀ o ∈ c.olds, o.num < c.next

/-- Two caches differ at most in what agents know and have read. -/
def Caches.SameOlds (c c' : Caches) : Prop := c'.olds = c.olds ∧ c'.next = c.next

section
variable {c c' : Caches}

theorem Caches.SameOlds.refl (c : Caches) : c.SameOlds c := ⟨rfl, rfl⟩

theorem Caches.SameOlds.trans {c'' : Caches} (h : c.SameOlds c') (h' : c'.SameOlds c'') : c.SameOlds c'' :=
  ⟨h'.1.trans h.1, h'.2.trans h.2⟩

theorem Caches.SameOlds.foldl {α : Type} {f : Caches → α → Caches} (hf : ∀ (c : Caches) (a : α), c.SameOlds (f c a)) (l : List α) (c : Caches) :
    c.SameOlds (l.foldl f c) :=
  List.foldlRecOn l f (.refl c) fun _ h a _ => h.trans (hf _ a)

theorem Caches.SameOlds.numbered (h : c.SameOlds c') (hc : c.Numbered) : c'.Numbered := by
  obtain ⟨holds, hnext⟩ := h
  rw [Numbered, holds, hnext]
  exact hc

end

section
variable (c : Caches) (as : List Agent) (a : Agent) (s : Sync) (ns : List Nat)

theorem Caches.sameOlds_learn : c.SameOlds (c.learn a ns) := by
  unfold learn
  split <;> exact ⟨rfl, rfl⟩

theorem Caches.sameOlds_put : c.SameOlds (c.put s ns) := ⟨rfl, rfl⟩

theorem Caches.sameOlds_passTo : c.SameOlds (c.passTo as a) := c.sameOlds_learn a _

theorem Caches.sameOlds_take : c.SameOlds (c.take as s) := .foldl (fun _ _ => sameOlds_learn _ _ _) as c

theorem Caches.sameOlds_leave : c.SameOlds (c.leave as s) := by
  unfold leave
  split
  · exact .refl c
  · exact c.sameOlds_put s _

theorem Caches.sameOlds_saw (word : Nat) (o : Option OldWord) : c.SameOlds (c.saw as word o) := by
  unfold saw
  split
  · exact .refl c
  · refine .foldl (fun _ _ => ?_) as c
    exact ⟨rfl, rfl⟩

theorem Caches.sameOlds_stamp (w : Writer) (bytes : List Nat) : c.SameOlds (c.stamp w bytes) := by
  unfold stamp
  split
  · exact .refl c
  · refine .foldl (fun c b => ?_) bytes c
    split
    · exact c.sameOlds_put (.byte b) _
    · split
      exacts [.refl c, c.sameOlds_put (.byte b) []]

end

theorem Caches.mem_of_before? {c : Caches} {w : Writer} {word : Nat} {x : OldWord} (hx : c.before? w word = some x) : x ∈ c.olds := by
  unfold before? at hx
  split at hx
  case h_1 o ho =>
    obtain rfl := Option.some.inj (Option.ite_none_right_eq_some.1 hx).2
    exact List.mem_of_mem_filter (List.mem_of_getLast? ho)
  case h_2 => cases hx

section
variable {c : Caches} (hc : c.Numbered)
include hc

/-- Fewer earlier values, under the same next number. -/
theorem Caches.numbered_of_subset {c' : Caches} (hsub : ∀ o ∈ c'.olds, o ∈ c.olds) (hnext : c'.next = c.next) : c'.Numbered :=
  fun o ho => hnext ▸ hc o (hsub o ho)

theorem Caches.numbered_wrote (w : Writer) (word : Nat) (mask : List Nat) (old : List Byte × Bool) (keep : Bool) :
    (c.wrote w word mask old keep).Numbered := by
  unfold wrote
  split
  case isTrue =>
    refine (sameOlds_stamp _ _ _).numbered fun o ho => ?_
    change o.num < c.next + 1
    obtain ho | rfl := by simpa using ho
    · exact (hc o ho).trans (Nat.lt_succ_self _)
    · exact Nat.lt_succ_self _
  case isFalse =>
    split
    · exact hc
    · exact (sameOlds_stamp _ _ _).numbered (numbered_of_subset hc (fun o ho => List.mem_of_mem_filter ho) rfl)

theorem Caches.numbered_drop (pa n : Nat) : (c.drop pa n).Numbered := by
  unfold drop
  split
  · exact hc
  · exact numbered_of_subset hc (fun o ho => List.mem_of_mem_filter ho) rfl

/-- The write that slips under the last one takes its number, and the last one the next number. -/
theorem Caches.numbered_slip (w : Writer) {x : OldWord} (hx : x ∈ c.olds) (mask : List Nat) (b : List Byte × Bool) :
    (c.slip w x mask b).Numbered := by
  intro o ho
  change o.num < c.next + 1
  simp only [slip, List.mem_append, List.mem_filter, List.mem_cons, List.not_mem_nil, or_false] at ho
  obtain ⟨ho, -⟩ | rfl | rfl := ho
  · exact (hc o ho).trans (Nat.lt_succ_self _)
  · exact (hc x hx).trans (Nat.lt_succ_self _)
  · exact Nat.lt_succ_self _

end

/-! ### What happens before (R110, R111) -/

section
variable (c : Caches) (as : List Agent) (a : Agent) (s : Sync) (ns : List Nat)

theorem Caches.past_singleton : c.past [a] = c.known a := by simp [past]

theorem Caches.mem_known_learn {n : Nat} : n ∈ (c.learn a ns).known a ↔ n ∈ c.known a ∨ n ∈ ns := by
  unfold learn
  split
  case isTrue h => simp [h]
  case isFalse => simp [known, List.mem_eraseDups]

theorem Caches.left_put : (c.put s ns).left s = ns := by
  unfold put left
  split
  case isTrue h => simp [h, List.find?_eq_none.2]
  case isFalse => simp

theorem Caches.mem_left_leave (h : c.olds ≠ []) {n : Nat} : n ∈ (c.leave as s).left s ↔ n ∈ c.left s ∨ n ∈ c.done as := by
  rw [leave, if_neg h, left_put, List.mem_eraseDups, List.mem_append]

theorem Caches.mem_past_passTo {n : Nat} (hn : n ∈ c.done as) : n ∈ (c.passTo as a).past [a] := by
  rw [past_singleton, passTo, mem_known_learn]
  exact .inr hn

/-- What a release left with a carrier is in the past of what acquires from it. -/
theorem Caches.mem_past_take_leave (h : c.olds ≠ []) {n : Nat} (hn : n ∈ c.done as) : n ∈ ((c.leave as s).take [a] s).past [a] := by
  rw [past_singleton]
  exact (mem_known_learn _ a _).2 (.inr ((c.mem_left_leave as s h).2 (.inr hn)))

end

/-! ### What a read may return (R114) -/

theorem OldWord.readable_singleton_iff (o : OldWord) (c : Caches) (a : Agent) :
    o.readable c [a] = true ↔ o.by_.contains a = false ∧ o.num ∉ c.past [a] ∧ c.from_ a o.word ≤ o.num := by
  have hby : o.by_.any [a].contains = o.by_.contains a := Bool.eq_iff_iff.2 (by simp)
  simp [OldWord.readable, hby, and_assoc]

section
variable {c : Caches} {a : Agent} {word : Nat} {o : OldWord}

/-- What a value that an agent may still read has met. -/
theorem Caches.of_mem_choices (ho : o ∈ c.choices [a] word) :
    o ∈ c.olds ∧ o.word = word ∧ o.by_.contains a = false ∧ o.num ∉ c.past [a] ∧ c.from_ a word ≤ o.num := by
  obtain ⟨holds, hword⟩ : o ∈ c.olds ∧ o.word = word := by simpa using List.takeWhile_subset _ ho
  have hread := (OldWord.readable_singleton_iff o c a).1 (List.mem_takeWhile_imp (p := fun x => OldWord.readable x c [a]) ho)
  exact ⟨holds, hword, hword ▸ hread⟩

/-- A release read by an acquire (R110): the acquire's values in the releasers' past are gone. -/
theorem Caches.num_not_mem_done_of_take_leave {as : List Agent} {s : Sync} (ho : o ∈ ((c.leave as s).take [a] s).choices [a] word) :
    o.num ∉ c.done as := by
  obtain ⟨holds, -, -, hpast, -⟩ := of_mem_choices ho
  have hsame := (c.sameOlds_leave as s).trans (sameOlds_take _ [a] s)
  exact fun hn => hpast (c.mem_past_take_leave as a s (List.ne_nil_of_mem (hsame.1 ▸ holds)) hn)

theorem Caches.num_not_mem_done_of_passTo {as : List Agent} (ho : o ∈ (c.passTo as a).choices [a] word) : o.num ∉ c.done as := by
  obtain ⟨-, -, -, hpast, -⟩ := of_mem_choices ho
  exact fun hn => hpast (c.mem_past_passTo as a hn)

/-- After a read of a word with earlier values, an agent reads on from the value it has read there. -/
theorem Caches.from_saw (ho : o ∈ c.olds) (hword : o.word = word) (x : Option OldWord) :
    (c.saw [a] word x).from_ a word = (x.map OldWord.num).getD c.next := by
  have hsome : ¬ (c.olds.all fun y => y.word != word) = true := by simpa using ⟨o, ho, hword⟩
  rw [saw, if_neg hsome]
  simp [from_]

/-- What an agent may still read after a read is no earlier than what that read returned. -/
theorem Caches.le_num_of_saw {x : Option OldWord} (ho : o ∈ (c.saw [a] word x).choices [a] word) :
    (x.map OldWord.num).getD c.next ≤ o.num := by
  obtain ⟨holds, hword, -, -, hfrom⟩ := of_mem_choices ho
  rw [(c.sameOlds_saw [a] word x).1] at holds
  rwa [from_saw holds hword] at hfrom

/-- Who has read memory's own value reads no earlier one any more. -/
theorem Caches.choices_saw_none (hc : c.Numbered) : (c.saw [a] word none).choices [a] word = [] := by
  refine List.eq_nil_iff_forall_not_mem.2 fun o ho => ?_
  have holds := (c.sameOlds_saw [a] word none).1 ▸ (of_mem_choices ho).1
  exact absurd (hc o holds) (Nat.not_lt.2 (le_num_of_saw ho))

end

/-! ### Loads (R107, R116, R118) -/

section
variable (d : Dev) {t : Thread} {s : Spot} {pa n : Nat}

theorem Dev.loadAt_fresh : d.loadAt true t s n = d.readAt t s n := rfl

theorem Dev.loadAt_of_pa (h : s.pa? = some pa) : d.loadAt false t s n = d.readAs [.thread t.gangUid] pa n := by
  simp [Dev.loadAt, h]

theorem Dev.readAt_of_pa (h : s.pa? = some pa) : d.readAt t s n = d.readPhys pa n := by
  cases s with
  | phys | mapped =>
    cases h
    rfl
  | priv | stash | remote | mappedFar => cases h

end

/-- A range within one 64-bit word, as the reads of memory cut it. -/
theorem maskedWords_of_word {pa n : Nat} (hn : 0 < n) (hw : pa % 8 + n ≤ 8) :
    maskedWords pa n = [(pa / 8, (upTo n).map (fun k => pa % 8 + k))] := by
  have hlast : (pa + n - 1) / 8 + 1 - pa / 8 = 1 := by omega
  have hbytes : (upTo 8).filter (fun k => decide (pa ≤ 8 * (pa / 8) + k) && decide (8 * (pa / 8) + k < pa + n)) =
      (upTo n).map (fun k => pa % 8 + k) := by
    refine List.Pairwise.eq_of_mem_iff (r := (· < ·)) (List.pairwise_lt_range.filter _)
      (List.pairwise_lt_range.map _ (by omega)) fun k => ?_
    simp only [List.mem_filter, List.mem_range, Bool.and_eq_true, decide_eq_true_eq, List.mem_map]
    exact ⟨fun h => ⟨k - pa % 8, by omega⟩, fun ⟨j, hj⟩ => by omega⟩
  simp [maskedWords, wordsOf, hn.ne', hlast, hbytes]

theorem Dev.mem_choices_of_staleFor {d : Dev} {as : List Agent} {word : Nat} {o : OldWord} (h : d.staleFor as word = some o) :
    o ∈ d.caches.choices as word := by
  unfold Dev.staleFor at h
  split at h
  case isTrue => cases h
  case isFalse =>
    split at h
    case h_1 => cases h
    case h_2 =>
      split at h
      case h_1 => cases h
      case h_2 => exact List.mem_of_getElem? h

/-- Bytes of one word as agents read them: memory's own, or those of an earlier value that they may still read. -/
theorem Dev.readAs_of_word (d : Dev) (as : List Agent) {pa n : Nat} (hn : 0 < n) (hw : pa % 8 + n ≤ 8) :
    d.readAs as pa n = d.readPhys pa n ∨
      ∃ o ∈ d.caches.choices as (pa / 8), d.readAs as pa n = ((upTo n).map (fun k => o.bytes[pa % 8 + k]?.getD 0), o.psn) := by
  by_cases holds : d.caches.olds = []
  · exact .inl (by simp [Dev.readAs, holds])
  · cases hs : d.staleFor as (pa / 8) with
    | some o =>
      refine .inr ⟨o, Dev.mem_choices_of_staleFor hs, ?_⟩
      simp [Dev.readAs, holds, maskedWords_of_word hn hw, hs]
    | none =>
      refine .inl ?_
      simp [Dev.readAs, holds, maskedWords_of_word hn hw, hs, List.head?_range, hn.ne', Nat.div_add_mod]

/-- Settles O24: no operation gives an earlier value a number that is still to come; a load of one word is memory's own value or one
of the choices; and each choice is outside the reader's past and no earlier than what it has read. Which of the choices a load returns is
the model's own (log 26). -/
theorem loadsReturnAllowedValues : Obligations.LoadsReturnAllowedValues := by
  refine ⟨⟨by simp [Caches.empty], fun c as a word pa n mask w b keep o s hc => ?numbers⟩, fun d t s n => ⟨d.loadAt_fresh, fun pa hs hn hw => ?load⟩,
    fun c a word hc => ⟨fun o ho => ?choice, fun as s o ho => Caches.num_not_mem_done_of_take_leave ho,
      fun as o ho => Caches.num_not_mem_done_of_passTo ho, Caches.choices_saw_none hc, fun o _ p hp => Caches.le_num_of_saw hp⟩⟩
  case numbers =>
    exact ⟨(c.sameOlds_saw as word o).numbered hc, (c.sameOlds_take as s).numbered hc, (c.sameOlds_leave as s).numbered hc,
      (c.sameOlds_passTo as a).numbered hc, Caches.numbered_wrote hc w word mask b keep, Caches.numbered_drop hc pa n,
      fun x hx => Caches.numbered_slip hc w (Caches.mem_of_before? hx) mask b⟩
  case load =>
    rw [d.loadAt_of_pa hs, d.readAt_of_pa hs]
    exact d.readAs_of_word _ hn hw
  case choice =>
    obtain ⟨-, hword, hby, hpast, -⟩ := Caches.of_mem_choices ho
    exact ⟨hword, hby, hpast⟩

end Sys2Proof.Machine

/-! SUPPORT. The drivers of the memory instructions where nothing is waited for, the loads and stores, and the atomics (R130 to R143,
R209). -/

namespace Sys2Proof.Machine

/-! ### What an instruction waits for -/

/-- Where no lane's own memory has to grow (R145), nobody waits. -/
theorem Dev.growWait_of_grown {d : Dev} {act : List Thread} {spot : Thread → Spot} {n : Nat} (body : Dev → Dev)
    (hg : ∀ t ∈ act, (spot t).mark n ≤ t.hwm) : d.growWait act spot n body = body d := by
  have hany : act.any (fun t => t.hwm < (spot t).mark n) = false := by
    rw [List.any_eq_false]
    intro t ht
    simpa using hg t ht
  simp [Dev.growWait, hany]

/-- An instruction takes entries that were granted to it, or that are free while no earlier one waits for them (R143). -/
theorem Dev.withOtt_of_room {d : Dev} {core : Nat} {act : List Thread} {need : Nat} (body : Dev → Dev)
    (hr : let e := d.claimGrants core (act.map Thread.uid)
      need = 0 ∨ (need ≤ e.ottFree core ∧ ((d.core core).ott.length ≠ (e.core core).ott.length ∨ e.ottWaiters core = []))) :
    d.withOtt core act need body = body (d.claimGrants core (act.map Thread.uid)) := by
  simp only [Dev.withOtt]
  rw [if_pos]
  simpa using hr

/-- Where no lane asks and no line is awaited, the instruction needs only its own entries. -/
theorem Dev.awaitFars_of_first {d : Dev} {core : Nat} {act : List Thread} {wr : Bool} {more : Nat} (body : Dev → Dev)
    (ha : ∀ t ∈ act, t.asked = none) : d.awaitFars core act [] [] wr more body = d.withOtt core act more body := by
  have hall : act.all (fun t => t.asked.isNone) = true := by
    rw [List.all_eq_true]
    intro t ht
    simp [ha t ht]
  simp [Dev.awaitFars, hall]

/-- Where an instruction has asked and every answer has come, it is performed. -/
theorem Dev.awaitFars_of_answered {d : Dev} {core : Nat} {act : List Thread} {asks : List (Thread × Far)} {ls : List Nat} {wr : Bool}
    {more : Nat} (body : Dev → Dev) (ha : ∃ t ∈ act, t.asked.isSome = true)
    (hr : ∀ x ∈ asks, ∃ a, d.replyOf x.1 = some a ∧ a.reply ≠ .none) :
    d.awaitFars core act asks ls wr more body = body (d.claimGrants core (act.map Thread.uid)) := by
  obtain ⟨t, ht, hasked⟩ := ha
  have hall : act.all (fun t => t.asked.isNone) = false := by
    rw [List.all_eq_false]
    exact ⟨t, ht, by simpa [Option.isSome_iff_ne_none] using hasked⟩
  have hopen : asks.filter (fun x => ((d.replyOf x.1).map (fun a => a.reply == .none)).getD true) = [] := by
    rw [List.filter_eq_nil_iff]
    intro x hx
    obtain ⟨a, hreply, hne⟩ := hr x hx
    simpa [hreply] using hne
  simp [Dev.awaitFars, hall, hopen]

/-- A lane's question is one of its own. -/
theorem Dev.fst_of_askOf {d : Dev} {m : MemOp} {t : Thread} {x : Thread × Far} (h : d.askOf m t = some x) : x.1 = t := by
  unfold Dev.askOf at h
  split at h
  case h_1 => exact (congrArg Prod.fst (Option.some.inj h)).symm
  case h_2 =>
    obtain ⟨f, -, rfl⟩ := Option.map_eq_some_iff.1 h
    rfl

/-- An instruction for which everything has come goes on with its grants claimed (R132, R133, R143). -/
theorem Dev.awaitFars_of_come {d : Dev} {m : MemOp} {ts : List Thread} (body : Dev → Dev) (hc : d.MemFirst m ts ∨ d.MemAnswered m ts) :
    d.awaitFars (coreOf ts) ts (ts.filterMap (d.askOf m)) (d.busLines m ts) m.want.wr (d.ottNeed (coreOf ts) m ts) body =
      body (d.claimGrants (coreOf ts) (ts.map Thread.uid)) := by
  rcases hc with ⟨hask, hbus, hroom⟩ | ⟨hasked, hreply⟩
  · have hnone : ts.filterMap (d.askOf m) = [] := List.filterMap_eq_nil_iff.2 (fun t ht => (hask t ht).2)
    rw [hnone, hbus, Dev.awaitFars_of_first _ (fun t ht => (hask t ht).1), Dev.withOtt_of_room _ hroom]
  · refine Dev.awaitFars_of_answered _ hasked (fun x hx => ?_)
    obtain ⟨t, ht, hx⟩ := List.mem_filterMap.1 hx
    rw [Dev.fst_of_askOf hx]
    exact hreply t ht x hx

/-! ### A memory instruction -/

/-- A memory instruction that waits for nothing performs its lanes. -/
theorem MemRuns.of {i : Instr} {h : Hd} {m : MemOp} (hx : ∀ s, exec i s = onDev s (fun d => d.memInstr i h m)) : MemRuns i h m := by
  intro s hp e ts ⟨hrel, hacq, hmat, hgrown, hroom, hturn, hcome⟩
  have hearlier : ∀ t ∈ ts, ((m.rel && e.owes t) || (m.acq && (e.core t.core).owesStores t.gangUid) ||
      e.matrixHolds t m.want.wr (e.laneSpot t m) m.want.n) = false := fun t ht => by
    have howes : (m.rel && e.owes t) = false := Bool.and_eq_false_imp.2 (fun hr => hrel hr t ht)
    have hstores : (m.acq && (e.core t.core).owesStores t.gangUid) = false := Bool.and_eq_false_imp.2 (fun ha => hacq ha t ht)
    rw [howes, hstores, hmat t ht]
    rfl
  have hstaged : ∀ t ∈ ts, (m.want.wr && e.stalls t (e.laneSpot t m)) = false := fun t ht =>
    Bool.and_eq_false_imp.2 (fun hw => hroom hw t ht)
  rw [hx, onDev, Dev.memInstr, Dev.lanesOut_ok _ _ _ _ _ _ _ hp]
  simp only
  rw [Dev.unless_of_none _ _ hearlier, Dev.growWait_of_grown _ hgrown, Dev.unless_of_none _ _ hstaged, Dev.inTurn_of _ hturn]
  exact congrArg (fun d => Host.Outcome.next { s with dev := d }) (Dev.awaitFars_of_come _ hcome)

/-! ### Loads, stores and atomics (R134 to R139, R209) -/

/-- Settles O21: every load and store is the shared memory instruction with its own operation. -/
theorem loadsAndStores : Obligations.LoadsAndStores := fun _ _ _ _ _ _ _ =>
  ⟨.of fun _ => rfl, .of fun _ => rfl, .of fun _ => rfl, .of fun _ => rfl, .of fun _ => rfl, .of fun _ => rfl⟩

/-- Settles O22: each is the shared memory instruction; the width of a word is eight times its bytes. -/
theorem atomics : Obligations.Atomics := by
  intro h o w r b m n want ops
  have hw : (if w then 64 else 32) = 8 * n := by cases w <;> rfl
  refine ⟨fun op => .of fun _ => ?_, .of fun _ => rfl, fun op => .of fun _ => rfl, fun op => .of fun _ => rfl⟩
  change execAtom h o op w r m b _ = _
  rw [execAtom, hw]
  rfl

end Sys2Proof.Machine

/-! SUPPORT. Instructions whose lanes are served one after another, where no lane fails: the stash map and the barrier instructions
(R149 to R159). -/

namespace Sys2Proof.Machine

/-! ### Lanes served one after another -/

/-- One lane in the fold of a serial instruction, which collects the faults of the lanes: its check in the state that the lanes before
it left, its fault as `say` reports it, and what it does where it has none. -/
def serialStep (chk : Dev → Thread → Option Flt) (say : Thread → Flt → Flt) (act : Dev → Thread → Dev) (x : Dev × List (Thread × Flt))
    (t : Thread) : Dev × List (Thread × Flt) :=
  match chk x.1 t with
  | some f => (x.1, x.2 ++ [(t, say t f)])
  | none => (act x.1 t, x.2)

/-- Where each lane passes its check, the fold collects no fault. -/
theorem foldl_serialStep {chk : Dev → Thread → Option Flt} {say : Thread → Flt → Flt} {act : Dev → Thread → Dev} {ts : List Thread} {d : Dev}
    {fs : List (Thread × Flt)} (hok : SerialOk (fun d t => chk d t = none) act d ts) :
    ts.foldl (serialStep chk say act) (d, fs) = (ts.foldl act d, fs) := by
  induction ts generalizing d with
  | nil => rfl
  | cons t ts ih =>
    obtain ⟨hpass, hrest⟩ := hok
    have hstep : serialStep chk say act (d, fs) t = (act d t, fs) := by simp only [serialStep, hpass]
    rw [List.foldl_cons, List.foldl_cons, hstep, ih hrest]

/-- Lanes that pass stronger checks pass. -/
theorem SerialOk.mono {ok ok' : Dev → Thread → Prop} {act : Dev → Thread → Dev} (himp : ∀ d t, ok d t → ok' d t) :
    ∀ {ts : List Thread} {d : Dev}, SerialOk ok act d ts → SerialOk ok' act d ts
  | [], _, _ => trivial
  | _ :: _, _, ⟨hok, hrest⟩ => ⟨himp _ _ hok, hrest.mono himp⟩

/-! ### The stash map (R149 to R152) -/

/-- SMAP serves its lanes in ascending order, each checked in the state that the lanes before it left (log 68). -/
theorem smap_runs (h : Hd) (n : BitVec 4) (w : Bool) (len : BitVec 10) (f : SmapForm) :
    let size := (len.toNat + 1) * 64
    SerialRuns (.smap h n w len f) h false (fun d t => [((d.env t).smapOps f).1, ((d.env t).smapOps f).2.1])
      (fun d t => t.poisonRun ((d.env t).smapRun f) = none)
      (fun d t => d.owesEntry t n.toNat = false ∧ d.matrixHolds t true (.stash ((d.env t).smapOps f).2.1) size = false)
      (fun e d t => d.smapFlt t n.toNat w size ((e.env t).smapOps f).1 ((e.env t).smapOps f).2.1 = none)
      (fun e d t => d.smapLane t n.toNat w size ((e.env t).smapOps f).1 ((e.env t).smapOps f).2.1)
      (fun d _ => d.done h) := by
  intro size s hp e ts hfree hok
  have hnone : ∀ t ∈ ts, (e.owesEntry t n.toNat || e.matrixHolds t true (.stash ((e.env t).smapOps f).2.1) size) = false := fun t ht => by
    obtain ⟨howes, hmat⟩ := hfree t ht
    rw [howes, hmat]
    rfl
  change execSmap h n w len f s = _
  rw [execSmap, onDev, Dev.lanesOut_ok _ _ _ _ _ _ _ hp, Dev.unless_of_none _ _ hnone]
  change Host.Outcome.next { s with dev := e.joinEnd h ts (ts.foldl (serialStep
      (fun d t => d.smapFlt t n.toNat w size ((e.env t).smapOps f).1 ((e.env t).smapOps f).2.1) (fun _ g => g)
      (fun d t => d.smapLane t n.toNat w size ((e.env t).smapOps f).1 ((e.env t).smapOps f).2.1)) (e, [])) } = _
  rw [foldl_serialStep hok]
  rfl

/-- SUNMAP ends the entry of each lane's chunk once its write-backs are acknowledged. -/
theorem exec_sunmap {h : Hd} {n : BitVec 4} {s : State}
    (hp : s.dev.AllPass (.sunmap h n) h [0] false (fun e t => e.owesEntry t n.toNat = false)) :
    let e := s.dev.opened (.sunmap h n) h
    exec (.sunmap h n) s = .next { s with dev := ((primaries (e.acting h [0])).foldl (fun d t => d.unmap t n.toNat) e).done h } := by
  intro e
  change execSunmap h n s = _
  rw [execSunmap, onDev, Dev.lanes_ok _ _ _ _ _ _ (fun t ht => (hp t ht).1),
    Dev.unless_of_none _ _ (fun t ht => (hp t (mem_of_mem_primaries ht)).2)]
  split
  · next hnone =>
    simp only [e, hnone]
    rfl
  · rfl

/-- SFLUSH keeps the entry, and changes nothing else. -/
theorem sflush_runs (h : Hd) (n : BitVec 4) :
    LaneRuns (.sflush h n) h [0] false (fun e t => e.owesEntry t n.toNat = false) (fun _ t => t) :=
  LaneRuns.of _ (fun _ t => t) (fun _ => rfl) (fun _ _ => rfl)
    (fun e hp => by
      rw [Dev.mapUids_id]
      exact Dev.unless_of_none _ _ (fun t ht => (hp t (mem_of_mem_primaries ht)).2))
    (fun _ _ _ _ _ => rfl)

/-- Settles O25: SMAP's fold collects no fault, SUNMAP's lanes follow one another, and SFLUSH only waits for what the entry owes. -/
theorem stashMap : Obligations.StashMap := fun h n w len f => ⟨smap_runs h n w len f, fun _ hp => exec_sunmap hp, sflush_runs h n⟩

/-! ### Barrier instructions -/

/-- The object of a lane. -/
def Dev.laneObj (d : Dev) (m : MemRef) (t : Thread) : ObjLoc := d.objLoc t (d.objOff t m)

section
variable {i : Instr} {h : Hd} {gangOp rel wr : Bool} {m : MemRef} {data : Env → List Nat} {chk : Dev → Thread → ObjLoc → Option Flt}
  {act : Dev → Thread → ObjLoc → Dev} {fin : Dev → List Thread → Dev}

/-- A barrier instruction whose lanes pass their checks and are in their turns serves them in ascending order (R158, log 68). -/
theorem Dev.barrier_of_serial {d : Dev}
    (hp : d.OutPass i h gangOp (fun d t => d.objOff t m :: data (d.env t)) (fun d t => d.barFlt t m = none)) :
    let e := d.opened i h
    let ts := primaries (e.acting h [0])
    (∀ t ∈ ts, (rel = true → e.owes t = false) ∧ e.matrixHolds t wr (.stash (e.objOff t m)) 16 = false) →
    e.InTurn ts (fun t => some (e.laneObj m t).place) →
    SerialOk (fun d t => chk d t (e.laneObj m t) = none) (fun d t => act d t (e.laneObj m t))
      (e.placed ts (fun t => some (e.laneObj m t).place)) ts →
    d.barrier i h gangOp rel wr m data chk act fin =
      fin (ts.foldl (fun d t => act d t (e.laneObj m t)) (e.placed ts (fun t => some (e.laneObj m t).place))) ts := by
  intro e ts hfree hturn hok
  have hnone : ∀ t ∈ ts, ((rel && e.owes t) || e.matrixHolds t wr (.stash (e.objOff t m)) 16) = false := fun t ht => by
    obtain ⟨hrel, hmat⟩ := hfree t ht
    rw [hmat, Bool.or_false]
    exact Bool.and_eq_false_imp.2 hrel
  rw [Dev.barrier, Dev.lanesOut_ok _ _ _ _ _ _ _ hp, Dev.unless_of_none _ _ hnone]
  refine (Dev.inTurn_of _ hturn).trans ?_
  change (match pickFail (ts.foldl (serialStep (fun d t => chk d t (e.laneObj m t))
      (fun t f => { f with detail := objDetail (e.laneObj m t) (e.obj (e.laneObj m t)) t.lane })
      (fun d t => act d t (e.laneObj m t))) (e.placed ts (fun t => some (e.laneObj m t).place), [])).2 with
    | some f => e.failGroup h ts f
    | none => fin (ts.foldl (serialStep (fun d t => chk d t (e.laneObj m t))
      (fun t f => { f with detail := objDetail (e.laneObj m t) (e.obj (e.laneObj m t)) t.lane })
      (fun d t => act d t (e.laneObj m t))) (e.placed ts (fun t => some (e.laneObj m t).place), [])).1 ts) = _
  rw [foldl_serialStep hok]
  rfl

/-- A barrier instruction that retires completes: `ok` is what its check asks of a lane. -/
def BarrierRuns (i : Instr) (h : Hd) (m : MemRef) (gangOp rel : Bool) (data : Env → List Nat) (ok : Dev → Thread → ObjLoc → Prop)
    (act : Dev → Thread → ObjLoc → Dev) : Prop :=
  TurnRuns i h gangOp (fun d t => d.objOff t m :: data (d.env t)) (fun d t => d.barFlt t m = none)
    (fun d t => (rel = true → d.owes t = false) ∧ d.matrixHolds t true (.stash (d.objOff t m)) 16 = false)
    (fun e t => some (e.laneObj m t).place) (fun e d t => ok d t (e.laneObj m t)) (fun e d t => act d t (e.laneObj m t))
    (fun d _ => d.done h)

theorem BarrierRuns.of {ok : Dev → Thread → ObjLoc → Prop}
    (hx : ∀ s, exec i s = onDev s (fun d => d.barrier i h gangOp rel true m data chk act (fun d _ => d.done h)))
    (hc : ∀ d t l, ok d t l → chk d t l = none) : BarrierRuns i h m gangOp rel data ok act := by
  intro s hp e ts hfree hturn hok
  rw [hx, onDev, Dev.barrier_of_serial hp hfree hturn (hok.mono fun d t => hc d t _)]

end

section
variable {d : Dev} {t : Thread} {l : ObjLoc}

theorem Dev.objFlt_of_false {bad : Bool} {ord : Nat} {c : Cause} (hb : bad = false) : d.objFlt t l bad ord c = none := flt_none hb

theorem Dev.objValid_of (hb : d.objBad l = false) : d.objValid t l = none := Dev.objFlt_of_false hb

theorem Dev.barvFlt_of {x : Nat}
    (hok : d.objBad l = false ∧ (d.obj l).thrT ≠ 0 ∧ (d.obj l).thrC ≠ (d.obj l).thrT ∧ (d.obj l).byT + x ≤ byteMax) :
    d.barvFlt t l x = none := by
  obtain ⟨hvalid, htarget, hleft, hbytes⟩ := hok
  have hmax : ¬ byteMax < (d.obj l).byT + x := Nat.not_lt.2 hbytes
  simp [Dev.barvFlt, Dev.objFlt, Dev.objValid_of hvalid, htarget, hleft, hmax]

end

/-- The bytes that an arrival adds to its object's expectation. -/
def Dev.arrivalBytes (d : Dev) (x : Option Src) (t : Thread) : Nat :=
  match x with
  | some r => (d.env t).count r
  | none => 0

theorem barv_runs (h : Hd) (m : MemRef) (x : Option Src) :
    BarrierRuns (.barv h m x) h m false true (fun e => match x with | some r => [e.count r] | none => [])
      (fun d t l => d.objBad l = false ∧ (d.obj l).thrT ≠ 0 ∧ (d.obj l).thrC ≠ (d.obj l).thrT ∧ (d.obj l).byT + d.arrivalBytes x t ≤ byteMax)
      (fun d t l => d.barvLane t l (d.arrivalBytes x t)) :=
  .of (fun _ => rfl) (fun _ _ _ => Dev.barvFlt_of)

/-- An expectation of a valid object, whose bytes do not pass the largest count. -/
theorem bexp_runs {i : Instr} {h : Hd} {m : MemRef} {n : Src} {past : Nat → Nat → Bool} {f : Nat → Nat → Nat}
    (hx : ∀ s, exec i s = onDev s (fun d => d.bexpOp i h m n past f)) :
    BarrierRuns i h m false false (fun e => [e.count n])
      (fun d t l => d.objBad l = false ∧ past (d.obj l).byT ((d.env t).count n) = false)
      (fun d t l => d.settle l { d.obj l with byT := f (d.obj l).byT ((d.env t).count n) } (d.whoOf t)) :=
  .of hx (fun _ _ _ ⟨hvalid, hpast⟩ => by simp [Dev.objValid_of hvalid, Dev.objFlt_of_false hpast])

theorem bdrop_runs (h : Hd) (m : MemRef) :
    BarrierRuns (.bdrop h m) h m false true (fun _ => [])
      (fun d _ l => d.objBad l = false ∧ (d.obj l).thrT ≠ 0 ∧ (d.obj l).thrC ≠ (d.obj l).thrT)
      (fun d t l => let d1 := (d.releasesTo t l).dropRank t l; d1.settle l { d1.obj l with thrT := (d1.obj l).thrT - 1 } (d.whoOf t)) :=
  .of (fun _ => rfl) (fun _ _ _ ⟨hvalid, htarget, hleft⟩ => by simp [Dev.objValid_of hvalid, Dev.objFlt, htarget, hleft])

/-- Settles O26: each is the shared barrier instruction with its own check and operation; that each lane is checked in the state that
the lanes before it left is log 68. -/
theorem barrierOperations : Obligations.BarrierOperations := by
  intro h m g b n x loc runs size count extra sets frees
  have binit : BarrierRuns (.binit h g m b) h m g false (fun e => [(e.read 1 (.v b false)).1])
      (fun d t l => d.binitFlt t g l (size d t) = none) (fun d t l => d.binitLane t g l (size d t)) :=
    .of (fun _ => rfl) (fun _ _ _ hok => hok)
  have bexp := bexp_runs (i := .bexp h m n) (past := fun t x => byteMax < t + x) (f := fun t x => t + x) (fun _ => rfl)
  have bexpMax := bexp_runs (i := .bexpMax h m n) (past := fun _ x => byteMax < x) (f := max) (fun _ => rfl)
  have baddb : BarrierRuns (.baddb h m n) h m false true (fun e => [e.count n]) (fun d _ l => d.objBad l = false)
      (fun d t l => d.byteArrive l (count d t) false [.thread t.gangUid] (d.whoOf t)) :=
    .of (fun _ => rfl) (fun _ _ _ hvalid => Dev.objValid_of hvalid)
  simp only [decide_eq_false_iff_not, Nat.not_lt] at bexp bexpMax
  exact ⟨binit, barv_runs h m x, bexp, bexpMax, baddb, bdrop_runs h m⟩

/-! ### Waiting (R159) -/

/-- A waiting instruction serves its lanes in ascending order, and the lanes that are guarded off retire (log 69). -/
theorem exec_barWait {i : Instr} {h : Hd} {p : PReg} {m : MemRef} {par : Env → Bool} {sleeps : Dev → Thread → Bool}
    {dl : Env → Option W64} (hx : ∀ s, exec i s = onDev s (fun d => d.barWait i h p m par sleeps dl)) {s : State}
    (hp : s.dev.OutPass i h false (fun d t => [d.objOff t m, b2n (par (d.env t))]) (fun d t => d.barFlt t m = none)) :
    let e := s.dev.opened i h
    let ts := primaries (e.acting h [0])
    let act := fun (d : Dev) (t : Thread) => d.waitLane h t p (e.laneObj m t) (par (d.env t)) (sleeps d t) (dl (d.env t))
    let from_ := e.placed ts (fun t => some (e.laneObj m t).place)
    let off := e.group.filter (fun u => !((s.dev.members.filter (fun t => t.active h [0])).any (fun t => t.uid == u)))
    (∀ t ∈ ts, e.matrixHolds t false (.stash (e.objOff t m)) 16 = false) → e.InTurn ts (fun t => some (e.laneObj m t).place) →
    SerialOk (fun d t => d.objBad (e.laneObj m t) = false) act from_ ts →
    exec i s = .next { s with dev := (ts.foldl act from_).retire off h.yh } := by
  intro e ts act from_ off hmat hturn hok
  have hserve := Dev.barrier_of_serial (rel := false) (wr := false) (data := fun e => [b2n (par e)]) (chk := fun d t l => d.objValid t l)
    (act := fun d t l => d.waitLane h t p l (par (d.env t)) (sleeps d t) (dl (d.env t))) (fin := fun d _ => d.retire off h.yh) hp
    (fun t ht => ⟨fun hrel => absurd hrel Bool.false_ne_true, hmat t ht⟩) hturn (hok.mono fun _ _ => Dev.objValid_of)
  have hgroup : off = s.dev.group.filter (fun u => !((s.dev.members.filter (fun t => t.active h [0])).any (fun t => t.uid == u))) := by
    simp only [off, e, Dev.opened_group]
  rw [hx, onDev, Dev.barWait, ← hgroup]
  exact congrArg (fun d => Host.Outcome.next { s with dev := d }) hserve

/-- Settles O28: each is the shared waiting instruction with its own parity and deadline. -/
theorem barrierWaits : Obligations.BarrierWaits := by
  intro h p m k kb dl loc runs
  have bwait : ∀ s, exec (.bwait h p m k) s = onDev s (fun d => d.barWait (.bwait h p m k) h p m (fun e => e.parity k) (fun _ _ => true)
    (fun _ => none)) := fun _ => rfl
  have btest : ∀ s, exec (.btest h p m k) s = onDev s (fun d => d.barWait (.btest h p m k) h p m (fun e => e.parity k) (fun _ _ => false)
    (fun _ => none)) := fun _ => rfl
  have bwaitt : ∀ s, exec (.bwaitt h p m kb dl) s = onDev s (fun d => d.barWait (.bwaitt h p m kb dl) h p m (fun _ => kb)
    (fun d t => d.cyc t.ctx < (d.env t).deadline dl) (fun e => some (e.deadline dl))) := fun _ => rfl
  exact ⟨fun s hp => exec_barWait bwait hp, fun s hp => exec_barWait btest hp, fun s hp => exec_barWait bwaitt hp⟩

end Sys2Proof.Machine

/-! SUPPORT. Packets, timeouts, freed entries and notices: one lemma per case of each operation (R143, R205, R211, R212, R359, R425 to
R429, R440, R442). -/

namespace Sys2Proof.Machine

/-- The channel from a member may still take a number: it lies within the window (R205). -/
def Ctx.ahead (c : Ctx) (seq vm : Nat) : Prop := (seq + 2 ^ 32 - (c.chan vm).recvSeq) % 2 ^ 32 < 1024

/-- A packet joins its channel's window, once, and the channel goes on. -/
def Dev.joined (d : Dev) (slot : Nat) (p : Packet) : Dev :=
  Dev.drainChan slot p.src 1025 (d.mapChan slot p.src (fun y =>
    { y with window := if y.window.any (fun z => z.seq == p.seq) then y.window else y.window ++ [p] }))

section
variable {d : Dev} {slot : Nat} {c : Ctx}

/-! ### Arrival (R205, R359) -/

/-- Outside sealed-fabric mode a packet is read as it comes. -/
theorem Ctx.opened_of_plain {p : Packet} (hc : c.conf = false ∨ c.members.length ≤ 1) : c.opened p = some p := by
  have hmode : c.sealedMode = false := by
    rcases hc with hconf | hone
    · simp [Ctx.sealedMode, hconf]
    · simp [Ctx.sealedMode, Nat.not_lt.2 hone]
  simp [Ctx.opened, hmode]

section
variable {r : Packet} (hc : d.ctx? r.slot = some c) (hdst : r.dst = c.vm) (hsrc : c.others.contains r.src = true)
  (hb : isNotice r.body = false)
include hc hdst hsrc hb

theorem Dev.receiveOpen_of_packet :
    d.receiveOpen r = if c.phase = .empty || window ≤ (r.seq + 2 ^ 32 - (c.chan r.src).recvSeq) % 2 ^ 32 then d else d.joined r.slot r := by
  have hto : (decide (r.dst ≠ c.vm) || !(c.others.contains r.src)) = false := by
    rw [hsrc, hdst]
    simp
  simp only [Dev.receiveOpen, hc, hto, Bool.false_eq_true, if_false]
  split
  case h_6 => rfl
  all_goals next hbody => simp [hbody, isNotice] at hb

theorem Dev.receiveOpen_of_ahead (hph : c.phase ≠ .empty) (ha : c.ahead r.seq r.src) : d.receiveOpen r = d.joined r.slot r := by
  have hin : ¬ window ≤ (r.seq + 2 ^ 32 - (c.chan r.src).recvSeq) % 2 ^ 32 := Nat.not_le.2 ha
  rw [Dev.receiveOpen_of_packet hc hdst hsrc hb, decide_eq_false hph, decide_eq_false hin]
  rfl

theorem Dev.receiveOpen_of_behind (ha : ¬ c.ahead r.seq r.src) : d.receiveOpen r = d := by
  have hout : window ≤ (r.seq + 2 ^ 32 - (c.chan r.src).recvSeq) % 2 ^ 32 := Nat.not_lt.1 ha
  rw [Dev.receiveOpen_of_packet hc hdst hsrc hb, decide_eq_true hout, Bool.or_true, if_pos rfl]

end

theorem Dev.receive_of_opened {p r : Packet} (hc : d.ctx? p.slot = some c) (hb : isNotice p.body = false) (ho : c.opened p = some r) :
    d.receive p = d.receiveOpen r := by
  simp [Dev.receive, hc, hb, ho]

/-- A packet whose tag fails is dropped. -/
theorem Dev.receive_of_badTag {p : Packet} (hc : d.ctx? p.slot = some c) (hb : isNotice p.body = false) (ho : c.opened p = none) :
    d.receive p = d := by
  simp [Dev.receive, hc, hb, ho]

/-! ### Retransmission and gaps (R211) -/

section
variable {dst seq : Nat} {q : Sent} (hc : d.ctx? slot = some c) (hq : (c.chan dst).sent.find? (fun y => y.pkt.seq == seq) = some q)
  (hl : q.last + 6000 ≤ d.pcyc)
include hc hq hl

/-- A packet that is due and has tries left is sent again. -/
theorem Dev.retransmit_of_tries (ht : q.tries < 7) :
    d.retransmit slot dst seq =
      let e := d.mapChan slot dst (fun y =>
        { y with sent := y.sent.map (fun z => if z.pkt.seq = seq then { z with tries := z.tries + 1, last := d.pcyc } else z) })
      { e with egress := d.egress ++ [⟨q.pkt, d.portNow, d.classOf q.origin q.job, 0⟩] } := by
  simp [Dev.retransmit, hc, hq, Dev.resendDue, hl, ht, Dev.queueOut, Dev.portNow, Dev.mapChan]

/-- One whose tries are spent is lost, and its number is announced as a gap. -/
theorem Dev.retransmit_of_spent (ht : 7 ≤ q.tries) :
    d.retransmit slot dst seq =
      ((d.mapChan slot dst (fun y => { y with sent := y.sent.filter (fun z => z.pkt.seq ≠ seq) })).lost slot q c.lossCause).notice slot dst
        (.gap seq) := by
  simp [Dev.retransmit, hc, hq, Dev.resendDue, hl, Nat.not_lt.2 ht]

end

theorem Dev.gapIn_of_ahead {src seq : Nat} (hc : d.ctx? slot = some c) (ha : c.ahead seq src) (hg : (c.chan src).gaps.contains seq = false) :
    d.gapIn slot src seq = Dev.drainChan slot src 1025 ((d.mapChan slot src (fun y => { y with gaps := y.gaps ++ [seq] })).note
      (Who.nobody (some slot)) cSequenceGap (farDetail seq src 0 0 false)) := by
  have hin : ¬ window ≤ (seq + 2 ^ 32 - (c.chan src).recvSeq) % 2 ^ 32 := Nat.not_le.2 ha
  simp only [Dev.gapIn, hc, hin, hg, decide_false, Bool.or_false, Bool.false_eq_true, if_false]
  rfl

/-! ### Timeouts and freed entries (R143, R212) -/

section
variable {core n : Nat} {x : OttEntry} (hx : (d.core core).ott.find? (fun y => y.idx == n) = some x)
include hx

theorem Dev.fabricTimeout_of_entry :
    d.fabricTimeout core n =
      (x.accs.filter (fun a => (a.acked.map (fun k => decide (k + 65536 ≤ d.pcyc))).getD false && a.reply == .none)).foldl (fun (d : Dev) a =>
        if a.posted then d.postedEnds a.ctx a.vm a.seq (some cFabricTimeout) else d.replied a.ctx a.vm a.tag (.lost cFabricTimeout)) d := by
  have hover : (fun a : OttAcc => a.overdue d.pcyc) =
      fun a => (a.acked.map (fun k => decide (k + 65536 ≤ d.pcyc))).getD false && a.reply == .none := by
    funext a
    cases ha : a.acked <;> simp [OttAcc.overdue, ha]
  simp only [Dev.fabricTimeout, hx, hover]

/-- An entry whose accesses have all completed is freed. -/
theorem Dev.ottEntryFree_of_complete (hg : x.granted = none) (ha : ∀ a ∈ x.accs, a.posted = true ∧ a.reply ≠ .none)
    (hh : ∀ l, x.here = some l → l.till ≤ d.pcyc) :
    d.ottEntryFree core n =
      ((d.mapCore core (fun c => { c with ott := c.ott.filter (fun y => y.idx ≠ n) })).grantAll core).wakeReleases core := by
  have hdone : x.complete d.pcyc = true := by
    have hline : (x.here.map (fun y => decide (y.till ≤ d.pcyc))).getD true = true := by
      cases hl : x.here with
      | none => rfl
      | some l => simpa using hh l hl
    simpa [OttEntry.complete, hg, hline] using ha
  simp only [Dev.ottEntryFree, hx, hdone, if_true]

end

/-! ### Notices (R428, R429, R440, R442) -/

theorem Dev.haltIn_of_new {src : Nat} (hc : d.ctx? slot = some c) (hs : c.haltSeen.contains src = false) :
    d.haltIn slot src = d.mapCtx slot (fun c => { c with haltSeen := c.haltSeen ++ [src] }) :=
  Dev.mapCtx_congr hc (by simp only [hs, Bool.false_eq_true, if_false])

theorem Dev.readyIn_of_new {src : Nat} {r : List Nat} (hc : d.ctx? slot = some c) (hp : c.phase = .restoring r)
    (hs : r.contains src = false) : d.readyIn slot src = d.mapCtx slot (fun c => { c with phase := .restoring (r ++ [src]) }) :=
  Dev.mapCtx_congr hc (by simp only [hp, hs, Bool.false_eq_true, if_false])

/-- Changes that agree on a colour's snapshot agree. -/
theorem Ctx.mapSnap_congr {k : Nat} {s : Snap} {f g : Snap → Snap} (hs : c.snaps[k]? = some s) (hfg : f s = g s) :
    c.mapSnap k f = c.mapSnap k g := by
  have hsnaps : mapAt c.snaps k f = mapAt c.snaps k g := by
    refine List.ext_getElem? fun n => ?_
    simp only [mapAt, List.getElem?_modify]
    by_cases hn : k = n
    · subst hn
      simp [hs, hfg]
    · simp [hn]
  simp only [Ctx.mapSnap, hsnaps]

theorem Dev.completedIn_of_new {src e k : Nat} {s : Snap} (hc : d.ctx? slot = some c) (hk : c.liveSnap e = some k)
    (hs : c.snaps[k]? = some s) (hn : s.notices.contains src = false) :
    d.completedIn slot src e =
      (d.mapCtx slot (fun c => c.mapSnap k (fun s => { s with notices := s.notices ++ [src] }))).finishSnap slot e := by
  have hnote : c.mapSnap k (fun s => { s with notices := if s.notices.contains src then s.notices else s.notices ++ [src] }) =
      c.mapSnap k (fun s => { s with notices := s.notices ++ [src] }) :=
    Ctx.mapSnap_congr hs (by simp only [hn, Bool.false_eq_true, if_false])
  simp only [Dev.completedIn, hc, hk]
  rw [Dev.mapCtx_congr (g := fun c => c.mapSnap k (fun s => { s with notices := s.notices ++ [src] })) hc hnote]

theorem Dev.abortedIn_of_live {e : Nat} (hc : d.ctx? slot = some c) (hl : (c.liveSnap e).isSome = true) :
    d.abortedIn slot e = d.abortSnap slot e := by
  simp only [Dev.abortedIn, hc, hl, if_true]

/-- The notice of an epoch that was never recorded here makes it one that is skipped (log 93). -/
theorem Dev.abortedIn_of_newer {e : Nat} (hc : d.ctx? slot = some c) (hl : c.liveSnap e = none) (hn : newer e c.regs.epoch = true) :
    d.abortedIn slot e = d.skipEpoch slot e := by
  simp [Dev.abortedIn, hc, hl, hn]

end

/-- Settles O50: each event finds its context, packet, entry or snapshot, and takes the case of its operation that the hypotheses name.
That the abort notice of an epoch never recorded here makes that epoch one that is skipped is the model's choice (log 93). -/
theorem fabricEvents : Obligations.FabricEvents := by
  intro slot core n src seq e p r c q x ahead plain opens joins marker cause late
  have hplain : ∀ b, plain b → isNotice b = false := by
    intro b hb
    unfold isNotice
    split
    case h_6 => rfl
    all_goals exact False.elim hb
  refine ⟨Ctx.opened_of_plain, ?arrives, ?dropped, ?badTag, ?marker, .of_onDev (fun _ => rfl) (fun _ _ => rfl), ?again, ?spent, ?gap,
    .of_onDev (fun _ => rfl) (fun _ _ => rfl), ?timeout, ?freed, ?halted, fun r => ?ready, fun k s => ?completed, ?aborted, ?skipped⟩
  case arrives =>
    refine .of_onDev (g := fun d => d.receive p) (fun _ => rfl) fun d ⟨hc, ⟨hb, ho, hslot, hbr, hdst, hsrc⟩, hp, hph, ha⟩ => ?_
    have hcr : d.ctx? r.slot = some c := by rw [hslot, ← hp, hc]
    rw [Dev.receive_of_opened hc (hplain _ hb) ho, Dev.receiveOpen_of_ahead hcr hdst hsrc (hplain _ hbr) hph ha, hslot]
    rfl
  case dropped =>
    refine .of_onDev (g := fun d => d.receive p) (fun _ => rfl) fun d ⟨hc, ⟨hb, ho, hslot, hbr, hdst, hsrc⟩, hp, ha⟩ => ?_
    have hcr : d.ctx? r.slot = some c := by rw [hslot, ← hp, hc]
    exact (Dev.receive_of_opened hc (hplain _ hb) ho).trans (Dev.receiveOpen_of_behind hcr hdst hsrc (hplain _ hbr) ha)
  case badTag => exact .of_onDev (g := fun d => d.receive p) (fun _ => rfl) fun d ⟨hc, hb, ho⟩ => Dev.receive_of_badTag hc (hplain _ hb) ho
  case marker =>
    refine .of_onDev (g := fun d => d.receiveOpen ⟨slot, src, ((d.ctx? slot).map Ctx.vm).getD 0, seq, e, 0, none, .rlx, .marker⟩)
      (fun _ => rfl) fun d ⟨hc, hsrc, hph, ha⟩ => ?_
    simp only [hc, Option.map_some, Option.getD_some]
    exact Dev.receiveOpen_of_ahead (r := marker) hc rfl hsrc rfl hph ha
  case again => exact .of_onDev (fun _ => rfl) fun d ⟨⟨hc, hq, hl⟩, ht⟩ => Dev.retransmit_of_tries hc hq hl ht
  case spent => exact .of_onDev (fun _ => rfl) fun d ⟨⟨hc, hq, hl⟩, ht⟩ => Dev.retransmit_of_spent hc hq hl ht
  case gap => exact .of_onDev (fun _ => rfl) fun d ⟨hc, ha, hg⟩ => Dev.gapIn_of_ahead hc ha hg
  case timeout => exact .of_onDev (fun _ => rfl) fun d hx => Dev.fabricTimeout_of_entry hx
  case freed => exact .of_onDev (fun _ => rfl) fun d ⟨hx, hg, ha, hh⟩ => Dev.ottEntryFree_of_complete hx hg ha hh
  case halted => exact .of_onDev (fun _ => rfl) fun d ⟨hc, hs⟩ => Dev.haltIn_of_new hc hs
  case ready => exact .of_onDev (fun _ => rfl) fun d ⟨hc, hp, hs⟩ => Dev.readyIn_of_new hc hp hs
  case completed => exact .of_onDev (fun _ => rfl) fun d ⟨hc, hk, hs, hn⟩ => Dev.completedIn_of_new hc hk hs hn
  case aborted => exact .of_onDev (fun _ => rfl) fun d ⟨hc, hl⟩ => Dev.abortedIn_of_live hc hl
  case skipped => exact .of_onDev (fun _ => rfl) fun d ⟨hc, hl, hn⟩ => Dev.abortedIn_of_newer hc hl hn

end Sys2Proof.Machine

/-! SUPPORT. Packed fields, and a barrier object that settles: its counts, its stash, and the threads that sleep on it (R153, R155,
R159). -/

namespace Sys2Proof.Machine

/-! ### Packed fields -/

/-- Fields that rise without overlap from bit `b` on and end at bit `p`. -/
def FieldsFrom (b : Nat) (p : Nat) : List (Nat × Nat × Nat) → Prop
  | [] => b ≤ p
  | f :: fs => b ≤ f.1 ∧ FieldsFrom (f.1 + f.2.1) p fs

/-- Some fields added to a number, as `packFields` adds them to 0. -/
def addFields (x : Nat) (fs : List (Nat × Nat × Nat)) : Nat := fs.foldl (fun x f => x + f.2.2 % 2 ^ f.2.1 * 2 ^ f.1) x

/-- Bits k to k + n − 1 depend on the number modulo 2^(k + n). -/
theorem bitsOf_congr {x y k n : Nat} (h : x ≡ y [MOD 2 ^ (k + n)]) : bitsOf x k n = bitsOf y k n := by
  rw [Nat.ModEq, Nat.pow_add] at h
  rw [bitsOf, bitsOf, ← Nat.mod_mul_right_div_self, h, Nat.mod_mul_right_div_self]

section
variable {b p x : Nat}

/-- A field above a number below 2^b leaves it below the field's end. -/
theorem add_field_lt {q w v : Nat} (hx : x < 2 ^ b) (hb : b ≤ q) : x + v % 2 ^ w * 2 ^ q < 2 ^ (q + w) := by
  have hlow : x < 2 ^ q := Nat.lt_of_lt_of_le hx (Nat.pow_le_pow_right Nat.two_pos hb)
  have hv : v % 2 ^ w + 1 ≤ 2 ^ w := Nat.mod_lt v (Nat.two_pow_pos w)
  calc x + v % 2 ^ w * 2 ^ q < (v % 2 ^ w + 1) * 2 ^ q := by rw [Nat.add_mul]; omega
    _ ≤ 2 ^ w * 2 ^ q := Nat.mul_le_mul_right _ hv
    _ = 2 ^ (q + w) := by rw [Nat.pow_add, Nat.mul_comm]

/-- The bits of a field added above a number. -/
theorem bitsOf_add_field {q w v : Nat} (hx : x < 2 ^ b) (hb : b ≤ q) : bitsOf (x + v % 2 ^ w * 2 ^ q) q w = v % 2 ^ w := by
  have hlow : x < 2 ^ q := Nat.lt_of_lt_of_le hx (Nat.pow_le_pow_right Nat.two_pos hb)
  rw [bitsOf, Nat.add_mul_div_right _ _ (Nat.two_pow_pos q), Nat.div_eq_of_lt hlow, Nat.zero_add, Nat.mod_mod]

/-- Fields from bit b on leave the bits below as they are. -/
theorem addFields_modEq {fs : List (Nat × Nat × Nat)} (hf : FieldsFrom b p fs) : addFields x fs ≡ x [MOD 2 ^ b] := by
  induction fs generalizing b x with
  | nil => rfl
  | cons f fs ih =>
    obtain ⟨hb, hrest⟩ := hf
    have habove : addFields (x + f.2.2 % 2 ^ f.2.1 * 2 ^ f.1) fs ≡ x + f.2.2 % 2 ^ f.2.1 * 2 ^ f.1 [MOD 2 ^ b] :=
      (ih hrest).of_dvd (Nat.pow_dvd_pow 2 (by omega))
    have hfield : x + f.2.2 % 2 ^ f.2.1 * 2 ^ f.1 ≡ x + 0 [MOD 2 ^ b] :=
      Nat.ModEq.add_left x ((Nat.modEq_zero_iff_dvd).2 (Dvd.dvd.mul_left (Nat.pow_dvd_pow 2 hb) _))
    exact habove.trans hfield

theorem addFields_lt {fs : List (Nat × Nat × Nat)} (hx : x < 2 ^ b) (hf : FieldsFrom b p fs) : addFields x fs < 2 ^ p := by
  induction fs generalizing b x with
  | nil => exact Nat.lt_of_lt_of_le hx (Nat.pow_le_pow_right Nat.two_pos hf)
  | cons f fs ih => exact ih (add_field_lt hx hf.1) hf.2

/-- Each field is read back from its bits. -/
theorem bitsOf_addFields {fs : List (Nat × Nat × Nat)} {f : Nat × Nat × Nat} (hx : x < 2 ^ b) (hf : FieldsFrom b p fs) (hm : f ∈ fs) :
    bitsOf (addFields x fs) f.1 f.2.1 = f.2.2 % 2 ^ f.2.1 := by
  induction fs generalizing b x with
  | nil => cases hm
  | cons g fs ih =>
    obtain ⟨hb, hrest⟩ := hf
    rcases List.mem_cons.1 hm with rfl | hm
    · exact (bitsOf_congr (addFields_modEq hrest)).trans (bitsOf_add_field hx hb)
    · exact ih (add_field_lt hx hb) hrest hm

end

/-! ### The 128 bits of an object (R153) -/

/-- The fields of an object lie in their widths. -/
structure Obj.Fits (o : Obj) : Prop where
  thrT : o.thrT < 2 ^ 12
  thrC : o.thrC < 2 ^ 12
  byT  : o.byT < 2 ^ 47
  byC  : o.byC < 2 ^ 47
  gang : o.gang < 2 ^ 6

/-- The fields of an object's bits. -/
def Obj.fields (o : Obj) : List (Nat × Nat × Nat) :=
  [(0, 12, o.thrT), (12, 12, o.thrC), (24, 47, o.byT), (71, 47, o.byC), (118, 1, b2n o.phase), (119, 1, b2n o.err),
    (120, 1, b2n o.bound), (121, 6, o.gang), (127, 1, b2n o.rsv)]

theorem Obj.fieldsFrom (o : Obj) : FieldsFrom 0 128 o.fields := by simp [FieldsFrom, Obj.fields]

theorem Obj.toNat_eq_addFields (o : Obj) : o.toNat = addFields 0 o.fields := rfl

theorem Obj.toNat_lt (o : Obj) : o.toNat < 2 ^ 128 := by
  rw [Obj.toNat_eq_addFields]
  exact addFields_lt (b := 0) Nat.one_pos o.fieldsFrom

theorem Obj.bitsOf_toNat {o : Obj} {p w v : Nat} (hm : (p, w, v) ∈ o.fields) : bitsOf o.toNat p w = v % 2 ^ w := by
  rw [Obj.toNat_eq_addFields]
  exact bitsOf_addFields (b := 0) Nat.one_pos o.fieldsFrom hm

theorem Obj.bitOf_toNat {o : Obj} {p : Nat} {x : Bool} (hm : (p, 1, b2n x) ∈ o.fields) : bitOf o.toNat p = x := by
  have hbit : o.toNat / 2 ^ p % 2 = b2n x % 2 := Obj.bitsOf_toNat hm
  rw [bitOf, hbit]
  cases x <;> rfl

/-- An object whose fields fit is read back from its bits. -/
theorem Obj.ofNat_toNat {o : Obj} (h : o.Fits) : Obj.ofNat o.toNat = o := by
  have field : ∀ {p w v}, (p, w, v) ∈ o.fields → v < 2 ^ w → bitsOf o.toNat p w = v := fun hm hv =>
    (Obj.bitsOf_toNat hm).trans (Nat.mod_eq_of_lt hv)
  unfold Obj.ofNat
  rw [field (v := o.thrT) (by simp [Obj.fields]) h.thrT, field (v := o.thrC) (by simp [Obj.fields]) h.thrC,
    field (v := o.byT) (by simp [Obj.fields]) h.byT, field (v := o.byC) (by simp [Obj.fields]) h.byC,
    field (v := o.gang) (by simp [Obj.fields]) h.gang, Obj.bitOf_toNat (x := o.phase) (by simp [Obj.fields]),
    Obj.bitOf_toNat (x := o.err) (by simp [Obj.fields]), Obj.bitOf_toNat (x := o.bound) (by simp [Obj.fields]),
    Obj.bitOf_toNat (x := o.rsv) (by simp [Obj.fields])]

theorem Obj.flip_fits {o : Obj} (ht : o.thrT < 4096) (hg : o.gang < 64) : o.flip.Fits :=
  ⟨ht, Nat.two_pow_pos 12, Nat.two_pow_pos 47, Nat.two_pow_pos 47, hg⟩

/-! ### Objects in the stash -/

section
variable {d : Dev} {l : ObjLoc}

theorem Dev.setObj_threads (d : Dev) (l : ObjLoc) (o : Obj) : (d.setObj l o).threads = d.threads := rfl

theorem Dev.setObj_pcyc (d : Dev) (l : ObjLoc) (o : Obj) : (d.setObj l o).pcyc = d.pcyc := rfl

/-- An object is what its stash holds. -/
theorem Dev.obj_congr {e : Dev} (h : d.chunks = e.chunks) : d.obj l = e.obj l := by
  simp only [Dev.obj, Dev.objChunk?, Dev.chunk?, h]

/-- A changed chunk reads as changed. -/
theorem Dev.chunk?_mapChunk {ctx lid k : Nat} {f : Chunk → Chunk} (hf : ∀ c, (f c).ctx = c.ctx ∧ (f c).lid = c.lid ∧ (f c).idx = c.idx) :
    (d.mapChunk ctx lid k f).chunk? ctx lid k = (d.chunk? ctx lid k).map f := by
  have hkey : (fun c : Chunk => c.ctx == ctx && c.lid == lid && c.idx == k) ∘
      (fun c => if c.ctx == ctx && c.lid == lid && c.idx == k then f c else c) = fun c => c.ctx == ctx && c.lid == lid && c.idx == k := by
    funext c
    obtain ⟨hctx, hlid, hidx⟩ := hf c
    simp only [Function.comp_apply]
    split
    · rw [hctx, hlid, hidx]
    · rfl
  simp only [Dev.chunk?, Dev.mapChunk, List.find?_map, hkey]
  cases hx : d.chunks.find? (fun c => c.ctx == ctx && c.lid == lid && c.idx == k) with
  | none => rfl
  | some c => exact congrArg some (if_pos (List.find?_some hx))

/-- An object written to a chunk's stash is read back. -/
theorem Dev.obj_setObj {o : Obj} (hw : ∀ c ∈ d.chunks, c.stash.wf = true) (hl : (d.objChunk? l).isSome = true) (ho : o.Fits) :
    (d.setObj l o).obj l = o := by
  obtain ⟨c, hc⟩ := Option.isSome_iff_exists.1 hl
  have hwc : c.stash.wf = true := hw c (List.mem_of_find?_eq_some hc)
  have hset : (d.setObj l o).objChunk? l =
      some { c with stash := c.stash.setLE l.off 16 o.toNat, stashPsn := psnPut c.stashPsn l.off 16 false } := by
    have hread := Dev.chunk?_mapChunk (d := d) (ctx := l.ctx) (lid := l.lid) (k := l.chunk)
      (f := fun c => { c with stash := c.stash.setLE l.off 16 o.toNat, stashPsn := psnPut c.stashPsn l.off 16 false }) (fun _ => ⟨rfl, rfl, rfl⟩)
    rw [Dev.objChunk?] at hc
    rw [hc] at hread
    exact hread
  have hmod : o.toNat % 256 ^ 16 = o.toNat := Nat.mod_eq_of_lt o.toNat_lt
  simp only [Dev.obj, hset]
  rw [Memory.getLE_setLE hwc, hmod, Obj.ofNat_toNat ho]

/-- Writing an object keeps the stashes canonical. -/
theorem Dev.setObj_wf {o : Obj} (hw : ∀ c ∈ d.chunks, c.stash.wf = true) : ∀ c ∈ (d.setObj l o).chunks, c.stash.wf = true := by
  intro c hc
  obtain ⟨c', hc', rfl⟩ := List.mem_map.1 hc
  split
  · exact Memory.wf_setLE (hw c' hc') _ _ _
  · exact hw c' hc'

end

/-! ### Error records keep the chunks -/

@[simp] theorem Dev.cowIn_chunks (d : Dev) (slot : Nat) (u : UnitId) (prio : Nat) : (d.cowIn slot u prio).chunks = d.chunks := by
  unfold Dev.cowIn
  split
  · rfl
  · split
    · exact Dev.mapCtx_chunks _ _ _
    · split
      · rfl
      · exact Dev.mapCtx_chunks _ _ _

@[simp] theorem Dev.cow_chunks (d : Dev) (u : UnitId) (prio : Nat) : (d.cow u prio).chunks = d.chunks :=
  Dev.foldl_keeps (g := Dev.chunks) (fun d e => by split <;> simp) _ _

@[simp] theorem Dev.store_chunks (d : Dev) (hidden : List Nat) (pa : Nat) (bs : List Byte) (psn : Bool) :
    (d.store hidden pa bs psn).chunks = d.chunks := by
  unfold Dev.store
  split
  · rfl
  · refine Dev.foldl_keeps (g := Dev.chunks) (fun d k => ?_) _ d
    rfl

@[simp] theorem Dev.writePhys_chunks (d : Dev) (w : Writer) (pa : Nat) (bs : List Byte) (psn : Bool) :
    (d.writePhys w pa bs psn).chunks = d.chunks :=
  (Dev.store_chunks _ _ _ _ _).trans (Dev.foldl_keeps (g := Dev.chunks) (fun d _ => Dev.cow_chunks d _ _) _ _)

@[simp] theorem Dev.putRecord_chunks (d : Dev) (slot : Nat) (c : Ctx) (r : Rec) : (d.putRecord slot c r).chunks = d.chunks := by
  unfold Dev.putRecord
  rw [Dev.mapCtx_chunks]
  split
  · exact Dev.writePhys_chunks _ _ _ _ _
  · rfl

@[simp] theorem Dev.flushDropped_chunks (d : Dev) (slot : Nat) : (d.flushDropped slot).chunks = d.chunks := by
  unfold Dev.flushDropped
  split
  · rfl
  · split <;> simp

@[simp] theorem Dev.ctxRecord_chunks (d : Dev) (slot : Nat) (r : Rec) : (d.ctxRecord slot r).chunks = d.chunks := by
  unfold Dev.ctxRecord
  simp only
  split
  · exact Dev.flushDropped_chunks _ _
  · split <;> simp

@[simp] theorem Dev.note_chunks (d : Dev) (who : Who) (c : Cause) (x : Detail) : (d.note who c x).chunks = d.chunks := by
  unfold Dev.note Dev.record
  split
  · rfl
  · exact Dev.ctxRecord_chunks _ _ _

/-! ### An object that flips -/

@[simp] theorem Dev.mapBinding_chunks (d : Dev) (l : ObjLoc) (f : Binding → Option Binding) : (d.mapBinding l f).chunks = d.chunks := by
  unfold Dev.mapBinding
  split <;> rfl

@[simp] theorem Dev.mapBinding_pcyc (d : Dev) (l : ObjLoc) (f : Binding → Option Binding) : (d.mapBinding l f).pcyc = d.pcyc := by
  unfold Dev.mapBinding
  split <;> rfl

/-- A flip changes no chunk but for the object. -/
theorem Dev.flipObj_chunks (d : Dev) (l : ObjLoc) (o : Obj) : (d.flipObj l o).chunks = (d.setObj l o.flip).chunks := by
  unfold Dev.flipObj
  exact Dev.mapBinding_chunks _ _ _

/-- What a flip makes of a thread: one that sleeps on the object acquires, writes its predicate and goes on (R159). -/
def Thread.wokenBy (t : Thread) (l : ObjLoc) (err : Bool) (now : Nat) : Thread :=
  if t.ctx == l.ctx && t.lid == l.lid && t.chunk == l.chunk then
    match t.wait with
    | .barrier p off _ _ => if off = l.off then (t.setPred p (waitDone err) false).woken now else t
    | _ => t
  else t

theorem Dev.flipObj_threads (d : Dev) (l : ObjLoc) (o : Obj) :
    (d.flipObj l o).threads = d.threads.map (fun t => t.wokenBy l o.err d.pcyc) := by
  unfold Dev.flipObj
  simp only [Dev.wakeBarrier, Dev.mapThreads_threads, Dev.takes, Dev.mapBinding_threads, Dev.mapBinding_pcyc, Dev.setObj_threads,
    Dev.setObj_pcyc]
  rfl

theorem Thread.pred_setPred_self {t : Thread} {p : PReg} (v : Byte) (psn : Bool) (hp : p ≠ 0) (hl : p.toNat < t.preds.length) :
    (t.setPred p v psn).pred p = v := by
  rw [Thread.setPred, if_neg hp, Thread.pred, if_neg hp]
  simp [hl]

/-- A thread that sleeps on the object goes on, with its predicate written. -/
theorem Thread.wokenBy_of_sleeps {t : Thread} {l : ObjLoc} {p : PReg} {k : Bool} {dl : Option W64} (err : Bool) (now : Nat)
    (hctx : t.ctx = l.ctx) (hlid : t.lid = l.lid) (hchunk : t.chunk = l.chunk) (hw : t.wait = .barrier p l.off k dl) :
    t.wokenBy l err now = (t.setPred p (waitDone err) false).woken now := by
  simp [Thread.wokenBy, hctx, hlid, hchunk, hw]

/-! ### Settling (R155) -/

section
variable {d : Dev} {l : ObjLoc} {o : Obj} {who : Who}

/-- An object with no target, or with an arrival or bytes outstanding, is written as the operation left it. -/
theorem Dev.settle_of_open (h : (o.thrT = 0 ∧ o.byT = 0) ∨ o.thrC ≠ o.thrT ∨ o.byC < o.byT) : d.settle l o who = d.setObj l o := by
  unfold Dev.settle
  split
  case isTrue => rfl
  case isFalse hsome =>
    have htarget : ¬ (o.thrT = 0 ∧ o.byT = 0) := by simpa using hsome
    split
    case isTrue harrived =>
      have hbytes : o.byC < o.byT := (h.resolve_left htarget).resolve_left (not_not.2 harrived)
      rw [if_neg hbytes.ne, if_neg hbytes.not_gt]
    case isFalse => rfl

/-- Bytes beyond the target end the phase with ERR and a record. -/
theorem Dev.settle_of_over (ht : ¬ (o.thrT = 0 ∧ o.byT = 0)) (ha : o.thrC = o.thrT) (hb : o.byT < o.byC) :
    d.settle l o who = (d.flipObj l { o with err := true }).note who cBarrierOverflow (objDetail l { o with err := true } 0) := by
  simp [Dev.settle, ht, ha, hb, hb.ne']

theorem Dev.settle_of_complete (ht : ¬ (o.thrT = 0 ∧ o.byT = 0)) (ha : o.thrC = o.thrT) (hb : o.byC = o.byT) :
    d.settle l o who = d.flipObj l o := by
  have htarget : (decide (o.thrT = 0) && decide (o.byT = 0)) = false := by simpa using ht
  simp only [Dev.settle, htarget, ha, hb, Bool.false_eq_true, if_false, if_true]

/-- Settling changes no chunk but for the object. -/
theorem Dev.settle_chunks (d : Dev) (l : ObjLoc) (o : Obj) (who : Who) : ∃ o', (d.settle l o who).chunks = (d.setObj l o').chunks := by
  unfold Dev.settle
  split
  · exact ⟨o, rfl⟩
  · split
    · split
      · exact ⟨_, Dev.flipObj_chunks _ _ _⟩
      · split
        · exact ⟨_, (Dev.note_chunks _ _ _ _).trans (Dev.flipObj_chunks _ _ _)⟩
        · exact ⟨o, rfl⟩
    · exact ⟨o, rfl⟩

end

/-- Settles O27: an object settles by its counts alone, and a flip writes it, wakes its sleepers and touches no other chunk. That the
sleepers go on in the step of the flip (log 122), and that the record of the overflow shows the object as the operation left it (log 18),
are the model's choices. -/
theorem barrierSettles : Obligations.BarrierSettles := by
  intro d l o who hw
  refine ⟨?stash, Dev.settle_of_open, Dev.settle_of_over, fun ht ha hb => ?turns⟩
  case stash =>
    obtain ⟨o', hchunks⟩ := Dev.settle_chunks d l o who
    rw [hchunks]
    exact Dev.setObj_wf hw
  case turns =>
    rw [Dev.settle_of_complete ht ha hb]
    refine ⟨fun hl hthr hgang => ?cleared, fun t p k dl hm hctx hlid hchunk hwait => ?woken⟩
    case cleared =>
      rw [Dev.obj_congr (Dev.flipObj_chunks d l o)]
      exact Dev.obj_setObj hw hl (Obj.flip_fits hthr hgang)
    case woken =>
      refine ⟨t.wokenBy l o.err d.pcyc, ?_, ?_⟩
      · rw [Dev.flipObj_threads]
        exact List.mem_map_of_mem hm
      · rw [Thread.wokenBy_of_sleeps _ _ hctx hlid hchunk hwait]
        refine ⟨by simp, rfl, ?_, fun hp hlen => Thread.pred_setPred_self _ _ hp hlen⟩
        simp [Thread.woken, Thread.readyNext, Thread.retire, nextPc]

end Sys2Proof.Machine

/-! SUPPORT. A store of a thread to which an entry of the outstanding-transaction table is granted, where that entry holds an answered
access in front of a lost one: the counterexample to O23 (R134, R135, R143, R212). -/

namespace Sys2Proof.Machine

/-- A header without guard or hints. -/
def plainHd : Hd := ⟨false, 0, .none, 0, 0⟩

/-- The user thread of the launch that `State.withFetchWord` places. -/
def soleThread : Thread := Thread.start fetchLaunch (fetchLaunch.bindRec 0) 0 0 0 0 0 0 none false

/-- An access of that thread at module 1, asked for by instruction 0, with its reply. -/
def askedAcc (r : Reply) : OttAcc :=
  { ctx := 0, uid := 0, lane := 0, tag := 0, vm := 1, seq := 0, off := 0, len := 4, posted := false, wr := false, ask := some 0,
    origin := soleThread.origin, was := 0, acked := none, reply := r }

/-- A table whose first entry is granted to the thread and holds an answered access, and whose second holds a lost one. -/
def hidingOtt : List OttEntry :=
  [⟨0, some (0, 0), [askedAcc (.data [] [])], none⟩, ⟨1, none, [askedAcc (.lost cPacketStomped)], none⟩]

/-- The module with that table, whose sole thread, at user level, is about to issue, and whose context has an error queue of one record at
0x20000. -/
def hidingState : State :=
  let s := State.reset.withFetchWord 96 0
  { s with dev := { s.dev with
      cur := .group 0 [0] 0
      threads := [soleThread]
      cores := [(0, { s.dev.core 0 with ott := hidingOtt })]
      ctxs := s.dev.ctxs.map (fun e =>
        (e.1, { e.2 with regs := { e.2.regs with eqbase := 0x20000, eqsize := 1, eqhead := 0, eqtail := 0 } })) } }

/-- A store of 32 bits to 0x10000. -/
def hidingStore : Instr := .st plainHd false .b32 ⟨.v 2, 0x10000⟩ 4

abbrev hidingOp : MemOp := storeOp 0 false .b32 ⟨.v 2, 0x10000⟩ 4

abbrev hidingDev : Dev := hidingState.dev.opened hidingStore plainHd

theorem hidden_primaries : primaries (hidingDev.acting plainHd [0]) = [soleThread] := by decide +kernel

theorem hidden_passes :
    hidingState.dev.OutPass hidingStore plainHd false (fun d t => ((d.env t).memAddr true ⟨.v 2, 0x10000⟩).1 :: hidingOp.data (d.env t))
      (fun d t => d.memFlt t 0 ⟨.v 2, 0x10000⟩ hidingOp.want = none) := by
  unfold Dev.OutPass Dev.AllPass Dev.Passes
  decide +kernel

theorem hidden_spot : hidingDev.laneSpot soleThread hidingOp = .phys 0x10040010000 := by decide +kernel

theorem hidden_reply : hidingDev.replyOf soleThread = some (askedAcc (.data [] [])) := by decide +kernel

theorem hidden_free : hidingDev.MemFree hidingOp [soleThread] where
  rel := by decide +kernel
  acq := by decide +kernel
  mat := by decide +kernel
  grown := by decide +kernel
  room := by decide +kernel
  turn := by
    unfold Dev.InTurn
    decide +kernel
  come := .inl (by
    unfold Dev.MemFirst
    decide +kernel)

/-- The first byte of the error queue is the cause of the lost access afterwards, and zero before. -/
theorem hidden_record : (hidingState.dev.memInstr hidingStore plainHd hidingOp).mem.get 0x10040020000 = cPacketStomped ∧
    hidingState.dev.mem.get 0x10040020000 = 0 := by
  decide +kernel

/-- Refutes O23, in its first part: `hidingState` meets every hypothesis, for the reply that its thread's instruction has is an answer.
Claiming the granted entry takes that answer away, the lost access behind it is then the thread's, and the trap for it (R212) writes a
record into the error queue at 0x10040020000, outside the four bytes that the store writes at 0x10040010000. The statement does not
exclude a granted entry that holds accesses, which no instruction makes (`Dev.reserve`). -/
theorem not_storesReachMemory : ¬ Obligations.StoresReachMemory := by
  rintro ⟨hframe, -⟩
  have hsole : ∀ t ∈ primaries (hidingDev.acting plainHd [0]), t = soleThread := fun t ht => by
    rw [hidden_primaries] at ht
    exact List.mem_singleton.1 ht
  have hfree : hidingDev.MemFree hidingOp (primaries (hidingDev.acting plainHd [0])) := by
    rw [hidden_primaries]
    exact hidden_free
  have hanswered : ∀ t ∈ primaries (hidingDev.acting plainHd [0]), ∀ x c, hidingDev.replyOf t = some x → x.reply ≠ .lost c := by
    intro t ht x c hx
    rw [hsole t ht, hidden_reply] at hx
    obtain rfl := Option.some.inj hx
    exact Reply.noConfusion
  have houtside : ∀ t ∈ primaries (hidingDev.acting plainHd [0]), ∀ pa, (hidingDev.laneSpot t hidingOp = .phys pa ∨
      ∃ k o, hidingDev.laneSpot t hidingOp = .mapped k o pa) → 0x10040020000 < pa ∨ pa + szBytes .b32 ≤ 0x10040020000 := by
    intro t ht pa hpa
    rw [hsole t ht, hidden_spot] at hpa
    rcases hpa with hphys | ⟨k, o, hmapped⟩
    · obtain rfl := Spot.phys.inj hphys
      exact .inr (by decide)
    · cases hmapped
  have hsame := (hframe hidingStore plainHd 0 false .b32 ⟨.v 2, 0x10000⟩ 4 hidingState
    { hidingState with dev := hidingState.dev.memInstr hidingStore plainHd hidingOp } (.inl ⟨rfl, Nat.zero_le 1, rfl⟩) hidden_passes hfree
    (by decide +kernel) hanswered (by decide +kernel) rfl).2 0x10040020000 houtside
  obtain ⟨hafter, hbefore⟩ := hidden_record
  have hcause : cPacketStomped = 0 := (hafter.symm.trans hsame).trans hbefore
  exact absurd hcause (by decide)

end Sys2Proof.Machine

/-! SUPPORT. The row instructions where no lane fails: the rows' slots, and the transfers on the vertical bus (R164 to R175). -/

namespace Sys2Proof.Machine

/-! ### Row instructions (R167) -/

section
variable {i : Instr} {h : Hd} {key : Dev → Thread → List Nat} {base chk : Dev → Thread → Option Flt} {logs : Bool}
  {hold : Dev → Thread → Bool} {act : Dev → Thread → Dev} {fin : Dev → List Thread → Dev}

/-- A row instruction whose lanes pass their checks and do not wait serves them in ascending order (log 68). -/
theorem Dev.rowInstr_of_serial {d : Dev} (hp : d.OutPass i h true key (fun d t => base d t = none)) :
    let e := d.opened i h
    let ts := primaries (e.acting h [0])
    (∀ t ∈ ts, hold e t = false ∧ (logs && e.logStalls t.ctx) = false) → SerialOk (fun d t => chk d t = none) act e ts →
    d.rowInstr i h key base chk logs hold act fin = fin (ts.foldl act e) ts := by
  intro e ts hfree hok
  rw [Dev.rowInstr, Dev.lanesOut_ok _ _ _ _ _ _ _ hp]
  change (match pickFail (ts.foldl (serialStep chk (fun _ f => f) act) (e, [])).2 with
    | some f => e.failGroup h ts f
    | none => e.unless ts (hold e) .release (fun d => d.unless ts (fun t => logs && d.logStalls t.ctx) (.staging d.pcyc)
        (fun _ => fin (ts.foldl (serialStep chk (fun _ f => f) act) (e, [])).1 ts))) = _
  rw [foldl_serialStep hok]
  exact (Dev.unless_of_none _ _ fun t ht => (hfree t ht).1).trans (Dev.unless_of_none _ _ fun t ht => (hfree t ht).2)

/-- A row instruction completes: `ok` is what its checks ask of a lane, `free` what keeps it from waiting. -/
theorem SerialRuns.of_rowInstr {clean free ok : Dev → Thread → Prop}
    (hx : ∀ s, exec i s = onDev s (fun d => d.rowInstr i h key base chk logs hold act fin))
    (hbase : ∀ d t, clean d t → base d t = none)
    (hfree : ∀ d t, free d t → hold d t = false ∧ (logs && d.logStalls t.ctx) = false) (hchk : ∀ d t, ok d t → chk d t = none) :
    SerialRuns i h true key clean free (fun _ => ok) (fun _ => act) fin := by
  intro s hp e ts hfrees hok
  rw [hx, onDev, Dev.rowInstr_of_serial (hp.mono hbase) (fun t ht => hfree e t (hfrees t ht)) (hok.mono hchk)]

end

/-! ### The checks of a slot (R167, R171) -/

section
variable {d : Dev} {t : Thread} {k : Nat}

@[simp] theorem Dev.rowFlt_eq_none {bad : Bool} {c : Cause} : d.rowFlt t k bad c = none ↔ bad = false := flt_eq_none

@[simp] theorem Dev.intentFlt_eq_none {wr : Bool} :
    d.intentFlt t k wr = none ↔ (if wr then (d.slot t.core k).wr else (d.slot t.core k).rd) = true := by
  cases wr <;> simp [Dev.intentFlt]

/-- A live slot is lost from its close time on (R178). -/
theorem Dev.slotState_eq : d.slotState t k =
    if ((d.slot t.core k).state = .opening ∨ (d.slot t.core k).state = .ready) ∧ (d.slot t.core k).close ≤ d.cyc t.ctx then .lost
    else (d.slot t.core k).state := by
  simp [Dev.slotState, RowSlot.at_]

/-- The checks of ROWCON and ROWPUT pass in a slot that is ready and whose range has the intent. -/
theorem Dev.slotChecks_of_ready {wr : Bool}
    (hready : d.slotFlt t k = none ∧ (if wr then (d.slot t.core k).wr else (d.slot t.core k).rd) = true) :
    firstFlt [d.slotFlt t k, d.intentFlt t k wr] = none := by
  obtain ⟨hslot, hintent⟩ := hready
  simp [hslot, Dev.intentFlt_eq_none.2 hintent]

/-- The same with an instruction's own check between them. -/
theorem Dev.slotChecks_of_own {wr : Bool} {own : Option Flt}
    (hready : d.slotFlt t k = none ∧ (if wr then (d.slot t.core k).wr else (d.slot t.core k).rd) = true) (hown : own = none) :
    firstFlt [d.slotFlt t k, own, d.intentFlt t k wr] = none := by
  obtain ⟨hslot, hintent⟩ := hready
  simp [hslot, hown, Dev.intentFlt_eq_none.2 hintent]

end

/-- What ROWWT does in a lane (R175): it sleeps until the ready time of a slot that opens, and else writes whether the slot is ready. -/
def Dev.rowwtLane (d : Dev) (h : Hd) (p : PReg) (k : SlotNo) (t : Thread) : Dev :=
  if d.slotState t k.toNat = .opening then
    d.deliver t.uid (fun y => { y.hint h.yh d.pcyc with wait := .row p k (d.slot t.core k.toNat).act, since := d.pcyc })
  else
    d.deliver t.uid (fun y =>
      ((y.setPred p (if d.slotState t k.toNat = .ready then 0xFF else 0x00) false).retire d.pcyc).hint h.yh d.pcyc)

theorem exec_rowwt (h : Hd) (p : PReg) (k : SlotNo) (s : State) :
    exec (.rowwt h p k) s = onDev s (fun d => d.rowInstr (.rowwt h p k) h (fun _ _ => []) (fun _ _ => none)
      (fun d t => firstFlt [d.rowFlt t k.toNat (d.slotTaken t k.toNat) cSlotInUse,
        d.rowFlt t k.toNat ((d.slot t.core k.toNat).state = .empty) cSlotEmpty])
      false noHold (fun d t => d.rowwtLane h p k t) (fun d ts => d.retireOff h ts)) := by
  change execRowwt h p k s = _
  unfold execRowwt
  congr 2
  funext d
  congr 1
  funext d t
  unfold Dev.rowwtLane
  cases d.slotState t k.toNat <;> rfl

/-- ROWWT serves its lanes in ascending order. -/
theorem rowwt_runs (h : Hd) (p : PReg) (k : SlotNo) :
    SerialRuns (.rowwt h p k) h true (fun _ _ => []) (fun _ _ => True) (fun _ _ => True)
      (fun _ d t => d.slotTaken t k.toNat = false ∧ (d.slot t.core k.toNat).state ≠ .empty) (fun _ d t => d.rowwtLane h p k t)
      (fun d ts => d.retireOff h ts) :=
  .of_rowInstr (exec_rowwt h p k) (fun _ _ _ => rfl) (fun _ _ _ => ⟨rfl, rfl⟩) (fun _ _ ⟨hmine, hopen⟩ => by simp [hmine, hopen])

/-- Settles O29: each is the shared row instruction with its own check, wait and operation. -/
theorem rowSlots : Obligations.RowSlots := by
  intro h k base off r p va mine
  refine ⟨?act, ?pre, ?qry, ?wt⟩
  case act => exact .of_rowInstr (fun _ => rfl) (fun _ _ hbase => hbase) (fun _ _ hmat => ⟨hmat, rfl⟩) (fun _ _ hok => hok)
  case pre =>
    exact .of_rowInstr (fun _ => rfl) (fun _ _ _ => rfl) (fun _ _ hidle => ⟨hidle, rfl⟩) (fun _ _ hmine => Dev.rowFlt_eq_none.2 hmine)
  case qry =>
    exact .of_rowInstr (fun _ => rfl) (fun _ _ _ => rfl) (fun _ _ hroom => ⟨rfl, hroom⟩) (fun _ _ hmine => Dev.rowFlt_eq_none.2 hmine)
  case wt =>
    simpa only [Dev.rowwtLane, Dev.slotState_eq] using rowwt_runs h p k

/-- Settles O30: each is the shared row instruction with its own checks and transfer. -/
theorem rowTransfers : Obligations.RowTransfers := by
  intro h a k base off r b so ready
  refine ⟨?toPlane, ?toRegs, ?toStash, ?fromStash, ?fromRegs⟩
  case toPlane =>
    exact .of_rowInstr (fun _ => rfl) (fun _ _ _ => rfl) (fun _ _ _ => ⟨rfl, rfl⟩)
      (fun _ _ ⟨hready, hplanes⟩ => Dev.slotChecks_of_own hready (flt_none (by simp [hplanes])))
  case toRegs =>
    exact .of_rowInstr (fun _ => rfl) (fun _ _ _ => rfl) (fun _ _ _ => ⟨rfl, rfl⟩) (fun _ _ hready => Dev.slotChecks_of_ready hready)
  case toStash =>
    exact .of_rowInstr (fun _ => rfl) (fun _ _ hbase => hbase) (fun _ _ hmat => ⟨hmat, rfl⟩)
      (fun _ _ ⟨hready, hstash⟩ => Dev.slotChecks_of_own hready hstash)
  case fromStash =>
    exact .of_rowInstr (fun _ => rfl) (fun _ _ hbase => hbase)
      (fun _ _ ⟨hread, hwrite⟩ => ⟨Bool.or_eq_false_iff.2 ⟨hread, hwrite⟩, rfl⟩)
      (fun _ _ ⟨hready, hstash⟩ => Dev.slotChecks_of_own hready hstash)
  case fromRegs =>
    exact .of_rowInstr (fun _ => rfl) (fun _ _ _ => rfl) (fun _ _ hmat => ⟨hmat, rfl⟩)
      (fun _ _ hready => Dev.slotChecks_of_ready hready)

end Sys2Proof.Machine

/-! SUPPORT. What time brings to a column: one lemma per case of the operations on slots, banks, refresh windows, the vertical bus and
its lanes (R165, R170, R173, R177, R178, R182, R183, R186). -/

namespace Sys2Proof.Machine

section
variable {d : Dev} {core k : Nat}

/-! ### Activations (R170, R182, R186) -/

theorem Dev.haltedFor_of_saving {slot n : Nat} {c : Ctx} (hc : d.ctx? slot = some c) (hp : c.phase = .saving n) :
    d.haltedFor slot = d.pcyc - n := by
  simp [Dev.haltedFor, hc, hp]

/-- The clock of a context that is not halted has stood for no cycle. -/
theorem Dev.haltedFor_of_running {slot : Nat} (hp : ∀ c t, d.ctx? slot = some c → c.phase ≠ .saving t) : d.haltedFor slot = 0 := by
  unfold Dev.haltedFor
  split
  case h_1 t hphase =>
    obtain ⟨c, hc, hsaving⟩ := Option.map_eq_some_iff.1 hphase
    exact absurd hsaving (hp c t hc)
  case h_2 => rfl

theorem Dev.withCopy_eq (d : Dev) (s : RowSlot) :
    d.withCopy s = { s with
      copy := (if s.kept then (s.copy, s.psn) else d.rowCopy s.pa).1, psn := (if s.kept then (s.copy, s.psn) else d.rowCopy s.pa).2 } := by
  unfold Dev.withCopy
  split <;> rfl

/-- A slot whose ready time has come takes its copy, and becomes ready. -/
theorem Dev.activation_of_ready (hopen : (d.slot core k).state = .opening) (hready : (d.slot core k).ready ≤ d.cyc (d.slot core k).ctx)
    (hrun : d.haltedFor (d.slot core k).ctx = 0) :
    d.activation core k =
      ((if (d.slot core k).kept then d else d.eccNote (d.slot core k).opener false (d.slot core k).pa 2048).mapCore core (fun c =>
        { c with slots := c.slots.set k { d.withCopy (d.slot core k) with state := .ready } })).wakeRow
          core k (d.slot core k).act true := by
  have hdone : d.activated (d.slot core k) = true := by
    simpa [Dev.activated, hopen, hrun] using BitVec.le_def.1 hready
  simp only [Dev.activation, hdone, hready, if_true]

/-- A slot whose ready time would have come while its context is halted takes its copy, and stays as it is (R186). -/
theorem Dev.activation_of_halted (hopen : (d.slot core k).state = .opening) (hkept : (d.slot core k).kept = false)
    (hearly : d.cyc (d.slot core k).ctx < (d.slot core k).ready)
    (hready : (d.slot core k).ready.toNat ≤ (d.cyc (d.slot core k).ctx).toNat + d.haltedFor (d.slot core k).ctx) :
    d.activation core k =
      (d.eccNote (d.slot core k).opener false (d.slot core k).pa 2048).mapCore core (fun c =>
        { c with slots := c.slots.set k { d.withCopy (d.slot core k) with kept := true } }) := by
  have hdone : d.activated (d.slot core k) = true := by simp [Dev.activated, hopen, hkept, hready]
  have hnot : ¬ (d.slot core k).ready ≤ d.cyc (d.slot core k).ctx := BitVec.not_le.2 hearly
  simp only [Dev.activation, hdone, hkept, if_true, if_neg hnot, Bool.false_eq_true, if_false]

/-! ### Forced closes, precharges and refresh windows (R173, R177, R178) -/

theorem Dev.slotBusy_of_idle (hbus : ∀ x ∈ (d.core core).bus, x.slot ≠ k) : d.slotBusy core k = false := by
  simpa [Dev.slotBusy, Core.slotBusy] using hbus

theorem Dev.forceClose_of_idle (hlive : (d.slot core k).state = .opening ∨ (d.slot core k).state = .ready)
    (hclose : (d.slot core k).close ≤ d.cyc (d.slot core k).ctx) (hidle : d.slotBusy core k = false) :
    d.forceClose core k =
      ((d.rewriteRow (d.slot core k).pa).mapCore core (fun c =>
        { c.mapBank (bankOf (d.slot core k).pa) (fun b => { b with preEnd := d.pcyc + 18 }) with
          slots := c.slots.set k { d.slot core k with state := .lost, copy := [], psn := [] } })).wakeRow
            core k (d.slot core k).act false := by
  simp [Dev.forceClose, hlive, hclose, hidle]

theorem Dev.preDone_of_over (hset : ((d.core core).bank k).preEnd ≠ 0) (hover : ((d.core core).bank k).preEnd ≤ d.pcyc) :
    d.preDone core k = d.mapCore core (fun c => c.mapBank k (fun b => { b with preEnd := 0 })) := by
  simp [Dev.preDone, hset, hover]

theorem Dev.refreshMay_of_period {n : Nat} (hk : k < 8) (hlast : KV.get? (d.core core).refresh k = some n)
    (hover : n - 120 + 3900 ≤ d.pcyc) (hfull : 120 ≤ n) :
    d.refreshMay core k = true := by
  have hbegun : n + 3780 ≤ d.pcyc := by omega
  simp [Dev.refreshMay, hk, hlast, hbegun]

/-- The first window of a layer may begin where it leaves those of the other layers apart, which is the model's choice (log 71). -/
theorem Dev.refreshMay_of_apart (hk : k < 8) (hnone : KV.get? (d.core core).refresh k = none)
    (hapart : ∀ r ∈ (d.core core).refresh, 120 ≤ (d.pcyc + 3900 - (r.2 - 120) % 3900) % 3900 ∧
      (d.pcyc + 3900 - (r.2 - 120) % 3900) % 3900 ≤ 3780) : d.refreshMay core k = true := by
  simpa [Dev.refreshMay, hk, hnone] using fun a b hr => hapart (a, b) hr

theorem exec_refreshWindow {s : State} (hmay : s.dev.refreshMay core k = true) :
    exec (.refreshWindow core k) s = .next { s with
      dev := s.dev.mapCore core (fun c => { c with refresh := KV.set c.refresh k (s.dev.pcyc + 120) }) } := by
  change execRefreshWindow core k s = _
  rw [execRefreshWindow, onDev, if_pos hmay]

end

/-! ### The vertical bus (R96, R165, R183) -/

section
variable {d : Dev} {core n : Nat} {b : Transfer}

/-- A free bus grants a request: those that it passes count that, and its beats begin. -/
theorem Dev.rowTransfer_of_grant (hfree : (d.core core).crossing = none)
    (hgrant : grantOf Transfer.prio Transfer.passed ((d.core core).bus.filter (d.mayCross core)) = some b) :
    d.rowTransfer core =
      (d.mapCore core (fun c => { c with bus := c.bus.map (fun x =>
        if ((passedBy Transfer.prio ((d.core core).bus.filter (d.mayCross core)) b).map Transfer.id).contains x.id then
          { x with passed := x.passed + 1 } else x) })).mapTransfer core b.id (fun x => { x with beats := some d.pcyc }) := by
  simp only [Dev.rowTransfer, hfree, hgrant]

section
variable (hcross : (d.core core).crossing = some (b, n)) (hlast : n + 8 ≤ d.pcyc)
include hcross hlast

theorem Dev.rowTransfer_of_line {pa : Nat} {wr : Bool} {tk : Option Nat} (hk : b.kind = .line pa wr tk) :
    d.rowTransfer core = d.finishLine core b pa := by
  simp only [Dev.rowTransfer, hcross, if_pos hlast, hk]

theorem Dev.rowTransfer_of_row (hk : ∀ pa wr tk, b.kind ≠ .line pa wr tk) : d.rowTransfer core = d.cross core b n := by
  simp only [Dev.rowTransfer, hcross, if_pos hlast]

end

/-- Every beat of a transfer arrived with the right parity, and no lane was swapped for it. -/
theorem Dev.cross_of_sound (hfail : (d.phys? (d.physOf core)).failing (b.data (d.slot core b.slot)).1 (b.att = 2) = [])
    (hatt : b.att ≠ 4) :
    d.cross core b n =
      d.finishTransfer core b (d.slot core b.slot).pa
        ((d.phys? (d.physOf core)).received (b.data (d.slot core b.slot)).1 (b.att = 2)) (b.data (d.slot core b.slot)).2 := by
  simp only [Dev.cross, hfail, if_true, if_neg hatt]

/-- A transfer with a wrong parity is logged, recorded and repeated, up to twice. -/
theorem Dev.cross_of_failing {g at_ : Nat} {r : List (Nat × Nat)}
    (hfail : (d.phys? (d.physOf core)).failing (b.data (d.slot core b.slot)).1 (b.att = 2) = (g, at_) :: r) (hatt : b.att < 2) :
    d.cross core b n =
      ((d.logBus (d.physOf core) (busEntry b.isPut (b.att + 1) g at_ 0 false 0 (d.slot core b.slot).pa (n + at_))).busNote b
        cBusParityRetried (busDetail (d.slot core b.slot).va g at_ 0 0 (b.att + 1)) (n + at_)).mapTransfer core b.id
          (fun x => { x with att := b.att + 1, beats := none, passed := 0 }) := by
  have hbad : (g, at_) :: r ≠ [] := List.cons_ne_nil _ _
  simp only [Dev.cross, hfail, if_neg hbad, firstFail, List.headD_cons]
  have hrun : b.att = 0 ∨ b.att = 1 := by omega
  rcases hrun with hfirst | hsecond
  · simp only [hfirst]
  · simp only [hsecond]

end

/-- Settles O48: each event finds its slot, bank, layer or transfer, and takes the case of its operation that the hypotheses name.
Where a layer's first refresh window may begin is the model's choice (log 71). -/
theorem columnEvents : Obligations.ColumnEvents := by
  intro core k b n live put crosses bad
  refine ⟨?ready, ?halted, ?close, ?precharge, ?refresh, ?firstRefresh, ?grant, ?line, ?sound, ?failing, ?swap⟩
  case ready =>
    refine .of_onDev (g := fun d => d.activation core k) (fun _ => rfl) fun d ⟨hopen, hready, hrun⟩ => ?_
    rw [Dev.activation_of_ready hopen hready (Dev.haltedFor_of_running hrun), Dev.withCopy_eq]
  case halted =>
    refine fun c => .of_onDev (g := fun d => d.activation core k) (fun _ => rfl) fun d ⟨hopen, hkept, hc, hp, hearly, hready⟩ => ?_
    have hcyc : d.cyc (d.slot core k).ctx = c.regs.cyc := by simp only [Dev.cyc, hc]
    rw [← hcyc, ← Dev.haltedFor_of_saving hc hp] at hready
    rw [Dev.activation_of_halted hopen hkept (hcyc ▸ hearly) hready, Dev.withCopy_eq]
    simp only [hkept, Bool.false_eq_true, if_false, put]
  case close =>
    exact .of_onDev (fun _ => rfl) fun d ⟨hlive, hclose, hbus⟩ => Dev.forceClose_of_idle hlive hclose (Dev.slotBusy_of_idle hbus)
  case precharge =>
    exact .of_onDev (fun _ => rfl) fun d ⟨hset, hover⟩ => Dev.preDone_of_over hset hover
  case refresh =>
    exact fun s ⟨hk, hlast, hover, hfull⟩ => exec_refreshWindow (Dev.refreshMay_of_period hk hlast hover hfull)
  case firstRefresh =>
    exact fun s ⟨hk, hnone, hapart⟩ => exec_refreshWindow (Dev.refreshMay_of_apart hk hnone hapart)
  case grant =>
    exact .of_onDev (fun _ => rfl) fun d ⟨hfree, hgrant⟩ => Dev.rowTransfer_of_grant hfree hgrant
  case line =>
    exact fun pa wr tk => .of_onDev (fun _ => rfl) fun d ⟨⟨hcross, hlast⟩, hk⟩ => Dev.rowTransfer_of_line hcross hlast hk
  case sound =>
    refine .of_onDev (g := fun d => d.rowTransfer core) (fun _ => rfl) fun d ⟨⟨hcross, hlast⟩, hk, hfail, hatt⟩ => ?_
    exact (Dev.rowTransfer_of_row hcross hlast hk).trans (Dev.cross_of_sound hfail hatt)
  case failing =>
    refine fun g at_ r => .of_onDev (g := fun d => d.rowTransfer core) (fun _ => rfl) fun d ⟨⟨hcross, hlast⟩, hk, hfail, hatt⟩ => ?_
    exact (Dev.rowTransfer_of_row hcross hlast hk).trans (Dev.cross_of_failing hfail hatt)
  case swap =>
    refine .of_onDev (g := fun d => d.laneSwap core) (fun _ => rfl) fun d hfind => ?_
    simp only [Dev.laneSwap, hfind]

end Sys2Proof.Machine

/-! SUPPORT. Reductions and scans (R272), the submissions of engine jobs and their handles (R187 to R200), and the fabric instructions
(R208, R210), where no check fails and nothing is waited for. -/

namespace Sys2Proof.Machine

/-! ### Delivery across a gang (R268, R272) -/

theorem CrossRuns.of {i : Instr} {h : Hd} {f : Meet → Dev → Nat → Thread → Thread}
    (hx : ∀ s, exec i s = onDev s (fun d => d.crossLane i h f)) : CrossRuns i h f :=
  MeetRuns.of _ hx (fun _ _ _ => rfl)

/-- Settles O19: both deliver a combine of every rank's source. That a scan accumulates the flags of every combine is the model's choice
(log 48). -/
theorem reductionsAndScans : Obligations.ReductionsAndScans := fun _ _ _ _ _ =>
  ⟨.of fun _ => rfl, .of fun _ => rfl⟩

/-! ### A queued submission (R195, R200) -/

section
variable (d : Dev)

/-- Logging an input changes only its context. -/
theorem Dev.logInput_keeps {α : Type} (f : Dev → α) (hf : ∀ (d : Dev) (k : Nat) (g : Ctx → Ctx), f (d.mapCtx k g) = f d) (slot key : Nat)
    (v : W64) : f (d.logInput slot key v) = f d := by
  unfold Dev.logInput
  split
  case h_1 => rfl
  case h_2 =>
    split
    case isTrue =>
      split
      case h_1 => exact hf ..
      case h_2 => rfl
    case isFalse =>
      split
      case isTrue => exact hf ..
      case isFalse => rfl

/-- So does obtaining a value derived from CYC. -/
theorem Dev.cycInput_keeps {α : Type} (f : Dev → α) (hf : ∀ (d : Dev) (k : Nat) (g : Ctx → Ctx), f (d.mapCtx k g) = f d) (t : Thread)
    (v : W64) : f (d.cycInput t v).2 = f d := by
  have hlog : (d.cycInput t v).2 = d.logInput t.ctx (logKey 3 t.logId) v := by
    simp only [Dev.cycInput]
    split <;> rfl
  rw [hlog, d.logInput_keeps f hf]

@[simp] theorem Dev.cycInput_dies (t : Thread) (v : W64) : (d.cycInput t v).2.dies = d.dies := d.cycInput_keeps Dev.dies (by simp) t v
@[simp] theorem Dev.cycInput_mem (t : Thread) (v : W64) : (d.cycInput t v).2.mem = d.mem := d.cycInput_keeps Dev.mem (by simp) t v
@[simp] theorem Dev.cycInput_threads (t : Thread) (v : W64) : (d.cycInput t v).2.threads = d.threads :=
  d.cycInput_keeps Dev.threads (by simp) t v

end

section
variable {d : Dev} {k n : Nat} {f : Die → Die}

theorem Dev.die_mapDie_self (hk : k < d.dies.length) : (d.mapDie k f).die k = f (d.die k) := by
  simp [Dev.mapDie, Dev.die, mapAt, hk]

theorem Dev.die_mapDie_other (hn : n ≠ k) : (d.mapDie k f).die n = d.die n := by
  simp [Dev.mapDie, Dev.die, mapAt, hn.symm]

end

/-- A job as a submission queues it under a handle with a promise. -/
structure Job.QueuedFor (j : Job) (s : Sub) (h : W32) (p : W64) : Prop where
  handle  : j.handle = h
  promise : j.promise = p
  state   : j.state = .queued
  kind    : j.kind = s.kind
  card    : j.card = s.card
  ctx     : j.ctx = s.t.ctx

/-- A die with one more job in its queue, which counts as one more submission. -/
def Die.append (k : Die) (j : Job) : Die := { k with jobs := k.jobs ++ [j], next := k.next + 1 }

section
variable (d : Dev) (s : Sub) (rel : List Thread) (die : Nat) (g : HandleReg)

/-- Of the dies, a submission changes the one that queues its job. Its promise is CYC plus a free value (the model's choice, log 54). -/
theorem Dev.enqueue_dies : let q := d.enqueue s rel die g
    ∃ j, j.QueuedFor s q.1 q.2.1 ∧ q.2.2.dies = (d.mapDie die (fun k => k.append j)).dies := by
  simp only [Dev.enqueue, apply_ite Dev.dies, Dev.mapCtx_dies, ite_self, Dev.mapDie, Dev.passTo, Dev.cycInput_dies, Dev.tick_dies]
  exact ⟨_, ⟨rfl, rfl, rfl, rfl, rfl, rfl⟩, rfl⟩

@[simp] theorem Dev.enqueue_mem : (d.enqueue s rel die g).2.2.mem = d.mem := by
  simp only [Dev.enqueue, apply_ite Dev.mem, Dev.mapCtx_mem, ite_self, Dev.mapDie_mem, Dev.passTo, Dev.cycInput_mem, Dev.tick_mem]

@[simp] theorem Dev.enqueue_threads : (d.enqueue s rel die g).2.2.threads = d.threads := by
  simp only [Dev.enqueue, apply_ite Dev.threads, Dev.mapCtx_threads, ite_self, Dev.mapDie_threads, Dev.passTo, Dev.cycInput_threads,
    Dev.tick_threads]

end

theorem Dev.die_congr {d e : Dev} (h : d.dies = e.dies) (k : Nat) : d.die k = e.die k := by rw [Dev.die, h, Dev.die]

/-- Settles O32: of the dies, queuing changes one, by its job and its count; memory and the threads stay. That a handle is the die's number
with a count modulo 2^30 is the model's choice (log 55). -/
theorem enqueueAppends : Obligations.EnqueueAppends := by
  intro d s rel die g hdie q
  obtain ⟨j, hj, hdies⟩ := d.enqueue_dies s rel die g
  have hself : q.2.2.die die = (d.die die).append j := (Dev.die_congr hdies die).trans (Dev.die_mapDie_self hdie)
  refine ⟨rfl, ⟨j, ?_, hj.handle, hj.promise, hj.state, hj.kind, hj.card, hj.ctx⟩, ?_, fun n hn => ?_, d.enqueue_mem ..,
    d.enqueue_threads ..⟩
  · rw [hself, Die.append]
  · rw [hself, Die.append]
  · exact (Dev.die_congr hdies n).trans (Dev.die_mapDie_other hn)

/-! ### Cards and their lanes (R194, R195) -/

/-- Where a lane's card in the stash begins; a card in gang scalars has no address. -/
def Dev.cardOff (d : Dev) (c : CardSrc) (t : Thread) : Nat :=
  match c with
  | .group _ => 0
  | .stash base o => ((d.env t).rowAddr false base o).1

/-- A lane's card lies in a line of another module. -/
def Dev.cardIsFar (d : Dev) (c : CardSrc) (t : Thread) : Bool :=
  match c with
  | .group _ => false
  | .stash .. => (d.cardFar t (d.cardOff c t)).isSome

/-- What the lanes ask other modules for: the lines of their cards. -/
def Dev.cardAsks (d : Dev) (c : CardSrc) (ts : List Thread) : List (Thread × Far) :=
  match c with
  | .group _ => []
  | .stash .. => ts.filterMap (fun t => (d.cardFar t (d.cardOff c t)).map (fun f => (t, f)))

/-- A lane that asks is one whose card lies far. -/
theorem Dev.cardIsFar_of_mem_cardAsks {c : CardSrc} {d : Dev} {ts : List Thread} {x : Thread × Far} (hx : x ∈ d.cardAsks c ts) :
    x.1 ∈ ts ∧ d.cardIsFar c x.1 = true := by
  cases c with
  | group a => simp [Dev.cardAsks] at hx
  | stash base o =>
    obtain ⟨t, ht, hx⟩ := List.mem_filterMap.1 hx
    obtain ⟨f, hf, rfl⟩ := Option.map_eq_some_iff.1 hx
    exact ⟨ht, by simp only [Dev.cardIsFar, hf, Option.isSome_some]⟩

/-- Every card has come: none lies far, or the lanes have asked and their answers are there (R132). -/
def Dev.CardsCome (d : Dev) (c : CardSrc) (ts : List Thread) : Prop :=
  (∀ t ∈ ts, d.cardIsFar c t = false) ∨
    ((∃ t ∈ ts, t.asked.isSome = true) ∧ ∀ t ∈ ts, d.cardIsFar c t = true → ∃ a, d.replyOf t = some a ∧ a.reply ≠ .none)

/-- A submission whose cards have come goes on with its grants claimed. -/
theorem Dev.awaitFars_of_cards {d : Dev} {c : CardSrc} {ts : List Thread} (body : Dev → Dev) (hc : d.CardsCome c ts) :
    d.awaitFars (coreOf ts) ts (d.cardAsks c ts) [] false 0 body = body (d.claimGrants (coreOf ts) (ts.map Thread.uid)) := by
  by_cases hasked : ∃ t ∈ ts, t.asked.isSome = true
  · refine Dev.awaitFars_of_answered _ hasked fun x hx => ?_
    obtain ⟨hmem, hfar⟩ := Dev.cardIsFar_of_mem_cardAsks hx
    rcases hc with hnear | ⟨-, hreply⟩
    · exact absurd hfar (by simp [hnear _ hmem])
    · exact hreply _ hmem hfar
  · have hnear : ∀ t ∈ ts, d.cardIsFar c t = false := hc.resolve_right fun h => hasked h.1
    have hnone : d.cardAsks c ts = [] := List.eq_nil_iff_forall_not_mem.2 fun x hx => by
      obtain ⟨hmem, hfar⟩ := Dev.cardIsFar_of_mem_cardAsks hx
      exact absurd hfar (by simp [hnear _ hmem])
    have hunasked : ∀ t ∈ ts, t.asked = none := fun t ht => by
      simpa using fun h => hasked ⟨t, ht, h⟩
    rw [hnone, Dev.awaitFars_of_first _ hunasked, Dev.withOtt_of_room _ (.inl rfl)]

/-! ### XCOPY and the collectives (R190, R195, R199) -/

/-- The fault of a lane's submission. -/
def Dev.submitFault (e : Dev) (k : JobKind) (r : VReg) (c : CardSrc) (d : Dev) (t : Thread) : Option Flt :=
  match d.submitLane t k r (e.cardOf t c) with
  | .ok _ => none
  | .error f => some f

/-- What a lane's submission leaves where it is accepted: its job, queued, and the promise and the handle in the lane's registers. -/
def Dev.submitAct (e : Dev) (k : JobKind) (r : VReg) (c : CardSrc) (d : Dev) (t : Thread) : Dev :=
  match d.submitLane t k r (e.cardOf t c) with
  | .ok (hd, p, d') => d'.deliver t.uid (fun y => y.wrs r [lo32 p, hi32 p, hd, 0] false)
  | .error _ => d

theorem Dev.submitFault_eq_none {e d : Dev} {k : JobKind} {r : VReg} {c : CardSrc} {t : Thread}
    (hok : ∀ f, d.submitLane t k r (e.cardOf t c) ≠ .error f) : e.submitFault k r c d t = none := by
  unfold Dev.submitFault
  cases hx : d.submitLane t k r (e.cardOf t c) with
  | ok q => rfl
  | error f => exact absurd hx (hok f)

/-- What XCOPY does once its cards have come: every lane's submission, or the fault of a lane that fails. -/
def Dev.submitEnd (h : Hd) (act : List Thread) (d : Dev) (x : Dev × List (Thread × Flt)) : Dev :=
  match pickFail x.2 with
  | some f => d.failGroup h act f
  | none => d.afterRelease act (fun d => d.logRoom act (fun _ => (x.1.takeFars (coreOf act) (act.map Thread.uid)).done h))

/-- A submission is one lane after another in the driver's fold, which collects the faults of the lanes. -/
theorem Dev.submit_eq (d : Dev) (i : Instr) (h : Hd) (r : VReg) (k : JobKind) (c : CardSrc) :
    d.submit i h r k c = d.lanesOut i h false (fun d t => d.cardOff c t :: (d.cardOf t c).1.map BitVec.toNat) (fun d t => d.cardFlt t c)
      (fun act d => d.awaitFars (coreOf act) act (d.cardAsks c act) [] false 0 (fun d =>
        d.submitEnd h act (act.foldl (serialStep (d.submitFault k r c) (fun _ f => f) (d.submitAct k r c)) (d, [])))) := by
  have hstep : ∀ e : Dev, serialStep (e.submitFault k r c) (fun _ f => f) (e.submitAct k r c) = fun x t =>
      match x.1.submitLane t k r (e.cardOf t c) with
      | .error f => (x.1, x.2 ++ [(t, f)])
      | .ok (hd, p, d') => (d'.deliver t.uid (fun y => y.wrs r [lo32 p, hi32 p, hd, 0] false), x.2) := by
    intro e
    funext x t
    simp only [serialStep, Dev.submitFault, Dev.submitAct]
    cases x.1.submitLane t k r (e.cardOf t c) <;> rfl
  simp only [hstep]
  cases c <;> rfl

/-- XCOPY or a collective queues the job of each lane in turn, where every card has come, nothing is owed and each submission is
accepted. -/
theorem exec_submit {i : Instr} {h : Hd} {r : VReg} {k : JobKind} {c : CardSrc}
    (hx : ∀ s, exec i s = onDev s (fun d => d.submit i h r k c)) {s : State}
    (hp : s.dev.OutPass i h false (fun d t => d.cardOff c t :: (d.cardOf t c).1.map BitVec.toNat) (fun d t => d.cardFlt t c = none)) :
    let o := s.dev.opened i h
    let ts := primaries (o.acting h [0])
    let e := o.claimGrants (coreOf ts) (ts.map Thread.uid)
    o.CardsCome c ts → (∀ t ∈ ts, e.owes t = false ∧ e.logStalls t.ctx = false) →
    SerialOk (fun d t => ∀ f, d.submitLane t k r (e.cardOf t c) ≠ .error f) (e.submitAct k r c) e ts →
    exec i s = .next { s with dev := ((ts.foldl (e.submitAct k r c) e).takeFars (coreOf ts) (ts.map Thread.uid)).done h } := by
  intro o ts e hcome hfree hok
  have hfaults : SerialOk (fun d t => e.submitFault k r c d t = none) (e.submitAct k r c) e ts := hok.mono fun _ _ => Dev.submitFault_eq_none
  have hend : ∀ d, e.submitEnd h ts (d, []) = (d.takeFars (coreOf ts) (ts.map Thread.uid)).done h := fun d =>
    (Dev.afterRelease_of_none _ fun t ht => (hfree t ht).1).trans (Dev.unless_of_none _ _ fun t ht => (hfree t ht).2)
  rw [hx, onDev, Dev.submit_eq, Dev.lanesOut_ok _ _ _ _ _ _ _ hp, Dev.awaitFars_of_cards _ hcome, foldl_serialStep hfaults, hend]

/-- Settles O31: each is the shared submission with its own kind of job. That each lane is checked in the state that the lanes before it left
is the model's choice (log 68). -/
theorem jobSubmission : Obligations.JobSubmission := by
  intro h r c off runs
  have queues : ∀ {i k}, (∀ s, exec i s = onDev s (fun d => d.submit i h r k c)) → runs i k := by
    intro i k hx s hp o ts far e act
    have hoff : off = fun d t => d.cardOff c t := by cases c <;> rfl
    have hfar : far = o.cardIsFar c := by cases c <;> rfl
    have hact : act = e.submitAct k r c := rfl
    rw [hoff] at hp
    rw [hfar, hact]
    exact exec_submit hx hp
  exact ⟨queues fun _ => rfl, queues fun _ => rfl, queues fun _ => rfl, queues fun _ => rfl, queues fun _ => rfl, queues fun _ => rfl⟩

/-! ### Handles (R196 to R198) -/

/-- What a lane reads its operands from depends only on the counter of free values and on the cores. -/
theorem Dev.env_congr {d e : Dev} (hctr : d.ctr = e.ctr) (hcores : d.cores = e.cores) (t : Thread) : d.env t = e.env t := by
  simp only [Dev.env, Dev.gangOf?, Dev.core, hctr, hcores]

/-- A job that runs does not fail XWAIT before its promise, and one that has ended never does. -/
theorem Dev.xwaitFlt_of_known {d : Dev} {t : Thread} {a : Src}
    (hok : ∃ st, d.jobState t ((d.env t).handle a).2.1 = some st ∧ (st.live = true → d.cyc t.ctx < ((d.env t).handle a).1)) :
    d.xwaitFlt t a = none := by
  obtain ⟨st, hst, hpromise⟩ := hok
  simp only [Dev.xwaitFlt, hst, flt_eq_none]
  refine Bool.and_eq_false_imp.2 fun hlive => ?_
  rw [decide_eq_false_iff_not]
  exact BitVec.not_le.2 (hpromise hlive)

theorem xwait_runs (h : Hd) (p : PReg) (a : Src) :
    OutRuns (.xwait h p a) h false (fun d t => [((d.env t).handle a).2.1.toNat])
      (fun d t => ∃ st, d.jobState t ((d.env t).handle a).2.1 = some st ∧ (st.live = true → d.cyc t.ctx < ((d.env t).handle a).1))
      (fun e ts => (ts.foldl (fun d t => d.xwaitLane h t p a) e).retireOff h ts) :=
  .of _ _ (fun _ => rfl) (fun _ _ => Dev.xwaitFlt_of_known) (fun _ _ => rfl)

/-- What XQRY's words leave of the device: only contexts change, by what they log. -/
theorem Dev.xqryWords_keeps {α : Type} (f : Dev → α) (hf : ∀ (d : Dev) (k : Nat) (g : Ctx → Ctx), f (d.mapCtx k g) = f d) (d : Dev)
    (t : Thread) (a : Src) : f (d.xqryWords t a).2 = f d := by
  simp only [Dev.xqryWords]
  split
  case h_1 =>
    split
    case isTrue => exact d.cycInput_keeps f hf ..
    case isFalse => rfl
  case h_2 => rfl

/-- Whether a lane's handle is poisoned does not depend on the lanes before it. -/
theorem Dev.foldl_xqry {e d : Dev} {r : VReg} {a : Src} {ts : List Thread} (hctr : d.ctr = e.ctr) (hcores : d.cores = e.cores) :
    ts.foldl (fun d t => (d.xqryWords t a).2.deliver t.uid (fun x => x.wrs r (d.xqryWords t a).1 ((d.env t).handle a).2.2)) d =
      ts.foldl (fun d t => (d.xqryWords t a).2.deliver t.uid (fun x => x.wrs r (d.xqryWords t a).1 ((e.env t).handle a).2.2)) d := by
  induction ts generalizing d with
  | nil => simp only [List.foldl_nil]
  | cons t ts ih =>
    rw [List.foldl_cons, List.foldl_cons, Dev.env_congr hctr hcores]
    have hctr' : (d.xqryWords t a).2.ctr = e.ctr := (Dev.xqryWords_keeps Dev.ctr (by simp) d t a).trans hctr
    have hcores' : (d.xqryWords t a).2.cores = e.cores := (Dev.xqryWords_keeps Dev.cores (by simp) d t a).trans hcores
    exact ih hctr' hcores'

theorem xqry_runs (h : Hd) (r : VReg) (a : Src) :
    OutRuns (.xqry h r a) h false (fun d t => [((d.env t).handle a).2.1.toNat])
      (fun d t => (d.jobState t ((d.env t).handle a).2.1).isSome = true ∧ d.logStalls t.ctx = false)
      (fun e ts => (ts.foldl (fun d t =>
        (d.xqryWords t a).2.deliver t.uid (fun x => x.wrs r (d.xqryWords t a).1 ((e.env t).handle a).2.2)) e).done h) := by
  refine .of _ _ (fun _ => rfl) (fun e t hok => ?_) (fun e hp => ?_)
  · rw [flt_eq_none]
    simpa [Option.isSome_iff_ne_none] using hok.1
  · rw [← Dev.foldl_xqry rfl rfl]
    exact Dev.unless_of_none _ _ fun t ht => (hp t (mem_of_mem_primaries ht)).2.2

theorem xcancel_runs (h : Hd) (p : PReg) (a : Src) :
    OutRuns (.xcancel h p a) h false (fun d t => [((d.env t).handle a).2.1.toNat]) (fun _ _ => True)
      (fun e ts => (ts.foldl (fun d t => d.xcancelLane t p a) e).done h) :=
  .of _ _ (fun _ => rfl) (fun _ _ _ => rfl) (fun _ _ => rfl)

/-- Settles O34: each serves its lanes in turn. That XCANCEL of a handle of another context, or of one never issued, writes 0x00 and raises
nothing is the model's choice (log 135). -/
theorem jobHandles : Obligations.JobHandles := fun h p r a => ⟨xwait_runs h p a, xqry_runs h r a, xcancel_runs h p a⟩

/-! ### FPUT and FGET (R208) -/

/-- No thread issues when a rendezvous completes. -/
theorem Dev.members_of_complete {d : Dev} {core k : Nat} (hc : d.cur = .complete core k) : d.members = [] := by
  have hgroup : d.group = [] := by simp only [Dev.group, hc]
  rw [List.eq_nil_iff_forall_not_mem]
  intro t ht
  simpa [hgroup] using (Dev.mem_members.1 ht).2

/-- The registers of a card of four words. -/
def xferRegs (a : SReg) : List SReg := (upTo 4).map (fun n => a + BitVec.ofNat 6 n)

/-- The transfer that a rank's thread submits. -/
def Dev.xferOf (d : Dev) (m : Meet) (k : JobKind) (a : SReg) (rank : BitVec 6) : Option Sub :=
  (m.at rank.toNat).bind (fun t => d.subOf t k ((xferRegs a).map m.gang.sreg))

/-- The completion of FPUT or FGET with its transfer queued. -/
def Dev.xferDone (d : Dev) (h : Hd) (m : Meet) (r : SReg) (s : Sub) : Dev :=
  let q := d.enqueue s (m.parts.map Prod.snd) (dieOf m.core) (.s (r + 1))
  (q.2.2.mapGang m.core m.idx (fun g => (g.setS r q.2.1 false).setS (r + 1) (zext64 q.1) false)).meetDone h m

theorem Dev.fxferRun_of_sub {d : Dev} {h : Hd} {k : JobKind} {r a : SReg} {rank : BitVec 6} {m : Meet} {act : List Thread} {s : Sub}
    (hact : act ≠ []) (hpsn : ∀ n < 4, m.gang.spsn (a + BitVec.ofNat 6 n) = false) (hs : d.xferOf m k a rank = some s)
    (hf : d.fxferFlt s (dieOf m.core) = none) : d.fxferRun h k r a rank.toNat m act = d.xferDone h m r s := by
  have hclean : (xferRegs a).find? m.gang.spsn = none := by
    rw [List.find?_eq_none]
    intro q hq
    obtain ⟨n, hn, rfl⟩ := List.mem_map.1 hq
    simp [hpsn n (by simpa [upTo] using hn)]
  unfold xferRegs at hclean
  unfold Dev.xferOf xferRegs at hs
  simp only [Dev.fxferRun, if_neg hact, hclean, hs, hf]
  rfl

/-- FPUT and FGET wait for nothing at the completion of their rendezvous, for no thread issues them then. -/
theorem fxfer_runs {i : Instr} {h : Hd} {k : JobKind} {r a : SReg} {rank : BitVec 6}
    (hx : ∀ s, exec i s = onDev s (fun d => d.fxfer i h k r a rank)) :
    MeetRuns i h
      (fun d m => m.true? h ≠ [] → (∀ n < 4, m.gang.spsn (a + BitVec.ofNat 6 n) = false) ∧
        ∃ s, d.xferOf m k a rank = some s ∧ d.fxferFlt s (dieOf m.core) = none)
      (fun d m act =>
        match act, d.xferOf m k a rank with
        | _ :: _, some s => d.xferDone h m r s
        | _, _ => d.meetDone h m) := by
  intro s m hm hok
  have hcur := hm.1
  have hfxfer : s.dev.fxfer i h k r a rank = s.dev.tick.fxferRun h k r a rank.toNat m (m.true? h) := by
    rw [Dev.fxfer, Dev.members_of_complete hcur, Dev.unless_of_none _ _ (by simp [primaries]), Dev.gangWide_ok _ _ _ _ m hm]
  rw [hx, onDev, hfxfer]
  cases hact : m.true? h with
  | nil => rfl
  | cons t ts =>
    obtain ⟨hpsn, sub, hsub, hflt⟩ := hok (by simp [hact])
    simp only [Dev.fxferRun_of_sub (List.cons_ne_nil t ts) hpsn hsub hflt, hsub]

/-! ### FSIG (R210) -/

/-- This module's number in a thread's context (R26). -/
def Dev.ownVm (d : Dev) (t : Thread) : Nat := ((d.ctx? t.ctx).map Ctx.vm).getD 0

/-- FSIG whose checks pass and which waits for nothing sends the packets of the lanes whose endpoints lie away, retires, and delivers the
bytes of the others. -/
theorem exec_fsig {h : Hd} {x : FsigSrc} {s : State}
    (hp : s.dev.OutPass (.fsig h x) h false (fun d t => let o := (d.env t).fsigOps x; [o.1.toNat, o.2.1])
      (fun d t => d.fsigFlt t x = none ∧ d.owes t = false)) :
    let e := s.dev.opened (.fsig h x) h
    let ts := primaries (e.acting h [0])
    let op := fun (t : Thread) => (e.env t).fsigOps x
    let away := ts.filter (fun t => endpointVm (op t).1 ≠ e.ownVm t)
    let here := ts.filter (fun t => endpointVm (op t).1 = e.ownVm t)
    let f := e.claimGrants (coreOf ts) (ts.map Thread.uid)
    e.InTurn ts (fun t => e.fsigPlace t x) →
    (away.length = 0 ∨ (away.length ≤ f.ottFree (coreOf ts) ∧
      ((e.core (coreOf ts)).ott.length ≠ (f.core (coreOf ts)).ott.length ∨ f.ottWaiters (coreOf ts) = []))) →
    let d := (away.foldl (fun (d : Dev) t => d.sendFars none [(t, sigFar (op t).1 (op t).2.1)]) f).done h
    exec (.fsig h x) s = .next { s with dev := here.foldl (fun d t => d.fsigHere t (op t).1 (op t).2.1 (e.ownVm t)) d } := by
  intro e ts op away here f hturn hroom d
  have howes : ∀ t ∈ ts, e.owes t = false := fun t ht => (hp.1 t (mem_of_mem_primaries ht)).2.2
  change execFsig h x s = _
  rw [execFsig, onDev, Dev.lanesOut_ok _ _ _ _ _ _ _ (hp.mono fun _ _ hok => hok.1)]
  simp only [List.filter_map, List.length_map, List.foldl_map]
  rw [Dev.afterRelease_of_none _ howes, Dev.inTurn_of _ hturn]
  exact congrArg (fun d => Host.Outcome.next { s with dev := d }) (Dev.withOtt_of_room _ hroom)

/-- Settles O33: FPUT and FGET are the shared transfer; FSIG's packets leave before its bytes arrive here. -/
theorem fabricTransfers : Obligations.FabricTransfers := by
  refine ⟨fun h r a rank => ?_, fun h x s hp => exec_fsig hp⟩
  exact ⟨fxfer_runs fun _ => rfl, fxfer_runs fun _ => rfl⟩

end Sys2Proof.Machine

/-! SUPPORT. FFLAG, the random draws, PLOP and PMOV (spec/09 R231, spec/10 R264 to R267). -/

namespace Sys2Proof.Machine

/-- An instruction whose lanes each change by a function of what the device held before it completes with that change. -/
theorem LaneRuns.of_mapUids {i : Instr} {h : Hd} {bits : List Nat} {g : Bool} {ok : Dev → Thread → Prop} (F : Dev → Thread → Thread)
    (hx : ∀ s : State, exec i s =
      onDev s (fun d => d.lanes i h bits g (fun act d => (d.mapUids (act.map Thread.uid) (F d)).done h)))
    (hu : ∀ e t, (F e t).uid = t.uid) : LaneRuns i h bits g ok F :=
  .of _ F hx hu (fun _ _ => rfl) (fun _ _ _ _ _ => rfl)

/-! ### FFLAG (R264) -/

/-- Where no lane holds a flag of the mask, the OR over the lanes is zero and FFLAG.TRAP names no cause. -/
theorem fflagFail_of_clear {act : List Thread} {mask : BitVec 5} (hclear : ∀ t ∈ act, t.flags &&& mask = 0) :
    fflagFail act mask = none := by
  have hall : act.foldl (fun (x : BitVec 5) t => x ||| (t.flags &&& mask)) 0 = 0 :=
    List.foldlRecOn act _ (motive := (· = 0)) rfl (fun x hx t ht => by rw [hx, hclear t ht]; rfl)
  have hlow : lowestFlag 0 = none := by decide
  simp only [fflagFail, hall, hlow]

/-- FFLAG.TRAP whose lanes hold no flag of the mask changes no thread before it retires. -/
theorem fflagTrap_runs (h : Hd) (mask : BitVec 5) :
    LaneRuns (.fflagTrap h mask) h [0] false (fun _ t => t.flags &&& mask = 0) (fun _ t => t) := by
  refine .of _ (fun _ t => t) (fun _ => rfl) (fun _ _ => rfl) (fun e hp => ?_) (fun _ _ _ _ _ => rfl)
  simp only [fflagFail_of_clear fun t ht => (hp t ht).2, Dev.mapUids_id]

/-! ### The draws (R265) -/

/-- RNGD whose counters are not exhausted draws in the lanes that act for their pairs. -/
theorem rngd_runs (h : Hd) (f : Bool) (r : VReg) :
    OutRuns (.rngd h f r) h false (fun _ t => [t.rngcnt.toNat]) (fun _ t => t.rngcnt ≠ BitVec.allOnes 32)
      (fun e act => e.each h act (fun d t x =>
        { (x.wrRes h r (drawWords f (mix64 (t.tid ++ t.rngcnt) (d.sgen t))) false) with rngcnt := t.rngcnt + 1 })) :=
  .of _ _ (fun _ => rfl) (fun _ _ hcnt => flt_none (decide_eq_false hcnt)) (fun _ _ => rfl)

/-! ### PLOP and PMOV (R266, R267) -/

/-- The truth table's function, as its eight bits put together. -/
theorem plopOp_eq_merged (tab a b c : Byte) :
    plopOp tab a b c = BitVec.ofNat 8 (merged 1 8 (fun _ => true) (fun k =>
      b2n (tab.getLsbD (4 * b2n (a.getLsbD k) + 2 * b2n (b.getLsbD k) + b2n (c.getLsbD k)))) 0) := by
  have hbit : ∀ (y : Bool) (x k : Nat), (if y then x + 2 ^ k else x) = x + b2n y % 2 ^ 1 * 2 ^ (1 * k) := by
    intro y x k
    cases y <;> simp [b2n]
  simp only [plopOp, hbit, foldl_add, Nat.zero_add]
  rfl

/-- Each form of PMOV completes with what it does to one thread. -/
theorem pmov_runs (h : Hd) (f : PmovForm) :
    LaneRuns (.pmov h f) h [0] false (fun _ _ => True) (fun e t => pmovLane f e.ctr t) := by
  refine .of_mapUids _ (fun _ => rfl) (fun e t => ?_)
  cases f with
  | toV r a => exact (t.keeps_wr ..).uid
  | fromV p a => exact (t.keeps_setPred ..).uid
  | imm p x => exact (t.keeps_setPred ..).uid

/-- Settles O7: FFLAG, RNGS, PLOP and PMOV change each lane by itself; RNGD is a side-unit operation, whose operand protected pairs compare
first (R405). -/
theorem flagsDrawsPredicates : Obligations.FlagsDrawsPredicates := by
  refine ⟨fun h m => ⟨fflagTrap_runs h m, ?clr⟩, fun h r => ?rd, rngd_runs, fun h f r a k => ?rngs, fun h p a b c tab => ?plop,
    fun h p r x => ⟨pmov_runs h (.toV r p), pmov_runs h (.fromV p r), pmov_runs h (.imm p x)⟩⟩
  case clr => exact .of_mapUids _ (fun _ => rfl) (fun _ _ => rfl)
  case rd => exact .of_mapUids _ (fun _ => rfl) (fun _ t => (t.keeps_wr ..).uid)
  case rngs => exact .of_mapUids _ (fun _ => rfl) (fun _ t => (t.keeps_wrs ..).uid)
  case plop =>
    simp only [← plopOp_eq_merged]
    exact .of_mapUids _ (fun _ => rfl) (fun _ t => (t.keeps_setPred ..).uid)

end Sys2Proof.Machine

/-! SUPPORT. Numbers made of bits, and the bit operations of R241 to R243 as operations on bit vectors. -/

namespace Sys2Proof.Machine

/-! ### Numbers made of bits -/

theorem bitOf_eq_testBit (x k : Nat) : bitOf x k = x.testBit k := by
  simp [bitOf, Nat.testBit_eq_decide_div_mod_eq]

theorem getLsbD_eq_bitOf {w : Nat} (x : BitVec w) (k : Nat) : x.getLsbD k = bitOf x.toNat k := by
  rw [bitOf_eq_testBit, BitVec.getLsbD]

theorem toNat_extractLsb'_eq_bitsOf {w : Nat} (x : BitVec w) (p n : Nat) : (x.extractLsb' p n).toNat = bitsOf x.toNat p n := by
  rw [BitVec.extractLsb'_toNat, Nat.shiftRight_eq_div_pow, bitsOf]

/-- The number whose bits below `n` are those of `p`. -/
def bitSum (p : Nat → Bool) (n : Nat) : Nat := (upTo n).foldl (fun m k => if p k then m + 2 ^ k else m) 0

theorem bitSum_succ (p : Nat → Bool) (n : Nat) : bitSum p (n + 1) = if p n then bitSum p n + 2 ^ n else bitSum p n := by
  simp [bitSum, upTo, List.range_succ]

theorem bitSum_lt (p : Nat → Bool) (n : Nat) : bitSum p n < 2 ^ n := by
  induction n with
  | zero => simp [bitSum, upTo]
  | succ n ih =>
    rw [bitSum_succ, Nat.pow_succ]
    split <;> omega

theorem testBit_bitSum (p : Nat → Bool) (n k : Nat) : (bitSum p n).testBit k = (decide (k < n) && p k) := by
  induction n with
  | zero => simp [bitSum, upTo]
  | succ n ih =>
    have hlt := bitSum_lt p n
    rw [bitSum_succ]
    rcases Nat.lt_trichotomy k n with hk | rfl | hk
    · have hsucc : k < n + 1 := by omega
      split
      · rw [Nat.add_comm, Nat.testBit_two_pow_add_gt hk, ih]
        simp [hk, hsucc]
      · rw [ih]
        simp [hk, hsucc]
    · split
      · next hp => rw [Nat.add_comm, Nat.testBit_two_pow_add_eq, ih]; simp [hp]
      · next hp => rw [ih]; simp [hp]
    · have hle : n + 1 ≤ k := hk
      have hsmall : bitSum p (n + 1) < 2 ^ k := lt_of_lt_of_le (bitSum_lt p (n + 1)) (Nat.pow_le_pow_right (by decide) hle)
      rw [← bitSum_succ, Nat.testBit_lt_two_pow hsmall]
      simp [show ¬ k < n + 1 by omega]

/-- Bit k of a mask says whether k is listed. -/
theorem testBit_maskOf (ks : List Nat) (k : Nat) : (maskOf ks).testBit k = (decide (k < 64) && ks.contains k) :=
  testBit_bitSum ks.contains 64 k

/-! ### The operations (R241 to R243) -/

section
variable {w a b : Nat}

theorem toNat_ofNat_of_lt (ha : a < 2 ^ w) : (BitVec.ofNat w a).toNat = a := by
  rw [BitVec.toNat_ofNat, Nat.mod_eq_of_lt ha]

theorem and_eq_toNat (ha : a < 2 ^ w) (hb : b < 2 ^ w) : a &&& b = (BitVec.ofNat w a &&& BitVec.ofNat w b).toNat := by
  rw [BitVec.toNat_and, toNat_ofNat_of_lt ha, toNat_ofNat_of_lt hb]

theorem or_eq_toNat (ha : a < 2 ^ w) (hb : b < 2 ^ w) : a ||| b = (BitVec.ofNat w a ||| BitVec.ofNat w b).toNat := by
  rw [BitVec.toNat_or, toNat_ofNat_of_lt ha, toNat_ofNat_of_lt hb]

theorem xor_eq_toNat (ha : a < 2 ^ w) (hb : b < 2 ^ w) : a ^^^ b = (BitVec.ofNat w a ^^^ BitVec.ofNat w b).toNat := by
  rw [BitVec.toNat_xor, toNat_ofNat_of_lt ha, toNat_ofNat_of_lt hb]

theorem andn_eq_toNat (ha : a < 2 ^ w) (hb : b < 2 ^ w) :
    a &&& (b ^^^ (2 ^ w - 1)) = (BitVec.ofNat w a &&& ~~~(BitVec.ofNat w b)).toNat := by
  rw [← BitVec.xor_allOnes, BitVec.toNat_and, BitVec.toNat_xor, BitVec.toNat_allOnes, toNat_ofNat_of_lt ha, toNat_ofNat_of_lt hb]

theorem elemInt_signed (hw : 0 < w) (ha : a < 2 ^ w) : elemInt true w a = (BitVec.ofNat w a).toInt := by
  obtain ⟨n, rfl⟩ : ∃ n, w = n + 1 := ⟨w - 1, by omega⟩
  rw [BitVec.toInt_eq_toNat_cond, toNat_ofNat_of_lt ha, elemInt, Nat.add_sub_cancel, Nat.pow_succ]
  have hcast : ((2 ^ n * 2 : Nat) : Int) = 2 ^ (n + 1) := by push_cast; ring
  by_cases hbig : 2 ^ n ≤ a
  · rw [if_pos (by simpa using hbig), if_neg (by omega), hcast]
  · rw [if_neg (by simpa using hbig), if_pos (by omega)]

/-- The ones below bit n, counted. -/
theorem cpopNatRec_eq_length (x : BitVec w) (n : Nat) :
    x.cpopNatRec n 0 = ((upTo n).filter (fun k => x.getLsbD k)).length := by
  induction n with
  | zero => rfl
  | succ n ih =>
    have hsnoc : upTo (n + 1) = upTo n ++ [n] := List.range_succ
    rw [BitVec.cpopNatRec_succ, BitVec.cpopNatRec_eq, ih, hsnoc, List.filter_append, List.length_append]
    cases hbit : x.getLsbD n <;> simp [hbit]

theorem popCount_eq_cpop (hw : w ≤ 64) (ha : a < 2 ^ w) : popCount a = (BitVec.ofNat w a).cpop.toNat := by
  obtain ⟨k, hk⟩ := Nat.exists_eq_add_of_le hw
  have hbits : ∀ j, bitOf a j = (BitVec.ofNat w a).getLsbD j := fun j => by
    rw [getLsbD_eq_bitOf, toNat_ofNat_of_lt ha]
  have hcount : popCount a = (BitVec.ofNat w a).cpopNatRec w 0 := by
    rw [← BitVec.cpopNatRec_of_le k w (le_refl w), ← hk, cpopNatRec_eq_length]
    simp only [popCount, hbits]
  have hle := (BitVec.ofNat w a).cpopNatRec_le (acc := 0) w
  rw [hcount, BitVec.cpop, BitVec.toNat_ofNat, Nat.mod_eq_of_lt]
  exact lt_of_le_of_lt (by omega) Nat.lt_two_pow_self

theorem clzOp_eq_clz (hw : 0 < w) (ha : a < 2 ^ w) : clzOp w a = (BitVec.ofNat w a).clz.toNat := by
  have hval := toNat_ofNat_of_lt ha
  rw [clzOp, bitLen]
  by_cases hzero : a = 0
  · have hclz : (BitVec.ofNat w a).clz = BitVec.ofNat w w := BitVec.clz_eq_iff_eq_zero.2 (by rw [hzero])
    rw [if_pos hzero, hclz, toNat_ofNat_of_lt Nat.lt_two_pow_self, Nat.sub_zero]
  · have hne : BitVec.ofNat w a ≠ 0#w := fun h => hzero (by rw [← hval, h, BitVec.toNat_zero])
    have hlow := BitVec.two_pow_sub_clz_le_toNat_of_ne_zero hw hne
    have hhigh := BitVec.toNat_lt_two_pow_sub_clz (x := BitVec.ofNat w a)
    have hlt := BitVec.clz_lt_iff_ne_zero.2 hne
    rw [BitVec.lt_def, BitVec.natCast_eq_ofNat, toNat_ofNat_of_lt Nat.lt_two_pow_self] at hlt
    rw [hval] at hlow hhigh
    have hlog : a.log2 = w - 1 - (BitVec.ofNat w a).clz.toNat := by
      rw [Nat.log2_eq_iff hzero]
      refine ⟨hlow, ?_⟩
      rwa [show w - 1 - (BitVec.ofNat w a).clz.toNat + 1 = w - (BitVec.ofNat w a).clz.toNat by omega]
    rw [if_neg hzero, hlog]
    omega

/-- Bit k of the reversed bits is bit w − 1 − k. -/
theorem brevOp_eq_bitSum : brevOp w a = bitSum (fun k => bitOf a (w - 1 - k)) w := by
  have hadd : ∀ (y : Bool) (x k : Nat), (if y then x + 2 ^ k else x) = x + (if y then 2 ^ k else 0) := by
    intro y x k
    cases y <;> simp
  simp only [brevOp, bitSum, hadd, foldl_add, upTo, Nat.zero_add]
  have hsum : ∀ f : Nat → Nat, ((List.range w).map f).sum = ∑ k ∈ Finset.range w, f k := fun f => rfl
  rw [hsum, hsum, ← Finset.sum_range_reflect]
  refine Finset.sum_congr rfl (fun k hk => ?_)
  have : k < w := Finset.mem_range.1 hk
  rw [show w - 1 - (w - 1 - k) = k by omega]

theorem brevOp_eq_reverse (ha : a < 2 ^ w) : brevOp w a = (BitVec.ofNat w a).reverse.toNat := by
  refine Nat.eq_of_testBit_eq (fun k => ?_)
  rw [brevOp_eq_bitSum, testBit_bitSum, ← BitVec.getLsbD, BitVec.getLsbD_reverse, BitVec.getMsbD, getLsbD_eq_bitOf,
    toNat_ofNat_of_lt ha]

theorem bfxOp_eq_extract (sg : Bool) (p len : Nat) (ha : a < 2 ^ w) :
    bfxOp sg w a p len =
      let n := if w ≤ p then 0 else min len (w - p)
      let g := (BitVec.ofNat w a).extractLsb' p n
      if sg then (g.signExtend w).toNat else g.toNat := by
  change bfxOp sg w a p len = (if sg then (((BitVec.ofNat w a).extractLsb' p (fieldLen w p len)).signExtend w).toNat
    else ((BitVec.ofNat w a).extractLsb' p (fieldLen w p len)).toNat)
  have hfield : ((BitVec.ofNat w a).extractLsb' p (fieldLen w p len)).toNat = a / 2 ^ p % 2 ^ fieldLen w p len := by
    rw [toNat_extractLsb'_eq_bitsOf, toNat_ofNat_of_lt ha, bitsOf]
  rw [bfxOp]
  generalize (BitVec.ofNat w a).extractLsb' p (fieldLen w p len) = g at hfield
  generalize fieldLen w p len = n at g hfield
  simp only [← hfield]
  by_cases hn : n = 0
  · subst hn
    rw [if_pos rfl, BitVec.of_length_zero (x := g), BitVec.toNat_signExtend]
    simp
  · rw [if_neg hn, elemInt_signed (by omega) g.isLt, BitVec.ofNat_toNat, BitVec.setWidth_eq, wrap_eq]
    rfl

theorem bfiOp_eq_mask (p len : Nat) (hb : b < 2 ^ w) :
    bfiOp w a b p len =
      let n := if w ≤ p then 0 else min len (w - p)
      let mask := (BitVec.ofNat w (2 ^ n - 1)) <<< p
      ((BitVec.ofNat w a <<< p &&& mask) ||| (BitVec.ofNat w b &&& ~~~mask)).toNat := by
  change bfiOp w a b p len = ((BitVec.ofNat w a <<< p &&& BitVec.ofNat w (2 ^ fieldLen w p len - 1) <<< p) |||
    (BitVec.ofNat w b &&& ~~~(BitVec.ofNat w (2 ^ fieldLen w p len - 1) <<< p))).toNat
  rw [bfiOp]
  have hfit : fieldLen w p len = 0 ∨ p + fieldLen w p len ≤ w := by unfold fieldLen; split <;> omega
  generalize fieldLen w p len = n at hfit
  have hbit : ∀ k, w ≤ k → b.testBit k = false := fun k hk =>
    Nat.testBit_lt_two_pow (lt_of_lt_of_le hb (Nat.pow_le_pow_right (by decide) hk))
  refine Nat.eq_of_testBit_eq (fun k => ?_)
  rw [← BitVec.getLsbD]
  simp only [BitVec.getLsbD_or, BitVec.getLsbD_and, BitVec.getLsbD_not, BitVec.getLsbD_shiftLeft, BitVec.getLsbD_ofNat,
    Nat.testBit_two_pow_sub_one]
  by_cases hn : n = 0
  · rw [if_pos hn, hn]
    by_cases hk : k < w
    · simp [hk]
    · simp [hk, hbit k (by omega)]
  · have hparts : b % 2 ^ p + a % 2 ^ n * 2 ^ p + b / 2 ^ (p + n) * 2 ^ (p + n) =
        2 ^ p * (2 ^ n * (b / 2 ^ (p + n)) + a % 2 ^ n) + b % 2 ^ p := by
      rw [Nat.pow_add]
      ring
    rw [if_neg hn, hparts, Nat.testBit_two_pow_mul_add _ (Nat.mod_lt _ (by positivity)),
      Nat.testBit_two_pow_mul_add _ (Nat.mod_lt _ (by positivity)), Nat.testBit_mod_two_pow, Nat.testBit_mod_two_pow,
      Nat.testBit_div_two_pow]
    have hlow := hbit k
    by_cases hkp : k < p
    · simp [hkp, show k < w by omega]
    · by_cases hkn : k - p < n
      · simp [hkp, hkn, show k < w by omega, show k - p < w by omega]
      · have hk : k - p - n + (p + n) = k := by omega
        by_cases hkw : k < w
        · simp [hkp, hkn, hkw, hk]
        · simp [hkp, hkn, hkw, hk, hlow (by omega)]

end

end Sys2Proof.Machine

/-! SUPPORT. The instructions of one result without flags, in lanes and in gang scalars (R237, R241 to R246, R250, R251). -/

namespace Sys2Proof.Machine

/-! ### The same instruction with its operation said another way -/

section
variable {i : Instr} {h : Hd} {two : Bool} {a b c : Opd}

/-- What a lane does may be said by any function with the same values. -/
theorem LaneRuns.congr {bits : List Nat} {g : Bool} {ok : Dev → Thread → Prop} {F F' : Dev → Thread → Thread}
    (hr : LaneRuns i h bits g ok F) (hF : ∀ e t, F e t = F' e t) : LaneRuns i h bits g ok F' := by
  obtain rfl : F = F' := by funext e t; exact hF e t
  exact hr

/-- The value that a gang-wide instruction writes matters only for sources that have been read. -/
theorem ScalarRuns.congr {r : SReg} {ok : Srcs → Prop} {val val' : Srcs → Nat × FFlags} {put : Srcs → Thread → Thread}
    (hr : ScalarRuns i h r a b c ok val put) (hv : ∀ e : Env, val (e.srcs a b c) = val' (e.srcs a b c)) :
    ScalarRuns i h r a b c ok val' put := by
  intro s m hm hok
  rw [hr s m hm hok]
  cases hact : m.true? h with
  | nil => rfl
  | cons t ts => simp only [Meet.srcs, hact, hv]

/-! ### One result in a lane or in a gang scalar -/

/-- A vector form without flags completes with what its function gives for sources that have been read. -/
theorem RawRuns.of {r : VReg} {f : Srcs → Nat} {g : Nat → Nat → Nat → Nat}
    (hx : ∀ s : State, exec i s = onDev s (fun d => d.alu i h (.v r) two a b c (AluFn.raw (wideW two) f)))
    (hfg : ∀ e : Env, f (e.srcs a b c) = g (e.srcs a b c).a (e.srcs a b c).b (e.srcs a b c).c) : RawRuns i h two r a b c g :=
  raw_runs i h two r a b c _ f g rfl (fun e => by rw [hfg]) hx

/-- A gang-wide form of one result writes its low bits, and its flags go to the participants whose guard is true. -/
theorem ScalarRuns.of_one {r : SReg} {f : Srcs → Nat × FFlags}
    (hx : ∀ s : State, exec i s = onDev s (fun d => d.alu i h (.s r) two a b c (AluFn.one (wideW two) f))) :
    ScalarRuns i h r a b c (fun _ => True) (fun s => ((f s).1 % 2 ^ wideW two, (f s).2)) (fun _ t => t) := by
  refine aluGang_runs hx (fun s _ => ?_) (fun s => ?_) (fun s x => ?_)
  · rw [AluFn.run_mark, List.any_eq_false]
    simp [AluFn.one]
  · rw [AluFn.run_val]
    simp [AluFn.one, merged, upTo]
  · simp [aluPart, AluFn.run_flags, AluFn.one, upTo]

end

/-! ### The instructions of one result without flags -/

/-- An instruction of one result without flags is the shared arithmetic with the operation `g`, for every destination. -/
def RawOp (i : Dst → Instr) (h : Hd) (two : Bool) (a b c : Opd) (g : Nat → Nat → Nat → Nat) : Prop :=
  ∃ f : Srcs → Nat,
    (∀ (dst : Dst) (s : State), exec (i dst) s = onDev s (fun d => d.alu (i dst) h dst two a b c (AluFn.raw (wideW two) f))) ∧
      ∀ e : Env, f (e.srcs a b c) = g (e.srcs a b c).a (e.srcs a b c).b (e.srcs a b c).c

section
variable {i : Dst → Instr} {h : Hd} {two : Bool} {a b c : Opd} {g g' : Nat → Nat → Nat → Nat}

theorem RawOp.congr (ho : RawOp i h two a b c g)
    (hg : ∀ e : Env, g (e.srcs a b c).a (e.srcs a b c).b (e.srcs a b c).c = g' (e.srcs a b c).a (e.srcs a b c).b (e.srcs a b c).c) :
    RawOp i h two a b c g' := by
  obtain ⟨f, hx, hf⟩ := ho
  exact ⟨f, hx, fun e => (hf e).trans (hg e)⟩

/-- Its vector form gives the operation's result in each lane. -/
theorem RawOp.vector (ho : RawOp i h two a b c g) (r : VReg) : RawRuns (i (.v r)) h two r a b c g := by
  obtain ⟨f, hx, hf⟩ := ho
  exact .of (hx (.v r)) hf

/-- Its gang-wide form gives the operation's result once. -/
theorem RawOp.scalar (ho : RawOp i h two a b c g) (r : SReg) : RawScalar (i (.s r)) h two r a b c g := by
  obtain ⟨f, hx, hf⟩ := ho
  have hone : ScalarRuns (i (.s r)) h r a b c (fun _ => True) (fun s => (f s % 2 ^ wideW two, 0)) (fun _ t => t) :=
    .of_one (f := fun s => (f s, 0)) (hx (.s r))
  exact hone.congr (fun e => by rw [hf])

end

/-! ### The sources of an instruction lie below their width -/

section
variable (e : Env) (w : Bool) (a : Src) (y : SrcI) (o p : Opd)

theorem srcs_a_lt : (e.srcs (opdOf w a) o p).a < 2 ^ wideW w := read_src_lt e 0 w a
theorem srcs_b_lt : (e.srcs o (opdOf w a) p).b < 2 ^ wideW w := read_src_lt e 1 w a
theorem srcs_b_lt_second (sg : Bool) : (e.srcs o (opdI w sg y) p).b < 2 ^ wideW w := read_srcI_lt e 1 w sg y

end

theorem wideW_pos (w : Bool) : 0 < wideW w := by cases w <;> decide
theorem wideW_le (w : Bool) : wideW w ≤ 64 := by cases w <;> decide

/-! ### Logical, shift, count and bit-field instructions (R241 to R243) -/

section
variable (h : Hd) (w : Bool) (a b : Src) (y : SrcI)

theorem rawOp_and : RawOp (fun d => .and h w d a y) h w (opdOf w a) (opdI w false y) .none
    (fun a b _ => (BitVec.ofNat (wideW w) a &&& BitVec.ofNat (wideW w) b).toNat) :=
  ⟨_, fun _ _ => rfl, fun _ => and_eq_toNat (srcs_a_lt ..) (srcs_b_lt_second ..)⟩

theorem rawOp_or : RawOp (fun d => .or h w d a y) h w (opdOf w a) (opdI w false y) .none
    (fun a b _ => (BitVec.ofNat (wideW w) a ||| BitVec.ofNat (wideW w) b).toNat) :=
  ⟨_, fun _ _ => rfl, fun _ => or_eq_toNat (srcs_a_lt ..) (srcs_b_lt_second ..)⟩

theorem rawOp_xor : RawOp (fun d => .xor h w d a y) h w (opdOf w a) (opdI w false y) .none
    (fun a b _ => (BitVec.ofNat (wideW w) a ^^^ BitVec.ofNat (wideW w) b).toNat) :=
  ⟨_, fun _ _ => rfl, fun _ => xor_eq_toNat (srcs_a_lt ..) (srcs_b_lt_second ..)⟩

theorem rawOp_andn : RawOp (fun d => .andn h w d a y) h w (opdOf w a) (opdI w false y) .none
    (fun a b _ => (BitVec.ofNat (wideW w) a &&& ~~~(BitVec.ofNat (wideW w) b)).toNat) :=
  ⟨_, fun _ _ => rfl, fun _ => andn_eq_toNat (srcs_a_lt ..) (srcs_b_lt_second ..)⟩

theorem rawOp_shl : RawOp (fun d => .shl h w d a y) h w (opdOf w a) (opdI false false y) .none
    (fun a s _ => (BitVec.ofNat (wideW w) a <<< (s % 256)).toNat) :=
  ⟨_, fun _ _ => rfl, fun _ => shl_op⟩

theorem rawOp_shr : RawOp (fun d => .shr h w d a y) h w (opdOf w a) (opdI false false y) .none
    (fun a s _ => (BitVec.ofNat (wideW w) a >>> (s % 256)).toNat) :=
  ⟨_, fun _ _ => rfl, fun _ => shr_op (srcs_a_lt ..)⟩

theorem rawOp_sar : RawOp (fun d => .sar h w d a y) h w (opdOf w a) (opdI false false y) .none
    (fun a s _ => ((BitVec.ofNat (wideW w) a).sshiftRight (s % 256)).toNat) :=
  ⟨_, fun _ _ => rfl, fun _ => sar_op (wideW_pos w) (srcs_a_lt ..)⟩

theorem rawOp_rol : RawOp (fun d => .rol h w d a y) h w (opdOf w a) (opdI false false y) .none
    (fun a s _ => ((BitVec.ofNat (wideW w) a).rotateLeft (s % 256)).toNat) :=
  ⟨_, fun _ _ => rfl, fun _ => rol_op (wideW_pos w) (srcs_a_lt ..)⟩

theorem rawOp_popc : RawOp (fun d => .popc h w d a) h false (opdOf w a) .none .none
    (fun a _ _ => (BitVec.ofNat (wideW w) a).cpop.toNat) :=
  ⟨_, fun _ _ => rfl, fun _ => popCount_eq_cpop (wideW_le w) (srcs_a_lt ..)⟩

theorem rawOp_clz : RawOp (fun d => .clz h w d a) h false (opdOf w a) .none .none
    (fun a _ _ => (BitVec.ofNat (wideW w) a).clz.toNat) :=
  ⟨_, fun _ _ => rfl, fun _ => clzOp_eq_clz (wideW_pos w) (srcs_a_lt ..)⟩

theorem rawOp_brev : RawOp (fun d => .brev h w d a) h w (opdOf w a) .none .none
    (fun a _ _ => (BitVec.ofNat (wideW w) a).reverse.toNat) :=
  ⟨_, fun _ _ => rfl, fun _ => brevOp_eq_reverse (srcs_a_lt ..)⟩

theorem rawOp_mov : RawOp (fun d => .mov h w d a) h w (opdOf w a) .none .none (fun a _ _ => a) :=
  ⟨_, fun _ _ => rfl, fun _ => rfl⟩

theorem rawOp_bfx {ty : Ty} (f : Field) (hty : ty.width = wideW ty.wide) : RawOp (fun d => .bfx h ty d a f) h ty.wide (opdOf ty.wide a)
    (fieldOpd f) .none (fun a x _ => bfxOp ty.signed ty.width a (fieldOf f x).1 (fieldOf f x).2) :=
  ⟨_, fun _ _ => by rw [← hty]; rfl, fun _ => rfl⟩

theorem rawOp_bfi (f : Field) : RawOp (fun d => .bfi h w d a b f) h w (opdOf w a) (opdOf w b) (fieldOpd f)
    (fun a b x => bfiOp (wideW w) a b (fieldOf f x).1 (fieldOf f x).2) :=
  ⟨_, fun _ _ => rfl, fun _ => rfl⟩

end

/-- The types of one element have the width of a register or of a pair. -/
theorem Ty.width_of_count_one {ty : Ty} (hty : ty.count = 1) : ty.width = wideW ty.wide := by
  revert hty
  cases ty <;> decide

/-- Settles O2: each is the shared arithmetic with its operation on bit vectors (R241, R242, R243, R246). -/
theorem bitOperations : Obligations.BitOperations := by
  intro h w r a b y
  refine ⟨(rawOp_and h w a y).vector r, (rawOp_or h w a y).vector r, (rawOp_xor h w a y).vector r, (rawOp_andn h w a y).vector r,
    (rawOp_shl h w a y).vector r, (rawOp_shr h w a y).vector r, (rawOp_sar h w a y).vector r, (rawOp_rol h w a y).vector r,
    (rawOp_popc h w a).vector r, (rawOp_clz h w a).vector r, (rawOp_brev h w a).vector r, (rawOp_mov h w a).vector r, fun ty f hty => ?bfx,
    fun f => ?bfi⟩
  case bfx =>
    have hw := Ty.width_of_count_one hty
    refine ((rawOp_bfx h a f hw).congr fun e => ?_).vector r
    exact bfxOp_eq_extract ty.signed _ _ (hw ▸ srcs_a_lt e ty.wide a _ _)
  case bfi => exact ((rawOp_bfi h w a b f).congr fun e => bfiOp_eq_mask _ _ (srcs_b_lt e w b _ _)).vector r

/-! ### Moves into gang scalars and SALU (R245, R250, R251) -/

theorem selOp_eq_merged (n : Nat) (m : Byte) (a b : Nat) :
    selOp n m a b = merged 8 n (fun k => m.getLsbD k) (fun k => elemOf 8 k a) b := by
  have hbyte : ∀ k, elemOf 8 k a % 2 ^ 8 = elemOf 8 k a := fun k => Nat.mod_mod _ _
  simp only [selOp, foldl_add, Nat.zero_add, merged, hbyte]

/-- SEL into a gang scalar. Whose predicate selects is the model's choice: that of the lowest rank whose guard is true (no rule says). -/
theorem sel_scalar (h : Hd) (w : Bool) (r : SReg) (a b : Src) (neg : Bool) (p : PReg) :
    MeetRuns (.sel h w (.s r) a b neg p) h (fun _ _ => True) (fun d m act =>
      match act with
      | [] => d.meetDone h m
      | t :: _ =>
        let s := m.srcs d h (opdOf w a) (opdOf w b) .none
        let pick := if neg then ~~~(t.pred p) else t.pred p
        (d.mapGang m.core m.idx (fun g => g.setS r (BitVec.ofNat 64
          (merged 8 (if w then 8 else 4) (fun k => pick.getLsbD k) (fun k => elemOf 8 k s.a) s.b)) (s.p || t.predP p))).meetDone h m) := by
  refine MeetRuns.of _ (fun _ => rfl) (fun d m _ => ?_)
  cases hact : m.true? h with
  | nil => rfl
  | cons t ts => simp only [Meet.srcs, hact, ← selOp_eq_merged, Thread.guardBits]

/-- A gang-wide instruction that writes a gang scalar and sets no flag. -/
theorem writeS_runs {i : Instr} {h : Hd} {r : SReg} {f : Meet → Dev → W64 × Bool}
    (hx : ∀ s : State, exec i s = onDev s (fun d => d.writeS i h r (fun m d => ((f m d).1, (f m d).2, 0)))) :
    MeetRuns i h (fun _ _ => True) (fun d m act => d.meetWrites h m act r (f m d).1 (f m d).2 (fun t => t)) :=
  MeetRuns.of _ hx (fun d m _ => by simp only [Dev.meetWrites, orFlags_zero])

/-- SMOV writes the value of its source, a gang scalar's or a rank's register, or its immediate. -/
theorem smov_runs (h : Hd) (r : SReg) (x : SmovSrc) :
    MeetRuns (.smov h r x) h (fun _ _ => True)
      (fun d m act => d.meetWrites h m act r (smovVal x m d).1 (smovVal x m d).2 (fun t => t)) :=
  writeS_runs (f := smovVal x) (fun _ => rfl)

/-- SMOV.HI writes the high half and keeps the low one with its poison. -/
theorem smovHi_runs (h : Hd) (r : SReg) (x : W32) :
    MeetRuns (.smovHi h r x) h (fun _ _ => True) (fun d m act =>
      d.meetWrites h m act r (x ++ (m.gang.sreg r).extractLsb' 0 32) (m.gang.spsn r) (fun t => t)) :=
  writeS_runs (f := fun m _ => (pairOf (lo32 (m.gang.sreg r)) x, m.gang.spsn r)) (fun _ => rfl)

/-- Settles O10: the bit instructions are the shared arithmetic of their vector forms (R237), SMOV and SMOV.HI write one gang scalar.
That SEL takes the predicate of the lowest rank whose guard is true is the model's choice: neither R237 nor R245 says whose. -/
theorem gangScalarMoves : Obligations.GangScalarMoves := by
  intro h w r q a b y
  refine ⟨(rawOp_and h w a y).scalar r, (rawOp_or h w a y).scalar r, (rawOp_xor h w a y).scalar r, (rawOp_andn h w a y).scalar r,
    (rawOp_shl h w a y).scalar r, (rawOp_shr h w a y).scalar r, (rawOp_sar h w a y).scalar r, (rawOp_rol h w a y).scalar r,
    (rawOp_popc h w a).scalar r, (rawOp_clz h w a).scalar r, (rawOp_brev h w a).scalar r, (rawOp_mov h w a).scalar r,
    fun _ f hty => (rawOp_bfx h a f (Ty.width_of_count_one hty)).scalar r, fun f => (rawOp_bfi h w a b f).scalar r,
    sel_scalar h w r a b, fun x => ?smov, smovHi_runs h r, fun op x => .of_one (two := true) (fun _ => rfl)⟩
  case smov => cases x <;> exact smov_runs h r _

end Sys2Proof.Machine

/-! SUPPORT. Integer arithmetic, comparisons, moves and floating point, lane by lane (R236 to R263). -/

namespace Sys2Proof.Machine

/-! ### Integer arithmetic (R240) -/

/-- Settles O1: every form is the shared arithmetic with its own operation. -/
theorem integerArithmetic : Obligations.IntegerArithmetic := by
  intro h ty v r a b c y pd A B C Y no
  have shift : ∀ x y : Int, (x * y).shiftRight ty.width = x * y / 2 ^ ty.width := fun x y => Int.shiftRight_eq_div_pow _ _
  have natAbs : ∀ x : Int, (x.natAbs : Int) = max x (-x) := fun x => by omega
  have same {f : Int → Int → Int → Int} : ∀ x y z, f x y z = f x y z := fun _ _ _ => rfl
  exact ⟨int_runs (hfg := same) (hx := fun _ => rfl), int_runs (hfg := same) (hx := fun _ => rfl),
    int_runs (hfg := same) (hx := fun _ => rfl), int_runs (hfg := fun x y _ => shift x y) (hx := fun _ => rfl),
    int_runs (hfg := same) (hx := fun _ => rfl), int_runs (hfg := same) (hx := fun _ => rfl),
    int_runs (hfg := same) (hx := fun _ => rfl), int_runs (hfg := fun x _ _ => natAbs x) (hx := fun _ => rfl),
    int_runs (hfg := same) (hx := fun _ => rfl)⟩

/-! ### ICMP and SEL (R244, R245) -/

/-- ICMP is the shared comparison, which sets no flag. -/
theorem icmp_runs (h : Hd) (ty : Ty) (p : PReg) (a b : Src) (c : Cond) :
    LaneRuns (.icmp h ty p a b c) h (govBits ty.width ty.count) false (fun _ _ => True) (fun e t =>
      let s := (e.env t).srcs (opdOf ty.wide a) (opdOf ty.wide b) .none
      let all := (upTo ty.count).all (t.gov h ty.width)
      t.setPred p (BitVec.ofNat 8 (merged (ty.width / 8) ty.count (t.gov h ty.width)
        (fun k => if condHolds c (elemNum ty s.a k) (elemNum ty s.b k) then 2 ^ (ty.width / 8) - 1 else 0) (t.pred p).toNat))
        (s.p || (!all && t.predP p))) :=
  (compare_runs _ h p ty.width ty.count _ _ _ (fun _ => rfl)).congr (fun e t => by
    simp only [fold_zero _ _ (fun _ => (0 : FFlags)) (fun _ => rfl), orFlags_zero, num_eq])

/-- SEL into a vector register changes each lane by itself. -/
theorem sel_runs (h : Hd) (w : Bool) (r : VReg) (a b : Src) (neg : Bool) (q : PReg) :
    LaneRuns (.sel h w (.v r) a b neg q) h [0] false (fun _ _ => True) (fun e t =>
      let s := (e.env t).srcs (opdOf w a) (opdOf w b) .none
      let pick := if neg then ~~~(t.pred q) else t.pred q
      t.wrs r (aluWords w (merged 8 (if w then 8 else 4) (fun k => pick.getLsbD k) (fun k => elemOf 8 k s.a) s.b)) (s.p || t.predP q)) := by
  simp only [← selOp_eq_merged]
  exact .of_mapUids _ (fun _ => rfl) (fun _ t => (t.keeps_wrs ..).uid)

/-- Settles O3: ICMP is the shared comparison, SEL merges the bytes of its sources. -/
theorem compareAndSelect : Obligations.CompareAndSelect := ⟨icmp_runs, sel_runs⟩

/-! ### MOVI, LEA, IDOT4 and PRMT (R246 to R249) -/

theorem lea_eq_toNat (sg : Bool) {b : Nat} (hb : b < 2 ^ 32) (a sh : Nat) :
    wrapInt 64 ((a : Int) + elemInt sg 32 b * 2 ^ sh) =
      let i := BitVec.ofNat 32 b
      (BitVec.ofNat 64 a + ((if sg then i.signExtend 64 else i.zeroExtend 64) <<< sh)).toNat := by
  have hindex : BitVec.ofInt 64 (elemInt sg 32 b) =
      if sg then (BitVec.ofNat 32 b).signExtend 64 else (BitVec.ofNat 32 b).zeroExtend 64 := by
    cases sg with
    | true =>
      rw [elemInt_signed (by decide) hb]
      rfl
    | false =>
      refine BitVec.eq_of_toNat_eq ?_
      simp [elemInt, toNat_ofNat_of_lt hb]
  have hpow : BitVec.ofInt 64 (2 ^ sh) = BitVec.twoPow 64 sh := by
    refine BitVec.eq_of_toNat_eq ?_
    rw [BitVec.toNat_twoPow, BitVec.toNat_ofInt]
    norm_cast
  simp only [← hindex]
  rw [wrap_eq, BitVec.ofInt_add, BitVec.ofInt_mul, hpow, BitVec.ofInt_natCast, BitVec.shiftLeft_eq_mul_twoPow]

/-- The element type of a dot product's operand. -/
theorem elemInt_byte (sg : Bool) (x k : Nat) : elemInt sg 8 (elemOf 8 k x) = elemNum (if sg then .i8 else .n8) x k := by
  cases sg with
  | true => exact num_eq .i8 x k
  | false => exact num_eq .n8 x k

theorem poolByte_lt (a b k : Nat) : poolByte a b k < 2 ^ 8 := by
  unfold poolByte elemOf
  split <;> exact Nat.mod_lt _ (by decide)

theorem prmtOp_eq_merged (sel : BitVec 12) (a b : Nat) :
    prmtOp sel.toNat a b = merged 8 4 (fun _ => true) (fun k => poolByte a b (sel.extractLsb' (3 * k) 3).toNat) 0 := by
  simp only [prmtOp, foldl_add, Nat.zero_add, merged, if_true, toNat_extractLsb'_eq_bitsOf, Nat.mod_eq_of_lt (poolByte_lt _ _ _)]

/-- A byte under a control's fill field: itself, zeros, copies of its sign, or ones. -/
def fillByte (fill : Nat) (x : Byte) : Byte :=
  if fill = 0 then x else if fill = 1 then 0 else if fill = 2 then (if x.getLsbD 7 then 0xFF else 0) else 0xFF

theorem prmtByte_eq_toNat (a b ctl : Nat) :
    let y := fillByte (bitsOf ctl 3 2) (BitVec.ofNat 8 (poolByte a b (ctl % 8)))
    prmtByte a b ctl = (if bitOf ctl 5 then y.reverse else y).toNat := by
  have hpool := toNat_ofNat_of_lt (poolByte_lt a b (ctl % 8))
  have hreverse : ∀ y : Byte, brevOp 8 y.toNat = y.reverse.toNat := fun y => by
    rw [brevOp_eq_reverse y.isLt, BitVec.ofNat_toNat, BitVec.setWidth_eq]
  have hsign : bitOf (poolByte a b (ctl % 8)) 7 = (BitVec.ofNat 8 (poolByte a b (ctl % 8))).getLsbD 7 := by
    rw [getLsbD_eq_bitOf, hpool]
  have hfill : prmtByte a b ctl =
      let y := (fillByte (bitsOf ctl 3 2) (BitVec.ofNat 8 (poolByte a b (ctl % 8)))).toNat
      if bitOf ctl 5 then brevOp 8 y else y := by
    unfold prmtByte
    match bitsOf ctl 3 2 with
    | 0 => simp [fillByte, hpool]
    | 1 => rfl
    | 2 =>
      simp only [hsign, fillByte]
      cases (BitVec.ofNat 8 (poolByte a b (ctl % 8))).getLsbD 7 <;> rfl
    | n + 3 => simp [fillByte]
  rw [hfill]
  cases bitOf ctl 5
  · rfl
  · exact hreverse _

theorem prmtCtlOp_eq_merged (a b c : Nat) :
    prmtCtlOp a b c = merged 8 4 (fun _ => true) (fun k =>
      let ctl := BitVec.ofNat 8 (elemOf 8 k c)
      let y := fillByte (ctl.extractLsb' 3 2).toNat (BitVec.ofNat 8 (poolByte a b (ctl.extractLsb' 0 3).toNat))
      (if ctl.getLsbD 5 then y.reverse else y).toNat) 0 := by
  have hctl : ∀ k, (BitVec.ofNat 8 (elemOf 8 k c)).toNat = elemOf 8 k c := fun k => toNat_ofNat_of_lt (Nat.mod_lt _ (by decide))
  have hpick : ∀ x, bitsOf x 0 3 = x % 8 := fun x => by rw [bitsOf, Nat.pow_zero, Nat.div_one]; rfl
  simp only [prmtCtlOp, foldl_add, Nat.zero_add, merged, if_true, toNat_extractLsb'_eq_bitsOf, getLsbD_eq_bitOf, hctl, hpick,
    prmtByte_eq_toNat, Nat.mod_eq_of_lt (BitVec.isLt _)]

theorem idot4Op_eq_toNat (x y : Bool) (a b c : Nat) :
    idot4Op x y a b c =
      let p := fun k => elemNum (if x then .i8 else .n8) a k * elemNum (if y then .i8 else .n8) b k
      (BitVec.ofInt 32 ((c : Int) + p 0 + p 1 + p 2 + p 3)).toNat := by
  simp only [idot4Op, wrap_eq, elemInt_byte]
  rfl

/-- Settles O4: each is the shared arithmetic with its own operation. -/
theorem movesAndPermutes : Obligations.MovesAndPermutes := by
  refine ⟨fun h k r x => ?movi, fun h sg r a b sh => ?lea, fun h x y r a b c => ?idot4, fun h r a b sel => ?prmt, fun h r a b c => ?ctl⟩
  case movi => exact .of (fun _ => rfl) (fun _ => by cases k <;> rfl)
  case lea => exact .of (two := true) (fun _ => rfl) (fun e => lea_eq_toNat sg (srcs_b_lt e false b _ _) _ _)
  case idot4 => exact .of (fun _ => rfl) (fun _ => idot4Op_eq_toNat ..)
  case prmt => exact .of (fun _ => rfl) (fun _ => prmtOp_eq_merged ..)
  case ctl => exact .of (fun _ => rfl) (fun _ => prmtCtlOp_eq_merged ..)

/-! ### Floating point (R253 to R263) -/

section
variable {i : Instr} {h : Hd} {two : Bool} {a b c : Opd} {r : VReg}

/-- A vector form of a floating-point operation completes with it. -/
theorem FpRuns.of {g : Nat → Nat → Nat → Nat × FFlags}
    (hx : ∀ s : State, exec i s =
      onDev s (fun d => d.alu i h (.v r) two a b c (AluFn.one (wideW two) (fun s => g s.a s.b s.c)))) : FpRuns i h two r a b c g :=
  fp_runs i h two r a b c _ _ g rfl (fun _ => rfl) hx

/-- What a floating-point operation gives matters only for sources that have been read. -/
theorem FpRuns.congr {f g : Nat → Nat → Nat → Nat × FFlags} (hr : FpRuns i h two r a b c f)
    (hfg : ∀ e : Env, f (e.srcs a b c).a (e.srcs a b c).b (e.srcs a b c).c = g (e.srcs a b c).a (e.srcs a b c).b (e.srcs a b c).c) :
    FpRuns i h two r a b c g :=
  LaneRuns.congr hr (fun e t => by simp only [hfg])

end

/-- Settles O5: each is the shared arithmetic with the function of its operation. -/
theorem floatResults : Obligations.FloatResults := by
  intro h r x y z a b c i
  refine ⟨.of (fun _ => rfl), .of (fun _ => rfl), .of (fun _ => rfl), fun _ _ => .of (fun _ => rfl), .of (fun _ => rfl),
    .of (fun _ => rfl), fun _ => .of (fun _ => rfl), fun _ _ => .of (fun _ => rfl), .of (fun _ => rfl), .of (fun _ => rfl),
    .of (fun _ => rfl), .of (fun _ => rfl), .of (fun _ => rfl), .of (fun _ => rfl), .of (fun _ => rfl), .of (fun _ => rfl),
    .of (fun _ => rfl), fun _ => .of (fun _ => rfl), ?fscale⟩
  case fscale =>
    have hscale : FpRuns (.fscale h r a i) h false r (opdOf false a) (opdI false false i) .none
        (fun a b _ => fpScale a (elemInt true 32 b)) := .of (fun _ => rfl)
    have hint : ∀ e : Env, elemInt true 32 (e.srcs (opdOf false a) (opdI false false i) .none).b =
        (BitVec.ofNat 32 (e.srcs (opdOf false a) (opdI false false i) .none).b).toInt :=
      fun e => elemInt_signed (by decide) (srcs_b_lt_second e false i _ _ false)
    exact hscale.congr (fun e => by simp only [hint])

/-! ### One result with a mark or a predicate (R256, R258) -/

section
variable {i : Instr} {h : Hd} {two : Bool} {a b c : Opd} {r : VReg}

/-- PD of a lane is written after its result. -/
theorem aluLane_putPD (e : Env) (f : AluFn) (pd : Option PReg) (y : Srcs → Bool) (t : Thread) :
    aluLane e h r two a b c f (pd.map (fun p => { p := p, f := y })) t =
      putPD (aluLane e h r two a b c f none t) pd two (y (e.srcs a b c)) (e.srcs a b c).p := by
  cases pd with
  | none => rfl
  | some p => rw [aluLane_elems, aluLane_elems]; rfl

/-- A lane's result of one element that its guard governs. -/
theorem aluLane_one {e : Env} {elem : Srcs → Nat → Elem} {k : Cause} {t : Thread} (hg : e.t.gov h (wideW two) 0 = true) :
    aluLane e h r two a b c { w := wideW two, n := 1, elem := elem, cause := k } none t =
      laneOne h r two (elem (e.srcs a b c) 0).val (elem (e.srcs a b c) 0).flags (e.srcs a b c).p t := by
  have hwords := aluWords_mod two (elem (e.srcs a b c) 0).val
  have hflags : ∀ x : FFlags, 0 ||| x = x := fun x => BitVec.zero_or
  rw [aluLane_elems]
  simp only [laneElems_one _ _ _ _ _ _ _ _ _ hg, upTo, List.range_one, List.foldl_cons, List.foldl_nil, hg, if_true, hflags]
  rw [laneOne, wideW, hwords]
  rfl

/-- An instruction of one result completes where its result is not marked, with its flags and with PD if it has one. -/
theorem one_runs {elem : Srcs → Nat → Elem} {k : Cause} {pd : Option PReg} {y : Srcs → Bool} {ok : Dev → Thread → Prop}
    (hx : ∀ s : State, exec i s = onDev s (fun d => d.alu i h (.v r) two a b c
      { w := wideW two, n := 1, elem := elem, cause := k } (pd.map (fun p => { p := p, f := y }))))
    (hok : ∀ e t, ok e t → (elem ((e.env t).srcs a b c) 0).mark = false) :
    LaneRuns i h [0] false ok (fun e t =>
      let s := (e.env t).srcs a b c
      putPD (laneOne h r two (elem s 0).val (elem s 0).flags s.p t) pd two (y s) s.p) := by
  have hbits : govBits (wideW two) 1 = [0] := by cases two <;> rfl
  rw [← hbits]
  refine alu_runs i h r two a b c _ _ ok _ hx (fun e t hk => ?_) (fun e t ht hp hk => ?_)
  · rw [AluFn.run_mark, List.any_eq_false]
    intro n hn
    obtain rfl : n = 0 := by simpa [upTo] using hn
    simp [hok e t hk]
  · obtain ⟨-, -, -, hpsn⟩ := hp
    have hg : (e.env t).t.gov h (wideW two) 0 = true := one_gov (hbits ▸ ht) hpsn
    rw [aluLane_putPD, aluLane_one hg]

end

/-! ### Packed instructions (R262) -/

/-- The flags of two elements. -/
theorem foldl_flags_two (g : Nat → Bool) (f : Nat → FFlags) :
    (upTo 2).foldl (fun (x : FFlags) k => if g k then x ||| f k else x) 0 = (if g 0 then f 0 else 0) ||| (if g 1 then f 1 else 0) := by
  change (if g 1 then (if g 0 then 0 ||| f 0 else 0) ||| f 1 else (if g 0 then 0 ||| f 0 else 0)) = _
  cases g 0 <;> cases g 1 <;> simp

/-- A packed instruction completes with its operation's two elements. -/
theorem packed_runs {i : Instr} {h : Hd} {bf : Bool} {r : VReg} {a b c : Opd} {f : FVal → FVal → FVal → Nat × FFlags}
    (hx : ∀ s : State, exec i s = onDev s (fun d => d.alu i h (.v r) false a b c (packedFn bf f))) :
    LaneRuns i h [0, 2] false (fun _ _ => True) (fun e t =>
      let s := (e.env t).srcs a b c
      let z := fun k => f (FVal.ofBits (Fmt.packed bf) (elemOf 16 k s.a)) (FVal.ofBits (Fmt.packed bf) (elemOf 16 k s.b))
        (FVal.ofBits (Fmt.packed bf) (elemOf 16 k s.c))
      laneElems (e.env t) h r false 16 2 (fun k => (z k).1)
        ((if t.guardBit h 0 then (z 0).2 else 0) ||| (if t.guardBit h 2 then (z 1).2 else 0)) s.p t) := by
  have hbits : govBits 16 2 = [0, 2] := rfl
  rw [← hbits]
  refine alu_runs i h r false a b c (packedFn bf f) none _ _ hx (fun e t _ => ?_) (fun e t _ _ _ => ?_)
  · rw [AluFn.run_mark, List.any_eq_false]
    simp [packedFn]
  · rw [aluLane_elems]
    exact congrArg (fun fl => laneElems (e.env t) h r false 16 2 _ fl _ t) (foldl_flags_two (t.gov h 16) _)

/-! ### FCMP, FCLASS and FCVT (R255, R256, R258) -/

/-- FCMP is the shared comparison of its format's elements. -/
theorem fcmp_runs (h : Hd) (ft : FFmt) (p : PReg) (a b : Src) (c : FCond) :
    let f := fcmpFmt ft
    let n := 32 / f.width
    LaneRuns (.fcmp h ft p a b c) h (govBits f.width n) false (fun _ _ => True) (fun e t =>
      let s := (e.env t).srcs (opdOf false a) (opdOf false b) .none
      let z := fun k => fpCmp c (FVal.ofBits f (elemOf f.width k s.a)) (FVal.ofBits f (elemOf f.width k s.b))
      let all := (upTo n).all (t.gov h f.width)
      (t.setPred p (BitVec.ofNat 8 (merged (f.width / 8) n (t.gov h f.width)
        (fun k => if (z k).1 then 2 ^ (f.width / 8) - 1 else 0) (t.pred p).toNat)) (s.p || (!all && t.predP p))).orFlags
        ((upTo n).foldl (fun (x : FFlags) k => if t.gov h f.width k then x ||| (z k).2 else x) 0)) :=
  compare_runs _ h p _ _ _ _ (fun s k => fpCmp c (FVal.ofBits (fcmpFmt ft) (elemOf (fcmpFmt ft).width k s.a))
    (FVal.ofBits (fcmpFmt ft) (elemOf (fcmpFmt ft).width k s.b))) (fun _ => rfl)

theorem fclass_runs (h : Hd) (r : VReg) (a : Src) (pd : Option PReg) (mask : BitVec 10) :
    LaneRuns (.fclass h r a pd mask) h [0] false (fun _ _ => True) (fun e t =>
      let s := (e.env t).srcs (opdOf false a) .none .none
      putPD (laneOne h r false (fpClass s.a) 0 s.p t) pd false (fpClass s.a &&& mask.toNat != 0) s.p) :=
  one_runs (elem := fun s _ => { val := fpClass s.a }) (y := fun s => fpClass s.a &&& mask.toNat != 0) (fun _ => rfl) (fun _ _ _ => rfl)

/-- FCVT completes unless a trapping form marks a value out of range. -/
theorem fcvt_runs (h : Hd) (k : FcvtCode) (rm : Rm) (r : VReg) (a : Src) :
    LaneRuns (.fcvt h k rm r a) h [0] false
      (fun e t => (fcvtElem k rm ((e.env t).srcs (opdOf false a) (fcvtB k) .none)).mark = false)
      (fun e t =>
        let s := (e.env t).srcs (opdOf false a) (fcvtB k) .none
        let y := fcvtElem k rm s
        laneOne h r (fcvtWide k) y.val y.flags s.p t) :=
  one_runs (elem := fun s _ => fcvtElem k rm s) (pd := none) (y := fun _ => false) (fun _ => rfl) (fun _ _ hok => hok)

/-- Settles O6: the packed forms, FCLASS and FCVT are the shared arithmetic, FCMP is the shared comparison. -/
theorem floatElements : Obligations.FloatElements :=
  ⟨fun _ bf _ _ _ _ _ => ⟨packed_runs (f := fun a b _ => fpAdd (Fmt.packed bf) a b) (fun _ => rfl),
      packed_runs (f := fun a b _ => fpMul (Fmt.packed bf) a b) (fun _ => rfl),
      packed_runs (f := fun a b c => fpFma (Fmt.packed bf) a b c) (fun _ => rfl)⟩,
    fcmp_runs, fclass_runs, fcvt_runs⟩

end Sys2Proof.Machine

/-! SUPPORT. Votes and exchanges across a gang (R268 to R271). -/

namespace Sys2Proof.Machine

/-! ### The ballot (R269) -/

section
variable {m : Meet} {p : PReg} {k : Nat}

theorem Meet.getLsbD_ballot (hk : k < 64) :
    (BitVec.ofNat 64 (m.ballot p).1).getLsbD k = true ↔ ∃ x ∈ m.parts, x.1 = k ∧ (x.2.pred p).getLsbD 0 = true := by
  rw [BitVec.getLsbD_ofNat, Meet.ballot, testBit_maskOf]
  simp only [hk, decide_true, Bool.true_and, List.contains_iff_mem, List.mem_map, List.mem_filter]
  exact ⟨fun ⟨x, ⟨hx, hp⟩, hrank⟩ => ⟨x, hx, hrank, hp⟩, fun ⟨x, hx, hrank, hp⟩ => ⟨x, ⟨hx, hp⟩, hrank⟩⟩

theorem Meet.ballot_poisoned : (m.ballot p).2 = true ↔ ∃ x ∈ m.parts, x.2.predP p = true := by
  rw [Meet.ballot, List.any_eq_true]

end

/-- The count of a ballot's bits, as they stand in its word. -/
theorem filter_bitOf_eq_getLsbD (x : Nat) :
    (upTo 64).filter (fun k => bitOf x k) = (upTo 64).filter (fun k => (BitVec.ofNat 64 x).getLsbD k) := by
  refine List.filter_congr (fun k hk => ?_)
  have hk : k < 64 := List.mem_range.1 hk
  rw [BitVec.getLsbD_ofNat, bitOf_eq_testBit, decide_eq_true hk, Bool.true_and]

/-- Settles O17: a ballot is a mask of ranks, and each form delivers what it makes of the ballot. -/
theorem votes : Obligations.Votes := by
  refine ⟨fun m p k hk => ⟨m.getLsbD_ballot hk, m.ballot_poisoned⟩, fun h r p q c => ⟨.of (fun _ => rfl), ?count, ?test⟩⟩
  case count =>
    simp only [← filter_bitOf_eq_getLsbD]
    exact .of (fun _ => rfl)
  case test => cases c <;> exact .of (fun _ => rfl)

/-! ### Exchanges (R270, R271) -/

/-- What XSHFL delivers to a rank: zero where its rule names no rank of the gang. -/
theorem xshfl_runs (h : Hd) (w : Bool) (r a : VReg) (md : ShflMode) :
    CrossRuns (.xshfl h w r a md) h (fun m d k t =>
      let f := shflFrom md { c := d.ctr, t := (m.at k).getD t, g := some m.gang }
      let x := ((shflRank md m.gang.size k f.1).map (m.supply d (.v a w))).getD (0, false)
      t.wrVal w r (x.1, x.2 || f.2)) := by
  have hmatch : ∀ (o : Option Nat) (f : Nat → Nat × Bool),
      (match o with | some q => f q | none => (0, false)) = (o.map f).getD (0, false) := fun o f => by cases o <;> rfl
  simp only [← hmatch]
  exact .of (fun _ => rfl)

/-- Settles O18: every form is the shared delivery across a gang, with the rank of its own rule. -/
theorem exchanges : Obligations.Exchanges := by
  refine fun h w r a n => ⟨.of (fun _ => rfl), .of (fun _ => rfl), fun md => ?xshfl, .of (fun _ => rfl)⟩
  cases md <;> exact xshfl_runs h w r a _

end Sys2Proof.Machine

/-! SUPPORT. The optimiser instructions (R299 to R304), and the acceptance, the queries and the queue of the matrix unit (R279 to R316). -/

namespace Sys2Proof.Machine

/-! ### Optimiser instructions (R301 to R304) -/

/-- GSCALE into a gang scalar replaces the low word only, and notes the poison of its operand. -/
theorem gscaleF_runs (h : Hd) (q b : SReg) :
    MeetRuns (.gscaleF h q b) h (fun _ _ => True) (fun d m act =>
      let f := gscaleFactor (m.gang.sreg b).toNat
      let p := m.gang.spsn b
      let d1 := if p then d.optNote ((sortBy Thread.lane act).map (fun t => (t, b.toNat, 1))) else d
      if act = [] then d.meetDone h m
      else (act.foldl (fun d t => d.deliver t.uid (fun x => x.orFlags f.2)) (d1.mapGang m.core m.idx (fun g =>
        g.setS q (hi32 (g.sreg q) ++ BitVec.ofNat 32 f.1) (p || g.spsn q)))).meetDone h m) := by
  refine MeetRuns.of _ (fun _ => rfl) (fun d m _ => ?_)
  cases m.true? h with
  | nil => rfl
  | cons t ts => exact (if_neg (List.cons_ne_nil t ts)).symm

/-- Settles O20: AWUPD, SGDM and GSCALE are the shared optimiser driver with the function of their steps; where its lanes pass their
checks it reads every lane's operands, records the poison consumed and writes the results. -/
theorem optimiserUpdates : Obligations.OptimiserUpdates := by
  unfold Obligations.OptimiserUpdates
  intro runs h bf r a b q g
  have of_optim {i : Instr} {os : List (Nat × Opd)} {f : List Nat → List Nat × FFlags}
      (hx : ∀ s : State, exec i s = onDev s (fun d => d.optim i h r os f)) : runs i h r os f := fun s hp ha => by
    rw [hx, onDev, Dev.optim, Dev.lanes_ok s.dev i h [0] true _ (fun t ht => (hp t ht).1), if_neg ha]
  -- Only `of_optim` says what `runs` is, so that unification compares the functions of the steps and does not compute with them.
  clear_value runs
  exact ⟨of_optim fun _ => rfl, of_optim fun _ => rfl, of_optim fun _ => rfl, gscaleF_runs h q b⟩

/-! ### Acceptance (R279, R282, R283) -/

section
variable {d : Dev} {i : Instr} {h : Hd} {m : Meet} {act : List Thread}

/-- A plan whose checks pass for the gang and for the ranges of every participant does not fail. -/
theorem Dev.matFail_of_none {p : MPlan} (hp : d.planFlt i m p = none) (hs : ∀ t ∈ act, d.spansFlt m.gang t p = none) :
    d.matFail i m act p = none := by
  have hspans : (sortBy Thread.lane act).filterMap (fun t => (d.spansFlt m.gang t p).map (fun f => (t, f))) = [] := by
    rw [List.filterMap_eq_nil_iff]
    intro t ht
    rw [hs t ((mem_sortBy _ _ _).1 ht), Option.map_none]
  simp only [Dev.matFail, hp, hspans]
  rfl

/-- A matrix instruction without participants has no effect; with clean operands and plans that pass it is accepted, with the ranges of
its last plan. -/
theorem Dev.matrixRun_of_checked {rs strict : List SReg} {plans : Dev → Meet → List W64 → List MPlan}
    {table : Dev → Meet → List W64 → List Nat} {given : Dev → Meet → List (List (W32 × Bool))}
    (hok : act ≠ [] → (∀ r ∈ strict, m.gang.spsn r = false) ∧ ∀ p ∈ plans d m (m.opsOf rs), d.matFail i m act p = none) :
    let ops := m.opsOf rs
    let q := d.newMatrixJob i m act ops (table d m ops) (((plans d m ops).getLast?.map MPlan.spans).getD []) (given d m)
    d.matrixRun i h rs strict plans table given m act = if act = [] then d.meetDone h m else q.1.accept h m q.2 := by
  by_cases ha : act = []
  · simp only [Dev.matrixRun, if_pos ha]
  · obtain ⟨hclean, hplans⟩ := hok ha
    have hpsn : strict.find? m.gang.spsn = none := List.find?_eq_none.2 (fun r hr => by simp [hclean r hr])
    have hpass : (plans d m (m.opsOf rs)).findSome? (d.matFail i m act) = none := List.findSome?_eq_none_iff.2 hplans
    simp only [Dev.matrixRun, if_neg ha, hpsn, hpass]

end

section
variable {i : Instr} {h : Hd} {rs : List SReg} {plans : Dev → Meet → List W64 → List MPlan}

/-- An instruction that runs the shared acceptance wherever it need not wait (`free`) is accepted there once its checks pass. -/
theorem MatrixRuns.of {strict : List SReg} {free : Dev → Meet → Prop} {table : Dev → Meet → List W64 → List Nat}
    {given : Dev → Meet → List (List (W32 × Bool))} (run : Meet → List Thread → Dev → Dev)
    (hx : ∀ s : State, exec i s = onDev s (fun d => d.gangWide i h run))
    (hrun : ∀ d m act, (act ≠ [] → free d m) → run m act d = d.matrixRun i h rs strict plans table given m act) :
    MatrixRuns i h rs strict free plans table given := by
  refine MeetRuns.of run hx (fun d m hok => ?_)
  rw [hrun d m _ (fun ha => (hok ha).1)]
  refine Dev.matrixRun_of_checked (fun ha => ?_)
  obtain ⟨-, hclean, hplans⟩ := hok ha
  exact ⟨hclean, fun p hp => Dev.matFail_of_none (hplans p hp).1 (hplans p hp).2⟩

/-- A matrix instruction that reads no table and none of whose operands may be poisoned. -/
theorem MatrixRuns.of_matrixOp (hx : ∀ s : State, exec i s = onDev s (fun d => d.matrixOp i h rs plans)) :
    MatrixRuns i h rs rs (fun _ _ => True) plans (fun _ _ _ => []) (fun _ _ => []) :=
  .of _ hx (fun _ _ _ _ => rfl)

end

/-- MGRP is accepted where no earlier instruction has still to write its table (R281, R290). -/
theorem mgrp_runs (h : Hd) (ty : MTy) (z : Bool) (t : TileNo) (a : SReg) :
    MatrixRuns (.mgrp h ty z t a) h (sRun a 4) (sRun a 4) (fun d m => (d.core m.core).tableBusy m.idx m.gang a = false)
      (fun d m ops => [mgrpHead t ops, mgrpBody ty t ops (d.groupTable m.gang ops)]) (fun d m ops => d.groupTable m.gang ops)
      (fun _ _ => []) := by
  refine .of _ (fun _ => rfl) (fun d m act hfree => if_neg ?_)
  rw [Bool.and_eq_true, decide_eq_true_eq]
  rintro ⟨ha, hbusy⟩
  rw [hfree ha] at hbusy
  exact Bool.false_ne_true hbusy

/-- Settles O35: every instruction of the queue is the shared acceptance with its own operands and plans; MGRP waits for its table, and
a poisoned W, which raises nothing, is handed to the table it is for. -/
theorem matrixAcceptance : Obligations.MatrixAcceptance := by
  intro h ty f z t u a b v cv p mask m9 col
  exact ⟨.of_matrixOp fun _ => rfl, .of_matrixOp fun _ => rfl, .of_matrixOp fun _ => rfl, .of_matrixOp fun _ => rfl,
    .of_matrixOp fun _ => rfl, .of_matrixOp fun _ => rfl, .of_matrixOp fun _ => rfl, mgrp_runs h ty z t a,
    .of_matrixOp fun _ => rfl, .of_matrixOp fun _ => rfl, .of_matrixOp fun _ => rfl, .of_matrixOp fun _ => rfl,
    .of_matrixOp fun _ => rfl, .of_matrixOp fun _ => rfl, .of_matrixOp fun _ => rfl, .of _ (fun _ => rfl) (fun _ _ _ _ => rfl),
    .of_matrixOp fun _ => rfl, .of_matrixOp fun _ => rfl, .of_matrixOp fun _ => rfl⟩

/-! ### MLDA in register form (R292, R298) -/

/-- Without shadows no pair disagrees on anything. -/
theorem mismatchOf_of_no_shadow {all act : List Thread} {key : Thread → List Nat} (hs : ∀ t ∈ all, t.shadow = false) :
    mismatchOf all act key = none := by
  have hodd : ∀ p : Thread → Bool, all.filter (fun t => t.shadow && p t) = [] :=
    fun p => List.filter_eq_nil_iff.2 (fun t ht => by simp [hs t ht])
  simp only [mismatchOf, hodd]

/-- MLDA in register form, where nothing is in protected mode, runs the shared acceptance with its ranks' registers. -/
theorem exec_mldaReg_of_no_shadow {h : Hd} {cv : Cv} {t : TileNo} {v : VReg} {s : State} {m : Meet}
    (hm : s.dev.MeetsAt (.mldaReg h cv t v) h m) (hthreads : ∀ x ∈ s.dev.threads, x.shadow = false)
    (hparts : ∀ p ∈ m.parts, p.2.shadow = false) :
    exec (.mldaReg h cv t v) s = onDev s (fun d => d.tick.matrixRun (.mldaReg h cv t v) h [] []
      (fun _ _ _ => [{ MPlan.none with tiles := [t.toNat] }]) (fun _ _ _ => []) (fun d m => m.supplies d cv v) m (m.true? h)) := by
  have hshadow : ∀ x ∈ m.parts.map Prod.snd ++
      s.dev.tick.threads.filter (fun x => x.shadow && m.parts.any (fun p => x.partner == some p.2.uid)), x.shadow = false := by
    intro x hx
    rcases List.mem_append.1 hx with hpart | hthread
    · obtain ⟨p, hp, rfl⟩ := List.mem_map.1 hpart
      exact hparts p hp
    · exact hthreads x (List.mem_filter.1 hthread).1
  show execMldaReg h cv t v s = _
  simp only [execMldaReg, onDev, Dev.gangWide_ok _ _ _ _ m hm, mismatchOf_of_no_shadow hshadow, ite_self]

/-- Settles O36: no pair disagrees where nothing is in protected mode, and what remains is the shared acceptance. -/
theorem matrixRegisterLoad : Obligations.MatrixRegisterLoad := by
  intro h cv t v s m hm d act hthreads hparts hplan q
  rw [exec_mldaReg_of_no_shadow hm (by simpa [d] using hthreads) (by simpa using hparts), onDev]
  refine congrArg (fun e => Host.Outcome.next { s with dev := e }) ?_
  refine Dev.matrixRun_of_checked (fun _ => ⟨List.forall_mem_nil _, fun p hp => ?_⟩)
  obtain rfl := List.mem_singleton.1 hp
  exact Dev.matFail_of_none hplan (fun _ _ => rfl)

/-! ### MQRY, SVRD and the queue (R279, R280, R293, R316) -/

/-- A freed entry goes to the head of the waiting line, whose participants go on to wait for its completion or are woken. -/
theorem Dev.matrixAccept_of_waiting {d : Dev} {core : Nat} {w : MatrixWait} {ws : List MatrixWait}
    (hw : (d.core core).mwait = w :: ws) (hroom : (d.core core).mq.length < 16) :
    d.matrixAccept core =
      let waits := fun (t : Thread) => t.core == core && t.wait == .matrixQueue w.ticket
      let e := d.mapCore core (fun c => { c with mq := (d.core core).mq ++ [w.job], mwait := ws })
      if matrixBlocks w.job.instr then e.mapThreads waits (fun t => { t with wait := .matrix w.ticket })
      else e.mapThreads waits (fun t => (t.woken d.pcyc).hint ((w.job.instr.hd?.map Hd.yh).getD .none) d.pcyc) := by
  simp only [Dev.matrixAccept, hw, hroom, if_true]
  cases w.job.instr.hd? <;> rfl

/-- An index reduced by the length of a list picks a member of it. -/
theorem exists_getElem?_mod {α : Type} {l : List α} (hl : l ≠ []) (n : Nat) : ∃ x ∈ l, l[n % l.length]? = some x := by
  have hlt : n % l.length < l.length := Nat.mod_lt _ (List.length_pos_iff.2 hl)
  exact ⟨_, List.getElem_mem hlt, List.getElem?_eq_getElem hlt⟩

/-- MATRIX_STEP takes a step of one of the eligible instructions, whichever the free choice picks (log 40). -/
theorem exec_matrixStep {core : Nat} {s : State} (hne : s.dev.tick.matChoices core ≠ []) :
    ∃ j ∈ s.dev.tick.matChoices core, exec (.matrixStep core) s = .next { s with dev := s.dev.tick.matStep core j } := by
  obtain ⟨j, hj, hpick⟩ := exists_getElem?_mod hne (Config.pick s.dev.tick.ctr)
  refine ⟨j, hj, ?_⟩
  show execMatrixStep core s = _
  simp only [execMatrixStep, onDev, hpick]

/-- Settles O37: the two queries write at once, and the queue accepts and takes steps by the two lemmas above; which instruction steps,
where several may, is the model's free choice (log 40). -/
theorem matrixQueries : Obligations.MatrixQueries := fun _ _ =>
  ⟨.of _ (fun _ => rfl) (fun _ _ _ => rfl), .of _ (fun _ => rfl) (fun _ _ _ => rfl), fun _ =>
    ⟨fun _ _ => .of_onDev (fun _ => rfl) (fun _ hpre => Dev.matrixAccept_of_waiting hpre.1 hpre.2), fun _ => exec_matrixStep⟩⟩

end Sys2Proof.Machine

/-! SUPPORT. HSTAT and the registers at reset, SYSW of a gang's register, and translation queries (spec/01 R11, R20, R29, spec/12 R316,
spec/15 R343, R344, spec/18 R388, spec/19 R397, spec/23 R465). -/

namespace Sys2Proof.Machine

/-! ### HSTAT (R465) -/

/-- HSTAT is the sum of its fields. -/
theorem HostSide.hstat_toNat {h : HostSide} (hs : h.step < 16) (hf : h.failimg < 256) :
    h.hstat.toNat = h.step + b2n h.ready * 16 + b2n h.imgfail * 32 + h.failimg * 256 := by
  have hready : b2n h.ready ≤ 1 := by cases h.ready <;> decide
  have himg : b2n h.imgfail ≤ 1 := by cases h.imgfail <;> decide
  simp only [HostSide.hstat, packFields, List.foldl_cons, List.foldl_nil, BitVec.toNat_ofNat]
  omega

/-- Bits of a word, from its number. -/
theorem extractLsb'_eq_ofNat {x : W64} (k n : Nat) {y : Nat} (h : x.toNat / 2 ^ k % 2 ^ n = y % 2 ^ n) :
    x.extractLsb' k n = BitVec.ofNat n y := by
  refine BitVec.eq_of_toNat_eq ?_
  rw [BitVec.extractLsb'_toNat, BitVec.toNat_ofNat, Nat.shiftRight_eq_div_pow, h]

/-- A bit of a word, from its number. -/
theorem getLsbD_eq_of_b2n {x : W64} (k : Nat) {b : Bool} (h : x.toNat / 2 ^ k % 2 = b2n b) : x.getLsbD k = b := by
  rw [BitVec.getLsbD, Nat.testBit_eq_decide_div_mod_eq, h]
  cases b <;> rfl

theorem HostSide.hstat_fields {h : HostSide} (hs : h.step < 16) (hf : h.failimg < 256) :
    h.hstat.extractLsb' 0 4 = BitVec.ofNat 4 h.step ∧ h.hstat.getLsbD 4 = h.ready ∧ h.hstat.getLsbD 5 = h.imgfail ∧
      h.hstat.extractLsb' 6 2 = 0 ∧ h.hstat.extractLsb' 8 8 = BitVec.ofNat 8 h.failimg ∧ h.hstat.extractLsb' 16 48 = 0 := by
  have hready : b2n h.ready ≤ 1 := by cases h.ready <;> decide
  have himg : b2n h.imgfail ≤ 1 := by cases h.imgfail <;> decide
  have hnum := HostSide.hstat_toNat hs hf
  exact ⟨extractLsb'_eq_ofNat 0 4 (by omega), getLsbD_eq_of_b2n 4 (by omega), getLsbD_eq_of_b2n 5 (by omega),
    extractLsb'_eq_ofNat 6 2 (y := 0) (by omega), extractLsb'_eq_ofNat 8 8 (by omega), extractLsb'_eq_ofNat 16 48 (y := 0) (by omega)⟩

/-! ### The registers at reset (R11, R20, R29, R232, R397, R412) -/

theorem Dev.marginWord_reset (p : Nat) :
    Dev.reset.marginWord p = BitVec.ofNat 64 (24 * 2 ^ 16 + (if p % 17 = 16 then 4 else 0) * 2 ^ 40) := by
  change BitVec.ofNat 64 (packFields [(0, 5, 0), (8, 5, 0), (16, 5, 24), (24, 16, 0), (40, 3, if p % 17 = 16 then 4 else 0), (43, 2, 0),
    (45, 9, 0)]) = _
  split <;> rfl

/-- Settles O55: HSTAT's fields lie apart, and at reset every table is empty, so that each register holds its default. -/
theorem resetValues : Obligations.ResetValues := by
  refine ⟨fun h hs hf => HostSide.hstat_fields hs hf, rfl, rfl, fun n _ => rfl, fun p _ => rfl, fun k _ => rfl, fun p _ => ⟨rfl, ?_⟩⟩
  exact Dev.marginWord_reset p

/-! ### SYSW of a gang's register (R316, R388) -/

/-- A SYSW of a gang's register that may be written, whose value is not poisoned and agreed in the pair, writes it once. -/
theorem syswGang_runs {i : Instr} {h : Hd} {f : SysForm} {may : Dev → Meet → Bool} {free : Dev → Meet → Prop} {eff : Gang → W64 → Gang}
    (hx : ∀ s : State, exec i s = onDev s (fun d => d.syswGang i h f may eff)) (hfree : ∀ d m, free d m → may d m = true) :
    let val := fun (d : Dev) (m : Meet) (t : Thread) => (Env.sysVal { c := d.ctr, t := t, g := some m.gang } f).1
    MeetRuns i h
      (fun d m => free d m ∧ ∀ t ts, m.true? h = t :: ts →
        t.poisonRun (Env.sysRun { c := d.ctr, t := t, g := some m.gang } f) = none ∧
          ∀ y ∈ d.threads, y.shadow = true → y.partner = some t.uid → val d m y = val d m t)
      (fun d m act =>
        match act with
        | [] => d.meetDone h m
        | t :: _ => (d.mapGang m.core m.idx (fun g => eff g (val d m t))).meetDone h m) := by
  intro val
  refine MeetRuns.of _ hx (fun d m ⟨hmay, hval⟩ => ?_)
  simp only [hfree d m hmay, Bool.not_true, Bool.false_eq_true, if_false]
  cases hact : m.true? h with
  | nil => rfl
  | cons t ts =>
    obtain ⟨hclean, hpair⟩ := hval t ts hact
    have hodd : d.threads.any (fun y => y.shadow && y.partner == some t.uid && val d m y != val d m t) = false := by
      rw [List.any_eq_false]
      intro y hy hne
      simp only [Bool.and_eq_true, beq_iff_eq, bne_iff_ne] at hne
      exact hne.2 (hpair y hy hne.1.1 hne.1.2)
    simp only [val] at hodd
    simp only [hclean, hodd, Bool.false_eq_true, if_false, val]

theorem exec_sysw_mxcnt (h : Hd) (f : SysForm) (s : State) :
    exec (.sysw h f 0x011) s = onDev s (fun d => d.syswGang (.sysw h f 0x011) h f (fun _ _ => true)
      (fun g v => { g with mxcnt := v.extractLsb' 0 48 })) := by
  change execSysw h f 0x011 s = _
  simp [execSysw]

theorem exec_svarWrite (h : Hd) (f : SysForm) (n : BitVec 2) (s : State) :
    exec (.svarWrite h f n) s = onDev s (fun d => d.syswGang (.svarWrite h f n) h f (fun d m => !((d.core m.core).svarBusy m.idx))
      (fun g v => { g with svar := g.svar.put n.toNat (lo32 v) })) := rfl

/-- Settles O40: both registers are the shared SYSW of a gang's register. -/
theorem gangRegisterWrites : Obligations.GangRegisterWrites := by
  intro h f n val runs
  have writes : ∀ {i : Instr} {may : Dev → Meet → Bool} {free : Dev → Meet → Prop} {eff : Gang → W64 → Gang},
      (∀ s : State, exec i s = onDev s (fun d => d.syswGang i h f may eff)) → (∀ d m, free d m → may d m = true) →
        runs i free eff := fun hx hfree => syswGang_runs hx hfree
  have always : ∀ (_ : Dev) (_ : Meet), True → true = true := fun _ _ _ => rfl
  have idle : ∀ (d : Dev) (m : Meet), (d.core m.core).svarBusy m.idx = false → (!(d.core m.core).svarBusy m.idx) = true :=
    fun _ _ hfree => by simp [hfree]
  have mxcnt := writes (exec_sysw_mxcnt h f) always
  have svar := writes (exec_svarWrite h f n) idle
  exact ⟨mxcnt, svar⟩

/-! ### XLATE and LEASEQ (R343, R344) -/

/-- An instruction whose lanes each change by a function of what the device held before it, after checks of its own. -/
theorem LaneRuns.of_lanesChk {i : Instr} {h : Hd} {g : Bool} {ok : Dev → Thread → Prop} {chk : Dev → Thread → Option Flt}
    (F : Dev → Thread → Thread)
    (hx : ∀ s : State, exec i s = onDev s (fun d => d.lanesChk i h g chk (fun act d => (d.mapUids (act.map Thread.uid) (F d)).done h)))
    (hc : ∀ e t, ok e t → chk e t = none) (hu : ∀ e t, (F e t).uid = t.uid) : LaneRuns i h [0] g ok F := by
  refine .of _ F hx hu (fun e hp => ?_) (fun _ _ _ _ _ => rfl)
  have hnone : e.faultIn i (e.acting h [0]) (chk e) = none := Dev.faultIn_none fun t ht => hc e t (hp t ht).2
  simp only [hnone]

/-- Settles O43: each writes its words per lane. That they carry the sources' poison is R225's rule (log 108). -/
theorem translationQueries : Obligations.TranslationQueries := by
  intro h r a b va slot
  refine ⟨?_, ?_, ?_⟩
  · exact .of_mapUids _ (fun _ => rfl) fun _ t => (t.keeps_wrs ..).uid
  · exact .of_lanesChk _ (fun _ => rfl) (fun e t hslot => flt_none (decide_eq_false (Nat.not_le.2 hslot))) fun _ t => (t.keeps_wrs ..).uid
  · exact .of_mapUids _ (fun _ => rfl) fun _ t => (t.keeps_wrs ..).uid

end Sys2Proof.Machine

/-! SUPPORT. Traps by instruction and the return from a trap (R369, R370, R389, R390). -/

namespace Sys2Proof.Machine

/-! ### What a record leaves of a context (R382, R383) -/

/-- TVEC of a slot's context. -/
def Dev.tvecAt (d : Dev) (slot : Nat) : W64 := ((d.ctx? slot).map (fun c => c.regs.tvec)).getD 0

/-- A change that leaves a context's TVEC leaves that of every context. -/
theorem Dev.tvecAt_mapCtx {d : Dev} {slot : Nat} {f : Ctx → Ctx} (hf : ∀ c, (f c).regs.tvec = c.regs.tvec) :
    (d.mapCtx slot f).tvecAt = d.tvecAt := by
  funext n
  unfold Dev.mapCtx
  split
  · rfl
  · next c hc =>
    by_cases hn : n = slot
    · subst hn
      have hget : KV.get? d.ctxs n = some c := hc
      simp only [Dev.tvecAt, Dev.ctx?, KV.get?_set_self, hget, Option.map_some, hf]
    · simp only [Dev.tvecAt, Dev.ctx?, KV.get?_set_other _ _ _ _ hn]

theorem Dev.tvecAt_cowIn (d : Dev) (slot : Nat) (u : UnitId) (prio : Nat) : (d.cowIn slot u prio).tvecAt = d.tvecAt := by
  unfold Dev.cowIn
  split
  · rfl
  split
  · exact Dev.tvecAt_mapCtx fun _ => rfl
  split
  · rfl
  · exact Dev.tvecAt_mapCtx fun _ => rfl

theorem Dev.tvecAt_writePhys (d : Dev) (w : Writer) (pa : Nat) (bs : List Byte) (psn : Bool) :
    (d.writePhys w pa bs psn).tvecAt = d.tvecAt := by
  have hstore : ∀ (d : Dev) (hidden : List Nat), (d.store hidden pa bs psn).tvecAt = d.tvecAt := fun d hidden => by
    unfold Dev.store
    split
    · rfl
    · refine Dev.foldl_keeps (g := Dev.tvecAt) (fun d k => ?_) _ d
      rfl
  have hcow : ∀ (d : Dev) (u : UnitId) (prio : Nat), (d.cow u prio).tvecAt = d.tvecAt := fun d u prio =>
    Dev.foldl_keeps (g := Dev.tvecAt) (fun d e => by
      split
      · exact Dev.tvecAt_cowIn d _ _ _
      · rfl) _ d
  exact (hstore _ _).trans (Dev.foldl_keeps (g := Dev.tvecAt) (fun d _ => hcow d _ _) _ d)

theorem Dev.tvecAt_putRecord (d : Dev) (slot : Nat) (c : Ctx) (r : Rec) : (d.putRecord slot c r).tvecAt = d.tvecAt := by
  unfold Dev.putRecord
  simp only
  rw [Dev.tvecAt_mapCtx]
  · split
    · exact Dev.tvecAt_writePhys _ _ _ _ _
    · rfl
  · exact fun _ => rfl

theorem Dev.tvecAt_flushDropped (d : Dev) (slot : Nat) : (d.flushDropped slot).tvecAt = d.tvecAt := by
  unfold Dev.flushDropped
  split
  · rfl
  split
  · rw [Dev.tvecAt_mapCtx]
    · exact Dev.tvecAt_putRecord _ _ _ _
    · exact fun _ => rfl
  · rfl

/-- A record leaves TVEC of every context. -/
theorem Dev.tvecAt_record (d : Dev) (r : Rec) : (d.record r).tvecAt = d.tvecAt := by
  unfold Dev.record
  split
  · rfl
  unfold Dev.ctxRecord
  simp only
  rw [← Dev.tvecAt_flushDropped d]
  split
  · rfl
  split
  · exact Dev.tvecAt_putRecord _ _ _ _
  · exact Dev.tvecAt_mapCtx fun _ => rfl

@[simp] theorem Dev.tvec_record (d : Dev) (r : Rec) (t : Thread) : (d.record r).tvec t = d.tvec t :=
  congrFun (Dev.tvecAt_record d r) t.ctx

/-! ### A lone thread that takes a trap (R369, R370) -/

/-- SELF is a bit of W2 alone (R379). -/
@[simp] theorem Detail.withSelf_w0 (x : Detail) (c : Cause) (own : Bool) : (x.withSelf c own).w0 = x.w0 := by
  unfold Detail.withSelf
  split
  · split <;> rfl
  · rfl

@[simp] theorem Dev.takeFars_threads (d : Dev) (core : Nat) (us : List Nat) : (d.takeFars core us).threads = d.threads := by
  unfold Dev.takeFars
  split <;> rfl

/-- A thread that has a handler is in it after a trap: every thread of its uid has entered. -/
theorem Dev.enter_threads {d : Dev} {t : Thread} {c : Cause} {x : Detail} {epc : W64} (hh : t.endsOnTrap (d.tvec t) = false) :
    (d.enter t c x epc).threads =
      d.threads.map (fun y => if y.uid == t.uid then y.enter c x epc (d.tvec y) d.pcyc else y) := by
  unfold Dev.enter
  rw [if_neg (by simp [hh]), Dev.mapThread, Dev.mapThreads_threads, Dev.takeFars_threads]

/-- The trap of a lone thread with a handler is one record, and the thread enters. -/
theorem Dev.trap_of_lone {d : Dev} {t : Thread} {f : Fail} (hh : t.endsOnTrap (d.tvec t) = false) (hf : f.failed.contains t.uid = true) :
    ∃ r, d.trap [t] f = (d.record r).enter t f.cause (f.detail.withSelf f.cause true) t.pc := by
  have hlevel : t.level ≠ .system := by
    rintro hsys
    simp [Thread.endsOnTrap, hsys] at hh
  simp only [Dev.trap, List.filter_cons, hh, hf, hlevel, Dev.trapRecord, List.filter_nil, List.head?_nil, List.foldl_cons, List.foldl_nil,
    Bool.not_false, if_true, Bool.false_and, Bool.false_eq_true, if_false, decide_false]
  exact ⟨_, rfl⟩

/-- An instruction that fails in a lone thread of its group, which has a handler: the thread is in it, with EPC the instruction. -/
theorem Dev.failGroup_of_lone {d : Dev} {h : Hd} {t : Thread} {f : Fail} (ht : t ∈ d.threads) (hp : d.pairsOf [t] = [t])
    (hh : t.endsOnTrap (d.tvec t) = false) (hf : f.failed.contains t.uid = true) (hc : f.cause ≠ cLeaseViolation) :
    ∃ now, t.enter f.cause (f.detail.withSelf f.cause true) t.pc (d.tvec t) now ∈ (d.failGroup h [t] f).threads := by
  obtain ⟨r, hr⟩ := Dev.trap_of_lone (d := d.retire (d.group.filter (fun u => !([t].any (fun t => t.uid == u)))) h.yh) hh hf
  have hstay : t ∈ (d.retire (d.group.filter (fun u => !([t].any (fun t => t.uid == u)))) h.yh).threads := by
    refine List.mem_map.2 ⟨t, ht, if_neg ?_⟩
    simp
  simp only [Dev.failGroup, hp, Dev.fail, if_neg hc]
  rw [hr, Dev.enter_threads (by rw [Dev.tvec_record]; exact hh), Dev.record_threads]
  exact ⟨_, List.mem_map.2 ⟨t, hstay, by rw [Dev.tvec_record]; exact if_pos (beq_self_eq_true t.uid)⟩⟩

/-! ### TRAP (R389) -/

/-- The threads of the issue group are threads of the device. -/
theorem Dev.mem_threads_of_acting {d : Dev} {h : Hd} {bits : List Nat} {t : Thread} (ht : t ∈ d.acting h bits) : t ∈ d.threads :=
  (List.mem_filter.1 ((mem_sortBy _ _ _).1 (List.mem_filter.1 ht).1)).1

section
variable {i : Instr} {h : Hd} {c : Cause} {imm : W32} (hx : ∀ s : State, exec i s = onDev s (fun d => d.trapOwn i h c imm))
include hx

theorem exec_trapOwn {s : State} (hp : s.dev.AllPass i h [0] false (fun _ _ => True)) (ha : (s.dev.opened i h).acting h [0] ≠ []) :
    let e := s.dev.opened i h
    exec i s = .next { s with dev := e.failGroup h (e.acting h [0]) ⟨c, ⟨imm, 0, 0⟩, (e.acting h [0]).map Thread.uid⟩ } := by
  rw [hx, onDev, Dev.trapOwn, Dev.lanes_ok _ _ _ _ _ _ (fun t ht => (hp t ht).1), if_neg ha]
  rfl

theorem exec_trapOwn_handled {s : State} {t : Thread} (hp : s.dev.AllPass i h [0] false (fun _ _ => True))
    (ha : (s.dev.opened i h).acting h [0] = [t]) (hpair : (s.dev.opened i h).pairsOf [t] = [t])
    (hh : t.endsOnTrap ((s.dev.opened i h).tvec t) = false) (hc : c ≠ cLeaseViolation) :
    ∃ s', exec i s = .next s' ∧ ∃ u ∈ s'.dev.threads, u.uid = t.uid ∧ u.cause = c ∧ u.detail.w0 = imm ∧ u.epc = t.pc ∧
      u.plev = t.level ∧ u.level = .context ∧ u.inTrap = true ∧ u.pc = (s.dev.opened i h).tvec t ∧ u.regs = t.regs ∧ u.preds = t.preds := by
  refine ⟨_, exec_trapOwn hx hp (by simp [ha]), ?_⟩
  obtain ⟨now, hu⟩ := Dev.failGroup_of_lone (h := h) (f := ⟨c, ⟨imm, 0, 0⟩, [t.uid]⟩)
    (Dev.mem_threads_of_acting (h := h) (bits := [0]) (by simp [ha])) hpair hh (by simp) hc
  simp only [ha, List.map_cons, List.map_nil]
  exact ⟨_, hu, rfl, rfl, Detail.withSelf_w0 _ _ _, rfl, rfl, rfl, rfl, rfl, rfl, rfl⟩

end

/-- Settles O41: entering is one update of the thread, and both forms are the shared trap of their active threads. -/
theorem trapsTaken : Obligations.TrapsTaken := by
  refine ⟨fun t c x epc tvec now => ?_, fun h imm => ?_⟩
  · exact ⟨rfl, rfl, rfl, rfl, rfl, rfl, rfl, rfl, rfl, rfl, rfl, rfl, rfl, rfl⟩
  · refine ⟨fun s hp ha => exec_trapOwn (fun _ => rfl) hp ha, fun s hp ha => exec_trapOwn (fun _ => rfl) hp ha, fun s t hp ha hpair hh => ?_,
      fun s t hp ha hpair hh => ?_⟩
    · exact exec_trapOwn_handled (fun _ => rfl) hp ha hpair hh (by decide)
    · exact exec_trapOwn_handled (fun _ => rfl) hp ha hpair hh (by decide)

/-! ### ERET (R390) -/

/-- What the return from a trap checks: the thread is in one, and the target may be transferred to. -/
def eretChk (i : Instr) (next : Bool) (_ : Dev) (t : Thread) : Option Flt :=
  firstFlt [flt (!t.inTrap) 1 cPrivilege (insnDetail i), targetFlt 2 t.lane (t.eretTarget next)]

theorem eret_runs {i : Instr} {h : Hd} {next : Bool} (hx : ∀ s : State, exec i s = onDev s (fun d => d.eret i h next)) : LaneEnds i h [0] false
    (fun _ t => t.inTrap = true ∧ (t.eretTarget next).toNat % 4 = 0 ∧ localTarget (t.eretTarget next) = true)
    (fun e t => (t.eretTo (t.eretTarget next) e.pcyc).hint h.yh e.pcyc) := by
  simp only [Dev.eret] at hx
  refine LaneEnds.of _ hx (fun d hp _ => ?_)
  have hchk : (d.opened i h).faultIn i ((d.opened i h).acting h [0]) (eretChk i next (d.opened i h)) = none :=
    Dev.faultIn_none (fun t ht => by
      obtain ⟨_, htrap, ha, hl⟩ := hp t ht
      simp [eretChk, htrap, targetFlt_of_local ha hl])
  unfold eretChk at hchk
  simp only [hchk, ← contains_map_uid]
  exact Dev.retireOthers_after _

/-- A fault of a lone thread that is no shadow is reported as it is. -/
theorem Dev.faultIn_of_lone {d : Dev} {i : Instr} {t : Thread} {chk : Thread → Option Flt} {f : Flt} (hp : d.pairsOf [t] = [t])
    (hs : t.shadow = false) (hf : chk t = some f) (hg : causeGroup f.cause ≠ 2) :
    d.faultIn i [t] chk = some ⟨f.cause, f.detail, [t.uid]⟩ := by
  have hpair : ∀ y ∈ d.members, y.shadow = true → ¬ (y.uid = t.uid ∨ y.partner = some t.uid) := by
    intro y hy hshadow hpart
    have hmem : y ∈ d.pairsOf [t] := by
      refine List.mem_filter.2 ⟨hy, ?_⟩
      rcases hpart with hu | hu <;> simp [hu]
    rw [hp, List.mem_singleton] at hmem
    simp [hmem, hs] at hshadow
  have hodd : d.members.filter (fun y => y.shadow && d.members.any (fun p => some p.uid == y.partner &&
      ((if [t].any (fun x => x.uid == p.uid) then (chk p).map Flt.cause else none) !=
        if [t].any (fun x => x.uid == y.uid) then (chk y).map Flt.cause else none))) = [] := by
    rw [List.filter_eq_nil_iff]
    intro y hy hbad
    obtain ⟨hshadow, hany⟩ := Bool.and_eq_true_iff.1 hbad
    obtain ⟨p, -, hpy⟩ := List.any_eq_true.1 hany
    obtain ⟨hpart, hne⟩ := Bool.and_eq_true_iff.1 hpy
    have hnot := hpair y hy hshadow
    have hp' : t.uid ≠ p.uid := fun hu => hnot (.inr ((beq_iff_eq.1 hpart).symm.trans (by rw [hu])))
    have hy' : t.uid ≠ y.uid := fun hu => hnot (.inl hu.symm)
    simp [hp', hy'] at hne
  simp only [Dev.faultIn, faultOf, List.filterMap_cons, List.filterMap_nil, hf, Option.map_some, reduceCtorEq, if_false, hodd]
  simp [pickFail, minBy, Detail.withMask, hg]

/-- In a lone thread that is in no trap ERET raises PRIVILEGE. -/
theorem exec_eret_outside {h : Hd} {s : State} {t : Thread} (hp : s.dev.AllPass (.eret h) h [0] false (fun _ _ => True))
    (ha : (s.dev.opened (.eret h) h).acting h [0] = [t]) (hpair : (s.dev.opened (.eret h) h).pairsOf [t] = [t]) (hs : t.shadow = false)
    (ht : t.inTrap = false) :
    exec (.eret h) s = .next { s with dev :=
      (s.dev.opened (.eret h) h).failGroup h [t] ⟨cPrivilege, insnDetail (.eret h), [t.uid]⟩ } := by
  have hfault : (s.dev.opened (.eret h) h).faultIn (.eret h) [t] (eretChk (.eret h) false (s.dev.opened (.eret h) h)) =
      some ⟨cPrivilege, insnDetail (.eret h), [t.uid]⟩ :=
    Dev.faultIn_of_lone (f := ⟨1, cPrivilege, insnDetail (.eret h)⟩) hpair hs (by simp [eretChk, firstFlt, flt, ht])
      (show causeGroup cPrivilege ≠ 2 by decide)
  change execEret h s = _
  unfold eretChk at hfault
  rw [execEret, onDev, Dev.eret, Dev.lanesChk, Dev.lanes_ok _ _ _ _ _ _ (fun t ht => (hp t ht).1), ha, if_neg (List.cons_ne_nil _ _)]
  simp only [hfault]

/-- Settles O42: both forms are the shared return with their own target. -/
theorem trapReturn : Obligations.TrapReturn := by
  intro h back
  refine ⟨?_, ?_, fun s t hp ha hpair hs ht => exec_eret_outside hp ha hpair hs ht⟩
  · have hzero : ∀ x : W64, x + 0 = x := fun x => BitVec.add_zero x
    simp only [back, hzero]
    exact eret_runs (next := false) (fun _ => rfl)
  · exact eret_runs (next := true) (fun _ => rfl)

end Sys2Proof.Machine

/-! SUPPORT. SNAP, SNAPQ, CTXSV and CTXLD (R434, R436, R438, R439). -/

namespace Sys2Proof.Machine

/-! ### Once for the instruction -/

/-- An instruction whose acting threads pass their checks runs its body on them. -/
theorem exec_of_acting {i : Instr} {h : Hd} {bits : List Nat} {g : Bool} {ok : Dev → Thread → Prop} {body : List Thread → Dev → Dev} {s : State}
    {t : Thread} {ts : List Thread} (hx : ∀ s : State, exec i s = onDev s (fun d => d.lanes i h bits g body))
    (hp : s.dev.AllPass i h bits g ok) (ha : (s.dev.opened i h).acting h bits = t :: ts) :
    exec i s = .next { s with dev := body (t :: ts) (s.dev.opened i h) } := by
  rw [hx, onDev, Dev.lanes_ok _ _ _ _ _ _ (fun t ht => (hp t ht).1), ha, if_neg (List.cons_ne_nil _ _)]

section
variable {d : Dev} {h : Hd} {p : PReg} {t : Thread} {ts : List Thread}

/-! ### SNAP (R434) -/

section
variable {c : Ctx} {k : Bool} (hc : d.ctx? t.ctx = some c) (hkey : c.snapKey.isSome = true)
include hc hkey

theorem Dev.snap_of_recorded (hl : (c.snaps[b2n k]?).bind (fun s => if s.live then some s.epoch else none) = some c.regs.epoch) :
    d.snap h p k (t :: ts) = d.answerP h (t :: ts) p 0x0F false := by
  simp [Dev.snap, hc, Option.isNone_eq_false_iff.2 hkey, hl]

/-- The record step begins where the colour's last snapshot is over, its area is known, and the epoch that is passed over has no live
snapshot. -/
theorem Dev.snap_of_begins (hl : (c.snaps[b2n k]?).bind (fun s => if s.live then some s.epoch else none) = none)
    (harea : (c.areas[b2n k]?.getD none).isSome = true)
    (hpass : (c.regs.epoch + 1) % 65536 = nextEpoch c.regs.epoch k ∨ c.liveSnap ((c.regs.epoch + 1) % 65536) = none) :
    d.snap h p k (t :: ts) = (d.answerP h (t :: ts) p 0xFF false).recordBegin t.ctx (nextEpoch c.regs.epoch k) := by
  have hkept : ¬ ((c.regs.epoch + 1) % 65536 ≠ nextEpoch c.regs.epoch k ∧ (c.liveSnap ((c.regs.epoch + 1) % 65536)).isSome = true) := by
    rintro ⟨hne, hsome⟩
    rcases hpass with heq | hnone
    · exact hne heq
    · simp [hnone] at hsome
  simp [Dev.snap, hc, Option.isNone_eq_false_iff.2 hkey, hl, Option.isNone_eq_false_iff.2 harea, hkept]

end

/-! ### CTXSV and CTXLD (R438, R439) -/

/-- The context slot that a value names, with its context. -/
def Dev.slotCtx (d : Dev) (v : Nat) : Option (Nat × Ctx) := if v < 64 then (d.ctx? v).map (fun c => (v, c)) else none

theorem Dev.slotOf_bind_ctx? (d : Dev) (v : Nat) : (slotOf v).bind (fun k => (d.ctx? k).map (fun c => (k, c))) = d.slotCtx v := by
  unfold slotOf Dev.slotCtx
  split <;> rfl

section
variable {v : Nat}

theorem Dev.ctxsv_of_none (hs : d.slotCtx v = none) : d.ctxsv v = (d, false) := by simp only [Dev.ctxsv, Dev.slotOf_bind_ctx?, hs]

theorem Dev.ctxld_of_none (hs : d.slotCtx v = none) : d.ctxld v = (d, false) := by simp only [Dev.ctxld, Dev.slotOf_bind_ctx?, hs]

variable {n : Nat} {c : Ctx} (hs : d.slotCtx v = some (n, c))
include hs

theorem Dev.ctxsv_of_saves (hp : c.phase = .running ∨ (∃ n, c.phase = .draining n) ∨ ∃ n e b, c.phase = .recording n e b) :
    d.ctxsv v = (d.startSave n, true) := by
  rcases hp with hp | ⟨m, hp⟩ | ⟨m, e, b, hp⟩ <;> simp only [Dev.ctxsv, Dev.slotOf_bind_ctx?, hs, hp]

theorem Dev.ctxsv_of_other (hr : c.phase ≠ .running) (hd : ∀ n, c.phase ≠ .draining n) (hc : ∀ n e b, c.phase ≠ .recording n e b) :
    d.ctxsv v = (d, false) := by
  simp only [Dev.ctxsv, Dev.slotOf_bind_ctx?, hs]

theorem Dev.ctxld_of_saved {x : CtxImage} (hp : c.phase = .saved) (hx : c.saved = some x) :
    d.ctxld v = if c.noResume then (d, false) else (d.within 72000 (.contextResume n x.stay), true) := by
  simp only [Dev.ctxld, Dev.slotOf_bind_ctx?, hs, hp, hx]

theorem Dev.ctxld_of_exhausted (hp : c.phase = .exhausted) : d.ctxld v = (d.within 72000 (.contextResume n []), true) := by
  simp only [Dev.ctxld, Dev.slotOf_bind_ctx?, hs, hp]

theorem Dev.ctxld_of_other (hp : ∀ x, c.phase = .saved → c.saved ≠ some x) (he : c.phase ≠ .exhausted) : d.ctxld v = (d, false) := by
  simp only [Dev.ctxld, Dev.slotOf_bind_ctx?, hs]

end

/-- CTXLD.IMG of an empty slot loads the part. -/
theorem Dev.ctxldImg_of_empty {a b : VReg} {n : Nat} {c : Ctx} {d1 : Dev} (hs : d.slotCtx ((d.env t).read 0 (.v a false)).1 = some (n, c))
    (he : d.slotEmpty n c = true) (hl : d.loadPart n c ((d.env t).read 1 (.v b true)).1 = .ok d1) :
    d.ctxldImg h p a b (t :: ts) =
      d1.answerP h (t :: ts) p 0xFF (((d.env t).read 0 (.v a false)).2 || ((d.env t).read 1 (.v b true)).2) := by
  simp only [Dev.ctxldImg, Dev.slotOf_bind_ctx?, hs, he, hl, Bool.not_true, Bool.false_eq_true, if_false]

/-- A slot that is absent or not empty loads nothing (the model's choice, log 96). -/
theorem Dev.ctxldImg_of_refused {a b : VReg} (hs : ∀ n c, d.slotCtx ((d.env t).read 0 (.v a false)).1 = some (n, c) → d.slotEmpty n c = false) :
    d.ctxldImg h p a b (t :: ts) =
      d.answerP h (t :: ts) p 0x00 (((d.env t).read 0 (.v a false)).2 || ((d.env t).read 1 (.v b true)).2) := by
  simp only [Dev.ctxldImg, Dev.slotOf_bind_ctx?]
  cases hslot : d.slotCtx ((d.env t).read 0 (.v a false)).1 with
  | none => rfl
  | some x => simp only [hs x.1 x.2 hslot, Bool.not_false, if_true]

end

/-- A request about a slot gives every active thread the answer. -/
theorem exec_ctxOp {i : Instr} {h : Hd} {p : PReg} {a : VReg} {f : Dev → Nat → Dev × Bool} {s : State} {t : Thread} {ts : List Thread}
    (hx : ∀ s : State, exec i s = onDev s (fun d => d.ctxOp i h p a f)) (hp : s.dev.AllPass i h [0] false (fun _ _ => True))
    (ha : (s.dev.opened i h).acting h [0] = t :: ts) :
    let e := s.dev.opened i h
    let x := (e.env t).read 0 (.v a false)
    exec i s = .next { s with dev := (f e x.1).1.answerP h (t :: ts) p (if (f e x.1).2 then 0xFF else 0x00) x.2 } := by
  simp only [Dev.ctxOp] at hx
  exact exec_of_acting hx hp ha

/-- Settles O45: SNAP, CTXSV, CTXLD and CTXLD.IMG act once for the instruction, by the context that it or its operand names. That
CTXLD.IMG of an absent or non-empty slot answers 0x00 (log 96) and that CTXLD resumes an exhausted re-run with 0xFF (log 97) are the
model's choices. -/
theorem snapshotInstructions : Obligations.SnapshotInstructions := by
  intro h p r a b k answers slot one
  refine ⟨?snap, ?query, ?sleep, ?save, ?load, ?image⟩
  case snap =>
    rintro s t ts hp ha d ⟨c, hc, hkey, hbody⟩
    rw [exec_of_acting (body := fun act d => d.snap h p k act) (fun _ => rfl) hp ha]
    rcases hbody with ⟨hlive, rfl⟩ | ⟨hlive, harea, hpass, rfl⟩
    · rw [Dev.snap_of_recorded hc hkey hlive]
      rfl
    · rw [Dev.snap_of_begins hc hkey hlive harea hpass]
      rfl
  case query => exact .of_mapUids _ (fun _ => rfl) fun _ t => (t.keeps_wrs ..).uid
  case sleep =>
    rintro s t ts hp ha d rfl
    exact exec_of_acting (fun _ => rfl) hp ha
  case save =>
    intro s t ts hp ha d hbody
    rw [exec_ctxOp (f := Dev.ctxsv) (fun _ => rfl) hp ha]
    dsimp only at hbody
    split at hbody
    case h_1 n c hs =>
      split at hbody
      case h_1 hph =>
        rw [Dev.ctxsv_of_saves hs (.inl hph), hbody]
        rfl
      case h_2 m hph =>
        rw [Dev.ctxsv_of_saves hs (.inr (.inl ⟨m, hph⟩)), hbody]
        rfl
      case h_3 m e b hph =>
        rw [Dev.ctxsv_of_saves hs (.inr (.inr ⟨m, e, b, hph⟩)), hbody]
        rfl
      case h_4 hr hd hc =>
        rw [Dev.ctxsv_of_other hs hr hd hc, hbody]
        rfl
    case h_2 hs =>
      rw [Dev.ctxsv_of_none hs, hbody]
      rfl
  case load =>
    intro s t ts hp ha d hbody
    rw [exec_ctxOp (f := Dev.ctxld) (fun _ => rfl) hp ha]
    dsimp only at hbody
    split at hbody
    case h_1 n c hs =>
      split at hbody
      case h_1 x hph hsaved =>
        rw [Dev.ctxld_of_saved hs hph hsaved]
        split at hbody
        case isTrue hn =>
          rw [if_pos hn, hbody]
          rfl
        case isFalse hn =>
          rw [if_neg hn, hbody]
          rfl
      case h_2 hph =>
        rw [Dev.ctxld_of_exhausted hs hph, hbody]
        rfl
      case h_3 hexhausted hsaved =>
        rw [Dev.ctxld_of_other hs hsaved hexhausted, hbody]
        rfl
    case h_2 hs =>
      rw [Dev.ctxld_of_none hs, hbody]
      rfl
  case image =>
    intro s t ts hp ha d hbody
    rw [exec_of_acting (body := fun act d => d.ctxldImg h p a b act) (fun _ => rfl) hp ha]
    dsimp only at hbody ⊢
    split at hbody
    case h_1 n c hs =>
      split at hbody
      case isTrue he =>
        obtain ⟨d1, hl, rfl⟩ := hbody
        rw [Dev.ctxldImg_of_empty hs he hl]
        rfl
      case isFalse he =>
        rw [Dev.ctxldImg_of_refused fun n' c' hs' => ?_, hbody]
        · rfl
        · obtain ⟨rfl, rfl⟩ : n = n' ∧ c = c' := by simpa using hs.symm.trans hs'
          simpa using he
    case h_2 hs =>
      rw [Dev.ctxldImg_of_refused fun n' c' hs' => absurd (hs.symm.trans hs') (by simp), hbody]
      rfl

end Sys2Proof.Machine

/-! SUPPORT. Late transitions, margins, scans and fills: one lemma per case of each operation (R391 to R402, R412 to R414). -/

namespace Sys2Proof.Machine

/-! ### Reports of late transitions (R391, R394, R395) -/

/-- The thread that a report on a thread's uid is about: for a shadow its primary. -/
def Dev.reportOn (d : Dev) (u : Nat) : Option Thread := (d.thread? u).map (fun t => (d.thread? t.gangUid).getD t)

section
variable {s : State} {p u : Nat} {t : Thread} (ht : s.dev.reportOn u = some t) (hp : s.dev.physOf t.core = p)
include ht hp

/-- A report that falls in no instruction's stage is only counted (log 74). -/
theorem exec_report_of_none (k : Bool) (hr : s.dev.reported t = []) :
    exec (.shadowLatchReport p u k) s = onDev s (fun d => d.countOnly p t) := by
  change execShadowLatchReport p u k s = _
  unfold Dev.reportOn at ht
  simp only [execShadowLatchReport, ht, hp, hr, ne_eq, not_true_eq_false, if_false]

variable {g : List Nat} (hr : s.dev.reported t = g) (hg : g ≠ [])
include hr hg

/-- A report discards the instruction, unless the side unit performs it and had done so before (log 77). -/
theorem exec_report_of_replay {k : Bool}
    (hside : ∀ i, s.dev.atPc t = some i → sideUnit i = true → t.wait = .none → k = false ∧ Config.pick s.dev.ctr % 2 = 0) :
    exec (.shadowLatchReport p u k) s = onDev s (fun d => d.replay p t g) := by
  change execShadowLatchReport p u k s = _
  unfold Dev.reportOn at ht
  obtain ⟨a, r, rfl⟩ := List.exists_cons_of_ne_nil hg
  simp only [execShadowLatchReport, ht, hp, hr, ne_eq, not_true_eq_false, if_false]
  cases hi : s.dev.atPc t with
  | none => rfl
  | some i =>
    by_cases hu : sideUnit i = true ∧ t.wait = .none
    · obtain ⟨rfl, hpick⟩ := hside i hi hu.1 hu.2
      simp [hpick]
    · have hnot : (sideUnit i && decide (t.wait = .none)) = false := by simpa using hu
      simp [hnot]

variable {i : Instr} (hi : s.dev.atPc t = some i) (hu : sideUnit i = true) (hw : t.wait = .none)
include hi hu hw

/-- The replay receives the result that the side unit kept (R394). -/
theorem exec_report_of_kept (hpick : Config.pick s.dev.ctr % 2 = 1) : exec (.shadowLatchReport p u false) s = kept s i p t g := by
  change execShadowLatchReport p u false s = _
  unfold Dev.reportOn at ht
  obtain ⟨a, r, rfl⟩ := List.exists_cons_of_ne_nil hg
  simp [execShadowLatchReport, ht, hp, hr, hi, hu, hw, hpick]

/-- An instruction that cannot be replayed leaves its effect on the module, and its context is saved (R395). -/
theorem exec_report_of_nonreplayable :
    exec (.shadowLatchReport p u true) s =
      onDev (keepThreads s (sideEffect i { s with dev := { s.dev with cur := .group t.core g t.pc } }))
        (fun d => (d.countReplay p (3 ≤ t.replays + 1)).nonreplayable p t) := by
  change execShadowLatchReport p u true s = _
  unfold Dev.reportOn at ht
  obtain ⟨a, r, rfl⟩ := List.exists_cons_of_ne_nil hg
  simp [execShadowLatchReport, ht, hp, hr, hi, hu, hw]

end

theorem kept_of_next {s s1 : State} {i : Instr} {p : Nat} {t : Thread} {g : List Nat}
    (hrun : sideRun i { s with dev := { s.dev.tick with cur := .group t.core g t.pc } } = .next s1) :
    kept s i p t g = .next { s1 with dev :=
      (s1.dev.mapUids g (fun x => { x with since := max x.since (s.dev.pcyc + 13) })).countReplay p (3 ≤ t.replays + 1) } := by
  simp only [kept, hrun] <;> rfl

section
variable {d : Dev} {p : Nat}

/-- A replay as the report leaves its threads: they wait until the supply has settled. -/
theorem Dev.replay_eq (t : Thread) (g : List Nat) :
    let w := if 3 ≤ t.replays + 1 ∧ (d.phys? p).cur ≠ 0 then Config.delay d.ctr % 2401 else 12
    d.replay p t g = (d.tick.mapUids g (fun x =>
      { x with replays := t.replays + 1, wait := .settle (d.pcyc + w), latches := [], since := x.since + w })).countReplay p
        (decide (3 ≤ t.replays + 1)) := by
  simp only [Dev.replay, Thread.replay, Bool.and_eq_true, decide_eq_true_eq]

theorem Dev.countOnly_of_matrix {t : Thread} {n : Nat} (hw : t.wait = .matrix n) :
    d.countOnly p t = (d.mapThreads (fun x => x.wait == .matrix n) (fun x => { x with replays := t.replays + 1 })).countReplay p
      (decide (3 ≤ t.replays + 1)) := by
  simp only [Dev.countOnly, hw]

theorem Dev.countOnly_of_other {t : Thread} (hw : ∀ n, t.wait ≠ .matrix n) : d.countOnly p t = d.countReplay p false := by
  simp only [Dev.countOnly]

/-! ### Foehn (R397 to R399) -/

/-- What a physical core becomes matters only for the core as it is. -/
theorem Dev.mapPhys_congr {f g : Phys → Phys} (h : f (d.phys? p) = g (d.phys? p)) : d.mapPhys p f = d.mapPhys p g := by
  simp only [Dev.mapPhys, h]

theorem Phys.stepDue_iff {x : Phys} {now : Nat} : x.stepDue now = true ↔ x.cur ≠ x.tgt ∧ x.lastStep + 1200 ≤ now := by
  simp [Phys.stepDue]

/-- A target that changes notes when it did; the steps count from where CUR and TGT begin to differ (log 75). -/
theorem Dev.setTgt_of_ne {v : Nat} (hv : (d.phys? p).tgt ≠ v) :
    d.setTgt p v = d.mapPhys p (fun x => { x with
      tgt := v, lastTgt := d.pcyc, lastStep := if x.cur = x.tgt then d.pcyc else x.lastStep }) :=
  Dev.mapPhys_congr (by simp [hv])

theorem Dev.deepenDue_iff : d.deepenDue p = true ↔ d.foehnSets p = true ∧ (d.phys? p).tgt < (d.phys? p).ceil ∧
    (d.phys? p).calmSince + 12000000 ≤ d.pcyc ∧ ∀ n, (d.phys? p).lastRaise = some n → n + 120000000 ≤ d.pcyc := by
  cases hl : (d.phys? p).lastRaise <;> simp [Dev.deepenDue, hl, and_assoc]

/-! ### Scans (R412) -/

@[simp] theorem Dev.wipeCore_scansig (d : Dev) (p : Nat) : (d.wipeCore p).scansig = d.scansig := by
  unfold Dev.wipeCore
  split <;> rfl

/-- A scan that ends leaves the core wiped, in the state from which it began. -/
theorem Dev.scanEnds_of_due {sig : W64} {st : Nat} (hend : (d.phys? p).scanEnd ≠ 0 ∧ (d.phys? p).scanEnd ≤ d.pcyc)
    (hst : ((d.phys? p).state = 3 ∧ (d.phys? p).prior = st) ∨ ((d.phys? p).state = 5 ∧ st = 5)) :
    let past := fun (res : Nat) => (d.wipeCore p).mapPhys p (fun x => { x with scanEnd := 0, sres := res, state := st })
    d.scanEnds p sig =
      if sig = KV.get d.scansig 0 p then past 1
      else
        let e := (past 2).physNote p cScanFail (lo32 sig).toNat
        if st = 4 ∨ st = 5 then (e.quarantine p false).1 else e := by
  rcases hst with ⟨hs, rfl⟩ | ⟨hs, rfl⟩ <;> simp [Dev.scanEnds, hend, hs]

/-! ### Fills (R402, R414) -/

/-- A run of the pattern set ends within 240,000 cycles. -/
theorem Dev.scanBegin_ends (d : Dev) (p : Nat) : ((d.scanBegin p).phys? p).scanEnd - (d.scanBegin p).pcyc ≤ 240000 := by
  have hend : ((d.scanBegin p).phys? p).scanEnd = (d.scanBegin p).pcyc + Config.delay d.ctr % 240000 + 1 := by
    simp [Dev.scanBegin, Dev.phys?, Dev.mapPhys]
  have hdelay := Nat.mod_lt (Config.delay d.ctr) (show 0 < 240000 by decide)
  omega

/-- The device when a fill has begun, and with it a scan of the spare. -/
def Dev.fillBegun (d : Dev) (f : Fill) : Dev :=
  let d1 : Dev := { d with fills := d.fills.map (fun g => if g.spare = f.spare then { g with started := some d.pcyc } else g) }
  (d1.mapPhys f.spare (fun x => { x with sres := 0 })).scanBegin f.spare

/-- A fill takes a free number of cycles, at most 300,000, and at least as many as the scan of its spare. -/
theorem Dev.fillStart_of_next {die : Nat} {f : Fill} (hf : d.nextFill die = some f) : ∃ n ≤ 300000,
    d.fillStart die = { d.fillBegun f with
      agenda := insertEvent ((d.fillBegun f).pcyc + n) (.fillComplete f.spare) (d.fillBegun f).agenda, ctr := (d.fillBegun f).ctr + 1 } := by
  have hrun : ((d.fillBegun f).phys? f.spare).scanEnd - (d.fillBegun f).pcyc ≤ 240000 := Dev.scanBegin_ends _ _
  generalize hn : ((d.fillBegun f).phys? f.spare).scanEnd - (d.fillBegun f).pcyc = run at hrun
  have hdelay := Nat.mod_lt (Config.delay (d.fillBegun f).ctr) (show 0 < 300001 - run by omega)
  refine ⟨run + Config.delay (d.fillBegun f).ctr % (300001 - run), by omega, ?_⟩
  rw [← Nat.add_assoc, ← hn, Dev.fillStart, hf]
  rfl

section
variable {f : Fill} (hf : d.fills.find? (fun g => g.spare == p) = some f) (hs : f.started.isSome = true)
  (hend : (d.phys? p).scanEnd = 0) (hst : (d.phys? p).state = 5)
include hf hs hend hst

theorem Dev.fillDone_of_good (hb : d.spareBad p = false) :
    let e := ((d.logSpare p).columnWords f.logical).foldl (fun d w => d.copyWord w) (d.logSpare p)
    d.fillDone p = { e.mapPhys p (fun x => { x with state := if f.foehn then 0 else 2, flips := [] }) with
      fills := e.fills.filter (fun g => g.spare ≠ p), colPhys := KV.del e.colPhys f.logical } := by
  simp [Dev.fillDone, hf, hs, hend, hst, hb]

theorem Dev.fillDone_of_bad (hb : d.spareBad p = true) : d.fillDone p = ((d.logSpare p).quarantine p false).1 := by
  simp [Dev.fillDone, hf, hs, hend, hst, hb]

end

end

/-- Settles O47: a report takes the case of the instruction in whose stage it falls, and each other event finds its core or fill in the
state that the hypotheses name. Whether the side unit had performed an operation (log 77), the reports on waiting threads (log 74) and
how CUR's steps are counted (log 75) are the model's choices. -/
theorem marginEvents : Obligations.MarginEvents := by
  intro p u die t f sig g scans past here stands side third replays
  refine ⟨fun k => ?replay, ?early, fun s s1 i hst hs hpick hrun => ?kept, fun h m x => ?nonreplayable, fun n k => ?matrix, fun k => ?counted,
    ?reissue, ?settled, ?step, ?deepen, fun st => ?clean, fun st => ?failed, fun st => ?failedSpare, ?aborted, fun s hf => ?fillStart, ?filled,
    ?fillBad⟩
  case replay =>
    intro s ⟨⟨⟨ht, hp⟩, hr, hg⟩, hside⟩
    rw [exec_report_of_replay ht hp hr hg fun i hi hu hw => absurd ⟨hi, hu, hw⟩ (hside i), onDev, Dev.replay_eq]
  case early =>
    intro s ⟨⟨⟨ht, hp⟩, hr, hg⟩, hpick⟩
    rw [exec_report_of_replay ht hp hr hg fun _ _ _ _ => ⟨rfl, hpick⟩, onDev, Dev.replay_eq]
  case kept =>
    obtain ⟨⟨ht, hp⟩, hr, hg⟩ := hst
    obtain ⟨hi, hu, hw⟩ := hs
    rw [exec_report_of_kept ht hp hr hg hi hu hw hpick, kept_of_next hrun]
  case nonreplayable =>
    intro s ⟨⟨⟨ht, hp⟩, hr, hg⟩, hi, hu, hw⟩
    exact exec_report_of_nonreplayable ht hp hr hg hi hu hw
  case matrix =>
    intro s ⟨⟨ht, hp⟩, hr, hw⟩
    rw [exec_report_of_none ht hp k hr, onDev, Dev.countOnly_of_matrix hw]
  case counted =>
    intro s ⟨⟨ht, hp⟩, hr, hw⟩
    rw [exec_report_of_none ht hp k hr, onDev, Dev.countOnly_of_other hw]
  case reissue =>
    intro s ht
    change execReplayReissue u s = _
    simp only [execReplayReissue, onDev, ht] <;> rfl
  case settled => exact .of_onDev (fun _ => rfl) fun d _ => rfl
  case step =>
    intro s hdue
    change execFoehnStep p s = _
    simp only [execFoehnStep, onDev, if_pos (Phys.stepDue_iff.2 hdue)]
  case deepen =>
    intro s hdue
    change execFoehnDeepen p s = _
    simp only [execFoehnDeepen, onDev, if_pos (Dev.deepenDue_iff.2 hdue), Dev.setTgt_of_ne (Nat.ne_of_lt (Nat.lt_succ_self _))]
  case clean => exact .of_onDev (fun _ => rfl) fun d ⟨⟨he, hd, hst⟩, hsig⟩ => (Dev.scanEnds_of_due ⟨he, hd⟩ hst).trans (if_pos hsig)
  case failed =>
    exact .of_onDev (fun _ => rfl) fun d ⟨⟨he, hd, hst⟩, hsig, h4, h5⟩ =>
      (Dev.scanEnds_of_due ⟨he, hd⟩ hst).trans ((if_neg hsig).trans (if_neg (by simp [h4, h5])))
  case failedSpare =>
    exact .of_onDev (fun _ => rfl) fun d ⟨⟨he, hd, hst⟩, hsig, hspare⟩ =>
      (Dev.scanEnds_of_due ⟨he, hd⟩ hst).trans ((if_neg hsig).trans (if_pos hspare))
  case aborted =>
    intro s ⟨hst, he⟩
    change execScanAborted p s = _
    simp only [execScanAborted, onDev, hst, he, decide_true, Bool.and_self, if_true]
  case fillStart =>
    obtain ⟨n, hn, hstart⟩ := Dev.fillStart_of_next hf
    refine ⟨n, hn, ?_⟩
    change execFillStart die s = _
    rw [execFillStart, onDev, hstart]
    rfl
  case filled => exact .of_onDev (fun _ => rfl) fun d ⟨hf, hs, he, hst, hb⟩ => Dev.fillDone_of_good hf hs he hst hb
  case fillBad => exact .of_onDev (fun _ => rfl) fun d ⟨hf, hs, he, hst, hb⟩ => Dev.fillDone_of_bad hf hs he hst hb

end Sys2Proof.Machine

/-! SUPPORT. What bring-up, the link and the security core keep: every instruction and event answers a next state, and the few that touch
the host side keep its invariant (R347, R465, R466). -/

namespace Sys2Proof.Machine

/-! ### The host side (R347, R465, R466) -/

section
variable {h : HostSide} (inv : h.Inv)
include inv

theorem HostSide.Inv.answered (n : Nat) (b : List Byte) : ({ h with answer := n, readData := b } : HostSide).Inv := { inv with }

theorem HostSide.Inv.says (n : Nat) : (h.says n).Inv := inv.answered n h.readData

theorem HostSide.Inv.answers (ok : Bool) : (h.answers ok).Inv := inv.answered (if ok then 1 else 2) h.readData

theorem HostSide.Inv.talk (ok : Bool) (b : List Byte) : (h.talk ok b).Inv := by
  unfold HostSide.talk
  split
  · exact inv.answered 1 b
  · exact inv.says 2

/-- A connection's first exchanges leave the responder at most where the third one leaves it. -/
theorem HostSide.Inv.exchanged {n : Nat} (hs : 3 ≤ h.step) (hn : n ≤ 3) (b : List Byte) :
    ({ h with spdm := n, answer := 1, readData := b } : HostSide).Inv :=
  { inv with spdm := ⟨hn, fun _ => hs⟩ }

theorem HostSide.Inv.linkDown : ({ h with linkUp := false } : HostSide).Inv := { inv with link := nofun }

theorem HostSide.Inv.linkTrained (hs : 3 ≤ h.step) : ({ h with linkUp := true } : HostSide).Inv := { inv with link := fun _ => hs }

/-- Sessions change, and their numbers stay different. -/
theorem HostSide.Inv.withSessions {l : List Session} (hs : 3 ≤ h.step) (hl : (l.map Session.id).Nodup) :
    ({ h with sessions := l } : HostSide).Inv :=
  { inv with opened := fun _ => hs, ids := hl }

theorem HostSide.Inv.sessionOpened {x part : Nat} (hs : 3 ≤ h.step) (hx : h.sessions.any (fun y => y.id == x) = false) :
    ({ h with sessions := h.sessions ++ [⟨x, part, false⟩] } : HostSide).Inv := by
  refine inv.withSessions hs ?_
  rw [List.map_append, List.nodup_append]
  refine ⟨inv.ids, List.nodup_singleton x, fun a ha b hb => ?_⟩
  obtain ⟨y, hy, rfl⟩ := List.mem_map.1 ha
  rw [List.mem_singleton.1 hb]
  simpa using List.any_eq_false.1 hx y hy

theorem HostSide.Inv.sessionFinished (x : Nat) (hs : 3 ≤ h.step) :
    ({ h with sessions := h.sessions.map (fun y => if y.id = x then { y with finished := true } else y) } : HostSide).Inv := by
  refine inv.withSessions hs ?_
  have hids : (h.sessions.map (fun y => if y.id = x then { y with finished := true } else y)).map Session.id =
      h.sessions.map Session.id := by
    rw [List.map_map]
    exact List.map_congr_left fun y _ => by dsimp only [Function.comp_apply]; split <;> rfl
  rw [hids]
  exact inv.ids

theorem HostSide.Inv.sessionEnded (x : Nat) (hs : 3 ≤ h.step) :
    ({ h with sessions := h.sessions.filter (fun y => y.id ≠ x) } : HostSide).Inv :=
  inv.withSessions hs (inv.ids.sublist (List.filter_sublist.map _))

/-- A signature spends one index, which it does only while the index is below its end. -/
theorem HostSide.Inv.signed {n : Nat} (hn : n < xmssMax) (b : List Byte) :
    ({ h with xmss := n + 1, answer := 1, readData := b } : HostSide).Inv :=
  { inv with index := hn }

theorem HostSide.Inv.warned : ({ h with warned := true } : HostSide).Inv := { inv with }

/-- No bring-up step but the last makes READY 1, and none follows an image that failed. -/
theorem HostSide.Inv.bootStep (hb : h.booting = true) (hs : h.step < 8) : h.bootStep.Inv := by
  obtain ⟨hready, himg⟩ : h.ready = false ∧ h.imgfail = false := by simpa [HostSide.booting] using hb
  have hfail : h.failimg = 0 := by simpa [himg] using inv.image
  have hlater : h.spdm ≤ 3 ∧ (h.spdm ≠ 0 → 3 ≤ h.step + 1) := ⟨inv.spdm.1, fun hx => Nat.le_succ_of_le (inv.spdm.2 hx)⟩
  have hopen : h.sessions ≠ [] → 3 ≤ h.step + 1 := fun hx => Nat.le_succ_of_le (inv.opened hx)
  have hlink : h.linkUp = true → 3 ≤ h.step + 1 := fun hx => Nat.le_succ_of_le (inv.link hx)
  unfold HostSide.bootStep
  split
  · next hbad =>
    obtain ⟨hone, hne⟩ : h.step = 1 ∧ Config.badImage % 4 ≠ 0 := by simpa using hbad
    exact { inv with failed := fun _ => hone, image := by simpa using hne, images := Nat.mod_lt _ (by decide) }
  split
  · next hone =>
    rw [hone] at hlater hopen hlink
    exact { inv with
      step := by simp, ready := by simp [hready], failed := by simp [himg], link := hlink, spdm := hlater, opened := hopen }
  split
  · exact { inv with
      step := by simp, ready := by simp [hready], failed := by simp [himg], link := fun _ => le_rfl
      spdm := ⟨inv.spdm.1, fun _ => le_rfl⟩, opened := fun _ => le_rfl }
  split
  · exact { inv with
      step := le_rfl, ready := by simp, failed := by simp [himg], link := fun _ => by simp
      spdm := ⟨inv.spdm.1, fun _ => by simp⟩, opened := fun _ => by simp }
  · next hseven =>
    exact { inv with
      step := hs, ready := by simp [hready, hseven], failed := by simp [himg], link := hlink, spdm := hlater, opened := hopen }

end

/-- Settles O60: every field of the host side is at its reset value. -/
theorem resetMeetsInvariant : Obligations.ResetMeetsInvariant where
  step := by decide
  ready := by decide
  failed := nofun
  image := by decide
  images := by decide
  link := nofun
  spdm := by decide
  index := by decide
  opened := fun hne => absurd rfl hne
  ids := List.nodup_nil

/-- Of the host side a reset keeps the signature index alone, and whether its end has been announced (R347). -/
theorem State.restart_inv {s : State} (inv : s.host.Inv) : s.restart.host.Inv :=
  { resetMeetsInvariant with index := inv.index }

/-! ### What instructions and events answer -/

/-- An outcome is a next state, and it keeps the host side's invariant. -/
def KeepsInv (s : State) (o : Host.Outcome State Fault Refusal) : Prop := ∃ t, o = .next t ∧ (s.host.Inv → t.host.Inv)

/-- An outcome is a next state with the host side as it was. -/
def KeepsHost (s : State) (o : Host.Outcome State Fault Refusal) : Prop := ∃ t, o = .next t ∧ t.host = s.host

theorem KeepsHost.inv {s : State} {o : Host.Outcome State Fault Refusal} (hk : KeepsHost s o) : KeepsInv s o := by
  obtain ⟨t, ho, hh⟩ := hk
  exact ⟨t, ho, fun inv => hh ▸ inv⟩

theorem HostSide.spdmUp_iff {h : HostSide} : h.spdmUp = true ↔ h.linkUp = true ∧ 3 ≤ h.step := by simp [HostSide.spdmUp]

section
variable {s : State}

theorem onMail_keepsInv {s' : State} (f : Dev → Dev × Bool) (hs : s.host.Inv → s'.host.Inv) : KeepsInv s (onMail s' f) := by
  unfold onMail
  split
  · exact ⟨_, rfl, fun inv => (hs inv).answers _⟩
  · exact ⟨_, rfl, hs⟩

/-- A request to the security core is answered only after bring-up step 3 (R466). -/
theorem onSpdm_keepsInv {f : HostSide → HostSide} (hf : s.host.Inv → 3 ≤ s.host.step → (f s.host).Inv) : KeepsInv s (onSpdm s f) := by
  refine ⟨_, rfl, fun inv => ?_⟩
  dsimp only
  split
  · next hup => exact hf inv (HostSide.spdmUp_iff.1 hup).2
  · exact inv

theorem State.sign_inv {msg : List Byte} {f : HostSide → HostSide} (inv : s.host.Inv) (hf : (f s.host).Inv) : (s.sign msg f).host.Inv := by
  unfold State.sign
  split
  · exact inv.says 2
  · next hspent =>
    have hsigned := hf.signed (Nat.lt_of_not_le hspent) (msg ++ Config.xmssSign s.host.identity s.host.xmss msg)
    dsimp only
    split
    · exact hsigned.warned
    · exact hsigned

theorem onSign_keepsInv {s' : State} {ok : Bool} {msg : List Byte} {f : HostSide → HostSide} (hs : s'.host = s.host)
    (hf : s.host.Inv → 3 ≤ s.host.step → ok = true → (f s.host).Inv) : KeepsInv s (onSign s' ok msg f) := by
  unfold onSign
  split
  · next hup =>
    split
    · next hok =>
      refine ⟨_, rfl, fun inv => State.sign_inv (hs ▸ inv) ?_⟩
      rw [hs] at hup ⊢
      exact hf inv (HostSide.spdmUp_iff.1 hup).2 (Bool.and_eq_true_iff.1 hok).2
    · exact ⟨_, rfl, fun inv => (hs ▸ inv : s'.host.Inv).says 2⟩
  · exact ⟨_, rfl, fun inv => hs ▸ inv⟩

/-! ### The module's own requests and accesses -/

theorem execModuleReset_keepsInv : KeepsInv s (execModuleReset s) := by
  unfold execModuleReset
  split
  · next hb =>
    obtain ⟨hboot, hstep⟩ : s.host.booting = true ∧ s.host.step < 8 := by simpa using hb
    exact ⟨_, rfl, fun inv => inv.bootStep hboot hstep⟩
  · exact ⟨_, rfl, State.restart_inv⟩

theorem execPcieLinkUp_keepsInv : KeepsInv s (execPcieLinkUp s) := by
  refine ⟨_, rfl, fun inv => ?_⟩
  dsimp only
  split
  · next hs => exact inv.linkTrained hs
  · exact inv

theorem execMailboxRequest_keepsInv (r : MailReq) : KeepsInv s (execMailboxRequest r s) := by
  refine onMail_keepsInv _ fun inv => ?_
  dsimp only
  split
  · exact inv.answered s.host.answer _
  · exact inv

theorem execPageTableRequest_keepsInv (slot : Nat) (va : W64) (level : Nat) (e : W64) :
    KeepsInv s (execPageTableRequest slot va level e s) := by
  unfold execPageTableRequest
  refine onMail_keepsInv _ fun inv => ?_
  split
  · exact inv.answered s.host.answer _
  · exact inv

theorem execPartmodeRequest_keepsInv (part : Nat) (v : W64) : KeepsInv s (execPartmodeRequest part v s) := onMail_keepsInv _ id

theorem execBarAccess_keepsInv (w : Bool) (off : Nat) (data : List Byte) : KeepsInv s (execBarAccess w off data s) := by
  unfold execBarAccess
  split
  · split
    · split
      · split
        · exact ⟨_, rfl, id⟩
        · exact ⟨_, rfl, fun inv => inv.says 1⟩
      · exact ⟨_, rfl, fun inv => inv.answered 1 _⟩
    · exact ⟨_, rfl, fun inv => inv.says 3⟩
  · exact ⟨_, rfl, id⟩

theorem execDoorbellWrite_keepsInv (part slot : Nat) (bell : Doorbell) : KeepsInv s (execDoorbellWrite part slot bell s) := by
  unfold execDoorbellWrite
  split
  · split
    · exact ⟨_, rfl, fun inv => inv.says 3⟩
    · exact ⟨_, rfl, id⟩
  · exact ⟨_, rfl, id⟩

/-! ### Requests to the security core -/

theorem execGetVersion_keepsInv : KeepsInv s (execGetVersion s) :=
  onSpdm_keepsInv fun inv hs => inv.exchanged hs (by decide) _

theorem execGetCapabilities_keepsInv : KeepsInv s (execGetCapabilities s) := by
  refine onSpdm_keepsInv fun inv hs => ?_
  split
  · exact inv.exchanged hs (by decide) _
  · exact inv.says 2

theorem execNegotiateAlgorithms_keepsInv : KeepsInv s (execNegotiateAlgorithms s) := by
  refine onSpdm_keepsInv fun inv hs => ?_
  split
  · exact inv.exchanged hs le_rfl _
  · exact inv.says 2

theorem execGetDigests_keepsInv : KeepsInv s (execGetDigests s) := onSpdm_keepsInv fun inv _ => inv.talk _ _

theorem execGetCertificate_keepsInv (slot : Nat) : KeepsInv s (execGetCertificate slot s) := onSpdm_keepsInv fun inv _ => inv.talk _ _

theorem execChallenge_keepsInv : KeepsInv s (execChallenge s) := onSign_keepsInv rfl fun inv _ _ => inv

theorem execGetMeasurements_keepsInv (r : MeasureReq) : KeepsInv s (execGetMeasurements r s) := by
  unfold execGetMeasurements
  split
  · exact onSign_keepsInv rfl fun inv _ _ => inv
  · exact onSpdm_keepsInv fun inv _ => inv.talk _ _

theorem execKeyExchange_keepsInv (r : SessionReq) : KeepsInv s (execKeyExchange r s) := by
  refine onSign_keepsInv rfl fun inv hs hok => inv.sessionOpened hs ?_
  simpa using (Bool.and_eq_true_iff.1 hok).2

theorem execFinish_keepsInv (x : Nat) : KeepsInv s (execFinish x s) := by
  refine onSpdm_keepsInv fun inv hs => ?_
  split
  · exact (inv.sessionFinished x hs).answered 1 _
  · exact inv.says 2

theorem execEndSession_keepsInv (x : Nat) : KeepsInv s (execEndSession x s) := by
  refine onSpdm_keepsInv fun inv hs => ?_
  split
  · exact (inv.sessionEnded x hs).answered 1 _
  · exact inv.says 2

theorem execHeartbeat_keepsInv (x : Nat) : KeepsInv s (execHeartbeat x s) := onSpdm_keepsInv fun inv _ => inv.says _

theorem execUnsupportedRequest_keepsInv : KeepsInv s (execUnsupportedRequest s) := onSpdm_keepsInv fun inv _ => inv.says 3

theorem execKeyLoad_keepsInv (x slot k : Nat) (key : BitVec 256) : KeepsInv s (execKeyLoad x slot k key s) := by
  unfold execKeyLoad
  split
  · split
    · exact ⟨_, rfl, fun inv => inv.answers _⟩
    · exact ⟨_, rfl, fun inv => inv.says 2⟩
  · exact ⟨_, rfl, id⟩

/-! ### Reports of late transitions (R391, R394) -/

/-- Every operation of the side unit is of the device alone. -/
theorem sideEffect_keepsHost (i : Instr) : KeepsHost s (sideEffect i s) := by
  unfold sideEffect
  split <;> exact ⟨_, rfl, rfl⟩

theorem sideRun_keepsHost (i : Instr) : KeepsHost s (sideRun i s) := by
  unfold sideRun
  split
  case h_17 => exact sideEffect_keepsHost i
  all_goals exact ⟨_, rfl, rfl⟩

theorem keepThreads_host {o : Host.Outcome State Fault Refusal} (ho : KeepsHost s o) : (keepThreads s o).host = s.host := by
  obtain ⟨t, rfl, hh⟩ := ho
  exact hh

theorem kept_keepsHost (i : Instr) (p : Nat) (t : Thread) (g : List Nat) : KeepsHost s (kept s i p t g) := by
  obtain ⟨s1, hrun, hh⟩ := sideRun_keepsHost (s := { s with dev := { s.dev.tick with cur := .group t.core g t.pc } }) i
  unfold kept
  rw [hrun]
  exact ⟨_, rfl, hh⟩

theorem execShadowLatchReport_keepsHost (p u : Nat) (k : Bool) : KeepsHost s (execShadowLatchReport p u k s) := by
  unfold execShadowLatchReport
  split
  · exact ⟨_, rfl, rfl⟩
  split
  · exact ⟨_, rfl, rfl⟩
  split
  · exact ⟨_, rfl, rfl⟩
  · split
    · exact ⟨_, rfl, keepThreads_host (sideEffect_keepsHost _)⟩
    split
    · exact kept_keepsHost _ _ _ _
    · exact ⟨_, rfl, rfl⟩
  · exact ⟨_, rfl, rfl⟩

end

/-- Every instruction and event answers a next state. All but those between the host, the security core and bring-up leave the host side
as it was. -/
theorem exec_keepsInv (i : Instr) (s : State) : KeepsInv s (exec i s) := by
  cases i with
  | moduleReset => exact execModuleReset_keepsInv
  | pcieHotReset => exact ⟨_, rfl, fun inv => inv.linkDown⟩
  | pcieLinkUp => exact execPcieLinkUp_keepsInv
  | mailboxRequest r => exact execMailboxRequest_keepsInv r
  | partmodeRequest part v => exact execPartmodeRequest_keepsInv part v
  | pageTableRequest slot va level e => exact execPageTableRequest_keepsInv slot va level e
  | barAccess w off data => exact execBarAccess_keepsInv w off data
  | doorbellWrite part slot bell => exact execDoorbellWrite_keepsInv part slot bell
  | bindIntent core head lid rest => exact ⟨_, rfl, fun inv => inv.answers _⟩
  | getVersion => exact execGetVersion_keepsInv
  | getCapabilities => exact execGetCapabilities_keepsInv
  | negotiateAlgorithms => exact execNegotiateAlgorithms_keepsInv
  | getDigests => exact execGetDigests_keepsInv
  | getCertificate slot => exact execGetCertificate_keepsInv slot
  | challenge => exact execChallenge_keepsInv
  | getMeasurements r => exact execGetMeasurements_keepsInv r
  | keyExchange r => exact execKeyExchange_keepsInv r
  | finish x => exact execFinish_keepsInv x
  | endSession x => exact execEndSession_keepsInv x
  | heartbeat x => exact execHeartbeat_keepsInv x
  | unsupportedRequest => exact execUnsupportedRequest_keepsInv
  | keyLoad x slot k key => exact execKeyLoad_keepsInv x slot k key
  | shadowLatchReport p u k => exact (execShadowLatchReport_keepsHost p u k).inv
  | sel h w d a b neg p => cases d <;> exact ⟨_, rfl, id⟩
  | _ => exact ⟨_, rfl, id⟩

/-- The copies for the live snapshots change the device alone. -/
theorem withCopies_keepsInv {s : State} {o : Host.Outcome State Fault Refusal} (d : Dev) (ho : KeepsInv s o) : KeepsInv s (withCopies d o) := by
  obtain ⟨t, rfl, hk⟩ := ho
  exact ⟨_, rfl, hk⟩

/-- Settles O59: a step is a bring-up step, an instruction or event with its copies, or a change of the device alone. -/
theorem stepKeepsInvariant : Obligations.StepKeepsInvariant := by
  intro s
  change KeepsInv s (step s)
  unfold step
  split
  · exact exec_keepsInv .moduleReset s
  split
  · next i d _ => exact withCopies_keepsInv d (exec_keepsInv i { s with dev := d })
  · exact ⟨_, rfl, id⟩

end Sys2Proof.Machine

/-! SUPPORT. Bring-up, the mailbox, the host's accesses and the requests to the security core: one lemma per case of each (R346 to R361,
R459 to R467). -/

namespace Sys2Proof.Machine

/-- An event that leaves the device and makes the host side what `g` says. -/
theorem HostRuns.of_host {i : Instr} {pre : HostSide → Prop} {f g : HostSide → HostSide}
    (hx : ∀ s : State, exec i s = .next { s with host := g s.host }) (hg : ∀ h, pre h → g h = f h) : HostRuns i pre f :=
  fun s hpre => by rw [hx, hg _ hpre]

/-! ### Bring-up and the link (R461, R465, R466) -/

theorem HostSide.booting_iff {h : HostSide} : h.booting = true ↔ h.ready = false ∧ h.imgfail = false := by simp [HostSide.booting]

theorem HostSide.up_iff {h : HostSide} : h.up = true ↔ h.linkUp = true ∧ h.ready = true := by simp [HostSide.up]

section
variable {s : State}

theorem exec_moduleReset_trains (hb : s.host.ready = false ∧ s.host.imgfail = false) (hs : s.host.step = 2) :
    exec .moduleReset s = .next { s with host := { s.host with step := 3, linkUp := true } } := by
  change execModuleReset s = _
  simp [execModuleReset, HostSide.booting_iff.2 hb, hs, HostSide.bootStep, hb.2, Dev.bootStep]

theorem exec_moduleReset_finishes (hb : s.host.ready = false ∧ s.host.imgfail = false) (hs : s.host.step = 7) :
    exec .moduleReset s = .next { s with host := { s.host with step := 8, ready := true }, dev := s.dev.bootImage } := by
  change execModuleReset s = _
  simp [execModuleReset, HostSide.booting_iff.2 hb, hs, HostSide.bootStep, hb.2, Dev.bootStep]

theorem exec_moduleReset_restarts (hb : ¬ (s.host.ready = false ∧ s.host.imgfail = false)) : exec .moduleReset s = .next s.restart := by
  change execModuleReset s = _
  have hnot : s.host.booting = false := Bool.eq_false_iff.2 fun h => hb (HostSide.booting_iff.1 h)
  simp [execModuleReset, hnot]

/-! ### The mailbox and the host's accesses (R334, R349, R459, R460) -/

theorem onMail_of_up {f : Dev → Dev × Bool} (hu : s.host.up = true) :
    onMail s f = .next { s with host := s.host.answers (f s.dev).2, dev := (f s.dev).1 } := by
  simp only [onMail, hu, if_true]

section
variable (hu : s.host.linkUp = true ∧ s.host.ready = true)
include hu

theorem exec_tdispLock_of_session {part : Nat} (hp : part < 8) (hs : ∃ y ∈ s.host.sessions, y.finished = true ∧ y.part = part) :
    exec (.tdispLock part) s = .next { s with dev := s.dev.setLocked part true } := by
  change execTdispLock part s = _
  have hany : s.host.sessions.any (fun x => x.finished && x.part == part) = true := by simpa using hs
  simp only [execTdispLock, onDev, hp, HostSide.up_iff.2 hu, hany, decide_true, Bool.and_self, if_true]

theorem exec_mailboxRequest_of_up (r : MailReq) :
    exec (.mailboxRequest r) s = .next { s with
      host := { s.host with answer := if (s.dev.mail r).2 then 1 else 2, readData := s.dev.mailData r }, dev := (s.dev.mail r).1 } := by
  change execMailboxRequest r s = _
  have hup := HostSide.up_iff.2 hu
  rw [execMailboxRequest, if_pos hup, onMail_of_up (s := { s with host := { s.host with readData := s.dev.mailData r } }) hup]
  rfl

theorem exec_pageTableRequest_of_up (slot : Nat) (va : W64) (n : Nat) (v : W64) :
    let w := s.dev.writeEntry slot va n v
    let out := s.dev.pageOut slot va n v
    exec (.pageTableRequest slot va n v) s = .next { s with
      host := { s.host with answer := if w.2 then 1 else 2, readData := if w.2 ∧ out ≠ [] then out else s.host.readData }
      dev := w.1 } := by
  intro w out
  change execPageTableRequest slot va n v s = _
  have hup := HostSide.up_iff.2 hu
  by_cases hmoved : w.2 = true ∧ out ≠ []
  · have hcond : (s.host.up && decide (out ≠ []) && w.2) = true := by simp [hup, hmoved]
    rw [execPageTableRequest, if_pos hcond, onMail_of_up (s := { s with host := { s.host with readData := out } }) hup, if_pos hmoved]
    rfl
  · have hcond : ¬ (s.host.up && decide (out ≠ []) && w.2) = true := by
      rw [Bool.and_eq_true, Bool.and_eq_true, decide_eq_true_eq]
      exact fun h => hmoved ⟨h.2, h.1.2⟩
    rw [execPageTableRequest, if_neg hcond, onMail_of_up hup, if_neg hmoved]
    rfl

/-- A mode changes at an idle point of an unlocked partition (R30). -/
theorem exec_partmodeRequest_of_up (part : Nat) (v : W64) :
    exec (.partmodeRequest part v) s = .next { s with
      host := s.host.says (if part < 8 ∧ s.dev.partIdle part = true ∧ (s.dev.mode part).getLsbD 8 = false then 1 else 2)
      dev := if part < 8 then s.dev.setMode part v else s.dev } := by
  change execPartmodeRequest part v s = _
  rw [execPartmodeRequest, onMail_of_up (HostSide.up_iff.2 hu)]
  by_cases hp : part < 8
  · simp only [hp, if_true, true_and, HostSide.answers, HostSide.says, Bool.and_eq_true, Bool.not_eq_true']
  · simp only [hp, if_false, false_and, HostSide.answers, HostSide.says, Bool.false_eq_true]

section
variable {x : Nat} {bs : List Byte}

theorem exec_barWrite_of_ok (hx : s.dev.barOk x bs.length = true) :
    exec (.barAccess true x bs) s =
      if (granulesOf (0x10000000000 + x) bs.length).any s.dev.stagingStall then .next s
      else .next { s with host := s.host.says 1, dev := s.dev.writePhys (.plain [.host]) (0x10000000000 + x) bs false } := by
  change execBarAccess true x bs s = _
  simp only [execBarAccess, HostSide.up_iff.2 hu, hx, if_true]

theorem exec_barRead_of_ok (hx : s.dev.barOk x bs.length = true) :
    exec (.barAccess false x bs) s = .next {
      host := { s.host with answer := 1, readData := (s.dev.readAs [.host] (0x10000000000 + x) bs.length).1 }
      dev := ((s.dev.sawAs [.host] (0x10000000000 + x) bs.length).tick).eccNote none true (0x10000000000 + x) bs.length } := by
  change execBarAccess false x bs s = _
  simp only [execBarAccess, HostSide.up_iff.2 hu, hx, if_true, Bool.false_eq_true, if_false]

theorem exec_barAccess_of_refused {w : Bool} (hx : s.dev.barOk x bs.length = false) :
    exec (.barAccess w x bs) s = .next { s with host := s.host.says 3 } := by
  change execBarAccess w x bs s = _
  simp only [execBarAccess, HostSide.up_iff.2 hu, hx, if_true, Bool.false_eq_true, if_false]

end

end

/-! ### Signatures (R347, R348) -/

/-- What is signed while at least 4,096 signatures are left after it (log 144). -/
theorem State.sign_of_left {msg : List Byte} {f : HostSide → HostSide} (hx : s.host.xmss + 4096 < 1048576) :
    s.sign msg f = { s with host := { f s.host with
      xmss := s.host.xmss + 1, answer := 1, readData := msg ++ Config.xmssSign (s.host.seed.getD 0) s.host.xmss msg } } := by
  have hspent : ¬ xmssMax ≤ s.host.xmss := by unfold xmssMax; omega
  have hleft : ¬ xmssMax - (s.host.xmss + 1) < 4096 := by unfold xmssMax; omega
  simp only [State.sign, hspent, hleft, if_false, decide_false, Bool.false_and, Bool.false_eq_true, HostSide.identity]

/-- After the last signature the answer is ERROR, with a record (R347). -/
theorem State.sign_of_spent {msg : List Byte} {f : HostSide → HostSide} (hx : 1048576 ≤ s.host.xmss) :
    s.sign msg f = { s with
      host := s.host.says 2
      dev := s.dev.record { (Rec.plain (Who.nobody none) cAttestationState (detailOf 0 0 0)) with sev := 3 } } :=
  if_pos hx

/-! ### Requests to the security core (R348, R466) -/

theorem onSign_of_talks {ok : Bool} {msg : List Byte} {f : HostSide → HostSide} (hu : s.host.linkUp = true ∧ 3 ≤ s.host.step)
    (hs : 3 ≤ s.host.spdm) (hok : ok = true) : onSign s ok msg f = .next (s.sign msg f) := by
  simp only [onSign, HostSide.spdmUp_iff.2 hu, hs, hok, decide_true, Bool.and_self, if_true]

theorem onSpdm_of_up {f : HostSide → HostSide} (hu : s.host.linkUp = true ∧ 3 ≤ s.host.step) :
    onSpdm s f = .next { s with host := f s.host } := by
  simp only [onSpdm, HostSide.spdmUp_iff.2 hu, if_true]

/-- A request that gets an answer without a signature, which its own conditions decide. -/
theorem HostRuns.of_onSpdm {i : Instr} {pre : HostSide → Prop} {f g : HostSide → HostSide} (hx : ∀ s : State, exec i s = onSpdm s g)
    (hg : ∀ h, pre h → (h.linkUp = true ∧ 3 ≤ h.step) ∧ g h = f h) : HostRuns i pre f :=
  fun s hpre => by
    obtain ⟨hu, heq⟩ := hg _ hpre
    rw [hx, onSpdm_of_up hu, heq]

theorem HostSide.talk_of_ok {h : HostSide} {b : List Byte} (hs : 3 ≤ h.spdm) : h.talk true b = { h with answer := 1, readData := b } := by
  simp only [HostSide.talk, hs, decide_true, Bool.and_self, if_true]

theorem HostSide.talk_of_refused {h : HostSide} {b : List Byte} : h.talk false b = h.says 2 := by
  simp only [HostSide.talk, Bool.and_false, Bool.false_eq_true, if_false]

theorem HostSide.inSession_iff {h : HostSide} {x : Nat} : h.inSession x = true ↔ ∃ y ∈ h.sessions, y.id = x ∧ y.finished = true := by
  simp [HostSide.inSession]

theorem HostSide.inSession_of_sessionPart {h : HostSide} {x part : Nat} (hs : h.sessionPart x = some part) : h.inSession x = true := by
  obtain ⟨y, hy, -⟩ := Option.map_eq_some_iff.1 hs
  exact List.any_eq_true.2 ⟨y, List.mem_of_find?_eq_some hy, List.find?_some (p := fun x_1 : Session => x_1.id == x && x_1.finished) hy⟩

/-- KEY_EXCHANGE signs the module's ephemeral point and opens a session (R347, R348). -/
theorem exec_keyExchange_of_new {part x : Nat} (hu : s.host.linkUp = true ∧ 3 ≤ s.host.step) (hs : 3 ≤ s.host.spdm) (hp : part < 8)
    (hx : ∀ y ∈ s.host.sessions, y.id ≠ x) :
    exec (.keyExchange ⟨part, x⟩) s = .next (({ s with dev := s.dev.tick } : State).sign (Config.ecdhPoint s.dev.ctr)
      (fun h => { h with sessions := h.sessions ++ [⟨x, part, false⟩] })) := by
  change execKeyExchange ⟨part, x⟩ s = _
  have hnone : s.host.sessions.any (fun y => y.id == x) = false := by simpa using hx
  exact onSign_of_talks (s := { s with dev := s.dev.tick }) hu hs (by simp [hp, hnone])

/-! ### Keys (R349, R352, R357, R360) -/

theorem Dev.loadKey_of_locked {d : Dev} {slot k : Nat} {key : BitVec 256} {c : Ctx} (hc : d.ctx? slot = some c) (hconf : c.conf = true)
    (hl : d.unlocked c = false) (hk : k < 32) :
    d.loadKey slot k key = (d.mapCtx slot (fun x => { x with
      snapKey := if k = 0 then some key else c.snapKey, keys := if k = 0 then c.keys else KV.set c.keys k key
      streams := x.streams.filter (fun e => e.1 ≠ k) }), true) := by
  simp only [Dev.loadKey, hc, hconf, hl, hk, Bool.not_false, decide_true, Bool.and_self, if_true]
  exact congrArg (·, true) (Dev.mapCtx_congr hc rfl)

theorem exec_keyLoad_of_session {x slot k : Nat} {key : BitVec 256} {c : Ctx} (hu : s.host.linkUp = true ∧ 3 ≤ s.host.step)
    (hs : s.host.sessionPart x = some c.part) (hc : s.dev.ctx? slot = some c) (hconf : c.conf = true) (hl : s.dev.unlocked c = false)
    (hk : k < 32) :
    exec (.keyLoad x slot k key) s = .next { s with
      host := s.host.says 1
      dev := s.dev.mapCtx slot (fun y => { y with
        snapKey := if k = 0 then some key else c.snapKey, keys := if k = 0 then c.keys else KV.set c.keys k key
        streams := y.streams.filter (fun e => e.1 ≠ k) }) } := by
  change execKeyLoad x slot k key s = _
  have hcond : (s.host.inSession x && (s.dev.ctx? slot).map Ctx.part == s.host.sessionPart x) = true := by
    simp [HostSide.inSession_of_sessionPart hs, hs, hc]
  rw [execKeyLoad, if_pos (HostSide.spdmUp_iff.2 hu), if_pos hcond, Dev.loadKey_of_locked hc hconf hl hk]
  rfl

theorem exec_peerKeyExchange_of_peers {slot : Nat} {c : Ctx} {p : PeerEnd} (hc : s.dev.ctx? slot = some c) (hconf : c.conf = true)
    (hpeer : c.others.contains p.peer = true) (hr : (s.dev.mode c.part).getLsbD 7 = p.relayed) :
    exec (.peerKeyExchange slot p) s =
      let e : Dev := { s.dev with fresh := s.dev.fresh + 1 }
      let f := e.mapChan slot p.peer (fun y => { y with
        key := some s.dev.fresh, keyEpoch := if y.key.isSome then y.keyEpoch + 1 else y.keyEpoch })
      .next { s with dev := f.mapCtx slot (fun c => { c with snapKey := c.snapKey.or p.snapKey }) } := by
  have hkeep : (fun c : Ctx => { c with snapKey := match c.snapKey with | some k => some k | none => p.snapKey }) =
      fun c : Ctx => { c with snapKey := c.snapKey.or p.snapKey } := by
    funext c
    cases c.snapKey <;> rfl
  change execPeerKeyExchange slot p s = _
  simp only [execPeerKeyExchange, onDev, hc, hconf, hpeer, hr, beq_self_eq_true, Bool.and_self, if_true, ← hkeep] <;> rfl

end

/-- Settles O54: each event and request takes the case of its operation that the hypotheses name. The numbers of the answers (log 111), the
order of the requests and the signed CHALLENGE (log 109), unsigned measurements in a session (log 110), what a lock and PCIe need (log
112), the scrub of an unlocked interface (log 113) and the layout of what is signed (log 144) are the model's choices. -/
theorem hostEvents : Obligations.HostEvents := by
  intro part slot x k n r va v bs key c p up spdm talks reply gives mine signs boots trained done
  have signsOf : ∀ {i : Instr} {ok : State → Prop} {msg : State → List Byte} {d : Dev → Dev} {f : HostSide → HostSide},
      (∀ s : State, talks s.host → ok s → exec i s = .next (({ s with dev := d s.dev } : State).sign (msg s) f)) → signs i ok msg d f := by
    intro i ok msg d f hx
    refine ⟨fun s hs hok hleft => ?_, fun s hs hok hspent => ?_⟩
    · rw [hx s hs hok, State.sign_of_left (s := { s with dev := d s.dev }) hleft]
    · rw [hx s hs hok, State.sign_of_spent (s := { s with dev := d s.dev }) hspent]
      rfl
  refine ⟨fun s hb hs => exec_moduleReset_trains hb hs, fun s hb hs => exec_moduleReset_finishes hb hs,
    fun s hb => exec_moduleReset_restarts hb, fun s hu hp hs => exec_tdispLock_of_session hu hp hs, ?unlocked, fun s => rfl, ?linkUp, ?linkWaits,
    fun s hu => exec_mailboxRequest_of_up hu r, fun s hu => exec_pageTableRequest_of_up hu slot va n v,
    fun s hu => exec_partmodeRequest_of_up hu part v, fun s hu hx => ?bar, fun s w hu hx => exec_barAccess_of_refused hu hx, ?version,
    ?capabilities, ?algorithms, ?digests, ?chain, fun hn => ?noChain, ?challenge, fun hn => ?measures, fun s hs hn hp => ?measuresInSession,
    fun hp => ?exchange, ?finish, ?ends, ?heartbeat, ?unsupported, fun s hu hs hc hconf hl hk => exec_keyLoad_of_session hu hs hc hconf hl hk,
    fun s ⟨hc, hconf, hpeer, hr⟩ => exec_peerKeyExchange_of_peers hc hconf hpeer hr, ?tagFails⟩
  case unlocked => exact .of_onDev (g := fun d => d.unlock part) (fun _ => rfl) fun d hl => if_pos hl
  case linkUp =>
    exact .of_host (g := fun h => if 3 ≤ h.step then { h with linkUp := true } else h) (fun _ => rfl) fun h hs => if_pos hs
  case linkWaits =>
    exact .of_host (g := fun h => if 3 ≤ h.step then { h with linkUp := true } else h) (fun _ => rfl) fun h hs => if_neg (Nat.not_le.2 hs)
  case bar =>
    refine ⟨?_, exec_barRead_of_ok hu hx⟩
    split
    case isTrue hstall => exact (exec_barWrite_of_ok hu hx).trans (if_pos hstall)
    case isFalse hstall => exact (exec_barWrite_of_ok hu hx).trans (if_neg hstall)
  case version => exact .of_onSpdm (fun _ => rfl) fun h hs => ⟨hs, rfl⟩
  case capabilities =>
    exact .of_onSpdm (g := fun h => if h.spdm = 1 then { h with spdm := 2, answer := 1 } else h.says 2) (fun _ => rfl)
      fun h hs => ⟨hs.1, if_pos hs.2⟩
  case algorithms =>
    exact .of_onSpdm (g := fun h => if h.spdm = 2 then { h with spdm := 3, answer := 1, readData := Config.algorithms } else h.says 2)
      (fun _ => rfl) fun h hs => ⟨hs.1, if_pos hs.2⟩
  case digests => exact .of_onSpdm (fun _ => rfl) fun h hs => ⟨hs.1, HostSide.talk_of_ok hs.2⟩
  case chain => exact .of_onSpdm (fun _ => rfl) fun h hs => ⟨hs.1, HostSide.talk_of_ok hs.2⟩
  case noChain =>
    refine .of_onSpdm (g := fun h => h.talk (decide (n = 0)) h.chain) (fun _ => rfl) fun h hs => ⟨hs.1, ?_⟩
    rw [decide_eq_false (Nat.pos_iff_ne_zero.1 hn)]
    exact HostSide.talk_of_refused
  case challenge => exact signsOf fun s hs _ => onSign_of_talks hs.1 hs.2 rfl
  case measures => exact signsOf fun s hs _ => onSign_of_talks hs.1 hs.2 (decide_eq_true hn)
  case measuresInSession =>
    change onSpdm s (fun h => h.talk (decide (n < 5) && (h.sessionPart x).isSome) (s.dev.measurement n (h.sessionPart x))) = _
    rw [onSpdm_of_up hs.1, hp, decide_eq_true hn]
    exact congrArg (fun h => Host.Outcome.next { s with host := h }) (HostSide.talk_of_ok hs.2)
  case exchange =>
    exact signsOf (d := fun d => d.tick) fun s hs hfree => exec_keyExchange_of_new hs.1 hs.2 hp hfree
  case finish =>
    intro s ⟨hu, hs⟩
    change execFinish x s = _
    have hany : s.host.sessions.any (fun y => y.id == x && !y.finished) = true := by simpa using hs
    rw [execFinish, onSpdm_of_up hu, if_pos hany]
  case ends =>
    intro s ⟨hu, hs⟩
    change execEndSession x s = _
    rw [execEndSession, onSpdm_of_up hu, if_pos (HostSide.inSession_iff.2 hs)]
  case heartbeat =>
    intro s ⟨hu, hs⟩
    change execHeartbeat x s = _
    rw [execHeartbeat, onSpdm_of_up hu, if_pos (HostSide.inSession_iff.2 hs)]
    rfl
  case unsupported => exact .of_onSpdm (fun _ => rfl) fun h hs => ⟨hs, rfl⟩
  case tagFails =>
    intro s ⟨hport, hown⟩
    change execTier3TagFail slot x s = _
    simp only [execTier3TagFail, onDev, hport, hown, decide_true, Bool.and_self, if_true]

end Sys2Proof.Machine

/-! SUPPORT. The maintenance instructions and the free choice of R44 (R409 to R413). Neither theorem here settles
`Obligations.Maintenance`: together they show that it turns on `Config.seesNew`, which nothing in the model fixes. The model reads every
lane's operands in the device before the first request, the statement in the device that the requests before it left; SCAN, for one,
advances the counter between the two, and a register with a pending result may read differently at another counter. Where the choice does
not depend on the counter the statement holds; where it differs between two counters the statement fails. -/

namespace Sys2Proof.Machine

/-! ### Where reads do not depend on the counter -/

/-- Whether a read sees the pending result does not depend on the device's counter. -/
def SteadyReads : Prop := ∀ n m u r : Nat, Config.seesNew (4 * n) u r = Config.seesNew (4 * m) u r

theorem Dev.read_v (d : Dev) (t : Thread) (x : VReg) :
    (d.env t).read 0 (.v x false) = ((t.rd (4 * t.asked.getD d.ctr) x).toNat, t.rdP (4 * t.asked.getD d.ctr) x) := by
  simp only [Env.read, Dev.env, Nat.add_zero, Bool.false_eq_true, if_false]

theorem SteadyReads.shows_eq (hs : SteadyReads) (l : Late) (n m u : Nat) : l.shows (4 * n) u = l.shows (4 * m) u := by
  simp only [Late.shows, hs n m]

theorem SteadyReads.read_eq (hs : SteadyReads) (d e : Dev) (t : Thread) (x : VReg) :
    (d.env t).read 0 (.v x false) = (e.env t).read 0 (.v x false) := by
  simp only [Dev.read_v, Thread.rd, Thread.rdP, hs.shows_eq _ (t.asked.getD d.ctr) (t.asked.getD e.ctr)]

/-- MARGIN.RD's work in one lane. -/
def Dev.marginRead (r a : VReg) (e : Dev) (t x : Thread) : Thread :=
  let y := (e.env t).read 0 (.v a false)
  let w : W64 := if 543 < y.1 then BitVec.allOnes 64 else e.marginWord y.1
  x.wrs r [lo32 w, hi32 w] y.2

theorem Dev.marginRead_deliver (r a : VReg) (d : Dev) (u : Nat) (f : Thread → Thread) :
    Dev.marginRead r a (d.deliver u f) = Dev.marginRead r a d := by
  funext t x
  have hr : ((d.deliver u f).env t).read 0 (.v a false) = (d.env t).read 0 (.v a false) := by
    rw [Dev.read_v, Dev.read_v]; rfl
  simp only [Dev.marginRead, hr]
  rfl

/-- MARGIN.RD's lanes change nothing that a later lane reads. -/
theorem foldl_marginRead (r a : VReg) (e : Dev) (ts : List Thread) : ∀ d : Dev, Dev.marginRead r a d = Dev.marginRead r a e →
    ts.foldl (fun d t => d.deliver t.uid (Dev.marginRead r a d t)) d = ts.foldl (fun d t => d.deliver t.uid (Dev.marginRead r a e t)) d := by
  induction ts with
  | nil =>
    intro d _
    rw [List.foldl_nil, List.foldl_nil]
  | cons t ts ih =>
    intro d hd
    rw [List.foldl_cons, List.foldl_cons, ih _ ((Dev.marginRead_deliver r a d t.uid _).trans hd), hd]

/-- One lane's request with its answer; its operands are read in the device `src`. -/
def Dev.laneAsks (p : PReg) (xs : List VReg) (f : Dev → Thread → Nat → Nat → Dev × Bool) (src d : Dev) (t : Thread) : Dev :=
  let vs := xs.map (fun x => (src.env t).read 0 (.v x false))
  let y := f d t ((vs[0]?.map Prod.fst).getD 0) ((vs[1]?.map Prod.fst).getD 0)
  y.1.deliver t.uid (fun x => x.setPred p (if y.2 then 0xFF else 0x00) (vs.any Prod.snd))

/-- The model reads every lane's operands in the device before the first request. -/
theorem Dev.maintain_eq (d : Dev) (i : Instr) (h : Hd) (p : PReg) (xs : List VReg) (f : Dev → Thread → Nat → Nat → Dev × Bool) :
    d.maintain i h p xs f = d.lanesOut i h false (fun d t => xs.map (fun x => ((d.env t).read 0 (.v x false)).1)) (fun _ _ => none)
      (fun act d => (act.foldl (Dev.laneAsks p xs f d) d).done h) := by
  have hk : (fun (d : Dev) t => (xs.map (fun x => (d.env t).read 0 (.v x false))).map Prod.fst) =
      fun (d : Dev) t => xs.map (fun x => ((d.env t).read 0 (.v x false)).1) := by
    funext d t
    rw [List.map_map]
    rfl
  rw [← hk]
  rfl

theorem SteadyReads.request_eq (hs : SteadyReads) (p : PReg) (xs : List VReg) (f : Dev → Thread → Nat → Nat → Dev × Bool) (src : Dev) :
    Dev.laneAsks p xs f src = fun d t => Dev.laneAsks p xs f d d t := by
  funext d t
  simp only [Dev.laneAsks, hs.read_eq src d]

/-- A maintenance instruction completes with every lane's operands read where its request is made. -/
theorem SteadyReads.outRuns (hs : SteadyReads) {i : Instr} {h : Hd} {p : PReg} {xs : List VReg} {f : Dev → Thread → Nat → Nat → Dev × Bool}
    (hx : ∀ s : State, exec i s = onDev s (fun d => d.maintain i h p xs f)) :
    OutRuns i h false (fun d t => xs.map (fun x => ((d.env t).read 0 (.v x false)).1)) (fun _ _ => True)
      (fun e ts => (ts.foldl (fun d t => Dev.laneAsks p xs f d d t) e).done h) := by
  refine OutRuns.of (fun _ _ => none) (fun act d => (act.foldl (Dev.laneAsks p xs f d) d).done h) (fun s => ?_) (fun _ _ _ => rfl)
    (fun e _ => by rw [hs.request_eq])
  rw [hx, onDev, Dev.maintain_eq]

/-! ### The requests of each instruction -/

theorem exec_margin (h : Hd) (p : PReg) (a b : VReg) (s : State) : exec (.margin h p a b) s =
    onDev s (fun d => d.maintain (.margin h p a b) h p [a, b] (fun d _ n x =>
      if 543 < n || d.foehnSets n || 24 < x % 32 then (d, false) else (d.setTgt n (min (x % 32) (d.phys? n).ceil), true))) :=
  rfl

theorem exec_scan (h : Hd) (p : PReg) (a : VReg) (s : State) : exec (.scan h p a) s =
    onDev s (fun d => d.maintain (.scan h p a) h p [a] (fun d t n _ => if 543 < n then (d, false) else d.scan n (d.physOf t.core))) :=
  rfl

theorem exec_scanAbort (h : Hd) (p : PReg) (a : VReg) (s : State) : exec (.scanAbort h p a) s =
    onDev s (fun d => d.maintain (.scanAbort h p a) h p [a] (fun d _ n _ => if 543 < n then (d, false) else d.scanStop n)) :=
  rfl

theorem exec_quar (h : Hd) (p : PReg) (a : VReg) (s : State) : exec (.quar h p a) s =
    onDev s (fun d => d.maintain (.quar h p a) h p [a] (fun d _ n _ => if 543 < n then (d, false) else d.quarantine n false)) :=
  rfl

theorem exec_haltc (h : Hd) (p : PReg) (a : VReg) (s : State) : exec (.haltc h p a) s =
    onDev s (fun d => d.maintain (.haltc h p a) h p [a] (fun d t n _ => if 511 < n then (d, false) else d.halt n t.core)) :=
  rfl

theorem exec_haltcRel (h : Hd) (p : PReg) (a : VReg) (s : State) : exec (.haltcRel h p a) s =
    onDev s (fun d => d.maintain (.haltcRel h p a) h p [a] (fun d t n _ => if 511 < n then (d, false) else d.haltRel n t.core)) :=
  rfl

/-- The statement holds under a choice that does not depend on the counter. -/
theorem maintenance_of_steadyReads (hs : SteadyReads) : Obligations.Maintenance := by
  intro h p r a b
  refine ⟨hs.outRuns (exec_margin h p a b), hs.outRuns (exec_scan h p a), hs.outRuns (exec_scanAbort h p a), hs.outRuns (exec_quar h p a),
    hs.outRuns (exec_haltc h p a), hs.outRuns (exec_haltcRel h p a), ?_⟩
  refine OutRuns.of (fun _ _ => none) (fun act d => d.each h act (Dev.marginRead r a)) (fun _ => rfl) (fun _ _ _ => rfl) (fun e _ => ?_)
  exact congrArg (fun d => Dev.done d h) (foldl_marginRead r a e _ e rfl)

/-! ### Two lanes of one SCAN -/

/-- A thread of system level whose register 4 holds `x`. -/
def asking (x : W32) : Thread := { soleThread with level := .system, regs := List.replicate 4 0 ++ [x], regPsn := List.replicate 5 false }

/-- A pending result that writes 600, with poison, to register 4. -/
def pendingPoison : Late := ⟨[⟨4, 600, true, 0⟩], 8, none, false, false, none⟩

/-- A lane that scans physical core 16, a spare, and one whose operand is 600 with and without that pending result. -/
def scanner : Thread := asking 16
def latecomer : Thread := { asking 600 with uid := 1, lane := 1, late := [pendingPoison] }

/-- A module on which both, one issue group, are about to execute. -/
def scanning : State := { State.reset with dev := { State.reset.dev with cur := .group 0 [0, 1] 0, threads := [scanner, latecomer] } }

/-- The device as SCAN finds it, its lanes, and the device after the first lane's request. -/
def scanDev : Dev := scanning.dev.opened (.scan plainHd 1 4) plainHd
def scanLatch (t : Thread) : Thread := { t with latches := latchesOf (.scan plainHd 1 4) }
def scanAsk (d : Dev) (t : Thread) (n _x : Nat) : Dev × Bool := if 543 < n then (d, false) else d.scan n (d.physOf t.core)
def scanned : Dev := Dev.laneAsks 1 [4] scanAsk scanDev scanDev (scanLatch scanner)

/-- The poison of p1 in every thread. -/
def Dev.answerPoison (d : Dev) : List Bool := d.threads.map (fun t => t.predP 1)

theorem scanning_outPass :
    scanning.dev.OutPass (.scan plainHd 1 4) plainHd false (fun d t => [((d.env t).read 0 (.v 4 false)).1]) (fun _ _ => True) := by
  unfold Dev.OutPass Dev.AllPass Dev.Passes
  decide +kernel

theorem scanning_lanes : primaries (scanDev.acting plainHd [0]) = [scanLatch scanner, scanLatch latecomer] := by decide +kernel

theorem scanDev_ctr : scanDev.ctr = 1 := by decide +kernel
theorem scanned_ctr : scanned.ctr = 2 := by decide +kernel

theorem latecomer_read (d : Dev) :
    (d.env (scanLatch latecomer)).read 0 (.v 4 false) = (600, Config.seesNew (4 * d.ctr) 1 4) := by
  have hl : (scanLatch latecomer).lateFor? 4 = some (pendingPoison, ⟨4, 600, true, 0⟩) := by decide +kernel
  have hr : (scanLatch latecomer).regs[4]? = some 600 ∧ (scanLatch latecomer).regPsn[4]? = some false := by decide +kernel
  have hi : (scanLatch latecomer).asked = none ∧ (scanLatch latecomer).uid = 1 := by decide +kernel
  have hs : ∀ c, pendingPoison.shows c 1 = Config.seesNew c 1 4 := fun c => rfl
  have h4 : (4 : VReg).toNat = 4 := rfl
  rw [Dev.read_v, Thread.rd, Thread.rdP, hl]
  obtain ⟨hval, hpsn⟩ := hr
  obtain ⟨hasked, huid⟩ := hi
  simp only [hasked, huid, hs, h4, hval, hpsn, Option.getD_none, Option.getD_some]
  cases Config.seesNew (4 * d.ctr) 1 4 <;> rfl

/-- The second lane's request has no effect and answers with the poison it reads. -/
theorem laneAsks_latecomer (src : Dev) : Dev.laneAsks 1 [4] scanAsk src scanned (scanLatch latecomer) =
    scanned.deliver 1 (fun x => x.setPred 1 0 (Config.seesNew (4 * src.ctr) 1 4)) := by
  have hu : (scanLatch latecomer).uid = 1 := by decide +kernel
  simp only [Dev.laneAsks, List.map_cons, List.map_nil, latecomer_read, hu, List.getElem?_cons_zero, Option.map_some, Option.getD_some,
    List.any_cons, List.any_nil, Bool.or_false, scanAsk]
  rfl

theorem scanned_poison (b : Bool) : Dev.answerPoison ((scanned.deliver 1 (fun x => x.setPred 1 0 b)).done plainHd) = [false, b] := by
  cases b <;> decide +kernel

/-- With a counter of 1 and of 2 the read sees the two values: the answer's poison is then another than the model's. -/
theorem not_maintenance_of_seesNew_ne (hne : Config.seesNew 4 1 4 ≠ Config.seesNew 8 1 4) : ¬ Obligations.Maintenance := by
  intro hm
  obtain ⟨-, hscan, -⟩ := hm plainHd 1 4 4 4
  have hstated : exec (.scan plainHd 1 4) scanning = .next { scanning with dev :=
      ((primaries (scanDev.acting plainHd [0])).foldl (fun d t => Dev.laneAsks 1 [4] scanAsk d d t) scanDev).done plainHd } :=
    hscan scanning scanning_outPass
  have hmodel : exec (.scan plainHd 1 4) scanning = .next { scanning with dev :=
      ((primaries (scanDev.acting plainHd [0])).foldl (Dev.laneAsks 1 [4] scanAsk scanDev) scanDev).done plainHd } := by
    have hp := scanning_outPass
    rw [exec_scan, onDev, Dev.maintain_eq, Dev.lanesOut_ok _ _ _ _ _ _ _ ⟨fun t ht => ⟨(hp.1 t ht).1, rfl⟩, hp.2⟩]
    rfl
  rw [hstated, scanning_lanes] at hmodel
  simp only [List.foldl_cons, List.foldl_nil] at hmodel
  change Host.Outcome.next { scanning with dev := (Dev.laneAsks 1 [4] scanAsk scanned scanned (scanLatch latecomer)).done plainHd } =
    Host.Outcome.next { scanning with dev := (Dev.laneAsks 1 [4] scanAsk scanDev scanned (scanLatch latecomer)).done plainHd } at hmodel
  rw [laneAsks_latecomer, laneAsks_latecomer, scanned_ctr, scanDev_ctr] at hmodel
  injection hmodel with hstate
  have hpsn := congrArg (fun s : State => s.dev.answerPoison) hstate
  simp only [scanned_poison, List.cons.injEq, and_true, true_and] at hpsn
  exact hne hpsn.symm

end Sys2Proof.Machine
